-- ==== Sys2Proof/Word.lean ====
section
/-!
DEFINITION. The word types of the EZ-1 (spec/00_scope.md R3: every multi-byte field is little-endian, bit 0 is the least
significant bit). Only names of types stand here; every operation on them stands under Machine/.
-/
namespace Sys2Proof

/-- One byte. -/
abbrev Byte := BitVec 8

/-- An FP32 word: IEEE 754 binary32 (spec/02_formats.md R35). -/
abbrev F32 := BitVec 32

/-- One timetable row: 128 bytes, bit 0 is bit 0 of byte 0 (spec/07_timetable.md R157). -/
abbrev Row := BitVec 1024

/-- A fingerprint: the first 16 bytes of SHA-384 over a public key (spec/14_trust.md R325), byte 0 least significant. -/
abbrev Fp := BitVec 128

/-- A 96-byte public key or signature (spec/14_trust.md R325): two 48-byte little-endian integers, the first the lower. -/
abbrev Key := BitVec 768

/-- A SHA-384 digest of 48 bytes, byte 0 least significant. -/
abbrev Digest := BitVec 384

end Sys2Proof
end

