-- ==== Sys2Proof/Syntax.lean ====
section
/-!
DEFINITION. The commands of the block: one constructor of `Instr` for each row of spec/opcode_table.json, with the types of
their operands. No row of the table gives bits, so the operands are the ones the row's rule names. A gangway command
carries its request (`Req`: what the submission entry and the packet header say) and its parameters of
spec/13_commands.md Table 13-9; a timetable row carries `dt`, the time in nanoseconds since the sequencer last considered
it; a receipt carries what arrived; a sensor event carries what was read.
-/
namespace Sys2Proof

/-- What a command's submission entry and packet header say of it (spec/13_commands.md Tables 13-3, 13-5). -/
structure Req where
  tag : BitVec 16
  /-- SEALED form; false is CLEAR. -/
  isSealed : Bool
  sid : BitVec 3
  seq : BitVec 64
  raddr : BitVec 64
  rcap : BitVec 32
deriving DecidableEq, Repr

/-- A logical tensor of a plan (spec/08_xekoade.md Table 08-2). Dimensions run from the outermost to the reduction. -/
structure PlanTensor where
  ident : BitVec 32
  dims : List Nat
  /-- Format byte, and group size as its code. -/
  format : Nat
  gsize : Nat
  /-- Scale scheme, and whether it has zero points. -/
  scheme : Nat
  zp : Bool
  /-- Rotation seed, and block as its code; none where it is not rotated. -/
  rotation : Option (BitVec 32 × Nat)
  /-- Abstract level L0 to L4. -/
  level : Nat
  /-- Shard map: the dimensions of each rank's shard; empty where every rank holds the whole. -/
  shards : List (List Nat)
  /-- Anchor table. -/
  anchors : List (BitVec 32)
deriving DecidableEq, Repr, Inhabited

inductive PassageKind where
  | product
  | quantise
  /-- VECTOR with its OP; `k` is the k of a ROUTE. -/
  | vector (op k : Nat)
deriving DecidableEq, Repr, Inhabited

structure Passage where
  ident : BitVec 32
  kind : PassageKind
  operands : List (BitVec 32)
  results : List (BitVec 32)
  /-- k_w and k_a; none where the passage names none. -/
  shifts : Option (Nat × Nat)
  cover : Nat
  /-- Summation order: 0 TREE, 1 to 3 GROUPED. -/
  order : Nat
  fuse : Nat
  stats : Bool
  watch : Nat
  variant : Nat
deriving DecidableEq, Repr, Inhabited

structure PlanCopy where
  ident : BitVec 32
  src : BitVec 32
  srcLevel : Nat
  dst : BitVec 32
  dstLevel : Nat
  /-- Element range: the first element and the number. -/
  first : Nat
  count : Nat
  /-- Conversion format byte, 0 where there is none. -/
  conv : Nat
deriving DecidableEq, Repr, Inhabited

structure PlanCollective where
  ident : BitVec 32
  /-- 0 reduce-scatter, 1 all-gather, 2 all-reduce, 3 broadcast, 4 RESHARD, 5 ferry dispatch, 6 return, 7 combine. -/
  op : Nat
  group : BitVec 12
  tensor : BitVec 32
  format : Nat
  cap : Nat
  policy : Nat
deriving DecidableEq, Repr, Inhabited

structure PlanGovernor where
  ident : BitVec 32
  watch : Nat
  verdict : Nat
  job : Bool
  hold : Nat
  tLo : BitVec 32
  tHi : BitVec 32
  tagA4 : Nat
  tagA8 : Nat
deriving DecidableEq, Repr, Inhabited

/-- Where a command finds its plan: in the packet, or as a sealed blob in a host window. -/
inductive PlanSource where
  | inline
  | blob (window : BitVec 8) (offset : BitVec 64) (length : BitVec 64)
deriving DecidableEq, Repr

/-- A collective group of a native job description (spec/13_commands.md R308). The bits of its 16-byte head that R308 does not list carry
nothing and are not checked (DESIGN CHOICE, log entry 89). -/
structure GroupDef where
  group : BitVec 12
  ranks : List (BitVec 16)
deriving DecidableEq, Repr

/-- A home table of a native job description (spec/13_commands.md R308; entries as spec/11_collectives.md Table 11-7); the unlisted bits of
its head as those of a group (DESIGN CHOICE, log entry 89). -/
structure HomeDef where
  table : BitVec 8
  group : BitVec 12
  entries : List (BitVec 64)
deriving DecidableEq, Repr

/-- A Xekoade plan: its bytes, and what its records say (the spec gives the header and the section heads bit for bit, the
records only by their fields). -/
structure Plan where
  bytes : List Byte
  tensors : List PlanTensor
  passages : List Passage
  copies : List PlanCopy
  collectives : List PlanCollective
  governors : List PlanGovernor
  /-- Record identities in plan order; none is a step boundary. -/
  step : List (Option (BitVec 32))
  /-- The newest minor version whose kinds or fields the plan uses. -/
  newest : Nat
  /-- The rank table, groups and home tables of its RANKS and HOMES sections. -/
  rankTable : List (BitVec 64)
  groups : List GroupDef
  homes : List HomeDef
deriving DecidableEq, Repr, Inhabited

/-- The parameters of JOB_START (spec/13_commands.md Table 13-12). Entries of the rank table as Table 11-1. -/
structure JobParams where
  seed : BitVec 256
  determinism : BitVec 8
  source : BitVec 8
  timeout : BitVec 16
  ranks : BitVec 16
  myRank : BitVec 16
  nGroup : BitVec 16
  nHome : BitVec 16
  reserved : BitVec 32
  rankTable : List (BitVec 64)
  groups : List GroupDef
  homes : List HomeDef
deriving DecidableEq, Repr

/-- A window of draws that a row of a member claims in a step (spec/02_formats.md R56, R57): its key inputs and its first
and last element. -/
structure Claim where
  node : BitVec 14
  half : Bool
  tensor : BitVec 32
  first : Nat
  last : Nat
  /-- Slot and row, for the report. -/
  slot : Bool
  row : BitVec 14
deriving DecidableEq, Repr

/-- A decrypted message of the copy channel or one passing through (spec/10_fabric.md Table 10-3). -/
structure Msg where
  dst : BitVec 14
  src : BitVec 14
  half : BitVec 2
  op : BitVec 8
  txn : BitVec 12
  addr : BitVec 42
  ctx : BitVec 22
  /-- Virtual channel: 0 COLLECTIVE, 1 FERRY, 2 COPY, 3 CONTROL. -/
  vc : Fin 4
  payload : List Byte
deriving DecidableEq, Repr

/-- What a BAR0 write carries: 64 bits where `wide`, else the low 32. -/
structure BusWrite where
  wide : Bool
  value : BitVec 64
deriving DecidableEq, Repr

/-- The part of a read that a READ_DATA brings: its bytes, or how many of them cannot be read (`bad`). -/
structure ReadPart where
  bytes : List Byte
  bad : Nat
deriving DecidableEq, Repr

/-- Who sends READY, and the COUNT of its row. -/
structure ReadyFrom where
  position : Nat
  count : BitVec 40
deriving DecidableEq, Repr

/-- A member's contribution to a collective (spec/11_collectives.md R248, R249). -/
structure CollectMsg where
  group : BitVec 12
  tag : BitVec 32
  cop : BitVec 8
  fmt : BitVec 8
  count : BitVec 40
  position : Nat
  /-- The sender's rank table equals this module's. -/
  sameTable : Bool
  step : BitVec 48
  attempt : Nat
  /-- The module that sends it, and the transaction under which it waits for the delivery to be answered. -/
  src : BitVec 14
  txn : BitVec 12
  /-- The sender's SRC elements as bytes. -/
  data : List Byte
deriving DecidableEq, Repr

/-- A ferried token or output (spec/11_collectives.md R262, R264). -/
structure FerryMsg where
  table : BitVec 8
  isReturn : Bool
  wave : Bool
  /-- Position of the sender in the table's group; half × 64 + region of the source. -/
  position : BitVec 16
  region : BitVec 7
  token : BitVec 32
  entry : BitVec 3
  expert : BitVec 16
  step : BitVec 48
  attempt : Nat
  data : List Byte
deriving DecidableEq, Repr

/-- Which of a sender's pairs a home did not admit (spec/11_collectives.md R263). -/
structure Admission where
  table : BitVec 8
  wave : Bool
  expert : BitVec 16
  /-- Region, token and entry of each pair not admitted. -/
  refused : List (BitVec 7 × BitVec 32 × BitVec 3)
  step : BitVec 48
  attempt : Nat
deriving DecidableEq, Repr

/-- One entry of the RESHARD journal (spec/11_collectives.md Table 11-5). -/
structure JournalEntry where
  rid : BitVec 16
  round : BitVec 16
  /-- 0 none, 1 PREPARED, 2 COMMITTED, 3 VOID. -/
  state : BitVec 2
  ttdig : BitVec 64
  next : BitVec 14
  slot : Bool
  pcycle : BitVec 32
  crc : BitVec 32
deriving DecidableEq, Repr

/-- What a peer's evidence and certificates show in a handshake (spec/10_fabric.md R231; spec/12_lashing.md R270). -/
structure PeerEvidence where
  certOk : Bool
  sigOk : Bool
  enrolled : Bool
  ownerFp : Fp
  identityFp : Fp
  version : BitVec 32
  imageDigest : Digest
  lowerVer : BitVec 16
  /-- NONCE of its evidence (spec/14_trust.md R327). -/
  nonce : BitVec 256
deriving DecidableEq, Repr

/-- A record as it is sent over the lash port (spec/15_recorder.md R359). -/
structure RecordBody where
  source : BitVec 16
  code : BitVec 16
  params : List Byte
  /-- CRC of the primary's copy (R278). -/
  crc : BitVec 32
deriving DecidableEq, Repr

/-- The pair record (spec/12_lashing.md Table 12-4). -/
structure PairRecord where
  epoch : BitVec 64
  primaryFp : Fp
  secondaryFp : Fp
  ownerFp : Fp
  lashed : Bool
deriving DecidableEq, Repr

/-- A slot's digest item as the other half presents it (spec/12_lashing.md Table 12-3): state, rows and digest. -/
structure SlotItem where
  /-- 0 EMPTY, 1 LOADED, 2 ARMED, 3 ACTIVE. -/
  state : BitVec 2
  rows : List Row
  digest : Digest
deriving DecidableEq, Repr

/-- What the two halves compare at a lash bring-up (spec/12_lashing.md Table 12-3), as the partner presents it; the
`ok` fields say whose copies pass their CRC (own, partner's). -/
structure PartnerItems where
  record : PairRecord
  recordOk : Bool × Bool
  keyEpoch : BitVec 64
  keyId : BitVec 64
  keyOk : Bool × Bool
  events : BitVec 64
  tail : BitVec 32
  tailOk : Bool × Bool
  slotGen : BitVec 64
  slotA : SlotItem
  slotB : SlotItem
  slotsOk : Bool × Bool
  regions : BitVec 64
  /-- The partner is STRANDED. -/
  stranded : Bool
deriving DecidableEq, Repr

/-- What a row adds to a watch entry (spec/03_quantiser.md Table 03-3). -/
structure WatchAdd where
  entry : BitVec 8
  elements : Nat
  saturated : Nat
  nans : Nat
  flat : Nat
  /-- One partial for each region, in region order (R85). -/
  err : List F32
  energy : List F32
  rejects : Nat
  /-- The row's tensor and SAT_LIMIT (R86). -/
  tensor : BitVec 32
  limit : Nat
deriving DecidableEq, Repr

/-- What one half sends the other about a data row or a control row (spec/12_lashing.md R275). -/
structure PairShare where
  slot : Bool
  row : BitVec 14
  /-- Its issue within the step, from 0. -/
  issue : Nat
  flags : BitVec 8
  watch : Option WatchAdd
deriving DecidableEq, Repr

/-- What the halves compare in a run, and as TT_ARM or RUN starts (spec/12_lashing.md Table 12-3): pair event count and log tail; slot
generation and digest items of slots A and B. -/
structure Mirrored where
  tail : Option (BitVec 64 × BitVec 32)
  slots : Option (BitVec 64 × SlotItem × SlotItem)
deriving DecidableEq, Repr

/-- A pair-wide command or event that the other half passes over the lash port (spec/12_lashing.md R277, R286, R287). -/
inductive PairFwd where
  | unlash
  | power (target : BitVec 8) (boostEn : Bool)
  /-- BOOST_EN of a POWER whose target the other half reaches by the lash port itself. -/
  | boost (boostEn : Bool)
  /-- The sender's mirrored items and, in the answer, those that it compared them with (spec/12_lashing.md R280). -/
  | compare (own : Mirrored) (echo : Option Mirrored)
  /-- READ_STATE and DEBUG_READ of the other half, and what it reads. -/
  | askState (select first count : Nat)
  | askDebug (target region core bank first length : Nat)
  | reading (data : List Byte)
  /-- Rows checked by the sender; with the plan, the descriptor snapshot and the commit barriers where LOWER wrote them. -/
  | load (slot : Bool) (rows : List Row) (lowered : Option (Plan × BitVec 1024 × List Nat))
  | arm (slot : Bool) (entry : Nat)
  | discard (slot : Bool)
  /-- With the tables that the job takes, and the rows remapped. -/
  | job (params : JobParams) (remapped : List Nat)
  | jobEnd
  | rankAbsent (rank : Nat) (standIn : Nat)
  | run (slot : Bool) (entry : Nat) (steps : BitVec 64) (boost : Bool)
  | stop (now : Bool)
  /-- RESHARD_RESUME: the other half's journal state is asked for (none), or the round is resolved. -/
  | resume (rid : BitVec 16) (commit : Option Bool)
  /-- The degraded lowering restarts the step at a row of a slot (spec/17_modes_repair.md R402). -/
  | restart (slot : Bool) (entry : Nat) (attempt : Nat)
  /-- REGION_CTL and RESET KIND REGION on a region of the other half. -/
  | regionCtl (region : Nat) (fence : Bool)
  | regionReset (region : Nat)
  /-- What an EPOCH row found good, from the half that holds its header. -/
  | ledger (slot : Bool) (row : BitVec 14) (shard digest : BitVec 32) (epoch : BitVec 64)
  | debugOpen (expiry : BitVec 32) (ownerFp : Fp)
  | debugClose (cause : Nat)
  | imageStage (image : List Byte)
  /-- The secondary's staging has ended: its image's digest. -/
  | imageStaged (digest : Digest)
  | imageActivate
  | record (r : RecordBody)
  /-- REGIONS of the sender, and whether a fence there cuts the step (spec/07_timetable.md R164). -/
  | regions (word : BitVec 64) (fenced : Bool)
deriving DecidableEq, Repr

/-- What an outgoing message carries. -/
inductive Body where
  | copy (m : Msg)
  | collect (c : CollectMsg)
  | ferry (f : FerryMsg)
  | admission (a : Admission)
  | ferryDone (table : BitVec 8) (wave : Bool)
  | barrier (group : BitVec 12) (tag : BitVec 32) (position : Nat) (step : BitVec 48) (attempt : Nat)
  | govern (position : Nat) (err energy : F32) (step : BitVec 48) (attempt : Nat)
  | claims (c : List Claim)
  | ready (rid round : BitVec 16) (position : Nat) (count : BitVec 40)
  | journal (j : JournalEntry)
  | lost (position : Nat) (node : BitVec 14)
  | halted (rank : Nat) (node : BitVec 14) (status : BitVec 16)
  | restart (step : BitVec 48) (attempt : Nat)
  | noRoute (dst : BitVec 14) (port : Nat)
  | sleepNotice
  | dozeRequest
  | rendezvous (slot : Bool) (row : Nat)
  | share (p : PairShare)
  | forward (f : PairFwd)
  | warmReset
deriving DecidableEq, Repr

/-- Readings of the coolant sensors (spec/16_power.md R385, R387): temperatures in 1/16 °C. -/
structure CoolantReading where
  inlet : Int
  outlet : Int
  /-- A sensor is open, shorted or out of −20 to 120 °C. -/
  sensorBad : Bool
deriving DecidableEq, Repr

/-- The commands, one constructor per row of spec/opcode_table.json, in the table's order. -/
inductive Instr where
  -- gangway commands, spec/13_commands.md Table 13-9
  | identify (q : Req)
  | getStatus (q : Req) (page : BitVec 32)
  | attest (q : Req) (nonce : BitVec 256)
  | openSession (q : Req) (owner : Key) (ephemeral : Key) (signature : Key)
  | logRead (q : Req) (area : BitVec 8) (first : BitVec 64) (count : BitVec 32)
  | closeSession (q : Req) (sid : BitVec 8)
  | readState (q : Req) (select : BitVec 8) (first : BitVec 32) (count : BitVec 32)
  | enrol (q : Req) (owner : Key) (domain : BitVec 256) (policy : BitVec 4096)
  | retire (q : Req) (token : BitVec 1536)
  | logMark (q : Req) (hostTime : BitVec 64) (note : BitVec 192)
  | logClear (q : Req) (token : BitVec 1536)
  | policySet (q : Req) (policy : BitVec 4096)
  | fabricConfig (q : Req) (config : BitVec 128)
  | linkCtl (q : Req) (port : BitVec 8) (action : BitVec 8)
  | linkUnfence (q : Req) (port : BitVec 8)
  | lash (q : Req) (partner : Fp) (role : BitVec 8)
  | unlash (q : Req) (token : Option (BitVec 1536))
  | checkPlan (q : Req) (plan : Plan) (source : PlanSource)
  | lower (q : Req) (slot : BitVec 8) (plan : Plan) (source : PlanSource)
  | ttLoad (q : Req) (slot : BitVec 8) (n : BitVec 32) (rows : List Row)
  | ttArm (q : Req) (slot : BitVec 8) (entry : BitVec 32)
  | ttDiscard (q : Req) (slot : BitVec 8)
  | jobStart (q : Req) (params : JobParams)
  | run (q : Req) (slot : BitVec 8) (entry : BitVec 32) (steps : BitVec 64) (boost : BitVec 8)
  | stop (q : Req) (mode : BitVec 8)
  | jobEnd (q : Req)
  | rankAbsent (q : Req) (rank : BitVec 16) (standIn : BitVec 16)
  | reshardResume (q : Req) (rid : BitVec 16)
  | windowReg (q : Req) (window : BitVec 32) (base : BitVec 64) (size : BitVec 64)
  | sealTiers (q : Req) (sealId : BitVec 64) (window : BitVec 32) (offset : BitVec 64) (ranges : List (BitVec 128))
  | sealResume (q : Req) (sealId : BitVec 64)
  | unsealTiers (q : Req) (window : BitVec 32) (offset : BitVec 64)
  | imageStage (q : Req) (window : BitVec 32) (offset : BitVec 64) (length : BitVec 64)
  | imageActivate (q : Req)
  | power (q : Req) (target : BitVec 8) (boostEn : BitVec 8)
  | reset (q : Req) (kind : BitVec 8) (region : BitVec 8)
  | regionCtl (q : Req) (region : BitVec 8) (action : BitVec 8)
  | debugOpen (q : Req) (token : BitVec 1536)
  | debugClose (q : Req)
  | debugRead (q : Req) (target : BitVec 8) (region : BitVec 8) (core : BitVec 8) (bank : BitVec 8) (first : BitVec 32)
      (length : BitVec 32)
  -- BAR0 and the rings, spec/13_commands.md R291 to R296
  | enableWrite (value : Bool)
  | irqEnWrite (value : Bool)
  | gwErrClear (mask : BitVec 32)
  | sqTailWrite (value : BitVec 32)
  | cqHeadWrite (value : BitVec 32)
  /-- `offset` 0x20, 0x28, 0x40 or 0x48; a base may be written whole (`wide`) or by halves at offset and offset + 4. -/
  | ringConfigWrite (offset : BitVec 16) (wide : Bool) (value : BitVec 64)
  /-- An aligned 32-bit or 64-bit write of any offset. -/
  | registerWrite (offset : BitVec 16) (value : BusWrite)
  /-- Whether the bus-master reads of the entry, the packet header and the packet's remainder succeed. -/
  | submissionFetch (entryOk : Bool) (headOk : Bool) (restOk : Bool)
  /-- Whether the bus-master writes of the reply and of the completion entry succeed. -/
  | completionPost (replyOk : Bool) (entryOk : Bool)
  -- completions of long commands
  | lowerDone
  | checkPlanDone
  | ttLoadDone (slot : Bool)
  | jobStartJoined
  | joinTimeout
  | sealCheckpoint
  | sealComplete
  | unsealComplete
  | imageStageComplete
  | firmwareStartCheck (ok : Bool)
  | lashExpiry
  | pairFormed
  -- timetable rows, spec/07_timetable.md
  | nop (dt : Nat)
  | pass (dt : Nat)
  | quant (dt : Nat)
  | copy (dt : Nat)
  | vectorCombine (dt : Nat)
  | merge (dt : Nat)
  | norm (dt : Nat)
  | route (dt : Nat)
  | opt (dt : Nat)
  | sgrad (dt : Nat)
  | rebuild (dt : Nat)
  | reduceScatter (dt : Nat)
  | allGather (dt : Nat)
  | allReduce (dt : Nat)
  | broadcast (dt : Nat)
  | reshardRound (dt : Nat)
  | reshardPrepared
  | dispatch (dt : Nat)
  | ferryReturn (dt : Nat)
  | ferryCombine (dt : Nat)
  | govern (dt : Nat)
  | branch (dt : Nat)
  | loop (dt : Nat)
  | endloop (dt : Nat)
  | barrier (dt : Nat)
  | barrierTimeout (group : BitVec 12) (tag : BitVec 32)
  | stepRow (dt : Nat)
  | epochRecord (dt : Nat)
  | epochCheck (dt : Nat)
  | epochAdvance (dt : Nat)
  | notify (dt : Nat)
  | halt (dt : Nat)
  -- sequencer and region events
  /-- The in-flight row at this place of the issue order completes. -/
  | rowComplete (place : Nat)
  | tileDrain (region : Fin 64) (core : Fin 144)
  | regionWakeStart (region : Fin 64)
  | regionReady (region : Fin 64)
  | regionGate (region : Fin 64)
  | degradedRestart
  | retestComplete (region : Fin 64) (failed : List (Fin 144)) (sliceOk : Bool)
  -- fabric and lash ports; port 6 is the lash port
  | portDieFault (die : Bool)
  | fabricSenseChange (port : Fin 6) (level : Bool)
  | lashSenseChange (level : Bool)
  /-- Lane groups that trained whole: the lower and the upper half of the port's lanes. -/
  | linkTrainComplete (port : Fin 7) (lowOk : Bool) (highOk : Bool)
  /-- With the bytes of the peer's handshake message, which enter the transcript. -/
  | linkHello (port : Fin 7) (fabricId : BitVec 64) (node : BitVec 14) (peerPort : BitVec 3) (msg : List Byte)
  | linkEvidence (port : Fin 7) (evidence : PeerEvidence) (msg : List Byte)
  | linkAgree (port : Fin 7) (sigOk : Bool) (peerKey : Key) (msg : List Byte)
  /-- The peer's confirmation as it comes: ciphertext and tag. -/
  | linkConfirm (port : Fin 7) (confirmation : List Byte)
  | linkResume (port : Fin 7) (expected : BitVec 64)
  /-- A flit with the symbols corrected where it begins its codeword; none where the codeword could not be corrected. -/
  | flitReceive (port : Fin 7) (flit : BitVec 512) (corrected : Option (BitVec 4))
  /-- `newMs`: a millisecond has ended since the port's last replay. -/
  | nakReceive (port : Fin 7) (seq : BitVec 12) (newMs : Bool)
  | nakRepeat (port : Fin 7)
  | peerSilence (port : Fin 7)
  | messageSend (port : Fin 7) (vc : Fin 4) (dt : Nat)
  /-- `tagOk` of this row and those below: whether the message verified, where its flits were not given as FLIT_RECEIVE. -/
  | messageForward (port : Fin 7) (msg : Msg) (tagOk : Bool)
  | writeMsg (port : Fin 7) (msg : Msg) (tagOk : Bool)
  | writeDone (port : Fin 7) (src : BitVec 14) (txn : BitVec 12)
  | readMsg (port : Fin 7) (msg : Msg) (tagOk : Bool)
  | readData (port : Fin 7) (src : BitVec 14) (txn : BitVec 12) (offset : Nat) (data : ReadPart)
  | collectMessage (port : Fin 7) (msg : CollectMsg) (tagOk : Bool)
  | ferryMessage (port : Fin 7) (msg : FerryMsg) (tagOk : Bool)
  | admissionReply (reply : Admission)
  | ferryDone (table : BitVec 8) (wave : Bool) (position : BitVec 16) (step : BitVec 48) (attempt : Nat)
  | barrierArrival (group : BitVec 12) (tag : BitVec 32) (position : Nat) (step : BitVec 48) (attempt : Nat)
  | governSum (position : Nat) (err : F32) (energy : F32) (step : BitVec 48) (attempt : Nat)
  | claimList (position : Nat) (claims : List Claim)
  | reshardReady (rid : BitVec 16) (round : BitVec 16) (position : ReadyFrom)
  | journalExchange (position : Nat) (entry : JournalEntry)
  | lostNotice (position : BitVec 16) (node : BitVec 14)
  | haltedNotice (rank : BitVec 16) (node : BitVec 14) (status : BitVec 16)
  | restartNotice (step : BitVec 48) (attempt : Nat)
  | sleepNotice (port : Fin 7)
  | dozeRequest (port : Fin 7)
  | linkWake (port : Fin 7)
  -- lashed pairs
  | pairRendezvous (slot : Bool) (row : BitVec 14)
  | pairContribution (share : PairShare)
  | partnerWarmReset
  | lashBringupComplete (items : PartnerItems)
  | strandedRetry
  -- supplies, clocks, resets
  /-- Island state passes its check; cell voltage in mV; levels of the SLOT_ID pins and of OWNER_PRESENT_N. -/
  | auxGood (islandOk : Bool) (cellMv : BitVec 16) (slotId : BitVec 3) (ownerPresentN : Bool)
  | auxLost
  | mainEnAssert
  | mainEnDeassert
  /-- The extreme MAIN reading in millivolts, and whether it lasted the band's time. -/
  | mainRange (mv : Nat) (lasted : Bool)
  | railFault (rail : Fin 12) (phase : Fin 3) (mv : Nat)
  | pllLossOfLock (region : Fin 64)
  | linkRefclkFault
  | pcieRefclkLoss
  /-- FULL_STRAP is sampled at the edge. -/
  | perstNFall (fullStrap : Bool)
  | pcieLinkUp
  | warmResetEffect
  | controlRestartDone
  | memoryTrained (failed : Option (Fin 24))
  /-- Cores (region, index), spares (row band 0 to 15, index) and slices that fail self-test. -/
  | selftestDone (cores : List (Fin 64 × Fin 144)) (spares : List (Fin 16 × Fin 24)) (slices : List (Fin 64))
  | idleSleep
  | sleepWakeDone
  -- temperature, power cap, coolant
  /-- One reading for each region, then the hottest of the other dies, in 1/16 °C. -/
  | temperatureSample (regions : List Int) (others : Int)
  | powerCapTick (inputW : Nat)
  | thermalCreditUpdate (inputW : Nat)
  | valveLoopTick
  | flowUpdate (edges : Nat)
  | coolantConditionTest (reading : CoolantReading)
  -- tamper, counters, recorder, sideband
  | tamperTrip (sensors : BitVec 8)
  | cellLow (mv : BitVec 16)
  | ownerPresentRise
  | operatingSecond
  | counterCopy
  | debugExpiry
  | recordWrite
  | logMarkQueued
  | logSelect (area : BitVec 8) (first : BitVec 64) (pecOk : Bool)
  | logNext (pecOk : Bool)
  | logBounds (pecOk : Bool)
  | thermalRead (pecOk : Bool)
  | coolantSet (target : BitVec 16) (dutyMin : BitVec 8) (reserved : BitVec 8) (pecOk : Bool)
  | alertResponse
  -- rows the table ends with
  | noRouteMessage (port : Fin 7) (dst : BitVec 14) (src : BitVec 14) (viaPort : BitVec 8)
  | linkWakeDone (port : Fin 7)
  | mainHoldRelease
  | pairForward (fwd : PairFwd)
deriving DecidableEq, Repr

end Sys2Proof
end

