-- ==== Sys2Proof/Config.lean ====
section
/-!
DEFINITION. What one module fixes (its identity) and the free values: constants without a body, of which nothing can be
proved, applied to what they depend on (log entries 4, 6, 8, 10, 11).
-/
namespace Sys2Proof.Config

/-- An undefined byte: memory space, era and key (spec/09_memory.md R198; spec/16_power.md R379). -/
opaque undefByte : Nat → Nat → Nat → BitVec 8

/-- An undefined accumulator word: era and key (spec/05_accumulators.md R122). -/
opaque undefWord : Nat → Nat → BitVec 32

/-- Whether an unwritten tier unit fails its parity check: era and unit; and on the second read (spec/09_memory.md R198). -/
opaque undefParity : Nat → Nat → Bool
opaque undefParityAgain : Nat → Nat → Bool

/-- Random draws of the security processor, by the state's draw counter: SEAL_NONCE, BLOB_ID, private keys and signature
nonces. -/
opaque random64 : Nat → BitVec 64
opaque random384 : Nat → BitVec 384
opaque random256 : Nat → BitVec 256

/-- An undefined word of a DEBUG_READ or region scan, by the state's draw counter. -/
opaque freeWord : Nat → Nat → BitVec 32

/-- What a word of a region scan stands for: staging, accumulator and slice words by their number in the core's memory or the slice, a
word of the core's table memory by area (sum tables, plane-scale operands, activation scale codes), half and number, or anything else
of the region. -/
inductive ScanPlace where
  | staging (word : Nat)
  | acc (bank : Bool) (word : Nat)
  | slice (word : Nat)
  | sums (half : Bool) (word : Nat)
  | scales (half : Bool) (word : Nat)
  | codes (half : Bool) (word : Nat)
  | other
deriving DecidableEq, Repr, Inhabited

/-- The layout of a region scan, which spec/13_commands.md and spec/14_trust.md do not give, by word number. -/
opaque scanPlace : Nat → ScanPlace

/-- Whether a spare core passes its known-answer test (spec/17_modes_repair.md R400), by the state's draw counter. -/
opaque spareTest : Nat → Bool

/-- Plate to coolant resistance in µK/W at a flow of 0, for which spec/16_power.md R382 gives no value. -/
opaque stillPlate : Nat

/-- Values that spec/03_quantiser.md and spec/06_vector_engine.md leave unstated for some operands: the range (in units of
2^−149) that sets the scale of a group whose largest positive code is 0 (W1, two's complement), by that group's magnitude; the step that stands for a
master scale whose previous step is no positive number; a zero point under LEARNED, by column and group; an element of a
padding column that a rotation across columns mixes in; the signedness that SGRAD reads W codes with. -/
opaque unitNeed : Nat → Nat
opaque lostStep : Nat → Nat
opaque learnedZero : Nat → Nat → BitVec 8
opaque padMaster : Nat → Nat → BitVec 16
opaque sgradSigned : Bool

/-- The shortfall that PLAN_TOO_LARGE reports where no tensor was passed over (spec/09_memory.md R214 states none), by the near and the
far demand. -/
opaque shortfall : Nat → Nat → BitVec 64

/-- Byte offset of a parameter of a command whose layout the spec does not give: opcode, parameter number. -/
opaque paramOffset : BitVec 8 → Nat → BitVec 32

/-- The identity key (spec/14_trust.md R324), the serial number and the certificate chain as byte strings. -/
opaque identityPriv : BitVec 384
opaque certificates : List (BitVec 8)
opaque serial : List (BitVec 8)

/-- SHA-384 of the boot ROM (spec/14_trust.md Table 14-4). -/
opaque romDigest : BitVec 384

/-- Holtod's image-signing public key, held in the boot ROM (spec/14_trust.md R340). -/
opaque holtodKey : BitVec 768

/-- The image a module is manufactured with. -/
opaque factoryVersion : BitVec 32
opaque factoryDigest : BitVec 384

/-- Version of the lowering that an image VERSION carries (spec/08_xekoade.md R187). -/
opaque lowerVersion : BitVec 32 → BitVec 16

/-- What lowering gives: rows, each with the identity of the plan record that it serves, and the step's commit barrier rows. -/
structure Lowering where
  rows : List (BitVec 1024)
  served : List (Option (BitVec 32))
  barriers : List Nat
deriving DecidableEq, Repr, Inhabited

/-- The choice that a lowering makes: deterministic in LOWER_VER, plan bytes and descriptor snapshot (spec/08_xekoade.md R190). The spec does
not give its rows, only what they must keep (Machine/Lowering.lean). -/
opaque lowering : BitVec 16 → List (BitVec 8) → BitVec 1024 → Option Lowering

/-- Record, section kind and reason of a plan that this choice gives no rows for. -/
opaque lowerReason : BitVec 16 → List (BitVec 8) → BitVec 1024 → BitVec 32 × BitVec 8 × BitVec 8

/-- What spec/10_fabric.md and spec/14_trust.md leave to the link layer: the hello message (fabric identity, node, port), the resume message,
the doze request and the sleep notice, the nonce of a confirmation; and ADDR, CTX and bytes of the messages that Table 10-3 gives no layout. -/
opaque helloBytes : BitVec 64 → BitVec 14 → Nat → List (BitVec 8)
opaque resumeBytes : BitVec 64 → List (BitVec 8)
opaque dozeBytes : List (BitVec 8)
opaque sleepBytes : List (BitVec 8)
opaque confirmNonce : List (BitVec 8)
opaque bodyHead : Body → BitVec 42 × BitVec 22
opaque bodyByte : Body → Nat → BitVec 8

/-- The plan whose bytes a blob holds, where they are not those of the plan that the command came with: the spec gives no byte layout of
records. -/
opaque readPlan : List (BitVec 8) → Plan

end Sys2Proof.Config
end

