-- ==== Sys2Proof/Machine/State.lean ====
section
/-!
DEFINITION. The state of the EZ-1 as plain data, and the module as it leaves manufacture (`State.reset`). One structure for
each part of the device; INVENTORY.md lists every field with the rule of spec/ that names it. A sparse map is a list of
(index, value) pairs with strictly rising indices.
-/
namespace Sys2Proof.Machine

/-- A sparse map from indices. -/
abbrev SMap (α : Type) := List (Nat × α)

/-- No command of this block stops the machine with a fault: what the spec calls a halt, a fault or an erase is a state of
the device and a NEXT state here. Nothing raises a fault; safe. -/
inductive Fault where
deriving DecidableEq, Repr

/-- Reasons for having no meaning. -/
inductive Refusal where
  /-- Raised by an arm of `exec` whose command has no meaning yet; safe (the machine stops). -/
  | notModelled (mnemonic : String)
deriving DecidableEq, Repr

/-! ### Pins, supplies, coolant -/

structure Pins where
  aux : Bool
  mainEn : Bool
  perstN : Bool
  fullStrap : Bool
  ownerPresentN : Bool
  slotId : BitVec 3
  fabricSenseN : BitVec 6
  lashSenseN : Bool
  thermTripN : Bool
  smbAlertN : Bool
  pcieRef : Bool
deriving DecidableEq, Repr

/-- spec/16_power.md Table 16-6. -/
inductive PowerState where | standby | sleep | doze | run | boost
deriving DecidableEq, Repr

/-- spec/16_power.md R370: MAIN_EN is ignored until deasserted for 100 ms, or until AUX has been removed. -/
inductive Lockout where | none | untilDeassert | untilAux | untilBoth
deriving DecidableEq, Repr

structure Power where
  state : PowerState
  /-- Start-up stage of spec/17_modes_repair.md Table 17-4: 0 no AUX, 1 island up, 2 rails up, 3 memory trained, 6 in
  service; 9 stuck in STARTING (R396). -/
  startup : Nat
  rails : Bool
  /-- MAIN_EN asserted too early and held (spec/16_power.md R365). -/
  mainHold : Bool
  /-- AUX good for 20 ms and the island boot ended. -/
  auxReady : Bool
  railFaults : Nat
  lockout : Lockout
  boostEn : Bool
  /-- A SLEEP waiting for a step boundary (spec/13_commands.md R311). -/
  sleepReq : Bool
  /-- Last POWER target: true DOZE, false RUN. -/
  dozeTarget : Bool
  /-- AUX was lost while MAIN was up: AUX_ORDER is to be written (spec/16_power.md R371). -/
  auxOrder : Bool
  /-- A wake from SLEEP is under way. -/
  wakeReq : Bool
deriving DecidableEq, Repr

/-- A coolant condition of spec/16_power.md Table 16-8. -/
inductive Condition where | flowLow | flowStop | inletHigh | inletLow | sensor
deriving DecidableEq, Repr

structure CondState where
  cond : Condition
  /-- Milliseconds the trigger has held. -/
  heldMs : Nat
  /-- In force. -/
  active : Bool
  /-- Milliseconds since it was last in force; a new record needs 10 s. -/
  absentMs : Nat
deriving DecidableEq, Repr

structure Thermal where
  tj : Int
  inlet : Int
  outlet : Int
  flow : Nat
  inputW : Nat
  mainMv : Nat
  duty : Nat
  /-- Integral of the PI loop in 1/160 K·s. -/
  integ : Int
  loopOn : Bool
  outletTarget : BitVec 16
  dutyMin : BitVec 8
  capW : Nat
  /-- Thermal credit in ms; none is unlimited. -/
  creditMs : Option Nat
  granted : Bool
  cappedMs : BitVec 32
  boostMs : Nat
  /-- Cold-plate estimate in micro-degrees. -/
  tp : Int
  hot : Bool
  tripped : Bool
  grants : Nat
  revokes : Nat
  conds : List CondState
  /-- FLOW_TACH edges of the last twenty windows of 100 ms, newest first. -/
  tach : List Nat
  /-- The MAIN band recorded last: 0 in range, 1 to 4 the rows of R366. -/
  mainBand : Nat
  /-- MAIN has come up since AUX became good. -/
  ran : Bool
deriving DecidableEq, Repr

/-! ### Regions -/

/-- Why a region is out of service (spec/17_modes_repair.md R395, R401, R403). -/
inductive FenceCause where
  | startup | selftest | command | spares | pll | temperature | sliceParity | coreRetest | regionReset
deriving DecidableEq, Repr

inductive RegionMode where
  /-- In service. -/
  | service
  /-- Fenced, not under retest (start-up, or after a failed retest). -/
  | fenced (cause : FenceCause)
  /-- On the slipway. -/
  | slipway (cause : FenceCause)
deriving DecidableEq, Repr

inductive RegionClock where | gated | waking | ready
deriving DecidableEq, Repr

structure Region where
  mode : RegionMode
  clock : RegionClock
  /-- Clock step in units of 50 MHz. -/
  clkStep : Nat
  temp : Int
  /-- The hotter neighbour episode of spec/16_power.md R377, and milliseconds spent at the floor. -/
  throttled : Bool
  floorMs : Nat
  /-- The throttle still steps the region down: the difference has not come back to 17 °C. -/
  easing : Bool
  /-- Sliver map: core index to spare index; an unlisted core is its own. -/
  sliver : SMap Nat
  /-- Cores named by a PARITY_FAULT halt, with the operating second. -/
  coreParity : List (Nat × Nat)
  sliceParity : List Nat
  /-- Cores to be fenced at the next boundary or RUN. -/
  failing : List Nat
  pendingFence : Option FenceCause
  /-- A retest is running. -/
  retest : Bool
deriving DecidableEq, Repr

/-! ### Memories -/

/-- Table memory of one core (spec/04_table_arithmetic.md Table 04-3), its halves in pairs: the chunk tables of each sum-table buffer
in the order in which the lanes consume them, each stored entry (R97) in a 16-bit word; plane-scale operands by plane and column; v, z_a and
A2 of the row's tokens. `sumNext` and `superNext` are the halves that the builder fills next. -/
structure CoreTable where
  sums : List (List (BitVec 16)) × List (List (BitVec 16))
  scales : List (BitVec 16) × List (BitVec 16)
  codes : List Byte × List Byte
  sumNext : Bool
  superNext : Bool
deriving DecidableEq, Repr

def CoreTable.fresh : CoreTable := { sums := ([], []), scales := ([], []), codes := ([], []), sumNext := false, superNext := false }

/-- Memory keys of a half (spec/09_memory.md R216): the data and the tweak key of its near and of its far tier. -/
structure MemKeys where
  near : BitVec 256 × BitVec 256
  far : BitVec 256 × BitVec 256
deriving DecidableEq, Repr

structure Mem where
  /-- Near and far tier by module address. -/
  tier : List Host.Cell
  /-- Staging: physical core × 2^18 + byte. -/
  staging : List Host.Cell
  /-- Slice SRAM: region × 2^22 + byte. -/
  slice : List Host.Cell
  /-- Host memory by bus address. -/
  host : List Host.Cell
  /-- Accumulator words: ((core × 2 + bank) × 48 + tile row) × 512 + lane. -/
  acc : SMap F32
  /-- Table memory by physical core; an unlisted core's has not been written in this era. -/
  table : SMap CoreTable
  /-- Tier units whose parity fails; true: the second read fails too. -/
  tierBad : SMap Bool
  /-- 16-byte staging units, slice units and accumulator words whose parity fails. -/
  stagingBad : SMap Bool
  sliceBad : List Nat
  accBad : List Nat
  /-- Losses of contents so far (the model's own: undefined bytes differ between eras). -/
  era : Nat
  /-- Memory keys, held in the hub die; none before start-up has made them and once they are erased. -/
  keys : Option MemKeys
  /-- Per stack: corrected errors and re-fetches. -/
  corrected : SMap (BitVec 64)
  refetch : SMap (BitVec 64)
deriving DecidableEq, Repr

/-! ### Sequencer -/

inductive SlotState where | empty | loaded | armed | active
deriving DecidableEq, Repr

/-- What a slot written by LOWER remembers of it. -/
structure Lowered where
  plan : Plan
  snapshot : BitVec 1024
  /-- Commit barrier rows (spec/17_modes_repair.md R398). -/
  barriers : List Nat
deriving DecidableEq, Repr

structure Slot where
  state : SlotState
  rows : List Row
  digest : Digest
  entry : Nat
  lowered : Option Lowered
deriving DecidableEq, Repr

/-- A halt: status, slot and row at which issue stopped, and CODE (spec/07_timetable.md R174). -/
structure Halt where
  cause : BitVec 16
  slot : Bool
  row : Nat
  code : BitVec 16
deriving DecidableEq, Repr

structure ActiveRun where
  slot : Bool
  next : Nat
  entry : Nat
  /-- Row at which the current step began. -/
  stepEntry : Nat
  /-- GAP of the row issued last; 0 before the first. -/
  gap : Nat
  budget : Nat
  boost : Bool
  req : Req
  /-- STOP BOUNDARY, or STOP of a sleeping run. -/
  stopAt : Bool
  halting : Option Halt
  attempt : Nat
  /-- Asleep at a boundary: continues at `next` on wake. -/
  asleep : Bool
  /-- The commit barrier of this step has issued. -/
  committed : Bool
  /-- A fence is abandoning the step (spec/07_timetable.md R164). -/
  abandoning : Option Halt
  /-- A RESTART has come: the step starts again at this slot and row once no row is in flight (spec/17_modes_repair.md R402). -/
  restartAt : Option (Bool × Nat)
  /-- Stall cause of the row at `next` when it was last considered. -/
  waitCause : Option Nat
deriving DecidableEq, Repr

/-- Stall causes by code (spec/07_timetable.md Table 07-10). -/
abbrev Cause := Nat

structure HeldRow where
  /-- Its place in path order. -/
  id : Nat
  row : Nat
  bits : Row
  issue : Nat
  cause : Cause
deriving DecidableEq, Repr

/-- What an issued row still waits for. -/
inductive Stage where
  /-- Every effect is written. -/
  | done
  /-- Tiles named by END or END_DRAIN that have not been drained. -/
  | drain
  /-- Peer reads and writes outstanding. -/
  | peer
  | collect
  | reshard
  | dispatch
  | ferryReturn
  /-- Stopped: bytes that failed in staging are asked of a peer again (spec/09_memory.md R218), or source bytes of the other half. -/
  | refetch
  | barrier
  | govern
  /-- An EPOCH row whose header the other half holds, and what it found has not come. -/
  | epoch
  /-- A notification not yet in the completion ring. -/
  | notify
  /-- Executed by the other half of the pair, whose contribution has not come. -/
  | remote
deriving DecidableEq, Repr

structure Flight where
  /-- Its place in path order. -/
  id : Nat
  slot : Bool
  row : Nat
  bits : Row
  issue : Nat
  flags : BitVec 8
  stage : Stage
  watch : List WatchAdd
deriving DecidableEq, Repr

/-- A watch entry (spec/03_quantiser.md Table 03-3) with the tensor and threshold of the step (R86). -/
structure Watch where
  elements : Nat
  saturated : Nat
  nans : Nat
  flat : Nat
  err : F32
  energy : F32
  rejects : Nat
  drift : Bool
  tensor : BitVec 32
  limit : Nat
deriving DecidableEq, Repr

/-- A step ledger entry (spec/11_collectives.md R252). -/
structure LedgerEntry where
  shard : BitVec 32
  digest : BitVec 32
  epoch : BitVec 64
deriving DecidableEq, Repr

/-- A tile of one core's slot (spec/05_accumulators.md R117): `counts` is the partials at each position. -/
structure Tile where
  core : Nat
  region : Nat
  slot : Nat
  bank : Nat
  base : Nat
  nrows : Nat
  levels : Nat
  order : Nat
  counts : List Nat
  /-- The ending row's flight and accumulate block, once closing. -/
  closing : Option (Nat × BitVec 128)
deriving DecidableEq, Repr

/-- `n` runs of `len` bytes; spaces 0 tier, 1 staging by (region × 144 + core) × 2^18, 2 slice SRAM by region × 2^22, 4 peer by
node × 2^42, 6 host window by window × 2^48. -/
structure Span where
  space : Nat
  base : Nat
  len : Nat
  stride : Nat
  n : Nat
deriving DecidableEq, Repr

/-- A completed COPY row kept for re-fetching (spec/09_memory.md R218): its descriptors and what later rows have written. -/
structure CopyRec where
  descs : List (BitVec 384)
  later : List Span
deriving DecidableEq, Repr

structure Seq where
  slotA : Slot
  slotB : Slot
  slotGen : BitVec 64
  run : Option ActiveRun
  held : List HeldRow
  flight : List Flight
  nextId : Nat
  loops : SMap Nat
  flags : SMap (BitVec 8)
  /-- Verdict registers that hold A4; the others hold A8. -/
  a4 : List Nat
  hold : SMap (BitVec 8)
  /-- Entry verdicts: the A4 list and the hold counts saved at the step's start. -/
  entryVerdict : Option (List Nat × SMap (BitVec 8))
  watch : SMap Watch
  /-- Contributions of completed rows that wait for an earlier row of the same entry (R85): place in path order, made by the
  other half, contribution. -/
  watchWait : List (Nat × Bool × WatchAdd)
  calDrift : Bool
  step : BitVec 48
  remap : BitVec 64
  issues : SMap Nat
  /-- Rows whose generator key was replaced: slot × 2^14 + row. -/
  remapped : List Nat
  ledger : SMap LedgerEntry
  stallR : SMap (BitVec 64)
  stallM : SMap (BitVec 64)
  haltCause : BitVec 16
  haltSlot : Bool
  haltRow : BitVec 14
  /-- Slot and step entry row of the halted run (spec/17_modes_repair.md R398). -/
  haltEntry : Option (Bool × Nat)
  tiles : List Tile
  copies : List CopyRec
  /-- The slot whose timetable is to be lowered again without a run: spares ran out at its run's last boundary (spec/01_module.md R12). -/
  relower : Option Bool
deriving DecidableEq, Repr

/-! ### Job -/

structure FerryCount where
  sent : BitVec 48
  dropped : BitVec 48
  admitted : BitVec 48
  second : BitVec 48
deriving DecidableEq, Repr

structure HomeTable where
  group : Nat
  entries : List (BitVec 64)
deriving DecidableEq, Repr

/-- The state of the latest DISPATCH on a home table. -/
structure FerryState where
  /-- DISPATCH rows of the table begun, and tokens arrived with the number of the dispatch that they are of. -/
  round : Nat
  arrivals : List (Nat × FerryMsg)
  /-- Outputs that came before their RETURN row. -/
  outputs : List FerryMsg
  /-- Pairs dropped: region, token, entry. -/
  dropped : List (BitVec 7 × BitVec 32 × BitVec 3)
  /-- Replies awaited: expert and wave. -/
  awaited : List (BitVec 16 × Bool)
  /-- DONE messages heard, one for each dispatch that its sender has ended: wave and position (bit 15: the secondary half). -/
  dones : List (Bool × BitVec 16)
  /-- Waves that this module's homes have admitted. -/
  admitted : List Bool
  /-- DONE of wave 1 has been sent. -/
  sentDone : Bool
  /-- Pairs whose outputs are to come back, by dispatch; and the RETURN rows in flight with their dispatches. -/
  owed : List (Nat × BitVec 7 × BitVec 32 × BitVec 3)
  returns : List (Nat × Nat)
  /-- WIDTH and FMT of the last RETURN. -/
  width : Nat
  fmt : BitVec 8
deriving DecidableEq, Repr

def FerryState.start : FerryState :=
  { round := 0, arrivals := [], outputs := [], dropped := [], awaited := [], dones := [], admitted := [], sentDone := false,
    owed := [], returns := [], width := 0, fmt := 0 }

/-- A message that has come whole and verified, and that the module has not yet taken: its buffer (VC × 2 + CLASS), the flits that it
holds there, and its plaintext. -/
structure RxMsg where
  buffer : BitVec 3
  flits : Nat
  text : List Byte
deriving DecidableEq, Repr

/-- A contribution to a collective that this module has not issued yet, kept in its receive buffers (spec/11_collectives.md R248). -/
structure Early where
  port : Nat
  held : List RxMsg
  msg : CollectMsg
deriving DecidableEq, Repr

structure Job where
  started : Bool
  relaxed : Bool
  seed : BitVec 256
  ranks : Nat
  myRank : Nat
  rankTable : List (BitVec 64)
  groups : SMap (List Nat)
  homes : SMap HomeTable
  domain : Nat
  ferry : SMap FerryCount
  /-- By attempt × 256 + table. -/
  ferryNow : SMap FerryState
  /-- The DISPATCH row issued last; RETURN and COMBINE follow it. -/
  ferryRow : Row
  contribs : List CollectMsg
  early : List Early
  /-- Barrier arrivals: group, tag, position, attempt. -/
  arrivals : List (BitVec 12 × BitVec 32 × Nat × Nat)
  /-- GOVERN sums in the order they came: attempt, position, err, energy. -/
  sums : List (Nat × Nat × F32 × F32)
  /-- LOST (false) and HALTED (true) notices taken. -/
  notices : List (Bool × BitVec 16 × BitVec 14)
deriving DecidableEq, Repr

structure Reshard where
  /-- RESHARDING: identity, round, total rounds. -/
  active : Option (BitVec 16 × Nat × Nat)
  /-- Headers landed and vacated in the round: their addresses. -/
  landed : List (Nat × BitVec 32)
  vacate : List (Nat × BitVec 32)
  /-- Incoming moves not yet landed. -/
  incoming : List (BitVec 384)
  /-- Blocks read by other members since the last commit: address and bytes of each read. -/
  pulled : List (Nat × Nat)
  prepared : Bool
  /-- READY messages heard: identity, round, position, move entries. -/
  ready : List (BitVec 16 × BitVec 16 × Nat × BitVec 40)
  /-- The two entries of the journal, and which was written last: true B. -/
  journalA : JournalEntry
  journalB : JournalEntry
  lastB : Bool
  /-- Journal states heard from members, by rank (R259). -/
  journals : SMap JournalEntry
deriving DecidableEq, Repr

/-! ### Gangway -/

inductive RunState where | starting | ready | job | running | halted
deriving DecidableEq, Repr

structure Session where
  sid : BitVec 3
  provisional : Bool
  owner : Key
  seq : BitVec 64
  nseq : BitVec 64
  h2d : BitVec 256
  d2h : BitVec 256
deriving DecidableEq, Repr

/-- A completion entry to be posted, with the reply it follows; of a notification, `raddr` is its session and `reply` the
16 bytes to be sealed into INLINE (spec/13_commands.md R313). -/
structure Completion where
  tag : BitVec 16
  kind : BitVec 4
  status : BitVec 16
  raddr : BitVec 64
  reply : List Byte
deriving DecidableEq, Repr

/-- A fetched command that passed checks 1 to 6 of spec/13_commands.md Table 13-7. -/
structure Accepted where
  req : Req
  opcode : BitVec 8
  params : List Byte
  /-- The head of a sealed body is as R297 gives it (check 8, made as the command starts). -/
  formOk : Bool
  /-- Its session has closed since. -/
  closed : Bool
  /-- Refused by checks 1 to 6: what it completes with when its turn comes (spec/13_commands.md R315). -/
  refused : Option Completion
deriving DecidableEq, Repr

structure LowerJob where
  req : Req
  /-- None for CHECK_PLAN. -/
  slot : Option Bool
  plan : Plan
  snapshot : BitVec 1024
  /-- A plan in a host window: the window, the blob's offset and its bytes in the window. -/
  window : Option (BitVec 8)
  offset : BitVec 64
  length : BitVec 64
  /-- Move lists that the other half holds have been asked for. -/
  fetched : Bool
deriving DecidableEq, Repr

structure LoadJob where
  req : Req
  rows : List Row
  fetched : Bool
deriving DecidableEq, Repr

structure JoinJob where
  req : Req
  /-- With the tables that the job takes. -/
  params : JobParams
  heard : List Nat
  claims : List Claim
  /-- Remaps to be made under RELAXED: slot × 2^14 + row. -/
  remapped : List Nat
deriving DecidableEq, Repr

structure ResumeJob where
  req : Req
  rid : BitVec 16
deriving DecidableEq, Repr

inductive SealKind where | seal | resume | unseal
deriving DecidableEq, Repr

structure SealJob where
  req : Req
  kind : SealKind
  sealId : BitVec 64
  sealNonce : BitVec 64
  window : BitVec 8
  offset : BitVec 64
  ranges : List (BitVec 128)
  /-- Next chunk, its RESUME count and the tag before it. -/
  chunk : Nat
  resume : BitVec 16
  tag : BitVec 128
  step : BitVec 64
  /-- What the other half holds of the next chunks has been asked for. -/
  fetched : Bool
deriving DecidableEq, Repr

/-- The last checkpoint of a seal (spec/14_trust.md R338), kept in the hub die. -/
structure Checkpoint where
  job : SealJob
  chunk : Nat
  tag : BitVec 128
deriving DecidableEq, Repr

structure ImageJob where
  req : Req
  activate : Bool
  image : List Byte
  window : Option (BitVec 8)
  /-- Activation waits for a step boundary, or the new firmware's start check is running. -/
  started : Bool
deriving DecidableEq, Repr

structure LashJob where
  req : Req
  partner : Fp
  primary : Bool
  /-- A bring-up with the partner has started. -/
  bringup : Bool
  /-- The partner's record EPOCH and REGIONS, once bring-up is complete. -/
  found : Option (BitVec 64 × BitVec 64)
deriving DecidableEq, Repr

structure Gangway where
  linkUp : Bool
  err : BitVec 5
  enable : Bool
  irqEn : Bool
  sqBase : BitVec 64
  sqSize : BitVec 32
  sqTail : BitVec 32
  sqHead : BitVec 32
  cqBase : BitVec 64
  cqSize : BitVec 32
  cqHead : BitVec 32
  cqTail : BitVec 32
  phase : Bool
  held : List Completion
  accepted : List Accepted
  /-- Fetched commands without a completion yet. -/
  outstanding : Nat
  vec0 : Nat
  vec1 : Nat
  msix : List Host.Cell
  windows : SMap (BitVec 64 × BitVec 64)
  sessions : List Session
  runstate : RunState
  lowering : Option LowerJob
  loadA : Option LoadJob
  loadB : Option LoadJob
  join : Option JoinJob
  /-- Claim lists heard from members before this module's own JOB_START, by rank. -/
  claimsHeld : SMap (List Claim)
  resume : Option ResumeJob
  seals : Option SealJob
  image : Option ImageJob
  lash : Option LashJob
  powerCmd : Option (Req × BitVec 8)
  stopCmd : Option Req
  /-- LINK_CTL in progress: port and request. -/
  links : List (Nat × Req)
  /-- RESET KIND WARM accepted: the warm reset follows. -/
  warmPending : Bool
  /-- No further command starts (spec/13_commands.md R318). -/
  hold : Bool
  /-- Last sideband reply. -/
  smb : Option (List Byte)
deriving DecidableEq, Repr

/-! ### Trust -/

inductive Lifecycle where | blank | enrolled | erased | retired
deriving DecidableEq, Repr

structure Image where
  valid : Bool
  version : BitVec 32
  level : BitVec 6
  digest : Digest
  /-- The 256-byte header. -/
  header : List Byte
deriving DecidableEq, Repr

structure Trust where
  lifecycle : Lifecycle
  ownerKey : Key
  domain : BitVec 256
  policy : BitVec 4096
  /-- The binding wrap key register (spec/14_trust.md Table 14-2); 0 once erased. -/
  wrapKey : BitVec 256
  /-- DEBUG-OPEN: expiry in operating hours and the opening session. -/
  debug : Option (BitVec 32 × BitVec 3)
  /-- DEBUG-OPEN of a pair waiting for the step boundary: expiry, session, signer, and the command where it was given here. -/
  debugWait : Option (BitVec 32 × BitVec 3 × Fp × Option Req)
  rollback : BitVec 6
  imageA : Image
  imageB : Image
  /-- Running image: false A, true B. -/
  running : Bool
  flagged : Bool
  /-- The area whose image has been staged and has not passed its start check yet (spec/17_modes_repair.md Table 17-5). -/
  unconfirmed : Option Bool
  /-- Neither image is a candidate (spec/14_trust.md R342). -/
  noImage : Bool
  tamperLatch : BitVec 8
  tamperNow : BitVec 8
  tamperCount : BitVec 32
  cellMv : BitVec 16
  cellLow : Bool
  checkpoint : Option Checkpoint
  sealing : Bool
  imageStaged : Bool
deriving DecidableEq, Repr

/-! ### Recorder -/

structure Rec where
  seq : BitVec 64
  op : BitVec 40
  cycles : BitVec 32
  source : BitVec 16
  code : BitVec 16
  flags : BitVec 8
  params : List Byte
deriving DecidableEq, Repr

structure Recorder where
  ring : List Rec
  prot : List Rec
  nextSeq : BitVec 64
  queue : List Rec
  /-- Protected events waiting for a protected entry. -/
  protWait : List Rec
  /-- LOG_MARK commands waiting for an ordinary entry. -/
  markWait : List (Req × BitVec 64 × BitVec 192)
  /-- Ordinary events lost since the last LOST record, the first of them, and source and code of the last (spec/15_recorder.md R357). -/
  loss : BitVec 64
  lossFirst : Option Rec
  lossLast : BitVec 16 × BitVec 16
  opSeconds : BitVec 40
  powerCycles : BitVec 32
  flashOp : BitVec 40
  flashCycles : BitVec 32
  sbArea : Bool
  sbPtr : BitVec 64
deriving DecidableEq, Repr

/-! ### Fabric and lash ports -/

inductive PortState where | active | doze | off | fenced
deriving DecidableEq, Repr

structure Out where
  dst : BitVec 14
  vc : Fin 4
  /-- Dateline class. -/
  cls : Bool
  /-- The message has reversed in its present dimension. -/
  reversed : Bool
  /-- Number of the message, where the body takes several (R225). -/
  part : Nat
  mseq : BitVec 64
  /-- The flight whose completion waits for its delivery. -/
  flight : Option Nat
  body : Body
deriving DecidableEq, Repr

/-- An unacknowledged DATA or LINKCTL flit (spec/10_fabric.md R224): its SEQ, the MSEQ of the message that it ends, how often it was
resent, and its bits. -/
structure TxFlit where
  seq : BitVec 12
  ends : Option (BitVec 64)
  resent : Nat
  flit : BitVec 512
deriving DecidableEq, Repr

/-- Handshake steps of spec/10_fabric.md Table 10-5: the step to come. -/
inductive Handshake where | idle | train | hello | evidence | agree | confirm | resume
deriving DecidableEq, Repr

structure Port where
  state : PortState
  hs : Handshake
  /-- LANES of the codeword header: 0 all, 1 lower, 2 upper lanes. -/
  lanes : BitVec 3
  /-- Die halves that can carry lanes (lash port; both true otherwise). -/
  dieOk : Bool × Bool
  txKey : BitVec 256
  rxKey : BitVec 256
  /-- Own ephemeral key of the handshake, and its messages of steps 2 to 4: own, the peer's. -/
  ephemeral : BitVec 384
  transcript : List (List Byte × List Byte)
  /-- This end's message of the step that runs. -/
  sentStep : List Byte
  peer : Option Fp
  candidate : Option Fp
  /-- Next MSEQ to send, next expected. -/
  txMseq : BitVec 64
  rxMseq : BitVec 64
  txSeq : BitVec 12
  rxSeq : BitVec 12
  /-- Flits sent and not acknowledged, oldest first. -/
  unacked : List TxFlit
  /-- Messages sent and not acknowledged, and messages waiting for credits. -/
  sent : List Out
  queue : List Out
  /-- Credits held for the peer's buffers: VC × 2 + CLASS. -/
  credits : SMap Nat
  /-- Flits of each receive buffer that have been freed and not yet returned as credits. -/
  freed : SMap Nat
  /-- The flits that this port drove last. -/
  wire : List (BitVec 512)
  /-- SEQ named by a NAK flit that has come and is not yet answered. -/
  nakSeen : Option (BitVec 12)
  /-- A NAK is outstanding: flits are discarded. -/
  nak : Bool
  nakSent : Nat
  dozeOut : Bool
  dozeIn : Bool
  waking : Bool
  peerAsleep : Bool
  fails : Nat
  /-- Operating seconds of recent retrains and of the last tag failure. -/
  retrains : List Nat
  tagFail : Option Nat
  replaysMs : Nat
  offHold : Bool
  everActive : Bool
  /-- Bytes and buffer of the message being received. -/
  rxBytes : List Byte
  rxBuffer : BitVec 3
  rxMsgs : List RxMsg
  corrected : BitVec 64
  uncorrectable : BitVec 64
  crcFails : BitVec 64
  replays : BitVec 64
  retrainCount : BitVec 64
deriving DecidableEq, Repr

/-- A copy to or from a peer or the other half in progress: `flight` waits for it. Of a read, `left` is the bytes still to
come; of a write, the WRITE messages not yet answered. `data` holds what has come for a HOST destination, by place in the
descriptor's source stream; `again` the places that are read a second time (spec/09_memory.md R217). -/
structure Txn where
  txn : BitVec 12
  node : BitVec 14
  lash : Bool
  flight : Nat
  isRead : Bool
  left : Nat
  desc : BitVec 384
  data : List Host.Cell
  again : List Nat
deriving DecidableEq, Repr

structure Fabric where
  cfg : BitVec 128
  ports : List Port
  txns : List Txn
  nextTxn : BitVec 12
  /-- Round-robin turn of the VCs for each port. -/
  turn : SMap Nat
  /-- Bytes of the other half's tiers that this half's control processor has read, by module address: move lists, and what a seal covers. -/
  far : List Host.Cell
  /-- READ messages that wait until bytes that failed in staging here have been copied again: port and message. -/
  asked : List (Nat × Msg)
deriving DecidableEq, Repr

/-! ### Lashed pair -/

inductive Role where | solo | primary | secondary | stranded
deriving DecidableEq, Repr

/-- A command of the primary that waits for the other half: TT_ARM and RUN for its slot digests (spec/12_lashing.md R280), READ_STATE and
DEBUG_READ for what they read there, with the command's opcode and this half's own bytes. -/
inductive PairWait where
  | arm (q : Req) (slot : Bool) (entry : BitVec 32)
  | run (q : Req) (slot : Bool) (entry : BitVec 32) (steps : BitVec 64) (boost : BitVec 8)
  | read (q : Req) (opcode : Nat) (own : List Byte)
deriving DecidableEq, Repr

structure Pair where
  role : Role
  record : PairRecord
  recordOk : Bool
  keyEpoch : BitVec 64
  keyId : BitVec 64
  events : BitVec 64
  tail : BitVec 32
  peerRegions : BitVec 64
  /-- Regions of the other half that REGION_CTL FENCE fenced. -/
  ctlFenced : List Nat
  diverged : Bool
  /-- A lash bring-up has ended and the mirrored items are to be compared. -/
  compareDue : Bool
  /-- The rendezvous sent for the present row, and those received and not used, oldest first: slot and row. -/
  sent : Option (Bool × Nat)
  got : List (Bool × BitVec 14)
  /-- Shares received from the other half. -/
  shares : List PairShare
  /-- Digest of the image the other half has staged. -/
  peerImage : Option Digest
  /-- Commands that wait for the other half, oldest first. -/
  wait : List PairWait
deriving DecidableEq, Repr

/-- What manufacture leaves in the fuses and the boot ROM: the private half of the identity key, the certificate chain and the serial
number (spec/14_trust.md R324), SHA-384 of the boot ROM (Table 14-4) and Holtod's image-signing public key (R340). -/
structure Identity where
  priv : BitVec 384
  certificates : List Byte
  serial : List Byte
  romDigest : Digest
  holtodKey : Key
deriving DecidableEq, Repr

/-- The whole block. -/
structure State where
  identity : Identity
  pins : Pins
  power : Power
  thermal : Thermal
  regions : List Region
  mem : Mem
  seq : Seq
  job : Job
  reshard : Reshard
  gw : Gangway
  trust : Trust
  log : Recorder
  fab : Fabric
  pair : Pair
  /-- Spares that failed a test: row band × 24 + index (spec/17_modes_repair.md R395, R400). -/
  badSpares : List Nat
  /-- Draws of free values and random numbers so far (the model's own). -/
  free : Nat
  /-- The commands that are waiting, first in first out. -/
  pending : List Instr
deriving DecidableEq, Repr

/-! ### The module as it leaves manufacture -/

def Pins.reset : Pins :=
  { aux := false, mainEn := false, perstN := false, fullStrap := false, ownerPresentN := true, slotId := 7,
    fabricSenseN := 0x3F, lashSenseN := true, thermTripN := true, smbAlertN := true, pcieRef := true }

def Power.reset : Power :=
  { state := .standby, startup := 0, rails := false, mainHold := false, auxReady := false, railFaults := 0,
    lockout := .none, boostEn := true, sleepReq := false, dozeTarget := false, auxOrder := false, wakeReq := false }

def Thermal.reset : Thermal :=
  { tj := 0, inlet := 0, outlet := 0, flow := 0, inputW := 0, mainMv := 0, duty := 1000, integ := 0, loopOn := false,
    outletTarget := 0x370, dutyMin := 25, capW := 1500, creditMs := some 0, granted := false, cappedMs := 0, boostMs := 0,
    tp := 0, hot := false, tripped := false, grants := 0, revokes := 0, conds := [], tach := [], mainBand := 0, ran := false }

def Region.reset : Region :=
  { mode := .fenced .startup, clock := .gated, clkStep := 17, temp := 0, throttled := false, floorMs := 0, easing := false, sliver := [],
    coreParity := [], sliceParity := [], failing := [], pendingFence := none, retest := false }

def Mem.reset : Mem :=
  { tier := [], staging := [], slice := [], host := [], acc := [], table := [], tierBad := [], stagingBad := [], sliceBad := [],
    accBad := [], era := 0, keys := none, corrected := [], refetch := [] }

def Slot.empty : Slot := { state := .empty, rows := [], digest := 0, entry := 0, lowered := none }

def Seq.reset : Seq :=
  { slotA := Slot.empty, slotB := Slot.empty, slotGen := 0, run := none, held := [], flight := [], nextId := 0, loops := [],
    flags := [], a4 := [], hold := [], entryVerdict := none, watch := [], watchWait := [], calDrift := false, step := 0, remap := 0,
    issues := [], remapped := [], ledger := [], stallR := [], stallM := [], haltCause := 0, haltSlot := false, haltRow := 0,
    haltEntry := none, tiles := [], copies := [], relower := none }

def Job.none : Job :=
  { started := false, relaxed := false, seed := 0, ranks := 0, myRank := 0, rankTable := [], groups := [], homes := [],
    domain := 0, ferry := [], ferryNow := [], ferryRow := 0, contribs := [], early := [], arrivals := [], sums := [], notices := [] }

def JournalEntry.zero : JournalEntry :=
  { rid := 0, round := 0, state := 0, ttdig := 0, next := 0, slot := false, pcycle := 0, crc := 0 }

def Reshard.reset : Reshard :=
  { active := none, landed := [], vacate := [], incoming := [], pulled := [], prepared := false, ready := [],
    journalA := JournalEntry.zero, journalB := JournalEntry.zero, lastB := true, journals := [] }

def Gangway.reset : Gangway :=
  { linkUp := false, err := 0, enable := false, irqEn := false, sqBase := 0, sqSize := 0, sqTail := 0, sqHead := 0,
    cqBase := 0, cqSize := 0, cqHead := 0, cqTail := 0, phase := true, held := [], accepted := [], outstanding := 0,
    vec0 := 0, vec1 := 0, msix := [], windows := [], sessions := [], runstate := .starting, lowering := none, loadA := none,
    loadB := none, join := none, claimsHeld := [], resume := none, seals := none, image := none, lash := none, powerCmd := none,
    stopCmd := none, links := [], warmPending := false, hold := false, smb := none }

def Image.invalid : Image := { valid := false, version := 0, level := 0, digest := 0, header := [] }

/-- Image A as manufactured: its facts are Config's. -/
def Image.factory : Image :=
  { valid := true, version := Config.factoryVersion, level := 0, digest := Config.factoryDigest, header := [] }

def Trust.reset : Trust :=
  { lifecycle := .blank, ownerKey := 0, domain := 0, policy := 0, wrapKey := 0, debug := none, debugWait := none,
    rollback := 0, imageA := Image.factory, imageB := Image.invalid, running := false, flagged := false, unconfirmed := none, noImage := false,
    tamperLatch := 0, tamperNow := 0, tamperCount := 0, cellMv := 3000, cellLow := false, checkpoint := none,
    sealing := false, imageStaged := false }

def Recorder.reset : Recorder :=
  { ring := [], prot := [], nextSeq := 0, queue := [], protWait := [], markWait := [], loss := 0, lossFirst := none,
    lossLast := (0, 0), opSeconds := 0, powerCycles := 0, flashOp := 0, flashCycles := 0, sbArea := false, sbPtr := 0 }

def Port.reset : Port :=
  { state := .off, hs := .idle, lanes := 0, dieOk := (true, true), txKey := 0, rxKey := 0, ephemeral := 0, transcript := [], sentStep := [],
    peer := none, candidate := none, txMseq := 0, rxMseq := 0, txSeq := 0, rxSeq := 0, unacked := [], sent := [], queue := [],
    credits := [], freed := [], wire := [], nakSeen := none, nak := false, nakSent := 0, dozeOut := false, dozeIn := false, waking := false,
    peerAsleep := false, fails := 0, retrains := [], tagFail := none, replaysMs := 0, offHold := false, everActive := false,
    rxBytes := [], rxBuffer := 0, rxMsgs := [], corrected := 0, uncorrectable := 0, crcFails := 0,
    replays := 0, retrainCount := 0 }

def Fabric.reset : Fabric :=
  { cfg := 0, ports := List.replicate 7 Port.reset, txns := [], nextTxn := 0, turn := [], far := [], asked := [] }

def PairRecord.zero : PairRecord :=
  { epoch := 0, primaryFp := 0, secondaryFp := 0, ownerFp := 0, lashed := false }

def Pair.reset : Pair :=
  { role := .solo, record := PairRecord.zero, recordOk := true, keyEpoch := 0, keyId := 0, events := 0, tail := 0,
    peerRegions := 0, ctlFenced := [], diverged := false, compareDue := false, sent := none, got := [], shares := [], peerImage := none, wait := [] }

/-- The identity as manufactured: Config's (log entry 6). -/
def Identity.reset : Identity :=
  { priv := Config.identityPriv, certificates := Config.certificates, serial := Config.serial, romDigest := Config.romDigest,
    holtodKey := Config.holtodKey }

/-- The module as it leaves manufacture, before AUX: lifecycle BLANK, no record written, nothing in any memory. -/
def State.reset : State :=
  { identity := Identity.reset,
    pins := Pins.reset, power := Power.reset, thermal := Thermal.reset, regions := List.replicate 64 Region.reset,
    mem := Mem.reset, seq := Seq.reset, job := Job.none, reshard := Reshard.reset, gw := Gangway.reset,
    trust := Trust.reset, log := Recorder.reset, fab := Fabric.reset, pair := Pair.reset, badSpares := [], free := 0, pending := [] }

end Sys2Proof.Machine
end

