-- ==== Sys2Proof/Machine/Bits.lean ====
section
/-!
DEFINITION. Fields of words, little-endian byte strings (spec/00_scope.md R3), sparse maps and byte memories. A byte memory
is a list of cells with strictly rising addresses; an unlisted address has no value.
-/
namespace Sys2Proof.Machine

/-- Bits [lo + len − 1 : lo] of a number. -/
def fld (x lo len : Nat) : Nat := x / 2 ^ lo % 2 ^ len

/-- Bits [lo + len − 1 : lo] of a word. -/
def bits {n : Nat} (w : BitVec n) (lo len : Nat) : Nat := fld w.toNat lo len

/-- Bit i of a word. -/
def bitAt {n : Nat} (w : BitVec n) (i : Nat) : Bool := w.getLsbD i

/-- The two's complement value of the low w bits of v. -/
def signedOf (w v : Nat) : Int := if v % 2 ^ w < 2 ^ (w - 1) then (v % 2 ^ w : Nat) else (v % 2 ^ w : Nat) - (2 : Int) ^ w

/-- The low w bits of an integer. -/
def wrapInt (w : Nat) (x : Int) : Nat := (x % (2 : Int) ^ w).toNat

/-- n bytes of a number, least significant first. -/
def leBytes : Nat → Nat → List Byte
  | 0, _ => []
  | n + 1, v => BitVec.ofNat 8 v :: leBytes n (v / 256)

/-- The number that a byte string spells, least significant first. -/
def ofLe : List Byte → Nat
  | [] => 0
  | b :: r => b.toNat + 256 * ofLe r

/-- The bytes of a word whose width is a multiple of 8. -/
def wordBytes {n : Nat} (w : BitVec n) : List Byte := leBytes (n / 8) w.toNat

/-- A byte string as a word. -/
def bytesWord (n : Nat) (bs : List Byte) : BitVec n := BitVec.ofNat n (ofLe bs)

/-- The ASCII bytes of a string. -/
def ascii (s : String) : List Byte := s.toList.map (fun c => BitVec.ofNat 8 c.toNat)

def zeros (n : Nat) : List Byte := List.replicate n 0

def ceilDiv (a b : Nat) : Nat := (a + b - 1) / b

/-- Rounded up to a multiple of 16. -/
def up16 (n : Nat) : Nat := ceilDiv n 16 * 16

/-- A byte string padded with zeros to a multiple of 16 bytes. -/
def pad16 (bs : List Byte) : List Byte := bs ++ zeros (up16 bs.length - bs.length)

/-- A counter of w bits that saturates. -/
def satAdd {w : Nat} (a : BitVec w) (n : Nat) : BitVec w := BitVec.ofNat w (min (a.toNat + n) (2 ^ w - 1))

/-- Entry k of a list with a default. -/
def nth {α : Type} (l : List α) (k : Nat) (d : α) : α := l.getD k d

/-- The list with entry k changed. -/
def modifyAt {α : Type} (l : List α) (k : Nat) (f : α → α) : List α :=
  match l, k with
  | [], _ => []
  | x :: r, 0 => f x :: r
  | x :: r, k + 1 => x :: modifyAt r k f

/-! ### Sparse maps -/

/-- The value at an index, if one is listed. -/
def sget? {α : Type} : SMap α → Nat → Option α
  | [], _ => none
  | (j, v) :: r, k => if j = k then some v else sget? r k

def sget {α : Type} (m : SMap α) (k : Nat) (d : α) : α := (sget? m k).getD d

/-- The map with a value at an index; indices stay strictly rising. -/
def sput {α : Type} : SMap α → Nat → α → SMap α
  | [], k, v => [(k, v)]
  | (j, w) :: r, k, v =>
    if k < j then (k, v) :: (j, w) :: r
    else if k = j then (k, v) :: r
    else (j, w) :: sput r k v

/-- The map without an index. -/
def sdel {α : Type} (m : SMap α) (k : Nat) : SMap α := m.filter (fun p => p.1 != k)

/-- The map without the indices lo to hi − 1. -/
def sdelRange {α : Type} (m : SMap α) (lo hi : Nat) : SMap α := m.filter (fun p => p.1 < lo || hi ≤ p.1)

/-- Indices strictly rise. -/
def sorted {α : Type} : SMap α → Bool
  | [] => true
  | (j, _) :: r => (match r with | [] => true | (k, _) :: _ => decide (j < k)) && sorted r

/-! ### Byte memories -/

/-- The canonical form of a byte memory: addresses strictly rise (an unlisted address has no value, so no entry equals it). -/
def Memory.wf (m : List Host.Cell) : Bool := sorted m

/-- Write a byte string from an address upward. -/
def mwrite (m : List Host.Cell) (a : Nat) : List Byte → List Host.Cell
  | [] => m
  | b :: r => mwrite (sput m a b) (a + 1) r

/-- Read n bytes from an address upward; `undef` gives the byte of an unlisted address. -/
def mread (undef : Nat → Byte) (m : List Host.Cell) (a : Nat) : Nat → List Byte
  | 0 => []
  | n + 1 => sget m a (undef a) :: mread undef m (a + 1) n

/-- A list with an element, once. -/
def insertOnce {α : Type} [BEq α] (x : α) (l : List α) : List α := if l.contains x then l else l ++ [x]

end Sys2Proof.Machine
end

