-- ==== Sys2Proof/Machine/Sha384.lean ====
section
/-!
DEFINITION. SHA-384, and HMAC and HKDF over it (RFC 5869), as spec/14_trust.md R325, R326 and spec/02_formats.md R56 use them
(the functions are those of FIPS 180-4 and RFC 2104, which the spec names).
-/
namespace Sys2Proof.Machine

/-- Eight words packed in a number, the first lowest. -/
def Sha384.unpack (n : Nat) : List (BitVec 64) := (List.range 8).map (fun i => BitVec.ofNat 64 (n / 2 ^ (64 * i)))

/-- Round constants, eight to a number: of the i-th prime, the first 64 bits of the fraction of its cube root. -/
def Sha384.cubeRoots : List Nat :=
  [0xAB1C5ED5DA6D8118923F82A4AF194F9B59F111F1B605D0193956C25BF348B538E9B5DBA58189DBBCB5C0FBCFEC4D3B2F7137449123EF65CD428A2F98D728AE22,
   0xC19BF174CF6926949BDC06A725C7123580DEB1FE3B1696B172BE5D74F27B896F550C7DC3D5FFB4E2243185BE4EE4B28C12835B0145706FBED807AA98A3030242,
   0x76F988DA831153B55CB0A9DCBD41FBD44A7484AA6EA6E4832DE92C6F592B0275240CA1CC77AC9C650FC19DC68B8CD5B5EFBE4786384F25E3E49B69C19EF14AD2,
   0x142929670A0E6E7006CA6351E003826FD5A79147930AA725C6E00BF33DA88FC2BF597FC7BEEF0EE4B00327C898FB213FA831C66D2DB43210983E5152EE66DFAB,
   0x92722C851482353B81C2C92E47EDAEE6766A0ABB3C77B2A8650A73548BAF63DE53380D139D95B3DF4D2C6DFC5AC42AED2E1B21385C26C92627B70A8546D22FFC,
   0x106AA07032BBD1B8F40E35855771202AD69906245565A910D192E819D6EF5218C76C51A30654BE30C24B8B70D0F89791A81A664BBC423001A2BFE8A14CF10364,
   0x682E6FF3D6B2B8A35B9CCA4F7763E3734ED8AA4AE3418ACB391C0CB3C5C95A6334B0BCB5E19B48A82748774CDF8EEB991E376C085141AB5319A4C116B8D2D0C8,
   0xC67178F2E372532BBEF9A3F7B2C67915A4506CEBDE82BDE990BEFFFA23631E288CC702081A6439EC84C87814A1F0AB7278A5636F43172F60748F82EE5DEFB2FC,
   0x1B710B35131C471B113F9804BEF90DAE0A637DC5A2C898A606F067AA72176FBAF57D4F7FEE6ED178EADA7DD6CDE0EB1ED186B8C721C0C207CA273ECEEA26619C,
   0x6C44198C4A4758175FCB6FAB3AD6FAEC597F299CFC657E2A4CC5D4BECB3E42B6431D67C49C100D4C3C9EBE0A15C9BEBC32CAAB7B40C7249328DB77F523047D84]

def Sha384.k : List (BitVec 64) := Sha384.cubeRoots.flatMap Sha384.unpack

/-- The first hash value: the fractions of the square roots of the ninth to the sixteenth prime. -/
def Sha384.iv : List (BitVec 64) :=
  Sha384.unpack
    0x47B5481DBEFA4FA4DB0C2E0D64F98FA78EB44A876858151167332667FFC00B31152FECD8F70E59399159015A3070DD17629A292A367CD507CBBB9D5DC1059ED8

def Sha384.rotr (x : BitVec 64) (n : Nat) : BitVec 64 := BitVec.ofNat 64 (x.toNat / 2 ^ n + x.toNat * 2 ^ (64 - n))

/-- Exclusive or of rotations of a word. -/
def Sha384.mix (x : BitVec 64) (l : List Nat) : BitVec 64 := l.foldl (fun y n => y ^^^ Sha384.rotr x n) 0

/-- The working words as histories, newest first: `a` holds what the standard calls a, b, c, d, and `e` its e, f, g, h; `w` holds the sixteen
words of the schedule that come next, oldest first. -/
structure Sha384.Regs where
  a : List (BitVec 64)
  e : List (BitVec 64)
  w : List (BitVec 64)

/-- The word that the schedule goes on with. -/
def Sha384.nextWord (w : List (BitVec 64)) : BitVec 64 :=
  let near := nth w 1 0
  let far := nth w 14 0
  nth w 0 0 + nth w 9 0 + (Sha384.mix near [1, 8] ^^^ near >>> 7) + (Sha384.mix far [19, 61] ^^^ far >>> 6)

/-- One round with its constant. -/
def Sha384.turn (r : Sha384.Regs) (k : BitVec 64) : Sha384.Regs :=
  let x := nth r.e 0 0
  let y := nth r.a 0 0
  let choice := nth r.e 2 0 ^^^ (x &&& (nth r.e 1 0 ^^^ nth r.e 2 0))
  let vote := (y &&& (nth r.a 1 0 ||| nth r.a 2 0)) ||| (nth r.a 1 0 &&& nth r.a 2 0)
  let t := k + nth r.w 0 0 + nth r.e 3 0 + choice + Sha384.mix x [14, 18, 41]
  { a := (t + vote + Sha384.mix y [28, 34, 39]) :: r.a.take 3
    e := (nth r.a 3 0 + t) :: r.e.take 3
    w := r.w.drop 1 ++ [Sha384.nextWord r.w] }

/-- The eight-byte words of a block, most significant byte first. -/
def Sha384.load (bs : List Byte) : List (BitVec 64) :=
  (List.range 16).map (fun i => BitVec.ofNat 64 (ofLe ((bs.drop (8 * i)).take 8).reverse))

def Sha384.block (h : List (BitVec 64)) (bs : List Byte) : List (BitVec 64) :=
  let r := Sha384.k.foldl Sha384.turn { a := h.take 4, e := h.drop 4, w := Sha384.load bs }
  List.zipWith (fun x y => x + y) h (r.a ++ r.e)

def Sha384.blocks : Nat → List (BitVec 64) → List Byte → List (BitVec 64)
  | 0, h, _ => h
  | n + 1, h, bs => Sha384.blocks n (Sha384.block h (bs.take 128)) (bs.drop 128)

/-- The message padded to a multiple of 128 bytes. -/
def Sha384.padded (bs : List Byte) : List Byte :=
  bs ++ [0x80] ++ zeros ((239 - bs.length % 128) % 128) ++ (leBytes 16 (8 * bs.length)).reverse

/-- SHA-384 as 48 bytes. -/
def sha384 (bs : List Byte) : List Byte :=
  let p := Sha384.padded bs
  ((Sha384.blocks (p.length / 128) Sha384.iv p).take 6).flatMap (fun w => (wordBytes w).reverse)

/-- SHA-384 as a word, byte 0 least significant. -/
def sha384Word (bs : List Byte) : Digest := bytesWord 384 (sha384 bs)

def xorBytes (a b : List Byte) : List Byte := a.zipWith (· ^^^ ·) b

/-- HMAC with SHA-384. -/
def hmac (key msg : List Byte) : List Byte :=
  let k := if key.length ≤ 128 then key ++ zeros (128 - key.length) else sha384 key ++ zeros 80
  sha384 (k.map (· ^^^ 0x5c) ++ sha384 (k.map (· ^^^ 0x36) ++ msg))

/-- 32 bytes of HKDF with SHA-384 (spec/14_trust.md R326). -/
def hkdf (ikm salt info : List Byte) : BitVec 256 :=
  bytesWord 256 ((hmac (hmac salt ikm) (info ++ [1])).take 32)

/-- The first 16 bytes of SHA-384 over a public key (spec/14_trust.md R325). -/
def fingerprint (k : Key) : Fp := bytesWord 128 ((sha384 (wordBytes k)).take 16)

end Sys2Proof.Machine
end

