-- ==== Sys2Proof/Machine/Aes.lean ====
section
/-!
DEFINITION. AES with 128- and 256-bit keys, AES-256-GCM (spec/13_commands.md R299, spec/14_trust.md R332) and CRC-32C
(spec/10_fabric.md R223). The block cipher and the mode are those of FIPS 197 and SP 800-38D, which the spec names.
-/
namespace Sys2Proof.Machine

def Aes.sbox0 : List (Byte) :=
  [0x63, 0x7c, 0x77, 0x7b, 0xf2, 0x6b, 0x6f, 0xc5, 0x30, 0x01, 0x67, 0x2b, 0xfe, 0xd7, 0xab, 0x76,
   0xca, 0x82, 0xc9, 0x7d, 0xfa, 0x59, 0x47, 0xf0, 0xad, 0xd4, 0xa2, 0xaf, 0x9c, 0xa4, 0x72, 0xc0,
   0xb7, 0xfd, 0x93, 0x26, 0x36, 0x3f, 0xf7, 0xcc, 0x34, 0xa5, 0xe5, 0xf1, 0x71, 0xd8, 0x31, 0x15,
   0x04, 0xc7, 0x23, 0xc3, 0x18, 0x96, 0x05, 0x9a, 0x07, 0x12, 0x80, 0xe2, 0xeb, 0x27, 0xb2, 0x75]

def Aes.sbox1 : List (Byte) :=
  [0x09, 0x83, 0x2c, 0x1a, 0x1b, 0x6e, 0x5a, 0xa0, 0x52, 0x3b, 0xd6, 0xb3, 0x29, 0xe3, 0x2f, 0x84,
   0x53, 0xd1, 0x00, 0xed, 0x20, 0xfc, 0xb1, 0x5b, 0x6a, 0xcb, 0xbe, 0x39, 0x4a, 0x4c, 0x58, 0xcf,
   0xd0, 0xef, 0xaa, 0xfb, 0x43, 0x4d, 0x33, 0x85, 0x45, 0xf9, 0x02, 0x7f, 0x50, 0x3c, 0x9f, 0xa8,
   0x51, 0xa3, 0x40, 0x8f, 0x92, 0x9d, 0x38, 0xf5, 0xbc, 0xb6, 0xda, 0x21, 0x10, 0xff, 0xf3, 0xd2]

def Aes.sbox2 : List (Byte) :=
  [0xcd, 0x0c, 0x13, 0xec, 0x5f, 0x97, 0x44, 0x17, 0xc4, 0xa7, 0x7e, 0x3d, 0x64, 0x5d, 0x19, 0x73,
   0x60, 0x81, 0x4f, 0xdc, 0x22, 0x2a, 0x90, 0x88, 0x46, 0xee, 0xb8, 0x14, 0xde, 0x5e, 0x0b, 0xdb,
   0xe0, 0x32, 0x3a, 0x0a, 0x49, 0x06, 0x24, 0x5c, 0xc2, 0xd3, 0xac, 0x62, 0x91, 0x95, 0xe4, 0x79,
   0xe7, 0xc8, 0x37, 0x6d, 0x8d, 0xd5, 0x4e, 0xa9, 0x6c, 0x56, 0xf4, 0xea, 0x65, 0x7a, 0xae, 0x08]

def Aes.sbox3 : List (Byte) :=
  [0xba, 0x78, 0x25, 0x2e, 0x1c, 0xa6, 0xb4, 0xc6, 0xe8, 0xdd, 0x74, 0x1f, 0x4b, 0xbd, 0x8b, 0x8a,
   0x70, 0x3e, 0xb5, 0x66, 0x48, 0x03, 0xf6, 0x0e, 0x61, 0x35, 0x57, 0xb9, 0x86, 0xc1, 0x1d, 0x9e,
   0xe1, 0xf8, 0x98, 0x11, 0x69, 0xd9, 0x8e, 0x94, 0x9b, 0x1e, 0x87, 0xe9, 0xce, 0x55, 0x28, 0xdf,
   0x8c, 0xa1, 0x89, 0x0d, 0xbf, 0xe6, 0x42, 0x68, 0x41, 0x99, 0x2d, 0x0f, 0xb0, 0x54, 0xbb, 0x16]

def Aes.sbox : List Byte := Aes.sbox0 ++ Aes.sbox1 ++ Aes.sbox2 ++ Aes.sbox3

def Aes.sub (b : Byte) : Byte := nth Aes.sbox b.toNat 0

def Aes.xtime (b : Byte) : Byte := (b <<< 1) ^^^ (if b.getLsbD 7 then 0x1b else 0)

/-- The key schedule in 4-byte words, newest first; `n` more words, `i` the index of the next, `nk` words of key, `rcon` the
round constant. -/
def Aes.expand (nk : Nat) : Nat → Nat → Byte → List (List Byte) → List (List Byte)
  | 0, _, _, ws => ws
  | n + 1, i, rcon, ws =>
    let prev := nth ws 0 []
    let old := nth ws (nk - 1) []
    if i % nk = 0 then
      let r := (prev.drop 1 ++ prev.take 1).map Aes.sub
      let t := xorBytes r [rcon, 0, 0, 0]
      Aes.expand nk n (i + 1) (Aes.xtime rcon) (xorBytes old t :: ws)
    else if nk = 8 ∧ i % nk = 4 then
      Aes.expand nk n (i + 1) rcon (xorBytes old (prev.map Aes.sub) :: ws)
    else
      Aes.expand nk n (i + 1) rcon (xorBytes old prev :: ws)

def Aes.chunks4 : Nat → List Byte → List (List Byte)
  | 0, _ => []
  | n + 1, bs => bs.take 4 :: Aes.chunks4 n (bs.drop 4)

/-- Round keys, 16 bytes each, first round first; `nk` is 4 or 8. -/
def Aes.roundKeys (nk : Nat) (key : List Byte) : List Byte :=
  ((Aes.expand nk (4 * (nk + 7) - nk) nk 1 (Aes.chunks4 nk key).reverse).reverse).flatten

def Aes.shiftRows (s : List Byte) : List Byte :=
  (List.range 16).map (fun i => nth s ((i + 4 * (i % 4)) % 16) 0)

def Aes.mixColumn (c : List Byte) : List Byte :=
  match c with
  | [a, b, c, d] =>
    let x := a ^^^ b ^^^ c ^^^ d
    [a ^^^ x ^^^ Aes.xtime (a ^^^ b), b ^^^ x ^^^ Aes.xtime (b ^^^ c), c ^^^ x ^^^ Aes.xtime (c ^^^ d),
     d ^^^ x ^^^ Aes.xtime (d ^^^ a)]
  | _ => c

def Aes.rounds : Nat → List Byte → List Byte → List Byte
  | 0, s, ks => xorBytes (Aes.shiftRows (s.map Aes.sub)) (ks.take 16)
  | n + 1, s, ks =>
    let t := ((Aes.chunks4 4 (Aes.shiftRows (s.map Aes.sub))).map Aes.mixColumn).flatten
    Aes.rounds n (xorBytes t (ks.take 16)) (ks.drop 16)

/-- One block under round keys; `nk` is 4 (ten rounds) or 8 (fourteen). -/
def Aes.cipher (nk : Nat) (ks blk : List Byte) : List Byte :=
  Aes.rounds (nk + 5) (xorBytes blk (ks.take 16)) (ks.drop 16)

/-- AES-128 of one block. -/
def aes128 (key blk : List Byte) : List Byte := Aes.cipher 4 (Aes.roundKeys 4 key) blk

/-- Bits of a GCM block, most significant bit of byte 0 first. -/
def Gcm.toNat (blk : List Byte) : Nat := ofLe blk.reverse

def Gcm.ofNat (x : Nat) : List Byte := (leBytes 16 x).reverse

/-- Product in GF(2^128) of SP 800-38D: `n` bits of x left, taken from the top. -/
def Gcm.mul (x : Nat) : Nat → Nat → Nat → Nat
  | 0, _, z => z
  | n + 1, v, z =>
    let z' := if x.testBit n then z ^^^ v else z
    let v' := if v.testBit 0 then v / 2 ^^^ 0xe1000000000000000000000000000000 else v / 2
    Gcm.mul x n v' z'

def Gcm.ghash (h : Nat) : Nat → List Byte → Nat → Nat
  | 0, _, y => y
  | n + 1, bs, y => Gcm.ghash h n (bs.drop 16) (Gcm.mul (y ^^^ Gcm.toNat (bs.take 16)) 128 h 0)

/-- Counter-mode stream of n blocks from counter c. -/
def Gcm.stream (ks nonce : List Byte) : Nat → Nat → List Byte
  | 0, _ => []
  | n + 1, c => Aes.cipher 8 ks (nonce ++ (leBytes 4 c).reverse) ++ Gcm.stream ks nonce n (c + 1)

def Gcm.tag (ks nonce aad ct : List Byte) : List Byte :=
  let h := Gcm.toNat (Aes.cipher 8 ks (zeros 16))
  let data := pad16 aad ++ pad16 ct ++ (leBytes 8 (8 * aad.length)).reverse ++ (leBytes 8 (8 * ct.length)).reverse
  xorBytes (Gcm.ofNat (Gcm.ghash h (data.length / 16) data 0)) (Gcm.stream ks nonce 1 1)

/-- AES-256-GCM: ciphertext and tag of a plaintext. -/
def gcmSeal (key : BitVec 256) (nonce aad pt : List Byte) : List Byte × List Byte :=
  let ks := Aes.roundKeys 8 (wordBytes key)
  let ct := xorBytes pt (Gcm.stream ks nonce (ceilDiv pt.length 16) 2)
  (ct, Gcm.tag ks nonce aad ct)

/-- AES-256-GCM: the plaintext, if the tag verifies. -/
def gcmOpen (key : BitVec 256) (nonce aad ct tag : List Byte) : Option (List Byte) :=
  let ks := Aes.roundKeys 8 (wordBytes key)
  if Gcm.tag ks nonce aad ct = tag then some (xorBytes ct (Gcm.stream ks nonce (ceilDiv ct.length 16) 2)) else none

/-- Product of the tweak, a 128-bit little-endian value, and x (IEEE 1619). -/
def Xts.times (t : Nat) : Nat := if t.testBit 127 then 2 * t % 2 ^ 128 ^^^ 0x87 else 2 * t

/-- n blocks of a data unit under the data key's schedule, from the tweak of the first on. -/
def Xts.blocks (ks : List Byte) : Nat → Nat → List Byte → List Byte
  | 0, _, _ => []
  | n + 1, t, bs => xorBytes (Aes.cipher 8 ks (xorBytes (bs.take 16) (leBytes 16 t))) (leBytes 16 t) ++ Xts.blocks ks n (Xts.times t) (bs.drop 16)

/-- AES-256-XTS of a data unit of whole blocks: data key and tweak key, and the tweak value. -/
def xtsSeal (key : BitVec 256 × BitVec 256) (tweak : Nat) (bs : List Byte) : List Byte :=
  Xts.blocks (Aes.roundKeys 8 (wordBytes key.1)) (bs.length / 16)
    (ofLe (Aes.cipher 8 (Aes.roundKeys 8 (wordBytes key.2)) (leBytes 16 tweak))) bs

/-- One byte of a reflected CRC-32C. -/
def Crc.bit : Nat → Nat → Nat
  | 0, c => c
  | n + 1, c => Crc.bit n (if c.testBit 0 then c / 2 ^^^ 0x82F63B78 else c / 2)

/-- CRC-32C: polynomial 0x1EDC_6F41 reflected, initial value and final exclusive-or all ones (spec/10_fabric.md R223). -/
def crc32c (bs : List Byte) : BitVec 32 :=
  BitVec.ofNat 32 (bs.foldl (fun c b => Crc.bit 8 (c ^^^ b.toNat)) 0xFFFFFFFF ^^^ 0xFFFFFFFF)

end Sys2Proof.Machine
end

