-- ==== Sys2Proof/Machine/Float.lean ====
section
/-!
DEFINITION. Float arithmetic and conversions (spec/02_formats.md R35 to R54, spec/06_vector_engine.md R137), exact and
rounded once. A finite value is a sign and a number of units of 2^−149. An operation answers its word and the numeric flags
it raises (Table 02-5).
-/
namespace Sys2Proof.Machine

/-! ### Numeric flags, spec/02_formats.md Table 02-5 -/

def flagNanIn : BitVec 8 := 1
def flagInvalid : BitVec 8 := 2
def flagOverflow : BitVec 8 := 4
def flagScaleRange : BitVec 8 := 8
def flagSaturated : BitVec 8 := 16
def flagNanCode : BitVec 8 := 32
def flagFlat : BitVec 8 := 64
def flagBadTrit : BitVec 8 := 128

/-- A word and the flags raised in forming it. -/
abbrev Fr := F32 × BitVec 8

/-- A value that raises nothing. -/
def fr (x : F32) : Fr := (x, 0)

/-! ### Classes -/

/-- A float by class; `fin neg n` is ±n × 2^−149. -/
inductive Fl where
  | nan
  | inf (neg : Bool)
  | fin (neg : Bool) (n : Nat)
deriving DecidableEq, Repr

def qnan : F32 := 0x7FC00000

def infWord (neg : Bool) : F32 := if neg then 0xFF800000 else 0x7F800000

def signed32 (neg : Bool) (mag : Nat) : F32 := BitVec.ofNat 32 ((if neg then 2 ^ 31 else 0) + mag)

def fl (x : F32) : Fl :=
  let m := x.toNat % 2 ^ 31
  let neg := x.getLsbD 31
  let e := m / 2 ^ 23
  if e = 255 then (if m % 2 ^ 23 = 0 then .inf neg else .nan)
  else if e = 0 then .fin neg m
  else .fin neg ((2 ^ 23 + m % 2 ^ 23) * 2 ^ (e - 1))

/-- The value as a signed number of units; 0 for NaN and infinities. -/
def units (x : F32) : Int := match fl x with | .fin neg n => if neg then -(n : Int) else n | _ => 0

def isNan (x : F32) : Bool := decide (0x7F800000 < x.toNat % 2 ^ 31)

def isInf (x : F32) : Bool := decide (x.toNat % 2 ^ 31 = 0x7F800000)

def isZero (x : F32) : Bool := decide (x.toNat % 2 ^ 31 = 0)

def negF (x : F32) : F32 := x ^^^ 0x80000000

def absF (x : F32) : F32 := x &&& 0x7FFFFFFF

/-! ### Rounding -/

/-- num / den to the nearest integer, ties to even. -/
def rneDiv (num den : Nat) : Nat :=
  let q := num / den
  let r := num % den
  if den < 2 * r || (2 * r = den && q % 2 = 1) then q + 1 else q

/-- num / den to the nearest integer, ties away from zero. -/
def awayDiv (num den : Nat) : Nat := (2 * num + den) / (2 * den)

/-- The magnitude bits of a / d (d > 0) in a format of f fraction bits and smallest subnormal 2^umin, rounded to nearest with
ties to even, unbounded above (R35, R38). -/
def roundMag (f : Nat) (umin : Int) (a d : Nat) : Nat :=
  if a = 0 then 0 else
  let l0 : Int := (Nat.log2 a : Int) - Nat.log2 d
  let small := if 0 ≤ l0 then decide (a < d * 2 ^ l0.toNat) else decide (a * 2 ^ (-l0).toNat < d)
  let l := if small then l0 - 1 else l0
  let u := max (l - f) umin
  let q := if 0 ≤ u then rneDiv a (d * 2 ^ u.toNat) else rneDiv (a * 2 ^ (-u).toNat) d
  q + (u - umin).toNat * 2 ^ f

/-- spec/02_formats.md R38: rne_fp32 of ±a / d; OVERFLOW where a finite result rounds to infinity (R44). -/
def rneRat (neg : Bool) (a d : Nat) : Fr :=
  let m := roundMag 23 (-149) a d
  if 0x7F800000 ≤ m then (infWord neg, flagOverflow) else (signed32 neg m, 0)

/-- rne_fp32 of an integer number of units of 2^−k. -/
def rneScaled (x : Int) (k : Nat) : Fr := rneRat (decide (x < 0)) x.natAbs (2 ^ k)

/-- rne_fp32 of an integer; +0 for 0. -/
def rneInt (x : Int) : F32 := (rneScaled x 0).1

/-- spec/02_formats.md R37. -/
def rndAway (x : Int) (k : Nat) : Int :=
  if k = 0 then x
  else if 0 ≤ x then ((x.toNat + 2 ^ (k - 1)) / 2 ^ k : Nat)
  else -(((-x).toNat + 2 ^ (k - 1)) / 2 ^ k : Nat)

/-! ### Arithmetic, spec/02_formats.md R44 -/

def fadd (a b : F32) : Fr :=
  match fl a, fl b with
  | .nan, _ => (qnan, flagNanIn)
  | _, .nan => (qnan, flagNanIn)
  | .inf x, .inf y => if x = y then fr a else (qnan, flagInvalid)
  | .inf _, _ => fr a
  | _, .inf _ => fr b
  | .fin x m, .fin y n =>
    let s := units a + units b
    if s = 0 then fr (if m = 0 && n = 0 && x && y then 0x80000000 else 0) else rneScaled s 149

def fsub (a b : F32) : Fr := if isNan b then (qnan, flagNanIn) else fadd a (negF b)

def fmul (a b : F32) : Fr :=
  match fl a, fl b with
  | .nan, _ => (qnan, flagNanIn)
  | _, .nan => (qnan, flagNanIn)
  | .inf x, .inf y => fr (infWord (x != y))
  | .inf x, .fin y n => if n = 0 then (qnan, flagInvalid) else fr (infWord (x != y))
  | .fin x m, .inf y => if m = 0 then (qnan, flagInvalid) else fr (infWord (x != y))
  | .fin x m, .fin y n => rneRat (x != y) (m * n) (2 ^ 298)

/-- a × b + c, rounded once. -/
def ffma (a b c : F32) : Fr :=
  match fl a, fl b, fl c with
  | .nan, _, _ => (qnan, flagNanIn)
  | _, .nan, _ => (qnan, flagNanIn)
  | _, _, .nan => (qnan, flagNanIn)
  | .fin x m, .fin y n, .fin z k =>
    let p : Int := (if x != y then -1 else 1) * (m * n : Nat)
    let s := p + units c * 2 ^ 149
    if s = 0 then fr (if m * n = 0 && k = 0 && (x != y) && z then 0x80000000 else 0) else rneScaled s 298
  | .fin _ _, .fin _ _, .inf _ => fr c
  | _, _, _ =>
    let p := fmul a b
    if isNan p.1 then p else fadd p.1 c

/-! ### Division, square root, exponential, spec/06_vector_engine.md R137 -/

def fdiv (a b : F32) : Fr :=
  match fl a, fl b with
  | .nan, _ => (qnan, flagNanIn)
  | _, .nan => (qnan, flagNanIn)
  | .inf _, .inf _ => (qnan, flagInvalid)
  | .inf x, .fin y _ => fr (infWord (x != y))
  | .fin x _, .inf y => fr (signed32 (x != y) 0)
  | .fin x m, .fin y n =>
    if n = 0 then (if m = 0 then (qnan, flagInvalid) else (infWord (x != y), flagOverflow)) else rneRat (x != y) m n

/-- Integer square root by bits: the greatest r below 2^k + acc with r² ≤ v. -/
def isqrt (v : Nat) : Nat → Nat → Nat
  | 0, acc => acc
  | k + 1, acc =>
    let t := acc + 2 ^ k
    isqrt v k (if t * t ≤ v then t else acc)

def fsqrt (a : F32) : Fr :=
  match fl a with
  | .nan => (qnan, flagNanIn)
  | .inf neg => if neg then (qnan, flagInvalid) else fr a
  | .fin neg n =>
    if n = 0 then fr a
    else if neg then (qnan, flagInvalid)
    else
      let v := n * 2 ^ 81
      let s := isqrt v 180 0
      rneRat false (2 * s + (if s * s = v then 0 else 1)) (2 ^ 116)

/-- Σ y^k / k! in fixed point of w bits, truncated (`up` false) or rounded up at each term. -/
def expSeries (up : Bool) (w y : Nat) : Nat → Nat → Nat → Nat → Nat
  | 0, _, term, acc => acc + (if up then 2 * term + 1 else 0)
  | n + 1, k, term, acc =>
    let t := (term * y + (if up then k * 2 ^ w - 1 else 0)) / (k * 2 ^ w)
    expSeries up w y n (k + 1) t (acc + t)

/-- Squared n times in fixed point. -/
def squareTimes (up : Bool) (w : Nat) : Nat → Nat → Nat
  | 0, x => x
  | n + 1, x => squareTimes up w n ((x * x + (if up then 2 ^ w - 1 else 0)) / 2 ^ w)

/-- exp(n × 2^−149) for n < 128 × 2^149, as a lower or upper bound in fixed point of w bits. -/
def expBound (up : Bool) (w n : Nat) : Nat :=
  let y := (n * 2 ^ w + (if up then 2 ^ 157 - 1 else 0)) / 2 ^ 157
  squareTimes up w 8 (expSeries up w y 80 1 (2 ^ w) (2 ^ w))

/-- Round exp of ±n units with precision w, and with twice that while the bounds round apart. -/
def expRound (neg : Bool) (n : Nat) : Nat → Nat → Fr
  | 0, w => if neg then rneRat false (2 ^ w) (expBound false w n) else rneRat false (expBound false w n) (2 ^ w)
  | f + 1, w =>
    let lo := expBound false w n
    let hi := expBound true w n
    let a := if neg then rneRat false (2 ^ w) hi else rneRat false lo (2 ^ w)
    let b := if neg then rneRat false (2 ^ w) lo else rneRat false hi (2 ^ w)
    if a = b then a else expRound neg n f (2 * w)

def fexp (a : F32) : Fr :=
  match fl a with
  | .nan => (qnan, flagNanIn)
  | .inf neg => fr (if neg then 0 else a)
  | .fin neg n =>
    if n = 0 then fr 0x3F800000
    else if 112 * 2 ^ 149 ≤ n then (if neg then fr 0 else (infWord false, flagOverflow))
    else expRound neg n 3 320

/-! ### The same operations on values with flags -/

def Fr.add (a b : Fr) : Fr := let r := fadd a.1 b.1; (r.1, a.2 ||| b.2 ||| r.2)
def Fr.sub (a b : Fr) : Fr := let r := fsub a.1 b.1; (r.1, a.2 ||| b.2 ||| r.2)
def Fr.mul (a b : Fr) : Fr := let r := fmul a.1 b.1; (r.1, a.2 ||| b.2 ||| r.2)
def Fr.div (a b : Fr) : Fr := let r := fdiv a.1 b.1; (r.1, a.2 ||| b.2 ||| r.2)
def Fr.sqrt (a : Fr) : Fr := let r := fsqrt a.1; (r.1, a.2 ||| r.2)
def Fr.exp (a : Fr) : Fr := let r := fexp a.1; (r.1, a.2 ||| r.2)

/-! ### Comparison, maximum and minimum, spec/02_formats.md R48 to R50 -/

/-- Order key of a number: infinities beyond every finite value. -/
def fkey (x : F32) : Int :=
  match fl x with
  | .nan => 0
  | .inf neg => if neg then -(2 : Int) ^ 300 else 2 ^ 300
  | .fin neg n => if neg then -(n : Int) else n

def flt (a b : F32) : Bool := !isNan a && !isNan b && decide (fkey a < fkey b)

def fle (a b : F32) : Bool := !isNan a && !isNan b && decide (fkey a ≤ fkey b)

/-- max, or min: NaN by the region's assurance. -/
def fmaxmin (isMax proving : Bool) (a b : F32) : Fr :=
  match isNan a, isNan b with
  | true, true => (qnan, flagNanIn)
  | true, false => (if proving then qnan else b, flagNanIn)
  | false, true => (if proving then qnan else a, flagNanIn)
  | false, false =>
    if fkey a = 0 && fkey b = 0 then
      fr (if isMax then (if a = 0 || b = 0 then 0 else a) else (if a = 0 then b else a))
    else fr (if isMax == flt a b then b else a)

/-! ### Conversions, spec/02_formats.md Table 02-4 -/

/-- BF16 to FP32, exact; a NaN gives the canonical NaN and NAN_IN. -/
def ofBf16 (x : BitVec 16) : Fr :=
  let w := BitVec.ofNat 32 (x.toNat * 2 ^ 16)
  if isNan w then (qnan, flagNanIn) else fr w

/-- BF16 to FP32 without judging NaN: the raw word. -/
def bf16Word (x : BitVec 16) : F32 := BitVec.ofNat 32 (x.toNat * 2 ^ 16)

def ofFp16 (x : BitVec 16) : Fr :=
  let m := x.toNat % 2 ^ 15
  let neg := x.getLsbD 15
  let e := m / 2 ^ 10
  if e = 31 then (if m % 2 ^ 10 = 0 then fr (infWord neg) else (qnan, flagNanIn))
  else
    let n := if e = 0 then m else (2 ^ 10 + m % 2 ^ 10) * 2 ^ (e - 1)
    rneRat neg n (2 ^ 24)

/-- FP32 to a 16-bit float of f fraction bits: ties to even, saturating (R41); `maxf` the largest finite target, `wide`
that value as FP32 magnitude bits. -/
def narrow (f : Nat) (umin : Int) (maxf wide infb nanb : Nat) (x : F32) : BitVec 16 × BitVec 8 :=
  let sgn := if x.getLsbD 31 then 2 ^ 15 else 0
  match fl x with
  | .nan => (BitVec.ofNat 16 nanb, flagNanIn)
  | .inf _ => (BitVec.ofNat 16 (sgn + infb), 0)
  | .fin _ n =>
    if wide < x.toNat % 2 ^ 31 then (BitVec.ofNat 16 (sgn + maxf), flagSaturated)
    else (BitVec.ofNat 16 (sgn + roundMag f umin n (2 ^ 149)), 0)

def toBf16 (x : F32) : BitVec 16 × BitVec 8 := narrow 7 (-133) 0x7F7F 0x7F7F0000 0x7F80 0x7FC0 x

def toFp16 (x : F32) : BitVec 16 × BitVec 8 := narrow 10 (-24) 0x7BFF 0x477FE000 0x7C00 0x7E00 x

/-- spec/02_formats.md R54: FP32 to BF16, stochastically, with the element's 16-bit draw. -/
def toBf16Sr (x : F32) (r16 : Nat) : BitVec 16 × BitVec 8 :=
  match fl x with
  | .fin _ _ =>
    if 0x7F7F0000 < x.toNat % 2 ^ 31 then toBf16 x
    else (BitVec.ofNat 16 (x.toNat / 2 ^ 16 + (if r16 < x.toNat % 2 ^ 16 then 1 else 0)), 0)
  | _ => toBf16 x

/-- The outcome of quantising one element. -/
structure Coded where
  code : Int
  flags : BitVec 8
deriving DecidableEq, Repr

/-- A finite integer clipped to a code range. -/
def clipCode (q lo hi : Int) : Coded :=
  if hi < q then ⟨hi, flagSaturated⟩ else if q < lo then ⟨lo, flagSaturated⟩ else ⟨q, 0⟩

/-- Nearest integer to a finite FP32, ties away from zero. -/
def nearAway (y : F32) : Int :=
  let u := units y
  let m := awayDiv u.natAbs (2 ^ 149)
  if u < 0 then -(m : Int) else m

/-- spec/02_formats.md R39. -/
def quantise (y : F32) (lo hi : Int) : Coded :=
  match fl y with
  | .nan => ⟨0, flagNanCode⟩
  | .inf neg => ⟨if neg then lo else hi, flagSaturated⟩
  | .fin _ _ => clipCode (nearAway y) lo hi

/-- spec/02_formats.md R53: the stochastic rule with the element's 24-bit draw. -/
def quantiseSr (y : F32) (lo hi : Int) (r : Nat) : Coded :=
  match fl y with
  | .fin _ _ =>
    let u := units y
    let f := u / (2 : Int) ^ 149
    let frac := (u % (2 : Int) ^ 149).toNat
    clipCode (if r < frac * 2 ^ 24 / 2 ^ 149 then f + 1 else f) lo hi
  | _ => quantise y lo hi

/-! ### The scale product and the chain to acc, spec/02_formats.md R46, R47 -/

/-- s = W2 · A2 · 2^k. -/
def scaleProduct (w2 a2 : BitVec 16) (k : Nat) : Fr :=
  match fl (bf16Word w2), fl (bf16Word a2) with
  | .nan, _ => (qnan, flagNanIn)
  | _, .nan => (qnan, flagNanIn)
  | .inf x, .inf y => fr (infWord (x != y))
  | .inf x, .fin y n => if n = 0 then (qnan, flagInvalid) else fr (infWord (x != y))
  | .fin x m, .inf y => if m = 0 then (qnan, flagInvalid) else fr (infWord (x != y))
  | .fin x m, .fin y n =>
    let p := m * n * 2 ^ k
    let neg := x != y
    if 2 ^ 426 ≤ p then (infWord neg, flagScaleRange ||| flagOverflow)
    else if p ≠ 0 && p < 2 ^ 172 then (signed32 neg 0, flagScaleRange)
    else rneRat neg p (2 ^ 298)

/-- f = rne_fp32(rne_fp32(Z) · s). A NaN s has set its flag already; the chain sets NAN_IN for it again. -/
def chainF (z : Int) (s : F32) : Fr := fmul (rneInt z) s

end Sys2Proof.Machine
end

