-- ==== Sys2Proof/Machine/Codes.lean ====
section
/-!
DEFINITION. Status codes (spec/13_commands.md Table 13-11), record codes with their severity and region
(spec/15_recorder.md Table 15-4, spec/16_power.md Table 16-11) and stall causes (spec/07_timetable.md Table 07-10).
-/
namespace Sys2Proof.Machine

/-! ### Status codes -/

def Status.ok : BitVec 16 := 0x0000
def Status.sealedReply : BitVec 16 := 0x0001
def Status.badHeader : BitVec 16 := 0x0002
def Status.hostAccess : BitVec 16 := 0x0003
def Status.noSession : BitVec 16 := 0x0004
def Status.authFailed : BitVec 16 := 0x0005
def Status.replay : BitVec 16 := 0x0006
def Status.sessionClosed : BitVec 16 := 0x0007
def Status.sessionLimit : BitVec 16 := 0x0008
def Status.ownerAbsent : BitVec 16 := 0x0009
def Status.badOpcode : BitVec 16 := 0x000A
def Status.badField : BitVec 16 := 0x000B
def Status.wrongState : BitVec 16 := 0x000C
def Status.replyTooSmall : BitVec 16 := 0x000D
def Status.staleToken : BitVec 16 := 0x000E
def Status.warmReset : BitVec 16 := 0x000F
def Status.badImage : BitVec 16 := 0x0010
def Status.rollback : BitVec 16 := 0x0011
def Status.joinTimeout : BitVec 16 := 0x0012
def Status.planVersion : BitVec 16 := 0x0100
def Status.planTooLarge : BitVec 16 := 0x0101
def Status.notLowerable : BitVec 16 := 0x0102
def Status.generatorOverlap : BitVec 16 := 0x0103
def Status.regionFenced : BitVec 16 := 0x0104
def Status.haltedByRow : BitVec 16 := 0x0400
def Status.stopped : BitVec 16 := 0x0401
def Status.parityFault : BitVec 16 := 0x0402
def Status.staleShard : BitVec 16 := 0x0403
def Status.barrierTimeout : BitVec 16 := 0x0404
def Status.blobAuth : BitVec 16 := 0x0405
def Status.linkLost : BitVec 16 := 0x0406
def Status.noRoute : BitVec 16 := 0x0407
def Status.rankLost : BitVec 16 := 0x0408
def Status.peerHalted : BitVec 16 := 0x0409
def Status.collectiveMismatch : BitVec 16 := 0x040A
def Status.divergentCopies : BitVec 16 := 0x040B
def Status.lockstepLost : BitVec 16 := 0x040C
def Status.pairLost : BitVec 16 := 0x040D
def Status.pairRecordLost : BitVec 16 := 0x040E
def Status.thermalTrip : BitVec 16 := 0x040F
def Status.hostWindow : BitVec 16 := 0x0410
def Status.anchorInvalid : BitVec 16 := 0x0411
def Status.topologyMismatch : BitVec 16 := 0x0500
def Status.linkAuthFail : BitVec 16 := 0x0501
def Status.lashLinkFail : BitVec 16 := 0x0502
def Status.lashTimeout : BitVec 16 := 0x0503
def Status.pairMismatch : BitVec 16 := 0x0504

/-! ### Record codes -/

/-- A record code: source, code, severity, and P (held in the protected region). -/
structure RecCode where
  source : BitVec 16
  code : BitVec 16
  severity : BitVec 8
  prot : Bool
deriving DecidableEq, Repr

def Code.lost : RecCode := ⟨0x0001, 1, 2, false⟩
def Code.cleared : RecCode := ⟨0x0001, 2, 4, true⟩
def Code.logMark : RecCode := ⟨0x0001, 3, 0, false⟩
def Code.powerUp : RecCode := ⟨0x0001, 4, 0, false⟩
def Code.enrolled : RecCode := ⟨0x0002, 1, 4, true⟩
def Code.retired : RecCode := ⟨0x0002, 2, 4, true⟩
def Code.tamper : RecCode := ⟨0x0002, 3, 4, true⟩
def Code.policySet : RecCode := ⟨0x0002, 4, 1, true⟩
def Code.debugOpen : RecCode := ⟨0x0002, 5, 4, true⟩
def Code.debugClose : RecCode := ⟨0x0002, 6, 1, true⟩
def Code.cellLow : RecCode := ⟨0x0002, 7, 2, false⟩
def Code.gangwayAuth : RecCode := ⟨0x0002, 8, 2, false⟩
def Code.sealDone : RecCode := ⟨0x0002, 9, 0, false⟩
def Code.unsealDone : RecCode := ⟨0x0002, 10, 0, false⟩
def Code.unsealFail : RecCode := ⟨0x0002, 11, 3, false⟩
def Code.hostBlobAuth : RecCode := ⟨0x0002, 12, 3, false⟩
def Code.imageActivated : RecCode := ⟨0x0003, 1, 1, true⟩
def Code.imageRevert : RecCode := ⟨0x0003, 2, 2, true⟩
def Code.imageReject : RecCode := ⟨0x0003, 3, 2, false⟩
def Code.noImage : RecCode := ⟨0x0003, 4, 3, false⟩
def Code.timetableHalt : RecCode := ⟨0x0004, 1, 3, false⟩
def Code.barrierTimeout : RecCode := ⟨0x0004, 2, 3, false⟩
def Code.generatorOverlap : RecCode := ⟨0x0004, 3, 3, false⟩
def Code.generatorRemap : RecCode := ⟨0x0004, 4, 1, false⟩
def Code.determinismRelaxed : RecCode := ⟨0x0004, 5, 1, false⟩
def Code.calibrationDrift : RecCode := ⟨0x0004, 6, 2, false⟩
def Code.precisionChange : RecCode := ⟨0x0004, 7, 0, false⟩
def Code.regionFence : RecCode := ⟨0x0004, 8, 2, false⟩
def Code.staleShard : RecCode := ⟨0x0004, 9, 3, false⟩
def Code.anchorInvalid : RecCode := ⟨0x0004, 10, 3, false⟩
def Code.coreFenced : RecCode := ⟨0x0005, 1, 2, false⟩
def Code.spareExhausted : RecCode := ⟨0x0005, 2, 2, false⟩
def Code.accParity : RecCode := ⟨0x0005, 3, 3, false⟩
def Code.sliceParity : RecCode := ⟨0x0005, 4, 3, false⟩
def Code.selftestFail : RecCode := ⟨0x0005, 5, 2, false⟩
def Code.parityRefetch : RecCode := ⟨0x0006, 1, 1, false⟩
def Code.tierParity : RecCode := ⟨0x0006, 2, 3, false⟩
def Code.stagingParity : RecCode := ⟨0x0006, 3, 3, false⟩
def Code.hostWindow : RecCode := ⟨0x0006, 4, 3, false⟩
def Code.linkUp : RecCode := ⟨0x0007, 1, 0, false⟩
def Code.linkRetrain : RecCode := ⟨0x0007, 2, 1, false⟩
def Code.linkNarrow : RecCode := ⟨0x0007, 3, 2, false⟩
def Code.linkFenced : RecCode := ⟨0x0007, 4, 2, false⟩
def Code.linkProtocol : RecCode := ⟨0x0007, 5, 2, false⟩
def Code.linkAuthFail : RecCode := ⟨0x0007, 6, 2, false⟩
def Code.linkLost : RecCode := ⟨0x0007, 7, 3, false⟩
def Code.topologyMismatch : RecCode := ⟨0x0007, 8, 2, false⟩
def Code.noRoute : RecCode := ⟨0x0007, 9, 3, false⟩
def Code.rankLost : RecCode := ⟨0x0008, 1, 3, false⟩
def Code.peerHalted : RecCode := ⟨0x0008, 2, 3, false⟩
def Code.collectiveMismatch : RecCode := ⟨0x0008, 3, 3, false⟩
def Code.divergentCopies : RecCode := ⟨0x0008, 4, 3, false⟩
def Code.reshardCommit : RecCode := ⟨0x0008, 5, 0, false⟩
def Code.reshardRollback : RecCode := ⟨0x0008, 6, 1, false⟩
def Code.reshardVoid : RecCode := ⟨0x0008, 7, 2, false⟩
def Code.pairLashed : RecCode := ⟨0x0009, 1, 1, false⟩
def Code.pairUnlashed : RecCode := ⟨0x0009, 2, 1, false⟩
def Code.pairStranded : RecCode := ⟨0x0009, 3, 3, false⟩
def Code.pairRejoined : RecCode := ⟨0x0009, 4, 1, false⟩
def Code.pairMismatch : RecCode := ⟨0x0009, 5, 2, false⟩
def Code.pairRecordLost : RecCode := ⟨0x0009, 6, 3, false⟩
def Code.mirrorRepair : RecCode := ⟨0x0009, 7, 2, false⟩
def Code.lockstepLost : RecCode := ⟨0x0009, 8, 3, false⟩
def Code.lashNarrow : RecCode := ⟨0x0009, 9, 2, false⟩
def Code.thermalTrip : RecCode := ⟨0x000A, 1, 3, false⟩
def Code.railFault : RecCode := ⟨0x000A, 2, 3, false⟩
def Code.neighbourThrottle : RecCode := ⟨0x000A, 3, 1, false⟩
def Code.mainRange : RecCode := ⟨0x000A, 4, 2, false⟩
def Code.auxOrder : RecCode := ⟨0x000A, 5, 3, false⟩
def Code.clockFault : RecCode := ⟨0x000A, 6, 3, false⟩
def Code.hotThrottle : RecCode := ⟨0x000A, 7, 2, false⟩
def Code.flowLow : RecCode := ⟨0x000A, 8, 3, false⟩
def Code.coolantRange : RecCode := ⟨0x000A, 9, 2, false⟩
def Code.coolantSensor : RecCode := ⟨0x000A, 10, 3, false⟩

/-- Every code the EZ-1 writes (R363). -/
def Code.all : List RecCode :=
  [Code.lost, Code.cleared, Code.logMark, Code.powerUp] ++
  [Code.enrolled, Code.retired, Code.tamper, Code.policySet, Code.debugOpen, Code.debugClose, Code.cellLow,
   Code.gangwayAuth, Code.sealDone, Code.unsealDone, Code.unsealFail, Code.hostBlobAuth] ++
  [Code.imageActivated, Code.imageRevert, Code.imageReject, Code.noImage] ++
  [Code.timetableHalt, Code.barrierTimeout, Code.generatorOverlap, Code.generatorRemap, Code.determinismRelaxed,
   Code.calibrationDrift, Code.precisionChange, Code.regionFence, Code.staleShard, Code.anchorInvalid] ++
  [Code.coreFenced, Code.spareExhausted, Code.accParity, Code.sliceParity, Code.selftestFail] ++
  [Code.parityRefetch, Code.tierParity, Code.stagingParity, Code.hostWindow] ++
  [Code.linkUp, Code.linkRetrain, Code.linkNarrow, Code.linkFenced, Code.linkProtocol, Code.linkAuthFail,
   Code.linkLost, Code.topologyMismatch, Code.noRoute] ++
  [Code.rankLost, Code.peerHalted, Code.collectiveMismatch, Code.divergentCopies, Code.reshardCommit,
   Code.reshardRollback, Code.reshardVoid] ++
  [Code.pairLashed, Code.pairUnlashed, Code.pairStranded, Code.pairRejoined, Code.pairMismatch,
   Code.pairRecordLost, Code.mirrorRepair, Code.lockstepLost, Code.lashNarrow] ++
  [Code.thermalTrip, Code.railFault, Code.neighbourThrottle, Code.mainRange, Code.auxOrder, Code.clockFault,
   Code.hotThrottle, Code.flowLow, Code.coolantRange, Code.coolantSensor]

/-- Severity and region of a source and code. -/
def recInfo (source code : BitVec 16) : Option RecCode := Code.all.find? (fun c => c.source = source && c.code = code)

/-! ### Stall causes -/

def Cause.dataOrder : Cause := 0
def Cause.regionWake : Cause := 1
def Cause.tableBuild : Cause := 2
def Cause.rescale : Cause := 3
def Cause.accOrder : Cause := 4
def Cause.drain : Cause := 5
def Cause.bank : Cause := 6
def Cause.sliceBusy : Cause := 7
def Cause.thermal : Cause := 8
def Cause.nearTier : Cause := 9
def Cause.farTier : Cause := 10
def Cause.fabricCollective : Cause := 11
def Cause.fabricFerry : Cause := 12
def Cause.fabricCopy : Cause := 13
def Cause.host : Cause := 14
def Cause.watchWait : Cause := 15
def Cause.verdictWait : Cause := 16
def Cause.flagWait : Cause := 17
def Cause.barrier : Cause := 18
def Cause.issueDepth : Cause := 19
def Cause.refetch : Cause := 20
def Cause.linkWake : Cause := 21
def Cause.recorder : Cause := 22
def Cause.coreBusy : Cause := 23

/-- Charged to the regions of the held row (the others to the module). -/
def Cause.isRegion (c : Cause) : Bool := c ≤ 8 || c = 23

end Sys2Proof.Machine
end

