-- ==== Sys2Proof/Machine/Ops.lean ====
section
/-!
DEFINITION. The shared operations of the commands: outcome and vector 1, records, replies and completions, messages and
their routes, regions and cores, memories, halts and the end of a run.
-/
namespace Sys2Proof.Machine

/-! ### Status word, spec/13_commands.md Table 13-8 -/

def RunState.code : RunState → Nat
  | .starting => 0 | .ready => 1 | .job => 2 | .running => 3 | .halted => 4

def Lifecycle.code : Lifecycle → Nat
  | .blank => 0 | .enrolled => 1 | .erased => 2 | .retired => 3

def PowerState.code : PowerState → Nat
  | .standby => 0 | .sleep => 1 | .doze => 2 | .run => 3 | .boost => 4

def Role.code : Role → Nat
  | .solo => 0 | .primary => 1 | .secondary => 2 | .stranded => 3

/-- A region on the slipway (spec/17_modes_repair.md R390). -/
def Region.onSlipway (r : Region) : Bool := match r.mode with | .slipway _ => true | _ => false

def Region.inService (r : Region) : Bool := match r.mode with | .service => true | _ => false

/-- REGION-ON-SLIPWAY is a member. -/
def slipwayNow (s : State) : Bool := s.regions.any Region.onSlipway

/-- The maintenance set is empty (R390). -/
def maintNone (s : State) : Bool := !s.trust.sealing && s.reshard.active.isNone && !slipwayNow s && !s.trust.imageStaged

/-- MAINT: the member that comes first in the order of R390. -/
def maintCode (s : State) : Nat :=
  if s.trust.sealing then 4 else if s.reshard.active.isSome then 3 else if slipwayNow s then 2
  else if s.trust.imageStaged then 1 else 0

def b2n (b : Bool) : Nat := if b then 1 else 0

/-- GW_STATUS: bits [31:0] of GET_STATUS page 0. -/
def gwStatus (s : State) : BitVec 32 :=
  BitVec.ofNat 32 (s.gw.runstate.code + s.trust.lifecycle.code * 2 ^ 4 + s.power.state.code * 2 ^ 8 +
    s.pair.role.code * 2 ^ 11 + maintCode s * 2 ^ 13 + b2n (s.trust.debug).isSome * 2 ^ 16 + b2n s.job.relaxed * 2 ^ 17 +
    b2n s.seq.calDrift * 2 ^ 18 + b2n s.trust.cellLow * 2 ^ 19 + s.gw.sessions.length * 2 ^ 20)

/-- REGIONS: bit r is set while region r is in service. -/
def regionsWord (s : State) : BitVec 64 :=
  BitVec.ofNat 64 ((s.regions.mapIdx (fun i r => b2n r.inService * 2 ^ i)).sum)

/-- Vector 1, if IRQ_EN is set. -/
def raiseVec1 (s : State) : State := if s.gw.irqEn then { s with gw := { s.gw with vec1 := s.gw.vec1 + 1 } } else s

/-- The state after a command that took the block from s to t: a change of GW_STATUS raises vector 1
(spec/13_commands.md R294). -/
def settled (s t : State) : State := if gwStatus s = gwStatus t then t else raiseVec1 t

/-- The outcome of a command that took the block from s to t. -/
def done (s t : State) : Host.Outcome State Fault Refusal := .next (settled s t)

/-! ### Free values -/

/-- The next draw of the free-value counter. -/
def draw (s : State) : Nat × State := (s.free, { s with free := s.free + 1 })

/-! ### Records, spec/15_recorder.md -/

def Rec.isProt (r : Rec) : Bool := (recInfo r.source r.code).any RecCode.prot

/-- Entries of R357's queue in use: the record at the head is the one being written and holds none (log entry 78). -/
def Recorder.ordinary (l : Recorder) : Nat := ((l.queue.drop 1).filter (fun r => !r.isProt)).length

def Recorder.protQueued (l : Recorder) : Nat := ((l.queue.drop 1).filter Rec.isProt).length

/-- A record with its time fields taken now and its SEQUENCE yet to come. -/
def Recorder.stamp (l : Recorder) (c : RecCode) (flags : BitVec 8) (params : List Byte) : Rec :=
  { seq := 0, op := l.opSeconds, cycles := l.powerCycles, source := c.source, code := c.code, flags := flags,
    params := params.take 32 }

/-- The LOST record of R357 (parameters as the table of spec/15_recorder.md's last section). -/
def Recorder.lostRecord (l : Recorder) (flags : BitVec 8) : Rec :=
  let f := l.lossFirst.getD (l.stamp Code.lost 0 [])
  l.stamp Code.lost flags (leBytes 8 l.loss.toNat ++ leBytes 5 f.op.toNat ++ wordBytes f.source ++ wordBytes f.code ++
    wordBytes l.lossLast.1 ++ wordBytes l.lossLast.2)

/-- A waiting LOST record enters once an ordinary entry is free. -/
def Recorder.takeLost (l : Recorder) : Recorder :=
  if l.loss ≠ 0 && l.ordinary < 240 then
    { l with queue := l.queue ++ [l.lostRecord 0], loss := 0, lossFirst := none, lossLast := (0, 0) }
  else l

/-- spec/15_recorder.md R357: an event enters the queue, waits for a protected entry, or is lost. -/
def Recorder.push (l : Recorder) (r : Rec) : Recorder :=
  if r.isProt then
    if l.protQueued < 16 then { l with queue := l.queue ++ [r] } else { l with protWait := l.protWait ++ [r] }
  else
    let l := l.takeLost
    if l.ordinary < 240 then { l with queue := l.queue ++ [r] }
    else { l with loss := satAdd l.loss 1, lossFirst := some (l.lossFirst.getD r), lossLast := (r.source, r.code) }

/-- The event of a record of this half alone. -/
def record (c : RecCode) (params : List Byte) (s : State) : State :=
  { s with log := s.log.push (s.log.stamp c 0 params) }

/-- A pair event (spec/12_lashing.md R278, spec/15_recorder.md R359): the primary composes it, a solo or stranded half
writes it as its own, and the secondary waits for the primary's. -/
def pairEvent (c : RecCode) (params : List Byte) (s : State) : State :=
  match s.pair.role with
  | .secondary => s
  | .primary => { s with log := s.log.push (s.log.stamp c 1 params) }
  | _ => record c params s

/-! ### The record as bytes, spec/15_recorder.md Table 15-1 -/

def Rec.severity (r : Rec) : BitVec 8 := ((recInfo r.source r.code).map RecCode.severity).getD 0

def Rec.body (r : Rec) : List Byte :=
  wordBytes r.seq ++ leBytes 5 r.op.toNat ++ wordBytes r.cycles ++ wordBytes r.source ++ wordBytes r.code ++ [r.severity] ++
    [r.flags ||| (if r.isProt then 2 else 0)] ++ r.params ++ zeros (32 - r.params.length) ++ zeros 5

def Rec.bytes (r : Rec) : List Byte := r.body ++ wordBytes (crc32c r.body)

/-! ### Sessions, replies and completions, spec/13_commands.md -/

def session? (s : State) (sid : BitVec 3) : Option Session := s.gw.sessions.find? (fun x => x.sid = sid)

/-- A request of a session that has closed names none: number 0 is never a session's, so that the command completes with SESSION_CLOSED
even where the number has been given to a new session (R299, R302). -/
def orphanReq (sid : BitVec 3) (q : Req) : Req := if q.isSealed && q.sid = sid then { q with sid := 0 } else q

def PairWait.orphan (sid : BitVec 3) : PairWait → PairWait
  | .arm q b e => .arm (orphanReq sid q) b e
  | .run q b e n w => .run (orphanReq sid q) b e n w
  | .read q op own => .read (orphanReq sid q) op own

def PairWait.req : PairWait → Req
  | .arm q _ _ => q
  | .run q _ _ _ _ => q
  | .read q _ _ => q

/-- A notification of a closed session that is not yet posted. -/
def Completion.orphan (sid : BitVec 3) (c : Completion) : Completion :=
  if c.kind = 1 && c.raddr = BitVec.ofNat 64 sid.toNat then { c with raddr := 0 } else c

/-- Long commands that run, and what waits to be posted, of a session that closes. -/
def orphanRuns (sid : BitVec 3) (s : State) : State :=
  let f := orphanReq sid
  { s with
    seq := { s.seq with run := s.seq.run.map (fun r => { r with req := f r.req }) }
    gw := { s.gw with
      held := s.gw.held.map (Completion.orphan sid), accepted := s.gw.accepted.map (fun a => { a with closed := a.closed || (a.req.isSealed && a.req.sid = sid) }),
      lowering := s.gw.lowering.map (fun j => { j with req := f j.req }), loadA := s.gw.loadA.map (fun j => { j with req := f j.req }),
      loadB := s.gw.loadB.map (fun j => { j with req := f j.req }), join := s.gw.join.map (fun j => { j with req := f j.req }),
      resume := s.gw.resume.map (fun j => { j with req := f j.req }), seals := s.gw.seals.map (fun j => { j with req := f j.req }),
      image := s.gw.image.map (fun j => { j with req := f j.req }), lash := s.gw.lash.map (fun j => { j with req := f j.req }),
      powerCmd := s.gw.powerCmd.map (fun p => (f p.1, p.2)), stopCmd := s.gw.stopCmd.map f, links := s.gw.links.map (fun l => (l.1, f l.2)) }
    trust := { s.trust with debugWait := s.trust.debugWait.map (fun d => (d.1, d.2.1, d.2.2.1, d.2.2.2.map f)) }
    log := { s.log with markWait := s.log.markWait.map (fun m => (f m.1, m.2)) }
    pair := { s.pair with wait := s.pair.wait.map (PairWait.orphan sid) } }

def closeSession (sid : BitVec 3) (s : State) : State :=
  orphanRuns sid { s with gw := { s.gw with sessions := s.gw.sessions.filter (fun x => x.sid != sid) } }

/-- The request of a command that the primary's gangway carries (spec/12_lashing.md R274). -/
def farReq : Req := { tag := 0, isSealed := true, sid := 0, seq := 0, raddr := 0, rcap := 0 }

/-- The packet header of Table 13-5. -/
def packetHead (isSealed : Bool) (sid : BitVec 3) (opcode : BitVec 8) (length : Nat) (seq : BitVec 64) : List Byte :=
  leBytes 4 0x474E4147 ++ [if isSealed then 1 else 0, BitVec.ofNat 8 (if isSealed then sid.toNat else 0),
    if isSealed then 0 else opcode, 0] ++ leBytes 4 length ++ zeros 4 ++ leBytes 8 (if isSealed then seq.toNat else 0) ++ zeros 8

/-- The nonce of R299. -/
def packetNonce (seq : BitVec 64) (sid : BitVec 3) (dir : BitVec 8) : List Byte :=
  wordBytes seq ++ [BitVec.ofNat 8 sid.toNat, dir, 0, 0]

/-- The reply head of Table 13-6 with its payload. -/
def replyBody (status : BitVec 16) (detail : BitVec 64) (payload : List Byte) : List Byte :=
  wordBytes status ++ zeros 2 ++ leBytes 4 payload.length ++ wordBytes detail ++ payload

/-- A whole reply (R297, R299): clear, or sealed under the session's device-to-host key. -/
def replyPacket (s : State) (q : Req) (opcode : BitVec 8) (status : BitVec 16) (detail : BitVec 64) (payload : List Byte) :
    List Byte :=
  let body := pad16 (replyBody status detail payload)
  if q.isSealed then
    match session? s q.sid with
    | none => []
    | some ses =>
      let head := packetHead true q.sid 0 (32 + body.length + 16) q.seq
      let r := gcmSeal ses.d2h (packetNonce q.seq q.sid 1) head body
      head ++ r.1 ++ r.2
  else packetHead false 0 opcode (32 + body.length) 0 ++ body

/-- A completion waits to be posted. -/
def hold (c : Completion) (s : State) : State := { s with gw := { s.gw with held := s.gw.held ++ [c] } }

/-- A completion in the clear with no reply: the refusals of checks 1 to 4. -/
def completeClear (tag status : BitVec 16) (s : State) : State :=
  hold { tag := tag, kind := 0, status := status, raddr := 0, reply := [] } s

/-- A command's completion with its reply. A reply that does not fit RCAP leaves the status in the clear (R301); a command
whose session has closed completes with SESSION_CLOSED (log entry 24). -/
def completionOf (s : State) (q : Req) (opcode : BitVec 8) (status : BitVec 16) (detail : BitVec 64) (payload : List Byte) :
    Completion :=
  let p := replyPacket s q opcode status detail payload
  if p = [] then { tag := q.tag, kind := 0, status := Status.sessionClosed, raddr := 0, reply := [] }
  else if q.rcap.toNat < p.length then { tag := q.tag, kind := 0, status := status, raddr := 0, reply := [] }
  else { tag := q.tag, kind := 0, status := if q.isSealed then Status.sealedReply else status, raddr := q.raddr, reply := p }

def completeAs (q : Req) (opcode : BitVec 8) (status : BitVec 16) (detail : BitVec 64) (payload : List Byte) (s : State) : State :=
  hold (completionOf s q opcode status detail payload) s

def complete (q : Req) (opcode : BitVec 8) (payload : List Byte) (s : State) : State :=
  completeAs q opcode Status.ok 0 payload s

def refuse (q : Req) (opcode : BitVec 8) (status : BitVec 16) (s : State) : State := completeAs q opcode status 0 [] s

/-- DETAIL of a timetable refusal (Table 13-6): row, slot, and the second row of a GENERATOR_OVERLAP. -/
def rowDetail (slot : Bool) (row second : Nat) : BitVec 64 :=
  BitVec.ofNat 64 (row % 2 ^ 14 + b2n slot * 2 ^ 14 + second % 2 ^ 14 * 2 ^ 32)

/-- Byte offset of a parameter: as the spec lays out ENROL (spec/14_trust.md R323) and the fixed fields of JOB_START (Table 13-12), where
parameters are numbered in order; of other commands it gives no layout (log entry 17). -/
def paramOffset (opcode : BitVec 8) (param : Nat) : BitVec 32 :=
  match opcode.toNat, param with
  | 0x10, 0 => 0 | 0x10, 1 => 96 | 0x10, 2 => 128
  | 0x35, 0 => 0 | 0x35, 1 => 32 | 0x35, 2 => 33 | 0x35, 3 => 34 | 0x35, 4 => 36 | 0x35, 5 => 38 | 0x35, 6 => 40 | 0x35, 7 => 42 | 0x35, 8 => 44
  | _, _ => Config.paramOffset opcode param

/-- DETAIL of BAD_FIELD in a packet. -/
def fieldDetail (opcode : BitVec 8) (param : Nat) : BitVec 64 := BitVec.ofNat 64 ((paramOffset opcode param).toNat + 2 ^ 63)

def refuseField (q : Req) (opcode : BitVec 8) (param : Nat) (s : State) : State :=
  completeAs q opcode Status.badField (fieldDetail opcode param) [] s

/-- Fetched commands that checks 1 to 6 have refused complete once those before them have (R315). -/
def passRefused (s : State) : State :=
  let gone := s.gw.accepted.takeWhile (fun a => a.refused.isSome)
  { s with gw := { s.gw with held := s.gw.held ++ gone.filterMap Accepted.refused, accepted := s.gw.accepted.drop gone.length } }

/-- The command that starts next, if one has been fetched. -/
def nextAccepted (s : State) : Option Accepted := (s.gw.accepted.dropWhile (fun a => a.refused.isSome)).head?

/-- A command that is not long has started and not completed (R315): a LOG_MARK without an entry, a DEBUG_OPEN before its boundary, or one
that waits for the other half (in SLEEP those wait for the wake, and others start). -/
def shortRuns (s : State) : Bool :=
  !s.log.markWait.isEmpty || s.trust.debugWait.any (fun d => d.2.2.2.isSome) || (!s.pair.wait.isEmpty && s.power.state != .sleep)

/-- A command starts: it leaves the accepted list, or counts as fetched now (R315). -/
def start (_q : Req) (s : State) : State :=
  let s := passRefused s
  if s.gw.accepted.isEmpty then { s with gw := { s.gw with outstanding := s.gw.outstanding + 1 } }
  else { s with gw := { s.gw with accepted := s.gw.accepted.drop 1 } }

/-! ### Cores, regions and their places, spec/01_module.md R9 to R11 -/

def regionDie (r : Nat) : Nat := r / 16
def regionBandRow (r : Nat) : Nat := r % 16 / 4
def regionBandCol (r : Nat) : Nat := r % 4

/-- The row band of a region, 0 to 15: die × 4 + band row. -/
def rowBand (r : Nat) : Nat := r / 4

/-- Logical row and column of core k of a region within its die. -/
def coreRow (r k : Nat) : Nat := regionBandRow r * 12 + k / 12
def coreCol (r k : Nat) : Nat := regionBandCol r * 12 + k % 12

/-- The 3-byte core parameter of a record (spec/15_recorder.md Table 15-3). -/
def coreParam (r k : Nat) : List Byte :=
  [BitVec.ofNat 8 (regionDie r), BitVec.ofNat 8 (coreRow r k), BitVec.ofNat 8 (coreCol r k)]

/-- spec/16_power.md R376. -/
def adjacent (a b : Nat) : Bool :=
  regionDie a = regionDie b &&
    ((regionBandRow a = regionBandRow b && (regionBandCol a + 1 = regionBandCol b || regionBandCol b + 1 = regionBandCol a)) ||
      (regionBandCol a = regionBandCol b && (regionBandRow a + 1 = regionBandRow b || regionBandRow b + 1 = regionBandRow a)))

def region (s : State) (r : Nat) : Region := nth s.regions r Region.reset

def onRegion (r : Nat) (f : Region → Region) (s : State) : State := { s with regions := modifyAt s.regions r f }

def onRegions (f : Nat → Region → Region) (s : State) : State := { s with regions := s.regions.mapIdx f }

/-- The physical core a logical core is mapped to (R163): own cores 0 to 9,215, then the spares of each row band. -/
def physCore (s : State) (r k : Nat) : Nat :=
  match sget? (region s r).sliver k with
  | some idx => 9216 + rowBand r * 24 + idx
  | none => r * 144 + k

/-- Spares of a row band in service. -/
def sparesUsed (s : State) (band : Nat) : List Nat :=
  (List.range 4).flatMap (fun j => (region s (band * 4 + j)).sliver.map Prod.snd)

/-- The number a record gives a region: half × 64 + region in a pair (spec/12_lashing.md R273). -/
def regionParam (s : State) (r : Nat) : List Byte :=
  [BitVec.ofNat 8 (r + (if s.pair.role = .secondary then 64 else 0))]

/-- This half's number (spec/12_lashing.md R273). -/
def myHalf (s : State) : Nat := b2n (decide (s.pair.role = .secondary))

/-- A command that uses regions wakes the module from DOZE (spec/13_commands.md R304). -/
def wakeDoze (s : State) : State := if s.power.state = .doze then { s with power := { s.power with state := .run } } else s

/-- Regions named by a 64-bit set, ascending. -/
def setList (w : Nat) : List Nat := (List.range 64).filter (fun r => w / 2 ^ r % 2 = 1)

/-! ### Memories -/

def stagingKey (core addr : Nat) : Nat := core * 2 ^ 18 + addr
def sliceKey (r addr : Nat) : Nat := r * 2 ^ 22 + addr

/-- A memory space: 0 tier, 1 staging, 2 slice SRAM, 3 host. -/
abbrev Space := Nat

def Mem.cells (m : Mem) : Space → List Host.Cell
  | 0 => m.tier
  | 1 => m.staging
  | 2 => m.slice
  | _ => m.host

def readMem (s : State) (sp : Space) (key n : Nat) : List Byte :=
  mread (Config.undefByte sp s.mem.era) (s.mem.cells sp) key n

/-- A write of n bytes at a touches unit k of u bytes. -/
def touches (u a n k : Nat) : Bool := decide (0 < n) && decide (a / u ≤ k) && decide (k ≤ (a + n - 1) / u)

/-- Write bytes; the units written have good parity again. -/
def writeMem (sp : Space) (key : Nat) (bs : List Byte) (s : State) : State :=
  match sp with
  | 0 => { s with mem := { s.mem with tier := mwrite s.mem.tier key bs, tierBad := s.mem.tierBad.filter (fun p => !touches 256 key bs.length p.1) } }
  | 1 => { s with mem := { s.mem with staging := mwrite s.mem.staging key bs,
                                      stagingBad := s.mem.stagingBad.filter (fun p => !touches 16 key bs.length p.1) } }
  | 2 => { s with mem := { s.mem with slice := mwrite s.mem.slice key bs, sliceBad := s.mem.sliceBad.filter (fun k => !touches 16 key bs.length k) } }
  | _ => { s with mem := { s.mem with host := mwrite s.mem.host key bs } }

/-- Contents of a region's staging, slice SRAM and accumulators are lost. -/
def loseRegion (r : Nat) (s : State) : State :=
  let cores := (List.range 144).map (physCore s r)
  { s with mem := { s.mem with
      staging := s.mem.staging.filter (fun c => !cores.contains (c.1 / 2 ^ 18)),
      slice := s.mem.slice.filter (fun c => c.1 / 2 ^ 22 != r),
      acc := s.mem.acc.filter (fun c => !cores.contains (c.1 / (2 * 48 * 512))),
      table := s.mem.table.filter (fun c => !cores.contains c.1),
      era := s.mem.era + 1 } }

/-- Accumulator contents become undefined (spec/05_accumulators.md R122). -/
def loseAcc (s : State) : State := { s with mem := { s.mem with acc := [], accBad := [], era := s.mem.era + 1 } }

/-! ### Messages and routes, spec/10_fabric.md R232 to R235 -/

def myNode (s : State) : BitVec 14 := BitVec.ofNat 14 (bits s.fab.cfg 16 14)

def portEnabled (s : State) (p : Nat) : Bool := bitAt s.fab.cfg (32 + p)

/-- Size of dimension k. -/
def dimSize (cfg : BitVec 128) (k : Nat) : Nat := 2 ^ bits cfg (3 * k) 3

/-- Coordinate k of a node identity (R233). -/
def coord (node : BitVec 14) (k : Nat) : Nat := if k = 2 then bits node 10 4 else bits node (5 * k) 5

/-- The node identity of the neighbour at a fabric port (Table 10-1). -/
def neighbour (cfg : BitVec 128) (node : BitVec 14) (p : Nat) : BitVec 14 :=
  let step (k : Nat) : Nat :=
    let n := dimSize cfg k
    if p % 3 = k then (coord node k + (if p < 3 then 1 else n - 1)) % n else coord node k
  BitVec.ofNat 14 (step 0 + step 1 * 2 ^ 5 + step 2 * 2 ^ 10)

/-- R235: FENCED, or OFF with a sleep notice from its peer. -/
def unavailable (p : Port) : Bool := p.state = .fenced || (p.state = .off && p.peerAsleep)

def port (s : State) (p : Nat) : Port := nth s.fab.ports p Port.reset

def onPort (p : Nat) (f : Port → Port) (s : State) : State :=
  { s with fab := { s.fab with ports := modifyAt s.fab.ports p f } }

/-- R234: the shorter direction in a ring of n from a to b, positive on a tie. -/
def shorterPositive (n a b : Nat) : Bool := (b + n - a) % n ≤ (a + n - b) % n

/-- A hop: its port, dateline class, and whether the message has reversed in this dimension. -/
structure Hop where
  port : Nat
  cls : Bool
  reversed : Bool
deriving DecidableEq, Repr

/-- The next hop of a message from src to dst standing at this node, arrived through a port or made here (R234, R235):
the direction in a dimension is the one it entered with, unless it has reversed. -/
def nextHop (s : State) (src dst : BitVec 14) (arrived : Option Nat) : Option Hop :=
  let me := myNode s
  match (List.range 3).find? (fun k => coord me k != coord dst k) with
  | none => none
  | some k =>
    let n := dimSize s.fab.cfg k
    let init := shorterPositive n (coord src k) (coord dst k)
    let pos := match arrived with | some p => if p < 6 && p % 3 = k then decide (3 ≤ p) else init | none => init
    let rev := pos != init
    let nxt := (coord me k + (if pos then 1 else n - 1)) % n
    let wrapped := if pos then decide (nxt < coord src k) else decide (coord src k < nxt)
    let p := if pos then k else k + 3
    let o := if pos then k + 3 else k
    if !unavailable (port s p) then some ⟨p, rev || wrapped, rev⟩
    else if rev then none
    else if !unavailable (port s o) then some ⟨o, true, true⟩
    else none

/-- Payload bytes of a message (Table 10-3); where the spec gives no layout, the length of its data (log entry 18). -/
def bodyLen : Body → Nat
  | .copy m => m.payload.length
  | .collect c => c.data.length
  | .ferry f => f.data.length
  | .admission a => 16 * a.refused.length
  | .claims c => 16 * c.length
  | _ => 16

/-- Messages that a body takes, each of at most 3,072 payload bytes, and the payload bytes of the k-th (R225). -/
def bodyParts (b : Body) : Nat := max 1 (ceilDiv (bodyLen b) 3072)
def bodyPartLen (b : Body) (k : Nat) : Nat := up16 (min 3072 (bodyLen b - 3072 * k))

/-- OP of Table 10-3. -/
def bodyOp : Body → Nat
  | .copy m => m.op.toNat
  | .collect _ => 0x10
  | .ferry _ => 0x20
  | .admission _ => 0x20
  | .ferryDone _ _ => 0x20
  | _ => 0x30

/-- Payload of the k-th message: the data where the body is data, free bytes elsewhere. -/
def bodyPayload (b : Body) (k : Nat) : List Byte :=
  match b with
  | .copy m => m.payload
  | .collect c => (c.data.drop (3072 * k)).take 3072
  | .ferry f => (f.data.drop (3072 * k)).take 3072
  | _ => (List.range (bodyPartLen b k)).map (fun i => Config.bodyByte b (3072 * k + i))

/-- R225: flits of a message of n payload bytes. -/
def flitsFor (n : Nat) : Nat := ceilDiv (32 + n) 52

def Out.flits (o : Out) : Nat := flitsFor (bodyPartLen o.body o.part)

/-- The message header of Table 10-3. -/
def msgHeader (dst src : BitVec 14) (half op len txn addr ctx : Nat) : List Byte :=
  leBytes 16 (dst.toNat + src.toNat * 2 ^ 16 + half * 2 ^ 30 + op * 2 ^ 32 + len * 2 ^ 40 + txn * 2 ^ 52 + addr * 2 ^ 64 + ctx * 2 ^ 106)

def msgHead (m : Msg) : List Byte :=
  msgHeader m.dst m.src m.half.toNat m.op.toNat (up16 m.payload.length) m.txn.toNat m.addr.toNat m.ctx.toNat

/-- Header, payload and padding of a message, as it is encrypted. -/
def Out.text (me : BitVec 14) (o : Out) : List Byte :=
  let h := match o.body with
    | .copy m => msgHead m
    | b => msgHeader o.dst me 0 (bodyOp b) (bodyPartLen b o.part) 0 (Config.bodyHead b).1.toNat (Config.bodyHead b).2.toNat
  let t := h ++ bodyPayload o.body o.part
  t ++ zeros (52 * o.flits - 16 - t.length)

/-- R226: nonce and additional data of a message. -/
def msgNonce (mseq : BitVec 64) : List Byte := leBytes 8 mseq.toNat ++ zeros 4
def msgAad (vc flits : Nat) : List Byte := leBytes 1 vc ++ leBytes 1 flits

/-- A message joins the queue of its port. -/
def enqueue (h : Hop) (dst : BitVec 14) (vc : Fin 4) (flight : Option Nat) (b : Body) (s : State) : State :=
  onPort h.port (fun p => { p with queue := p.queue ++
    [{ dst := dst, vc := vc, cls := h.cls, reversed := h.reversed, part := 0, mseq := 0, flight := flight, body := b }] }) s

/-- The buffers of messages are free again, and their flits are owed as credits. -/
def freeMsgs (p : Nat) (l : List RxMsg) (s : State) : State :=
  onPort p (fun q => { q with freed := l.foldl (fun m x => sput m x.buffer.toNat (sget m x.buffer.toNat 0 + x.flits)) q.freed }) s

/-- Early contributions of a kind leave their buffers. -/
def dropEarly (gone : CollectMsg → Bool) (s : State) : State :=
  (s.job.early.filter (fun e => gone e.msg)).foldl (fun s e => freeMsgs e.port e.held s)
    { s with job := { s.job with early := s.job.early.filter (fun e => !gone e.msg) } }

/-! ### Flits sent, R222 to R224 -/

/-- Credits that the next flit returns: buffer and count, at most 255. -/
def creditBack (q : Port) : Nat × Nat := ((q.freed.find? (fun c => c.2 != 0)).map (fun c => (c.1, min c.2 255))).getD (0, 0)

/-- A flit: link header with the acknowledgement and the credits, 52 payload bytes, CRC. `head` is TYPE, VC, CLASS, SOM, EOM and SEQ. -/
def makeFlit (q : Port) (head : Nat) (payload : List Byte) : BitVec 512 :=
  let c := creditBack q
  let b := leBytes 8 (head + (q.rxSeq - 1).toNat * 2 ^ 24 + c.1 * 2 ^ 36 + c.2 * 2 ^ 40) ++ payload.take 52 ++ zeros (52 - payload.length)
  bytesWord 512 (b ++ wordBytes (crc32c b))

/-- A flit goes out: its credits are returned. -/
def driveFlit (head : Nat) (payload : List Byte) (q : Port) : Port :=
  let c := creditBack q
  { q with wire := q.wire ++ [makeFlit q head payload], freed := sput q.freed c.1 (sget q.freed c.1 0 - c.2) }

/-- A DATA or LINKCTL flit takes the next SEQ and joins the replay buffer. -/
def replayFlit (head : Nat) (ends : Option (BitVec 64)) (payload : List Byte) (q : Port) : Port :=
  let h := head + q.txSeq.toNat * 2 ^ 12
  { driveFlit h payload q with
    txSeq := q.txSeq + 1, unacked := q.unacked ++ [{ seq := q.txSeq, ends := ends, resent := 0, flit := makeFlit q h payload }] }

/-- A LINKCTL message in as many flits as it takes. -/
def sendCtl (bs : List Byte) (q : Port) : Port :=
  (List.range (max 1 (ceilDiv bs.length 52))).foldl (fun q k => replayFlit 4 none (bs.drop (52 * k)) q) { q with wire := [] }

/-- Send a notice of a loss, which is dropped where it has no route either (the member it would tell is lost already). -/
def sendNotice (dst : BitVec 14) (b : Body) (s : State) : State :=
  match nextHop s (myNode s) dst none with
  | none => s
  | some h => enqueue h dst 3 none b s

/-- Rank table entry (spec/11_collectives.md Table 11-1). -/
def rankEntry (s : State) (rank : Nat) : BitVec 64 := nth s.job.rankTable rank 0
def rankNode (e : BitVec 64) : BitVec 14 := BitVec.ofNat 14 (bits e 0 14)
def rankPresent (e : BitVec 64) : Bool := bitAt e 14
def rankPair (e : BitVec 64) : Bool := bitAt e 15
def rankStandIn (e : BitVec 64) : Nat := bits e 32 16

/-- Ranks of a group in canonical order; group 0 is every rank. -/
def groupRanks (s : State) (g : Nat) : List Nat :=
  if g = 0 then List.range s.job.ranks else sget s.job.groups g []

/-- The entry names a node. -/
def entryHas (e : BitVec 64) (n : BitVec 14) : Bool := rankNode e = n || (rankPair e && bits e 16 14 = n.toNat)

/-- Present members of a group other than this module. -/
def otherMembers (s : State) (g : Nat) : List Nat :=
  (groupRanks s g).filter (fun r => r != s.job.myRank && rankPresent (rankEntry s r))

/-- A CONTROL message to every other present member of a group. -/
def tellGroup (g : Nat) (b : Body) (s : State) : State :=
  (otherMembers s g).foldl (fun s r => sendNotice (rankNode (rankEntry s r)) b s) s

/-- The port that a route from here names first. -/
def firstPort (s : State) (dst : BitVec 14) : Nat :=
  let k := ((List.range 3).find? (fun k => coord (myNode s) k != coord dst k)).getD 0
  if shorterPositive (dimSize s.fab.cfg k) (coord (myNode s) k) (coord dst k) then k else k + 3

/-- HALTED to the other members; one without a route is lost (spec/10_fabric.md R235; spec/11_collectives.md R245). -/
def tellHalted (cause : BitVec 16) (s : State) : State :=
  let gone := (otherMembers s 0).filter (fun r => (nextHop s (myNode s) (rankNode (rankEntry s r)) none).isNone)
  gone.foldl (fun s r =>
    let n := rankNode (rankEntry s r)
    tellGroup 0 (.lost r n) (record Code.noRoute (leBytes 2 n.toNat ++ leBytes 1 (firstPort s n)) s))
    (tellGroup 0 (.halted s.job.myRank (myNode s) cause) s)

/-- The lash port carries messages: a pair with its port up. -/
def lashUp (s : State) : Bool :=
  (s.pair.role = .primary || s.pair.role = .secondary) && ((port s 6).state = .active || (port s 6).state = .doze)

/-- A message to the other half of a pair on a VC; it waits where the lash port retrains (spec/10_fabric.md R239). -/
def enqueueLash (vc : Fin 4) (flight : Option Nat) (b : Body) (s : State) : State :=
  if s.pair.role = .primary || s.pair.role = .secondary then enqueue ⟨6, false, false⟩ (myNode s) vc flight b s else s

/-- A message to the other half, on CONTROL. -/
def sendLash (b : Body) (s : State) : State := enqueueLash 3 none b s

/-! ### Slots and runs, spec/07_timetable.md -/

def slotOf (s : State) (b : Bool) : Slot := if b then s.seq.slotB else s.seq.slotA

def onSlot (b : Bool) (f : Slot → Slot) (s : State) : State :=
  if b then { s with seq := { s.seq with slotB := f s.seq.slotB } } else { s with seq := { s.seq with slotA := f s.seq.slotA } }

def slotByte (b : Bool) : List Byte := [if b then 1 else 0]

/-- R180: SHA-384 over N as 4 bytes and the rows. -/
def slotDigest (rows : List Row) : Digest := sha384Word (leBytes 4 rows.length ++ rows.flatMap wordBytes)

def rowAt (s : State) (slot : Bool) (k : Nat) : Row := nth (slotOf s slot).rows k 0

def SlotState.code : SlotState → Nat
  | .empty => 0 | .loaded => 1 | .armed => 2 | .active => 3

/-- A slot's digest item (spec/12_lashing.md Table 12-3). -/
def Slot.item (sl : Slot) : SlotItem := { state := BitVec.ofNat 2 sl.state.code, rows := sl.rows, digest := sl.digest }

/-- What a half shows of the log tail and of its slots. -/
def mirrored (s : State) (tail slots : Bool) : Mirrored :=
  { tail := if tail then some (s.pair.events, s.pair.tail) else none
    slots := if slots then some (s.seq.slotGen, s.seq.slotA.item, s.seq.slotB.item) else none }

/-- A command of the primary waits until the slot digests have been compared (spec/12_lashing.md R280). -/
def compareFirst (w : PairWait) (s : State) : State :=
  sendLash (.forward (.compare (mirrored s false true) none)) { s with pair := { s.pair with wait := s.pair.wait ++ [w] } }

/-- Fields of a row. -/
def rowKind (w : Row) : Nat := bits w 0 4
def rowFreg (w : Row) : Nat := bits w 8 4
def rowGap (w : Row) : Nat := bits w 16 16
def rowHalves (w : Row) : Nat := bits w 32 2
def rowLayer (w : Row) : Nat := bits w 48 16
def rowRset (w : Row) : Nat := bits w 64 64

/-- A boundary that would not act (the end of the run) lets waiting requests act at once. -/
def sleepKeeps (s : State) : State :=
  { s with mem := { s.mem with staging := [], slice := [], acc := [], table := [], stagingBad := [], sliceBad := [], accBad := [],
                                era := s.mem.era + 1 } }

/-- A port goes OFF. -/
def Port.off (p : Port) : Port :=
  { p with state := if p.state = .fenced then .fenced else .off, hs := .idle, txKey := 0, rxKey := 0, ephemeral := 0,
           transcript := [], sentStep := [], txSeq := 0, rxSeq := 0, unacked := [], credits := [], freed := [], nakSeen := none, nak := false,
           dozeOut := false, dozeIn := false, waking := false, rxBytes := [] }

/-- OFF with a sleep notice to the peer (spec/10_fabric.md R238). -/
def Port.offNotice (p : Port) : Port := (if p.state = .active then sendCtl Config.sleepBytes p else p).off

/-- The ports of a module that enters SLEEP: the lash port sends its notice from doze too (spec/12_lashing.md R277). -/
def sleepPort (k : Nat) (p : Port) : Port := if k = 6 && p.state = .doze then (sendCtl Config.sleepBytes p).off else p.offNotice

/-- spec/16_power.md R379: the module enters SLEEP. -/
def enterSleep (s : State) : State :=
  let s := sleepKeeps s
  let s := onRegions (fun _ r => { r with clock := .gated }) s
  { s with power := { s.power with state := .sleep, sleepReq := false },
           fab := { s.fab with ports := s.fab.ports.mapIdx sleepPort } }

/-- A POWER command in progress completes with the state reached (R311). -/
def completePower (s : State) : State :=
  match s.gw.powerCmd with
  | none => s
  | some (q, _) =>
    complete q 0x60 [BitVec.ofNat 8 s.power.state.code] { s with gw := { s.gw with powerCmd := none } }

/-- RUN's payload of R309: step number, slot, row, CODE. -/
def runPayload (s : State) (slot : Bool) (row : Nat) (code : BitVec 16) : List Byte :=
  leBytes 8 s.seq.step.toNat ++ slotByte slot ++ leBytes 2 row ++ wordBytes code

/-- STOP completes after the RUN it stops (R310). -/
def completeStop (s : State) : State :=
  match s.gw.stopCmd with
  | none => s
  | some q => complete q 0x37 [] { s with gw := { s.gw with stopCmd := none } }

/-- DEBUG-OPEN begins (spec/14_trust.md R344): record DEBUG_OPEN with EXPIRY and OWNER_FP, and the command's reply. -/
def enterDebug (expiry : BitVec 32) (sid : BitVec 3) (fp : Fp) (q : Option Req) (s : State) : State :=
  let s := record Code.debugOpen (wordBytes expiry ++ wordBytes fp)
    { s with trust := { s.trust with debug := some (expiry, sid), debugWait := none } }
  match q with
  | some r => complete r 0x70 (wordBytes expiry ++ [1]) s
  | none => s

/-- A DEBUG-OPEN that waited for the boundary. -/
def serveDebug (s : State) : State :=
  match s.trust.debugWait with
  | none => s
  | some (e, sid, fp, q) => enterDebug e sid fp q s

/-- An activation starts (spec/14_trust.md R343): the staged image is flagged active, and the hold of spec/13_commands.md R318 begins. -/
def beginActivate (j : ImageJob) (s : State) : State :=
  { s with gw := { s.gw with image := some { j with started := true }, hold := true }, trust := { s.trust with flagged := !s.trust.running } }

/-- An activation that waits for the boundary starts. -/
def serveActivate (s : State) : State :=
  match s.gw.image with
  | some j => if j.activate && !j.started then beginActivate j s else s
  | none => s

/-- Requests that wait for a boundary act at once when the run is over; a warm reset comes before a SLEEP request, which it ends
(spec/17_modes_repair.md R393). -/
def boundaryRequests (s : State) : State :=
  let s := serveActivate (serveDebug s)
  if s.power.sleepReq && !s.gw.warmPending then completePower (enterSleep s) else s

/-- A coolant condition or temperature that withholds credit is in force (spec/16_power.md Table 16-8, R384). -/
def withheld (s : State) : Bool :=
  s.thermal.hot || s.thermal.tripped || s.thermal.conds.any (fun c => c.active && c.cond != .inletLow)

def creditGranted (s : State) : Bool := s.thermal.granted && !withheld s

/-- spec/16_power.md R383: credit is granted and boost is allowed. -/
def boostNow (s : State) : Bool :=
  creditGranted s && s.power.boostEn && s.seq.run.any (fun r => r.boost && !r.asleep)

/-- The module goes between RUN and BOOST; at the end of boost, regions step down to 850 MHz. -/
def settleBoost (s : State) : State :=
  match s.power.state with
  | .run => if boostNow s then { s with power := { s.power with state := .boost } } else s
  | .boost =>
    if boostNow s then s
    else onRegions (fun _ r => { r with clkStep := min r.clkStep 17 }) { s with power := { s.power with state := .run } }
  | _ => s

/-! ### Fences and returns of regions, spec/17_modes_repair.md R401 to R403 -/

/-- Slot and row at which issue stops: the first row of the path that has not issued. -/
def stopRow (s : State) (r : ActiveRun) : Nat := match s.seq.held with | h :: _ => h.row | [] => r.next

/-- Row positions in REGION_FENCE: where issue stopped, or where the last halt did without a run. -/
def fencePlace (s : State) : List Byte :=
  match s.seq.run with
  | some r => slotByte r.slot ++ leBytes 2 (stopRow s r)
  | none => slotByte s.seq.haltSlot ++ leBytes 2 s.seq.haltRow.toNat

/-- A region goes on the slipway: REGIONS, REGION-ON-SLIPWAY, REGION_FENCE, and a retest unless the owner fenced it. The
other half hears of it; `cuts` where the fence abandons the step. -/
def fenceMark (r : Nat) (cause : FenceCause) (cuts : Bool) (s : State) : State :=
  let place := fencePlace s
  let s := onRegion r (fun g => { g with mode := .slipway cause, pendingFence := none, retest := cause ≠ .command,
                                         clock := if cause = .command then .gated else .waking }) s
  let s := record Code.regionFence (regionParam s r ++ place) s
  sendLash (.forward (.regions (regionsWord s) cuts)) s

/-- A region whose retest has passed and that waits for the boundary (R403). -/
def Region.returning (r : Region) : Bool :=
  match r.mode with | .slipway c => decide (c ≠ .command) && !r.retest | _ => false

/-- Regions that passed their retest enter SERVICE (R403). -/
def returnRegions (s : State) : State :=
  if s.regions.any Region.returning then
    let s := onRegions (fun _ g => if g.returning then { g with mode := .service } else g) s
    sendLash (.forward (.regions (regionsWord s) false)) s
  else s

/-- Fences that waited for the boundary act at once when no run is active. -/
def idleFences (s : State) : State :=
  (List.range 64).foldl (fun s r => match (region s r).pendingFence with | some c => fenceMark r c false s | none => s) s

/-- spec/16_power.md Table 16-6: not RUNNING and no region clocked is DOZE. -/
def settleDoze (s : State) : State :=
  if s.power.state = .run && s.gw.runstate != .running && s.gw.runstate != .starting && s.regions.all (fun g => g.clock = .gated) then
    { s with power := { s.power with state := .doze } }
  else s

/-- A row names region r of half h (spec/07_timetable.md R159). -/
def rowNames (w : Row) (h r : Nat) : Bool := fld (rowHalves w) h 1 = 1 && fld (rowRset w) r 1 = 1

/-- Region r of half h is named by a row of a slot. -/
def slotNamesOf (s : State) (b : Bool) (h r : Nat) : Bool := (slotOf s b).rows.any (fun w => rowNames w h r)

/-- The region of this half is named by a row of a slot. -/
def slotNames (s : State) (b : Bool) (r : Nat) : Bool := slotNamesOf s b (myHalf s) r

/-- A slot that LOWER wrote names a region that is about to go on the slipway for want of spares: its timetable is lowered again
(spec/01_module.md R12; DESIGN CHOICE of the slot and the moment, log entry 88). -/
def noteRelower (b : Bool) (s : State) : State :=
  if (slotOf s b).lowered.isSome && (List.range 64).any (fun r => decide ((region s r).pendingFence = some .spares) && slotNames s b r) then
    { s with seq := { s.seq with relower := some b } }
  else s

/-- The active run is over: its slot is LOADED, RUN and STOP complete; a run of the other half's gangway completes there. -/
def closeRun (r : ActiveRun) (slot : Bool) (row : Nat) (status code : BitVec 16) (s : State) : State :=
  let s := noteRelower r.slot s
  let s := onSlot r.slot (fun sl => { sl with state := .loaded }) s
  let s := settleBoost { s with seq := { s.seq with run := none, held := [] } }
  let s := settleDoze (returnRegions (idleFences s))
  let s := if r.req = farReq then s else completeAs r.req 0x36 status 0 (runPayload s slot row code) s
  boundaryRequests (completeStop s)

/-! ### The step starts again, spec/17_modes_repair.md R399, R402 -/

def Watch.zero : Watch :=
  { elements := 0, saturated := 0, nans := 0, flat := 0, err := 0, energy := 0, rejects := 0, drift := false, tensor := 0,
    limit := 0 }

/-- Entries are cleared to zero, keeping each DRIFT bit. -/
def clearWatch (s : State) : State :=
  { s with seq := { s.seq with watchWait := [],
                               watch := (s.seq.watch.filter (fun p => p.2.drift)).map (fun p => (p.1, ({ Watch.zero with drift := true } : Watch))) } }

/-- R399: the sequencer state of the step returns to its start; with the entry verdicts where the run repeats that step. -/
def restoreStep (verdicts : Bool) (s : State) : State :=
  let s := clearWatch s
  let s := { s with seq := { s.seq with flags := [], loops := [], ledger := [], issues := [], tiles := [], held := [] } }
  match s.seq.entryVerdict with
  | some v => if verdicts then { s with seq := { s.seq with a4 := v.1, hold := v.2 } } else s
  | none => s

/-- The run begins the step again at a row of a slot. -/
def restartNow (slot : Bool) (row : Nat) (s : State) : State :=
  let s := restoreStep true s
  { s with seq := { s.seq with run := s.seq.run.map (fun r => { r with
      slot := slot, next := row, stepEntry := row, committed := false, abandoning := none, restartAt := none, waitCause := none }) }
           pair := { s.pair with sent := none, got := [], shares := [] } }

/-- The attempt at the present step (R402). -/
def attemptNow (s : State) : Nat := (s.seq.run.map ActiveRun.attempt).getD 0

/-- Another attempt at the step: what earlier attempts have left is discarded. -/
def setAttempt (n : Nat) (s : State) : State :=
  let s := dropEarly (fun m => decide (m.attempt < n)) s
  { s with seq := { s.seq with run := s.seq.run.map (fun r => { r with attempt := n }) }
           job := { s.job with contribs := s.job.contribs.filter (fun m => n ≤ m.attempt),
                               arrivals := s.job.arrivals.filter (fun a => n ≤ a.2.2.2), sums := s.job.sums.filter (fun x => n ≤ x.1),
                               ferryNow := s.job.ferryNow.filter (fun p => n * 256 ≤ p.1) } }

/-- Issued rows that wait for another module or half are stopped (log entry 19), and what they had asked for is dropped. -/
def cutWaits (s : State) : State :=
  let keep := s.seq.flight.filter (fun f => f.stage = .done || f.stage = .drain)
  { s with seq := { s.seq with flight := keep }
           fab := { s.fab with txns := s.fab.txns.filter (fun t => keep.any (fun f => f.id = t.flight)) } }

/-! ### Halts, spec/07_timetable.md R174 -/

/-- The halt is complete: no row is in flight (R174), and peers are told (spec/11_collectives.md R245). -/
def finishHalt (r : ActiveRun) (h : Halt) (s : State) : State :=
  let s := dropEarly (fun _ => true) s
  let s := { s with seq := { s.seq with haltCause := h.cause, haltSlot := h.slot, haltRow := BitVec.ofNat 14 h.row,
                                         haltEntry := some (r.slot, r.stepEntry), tiles := [] },
                    job := { s.job with contribs := [], arrivals := [], sums := [], ferryNow := [] },
                    gw := { s.gw with runstate := .halted } }
  let s := loseAcc s
  let s := closeRun r h.slot h.row h.cause h.code s
  tellHalted h.cause s

/-- A halt or a restart in progress takes place when no row is in flight. -/
def settleHalt (s : State) : State :=
  match s.seq.run with
  | none => s
  | some r =>
    if s.seq.flight ≠ [] then s
    else match r.halting, r.restartAt with
      | some h, _ => finishHalt r h s
      | none, some t => restartNow t.1 t.2 s
      | none, none => s

/-- spec/07_timetable.md R174: a halt for a cause; `row` where a row caused it. Rows that wait for another module or half
are stopped where `cuts` says that the fault has stopped them (log entry 19). The other half of a pair hears of it. A
second halt changes nothing. -/
def haltWith (cause code : BitVec 16) (row : Option Nat) (cuts : Bool) (s : State) : State :=
  match s.seq.run with
  | none => s
  | some r =>
    if r.halting.isSome then
      if cuts then settleHalt (cutWaits s) else s
    else
      let h : Halt := { cause := cause, slot := r.slot, row := row.getD (stopRow s r), code := code }
      let s := if cuts then cutWaits s else s
      let s := sendLash (.halted s.job.myRank (myNode s) cause) s
      settleHalt { s with seq := { s.seq with run := some { r with halting := some h, abandoning := none, restartAt := none }, held := [] } }

def halt (cause : BitVec 16) (s : State) : State := haltWith cause 0 none false s

def haltAt (cause : BitVec 16) (row : Nat) (s : State) : State := haltWith cause 0 (some row) false s

/-- A PARITY_FAULT halt names a core; a core named twice within 24 operating hours is failing
(spec/17_modes_repair.md R400). -/
def nameCore (r k : Nat) (s : State) : State :=
  let now := s.log.opSeconds.toNat
  let again := (region s r).coreParity.any (fun p => p.1 = k && now ≤ p.2 + 86400)
  onRegion r (fun g => { g with coreParity := g.coreParity ++ [(k, now)],
                                failing := if again then insertOnce k g.failing else g.failing }) s

/-- A halt for the loss of a peer or partner. -/
def haltPeer (cause : BitVec 16) (s : State) : State := haltWith cause 0 none true s

/-- A message has no route: the record, the halt, and the LOST notice (spec/10_fabric.md R235, spec/11_collectives.md R245).
Members of the job are named by their position in group 0. -/
def noRouteHere (dst : BitVec 14) (p : Nat) (s : State) : State :=
  let s := record Code.noRoute (leBytes 2 dst.toNat ++ leBytes 1 p) s
  let s := match (List.range s.job.ranks).find? (fun r => entryHas (rankEntry s r) dst && rankPresent (rankEntry s r)) with
    | some r => tellGroup 0 (.lost r dst) s
    | none => s
  haltPeer Status.noRoute s

/-- Send a message of a row or a reply. -/
def send (dst : BitVec 14) (vc : Fin 4) (flight : Option Nat) (b : Body) (s : State) : State :=
  match nextHop s (myNode s) dst none with
  | some h => enqueue h dst vc flight b s
  | none => if dst = myNode s then s else noRouteHere dst (firstPort s dst) s

/-- A CONTROL message to every other present member of a group; a member without a route is lost (spec/10_fabric.md R235). -/
def sendAll (g : Nat) (b : Body) (s : State) : State :=
  (otherMembers s g).foldl (fun s r => send (rankNode (rankEntry s r)) 3 none b s) s

/-! ### Stall ledger, spec/07_timetable.md R183 -/

def addCount (m : SMap (BitVec 64)) (k n : Nat) : SMap (BitVec 64) :=
  if n = 0 then m else sput m k (satAdd (sget m k 0) n)

def chargeModule (c : Cause) (ns : Nat) (s : State) : State :=
  { s with seq := { s.seq with stallM := addCount s.seq.stallM c ns } }

/-- Nanoseconds as cycles of a region's clock: 50 MHz a step. -/
def cyclesOf (r : Region) (ns : Nat) : Nat := ns * r.clkStep / 20

/-- Cycles of a region counter, charged while the region is clocked. -/
def chargeRegionCycles (c : Cause) (r cycles : Nat) (s : State) : State :=
  if (region s r).clock = .ready then { s with seq := { s.seq with stallR := addCount s.seq.stallR (r * 32 + c) cycles } } else s

/-- A wait of ns nanoseconds of a row with region set rset. -/
def charge (c : Cause) (rset ns : Nat) (s : State) : State :=
  if c.isRegion then
    if rset = 0 then chargeModule c ns s
    else (setList rset).foldl (fun s r => chargeRegionCycles c r (cyclesOf (region s r) ns) s) s
  else chargeModule c ns s

end Sys2Proof.Machine
end

