-- ==== Sys2Proof/Machine/P384.lean ====
section
/-!
DEFINITION. The curve P-384: public keys, ECDH and ECDSA with SHA-384, in the byte forms of spec/14_trust.md R325 (the curve
and the signature are those of FIPS 186, which the spec names). Points are in Jacobian coordinates (x, y, z); z = 0 is the
point at infinity.
-/
namespace Sys2Proof.Machine

def P384.p : Nat := 2 ^ 384 - 2 ^ 128 - 2 ^ 96 + 2 ^ 32 - 1

/-- Order of the group. -/
def P384.n : Nat :=
  0xffffffffffffffffffffffffffffffffffffffffffffffffc7634d81f4372ddf581a0db248b0a77aecec196accc52973

def P384.b : Nat :=
  0xb3312fa7e23ee7e4988e056be3f82d19181d9c6efe8141120314088f5013875ac656398d8a2ed19d2a85c8edd3ec2aef

def P384.gx : Nat :=
  0xaa87ca22be8b05378eb1c71ef320ad746e1d3b628ba79b9859f741e082542a385502f25dbf55296c3a545e3872760ab7

def P384.gy : Nat :=
  0x3617de4a96262c6f5d9e98bf9292dc29f8f41dbd289a147ce9da3113b5f0b8c00a60b1ce1d7e819d7a431d7c90ea0e5f

def P384.sub (a c : Nat) : Nat := (a + (P384.p - c)) % P384.p

/-- a to the power of the low `k` bits of e, modulo m: from the top bit down. -/
def P384.pow (m a e : Nat) : Nat → Nat → Nat
  | 0, r => r
  | k + 1, r => P384.pow m a e k (if e.testBit k then r * r % m * a % m else r * r % m)

/-- The inverse modulo a prime. -/
def P384.inv (m a : Nat) : Nat := P384.pow m a (m - 2) 384 1

abbrev P384.Point := Nat × Nat × Nat

def P384.double (q : P384.Point) : P384.Point :=
  let (x, y, z) := q
  let d := z * z % P384.p
  let g := y * y % P384.p
  let be := x * g % P384.p
  let al := 3 * (P384.sub x d * ((x + d) % P384.p)) % P384.p
  let x3 := P384.sub (al * al % P384.p) (8 * be % P384.p)
  let z3 := 2 * y * z % P384.p
  let y3 := P384.sub (al * P384.sub (4 * be % P384.p) x3 % P384.p) (8 * (g * g % P384.p) % P384.p)
  (x3, y3, z3)

def P384.add (q r : P384.Point) : P384.Point :=
  let (x1, y1, z1) := q
  let (x2, y2, z2) := r
  if z1 = 0 then r else if z2 = 0 then q else
  let zz1 := z1 * z1 % P384.p
  let zz2 := z2 * z2 % P384.p
  let u1 := x1 * zz2 % P384.p
  let u2 := x2 * zz1 % P384.p
  let s1 := y1 * z2 % P384.p * zz2 % P384.p
  let s2 := y2 * z1 % P384.p * zz1 % P384.p
  if u1 = u2 then (if s1 = s2 then P384.double q else (1, 1, 0)) else
  let h := P384.sub u2 u1
  let k := P384.sub s2 s1
  let hh := h * h % P384.p
  let hhh := h * hh % P384.p
  let v := u1 * hh % P384.p
  let x3 := P384.sub (P384.sub (k * k % P384.p) hhh) (2 * v % P384.p)
  let y3 := P384.sub (k * P384.sub v x3 % P384.p) (s1 * hhh % P384.p)
  (x3, y3, z1 * z2 % P384.p * h % P384.p)

/-- The low `k` bits of e times q, from the top bit down. -/
def P384.mulAux (q : P384.Point) (e : Nat) : Nat → P384.Point → P384.Point
  | 0, r => r
  | k + 1, r =>
    let d := P384.double r
    P384.mulAux q e k (if e.testBit k then P384.add d q else d)

def P384.mul (e : Nat) (q : P384.Point) : P384.Point := P384.mulAux q e 384 (1, 1, 0)

/-- Affine coordinates. -/
def P384.affine (q : P384.Point) : Nat × Nat :=
  let zi := P384.inv P384.p q.2.2
  let zz := zi * zi % P384.p
  (q.1 * zz % P384.p, q.2.1 * zz % P384.p * zi % P384.p)

def P384.base : P384.Point := (P384.gx, P384.gy, 1)

/-- A public key lies on the curve. -/
def P384.onCurve (k : Key) : Bool :=
  let x := bits k 0 384
  let y := bits k 384 384
  decide (x < P384.p) && decide (y < P384.p) &&
    decide (y * y % P384.p = (P384.sub (x * x % P384.p * x % P384.p) (3 * x % P384.p) + P384.b) % P384.p)

def P384.ofKey (k : Key) : P384.Point := (bits k 0 384, bits k 384 384, 1)

/-- x in the low 48 bytes, y in the high (R325). -/
def P384.toKey (q : P384.Point) : Key :=
  let a := P384.affine q
  BitVec.ofNat 768 (a.1 + a.2 * 2 ^ 384)

/-- The public key of a secret scalar. -/
def publicKey (d : BitVec 384) : Key := P384.toKey (P384.mul (d.toNat % P384.n) P384.base)

/-- ECDH x: the 48-byte little-endian x-coordinate of the shared point. -/
def ecdhX (d : BitVec 384) (k : Key) : List Byte :=
  leBytes 48 (P384.affine (P384.mul (d.toNat % P384.n) (P384.ofKey k))).1

/-- The digest as the integer that ECDSA signs (most significant byte first). -/
def P384.digest (msg : List Byte) : Nat := ofLe (sha384 msg).reverse

/-- An ECDSA signature over SHA-384 verifies. -/
def ecdsaVerify (k : Key) (msg : List Byte) (sig : Key) : Bool :=
  let r := bits sig 0 384
  let s := bits sig 384 384
  if P384.onCurve k && decide (0 < r) && decide (r < P384.n) && decide (0 < s) && decide (s < P384.n) then
    let w := P384.inv P384.n s
    let q := P384.add (P384.mul (P384.digest msg * w % P384.n) P384.base) (P384.mul (r * w % P384.n) (P384.ofKey k))
    if q.2.2 = 0 then false else decide ((P384.affine q).1 % P384.n = r)
  else false

/-- An ECDSA signature by secret scalar d with per-signature secret k. -/
def ecdsaSign (d k : BitVec 384) (msg : List Byte) : Key :=
  let kk := k.toNat % P384.n
  let r := (P384.affine (P384.mul kk P384.base)).1 % P384.n
  let s := P384.inv P384.n kk * (P384.digest msg + r * d.toNat) % P384.n
  BitVec.ofNat 768 (r + s * 2 ^ 384)

end Sys2Proof.Machine
end

