-- ==== Sys2Proof/Machine/Trust.lean ====
section
/-!
DEFINITION. Identity, evidence, policy, tokens, debug access and sessions as shared operations (spec/14_trust.md).
-/
namespace Sys2Proof.Machine

/-! ### Identity -/

def identityKey (s : State) : Key := publicKey s.identity.priv

def identityFp (s : State) : Fp := fingerprint (identityKey s)

/-- The owner fingerprint; 0 while no owner key is held (Table 14-4). -/
def ownerFp (s : State) : Fp := if s.trust.lifecycle = .enrolled then fingerprint s.trust.ownerKey else 0

/-- The identity key's signature over a byte string; its nonce is the next draw. -/
def identitySign (msg : List Byte) (s : State) : Key × State :=
  let d := draw s
  (ecdsaSign s.identity.priv (Config.random384 d.1) msg, d.2)

def runningImage (s : State) : Image := if s.trust.running then s.trust.imageB else s.trust.imageA

def otherImage (s : State) : Image := if s.trust.running then s.trust.imageA else s.trust.imageB

def setOtherImage (i : Image) (s : State) : State :=
  if s.trust.running then { s with trust := { s.trust with imageA := i } } else { s with trust := { s.trust with imageB := i } }

def Image.digestOr0 (i : Image) : Digest := if i.valid then i.digest else 0

def Image.versionOr0 (i : Image) : BitVec 32 := if i.valid then i.version else 0

/-- LOWER_VER of the running firmware. -/
def lowerVer (s : State) : BitVec 16 := Config.lowerVersion (runningImage s).version

/-- The capability descriptor, spec/08_xekoade.md Table 08-4. -/
def descriptor (s : State) : BitVec 1024 :=
  let peer := if s.pair.role = .primary || s.pair.role = .secondary then s.pair.peerRegions.toNat else 0
  BitVec.ofNat 1024 (1 + 2 * 2 ^ 8 + 0x1408 * 2 ^ 16 + 0xB0 * 2 ^ 32 + s.pair.role.code * 2 ^ 40 + (lowerVer s).toNat * 2 ^ 48 +
    (regionsWord s).toNat * 2 ^ 64 + peer * 2 ^ 128 + 144 * 2 ^ 192 + 256 * 2 ^ 208 + 48 * 2 ^ 224 + 96 * 2 ^ 232 +
    5 * 2 ^ 240 + 31 * 2 ^ 244 + 0x6000000000 * 2 ^ 256 + 0x10000000000 * 2 ^ 320 + 0x1FFF03FE * 2 ^ 384 + 0x1F * 2 ^ 416 +
    0xF * 2 ^ 421 + 8 * 2 ^ 425 + 64 * 2 ^ 429 + 1024 * 2 ^ 448 + 0x4000 * 2 ^ 464)

/-! ### Evidence, Table 14-4 -/

def policyDigest (s : State) : Digest := if s.trust.lifecycle = .enrolled then sha384Word (wordBytes s.trust.policy) else 0

/-- Evidence bytes 0 to 303. -/
def evidenceBody (s : State) (nonce : BitVec 256) : List Byte :=
  leBytes 4 0x54415A45 ++ [1] ++
  leBytes 3 (s.trust.lifecycle.code + s.trust.rollback.toNat * 2 ^ 8 + s.pair.role.code * 2 ^ 14 +
    b2n (s.trust.debug).isSome * 2 ^ 16 + b2n s.trust.cellLow * 2 ^ 17) ++
  wordBytes nonce ++ wordBytes (identityFp s) ++ wordBytes (ownerFp s) ++ wordBytes s.identity.romDigest ++
  wordBytes s.trust.imageA.digestOr0 ++ wordBytes s.trust.imageB.digestOr0 ++ wordBytes s.trust.imageA.versionOr0 ++
  wordBytes s.trust.imageB.versionOr0 ++ leBytes 4 (b2n s.trust.running) ++ wordBytes (policyDigest s) ++
  wordBytes s.log.opSeconds ++ zeros 3 ++ wordBytes s.log.powerCycles ++ wordBytes s.trust.tamperCount ++
  wordBytes (((s.trust.debug).map Prod.fst).getD 0) ++ wordBytes s.log.nextSeq

def evidence (s : State) (nonce : BitVec 256) : List Byte × State :=
  let b := evidenceBody s nonce
  let r := identitySign b s
  (b ++ wordBytes r.1, r.2)

/-! ### Policy, Table 14-5 -/

def policyVersion (p : BitVec 4096) : Nat := bits p 32 32
def policyCountersign (p : BitVec 4096) : Bool := bitAt p 64
def policyDebug (p : BitVec 4096) : Bool := bitAt p 65
def policyPeerList (p : BitVec 4096) : Bool := bitAt p 66
def policyMinVersion (p : BitVec 4096) : Nat := bits p 96 32
def policyNdigest (p : BitVec 4096) : Nat := bits p 128 8
def policyDigests (p : BitVec 4096) : List Digest :=
  (List.range (min (policyNdigest p) 8)).map (fun i => BitVec.ofNat 384 (bits p (256 + 384 * i) 384))

/-- MAGIC, the reserved fields and NDIGEST are as Table 14-5 gives. -/
def policyFormOk (p : BitVec 4096) : Bool :=
  bits p 0 32 = 0x594C4F50 && bits p 67 29 = 0 && policyNdigest p ≤ 8 && bits p 136 120 = 0

def policySigned (p : BitVec 4096) (key : Key) : Bool :=
  ecdsaVerify key ((wordBytes p).take 416) (BitVec.ofNat 768 (bits p 3328 768))

/-- A peer's firmware satisfies the policy (R231). -/
def policyAccepts (p : BitVec 4096) (version : BitVec 32) (image : Digest) : Bool :=
  if policyPeerList p then (policyDigests p).contains image else decide (policyMinVersion p ≤ version.toNat)

/-! ### Debug access and sessions -/

/-- Causes of DEBUG_CLOSE in the order of R344 (log entry 20). -/
def endDebug (cause : Nat) (s : State) : State :=
  match s.trust.debug with
  | none => { s with trust := { s.trust with debugWait := none } }
  | some _ => record Code.debugClose [BitVec.ofNat 8 cause] { s with trust := { s.trust with debug := none, debugWait := none } }

/-- DEBUG-OPEN ends with the session that opened it, in both halves of a pair; a DEBUG_OPEN that still waits for the boundary completes with
SESSION_CLOSED. -/
def endSessionDebug (sid : BitVec 3) (s : State) : State :=
  let tell (s : State) : State := if s.pair.role = .primary then sendLash (.forward (.debugClose 2)) s else s
  match s.trust.debug, s.trust.debugWait with
  | some (_, d), _ => if d = sid then endDebug 2 (tell s) else s
  | none, some (_, d, _, some q) => if d = sid then endDebug 2 (tell (completeClear q.tag Status.sessionClosed s)) else s
  | none, _ => s

/-- A session closes. -/
def endSession (sid : BitVec 3) (s : State) : State := closeSession sid (endSessionDebug sid s)

def endSessions (s : State) : State := s.gw.sessions.foldl (fun s x => endSession x.sid s) s

/-- Record GANGWAY_AUTH (spec/13_commands.md R301). -/
def authRecord (cause : Nat) (sid : BitVec 3) (seq : BitVec 64) (opcode : BitVec 8) (s : State) : State :=
  record Code.gangwayAuth ([BitVec.ofNat 8 cause, BitVec.ofNat 8 sid.toNat] ++ wordBytes seq ++ [opcode]) s

/-! ### Tokens, Table 14-6 -/

def tokenKind (t : BitVec 1536) : Nat := bits t 32 8
def tokenModuleA (t : BitVec 1536) : Fp := BitVec.ofNat 128 (bits t 64 128)
def tokenModuleB (t : BitVec 1536) : Fp := BitVec.ofNat 128 (bits t 192 128)
def tokenOwner (t : BitVec 1536) : Fp := BitVec.ofNat 128 (bits t 320 128)
def tokenExpiry (t : BitVec 1536) : BitVec 32 := BitVec.ofNat 32 (bits t 448 32)
def tokenArg (t : BitVec 1536) : BitVec 64 := BitVec.ofNat 64 (bits t 512 64)

def inPair (s : State) : Bool := s.pair.role = .primary || s.pair.role = .secondary

/-- SEQUENCE of the oldest record of an area; the next SEQUENCE for an empty one (spec/15_recorder.md R361). -/
def oldestSeq (recs : List Rec) (next : BitVec 64) : BitVec 64 := match recs with | r :: _ => r.seq | [] => next

/-- Operating hours. -/
def opHours (s : State) : Nat := s.log.opSeconds.toNat / 3600

/-- R331: the status of a refusal, or none. `pairTok`: the token names both halves. -/
def tokenCheck (kind : Nat) (pairTok : Bool) (t : BitVec 1536) (s : State) : Option (BitVec 16) :=
  if bits t 0 32 ≠ 0x4E4B4F54 || tokenKind t ≠ kind || bits t 40 24 ≠ 0 || bits t 480 32 ≠ 0 || bits t 576 192 ≠ 0 then
    some Status.badField
  else if tokenOwner t ≠ ownerFp s || !ecdsaVerify s.trust.ownerKey ((wordBytes t).take 96) (BitVec.ofNat 768 (bits t 768 768)) then
    some Status.authFailed
  else
    let a := if pairTok then s.pair.record.primaryFp else identityFp s
    let b := if pairTok then s.pair.record.secondaryFp else 0
    if tokenModuleA t ≠ a || tokenModuleB t ≠ b then some Status.staleToken
    else if kind = 3 && (tokenExpiry t).toNat ≤ opHours s then some Status.staleToken
    else if kind = 4 && tokenArg t ≠ s.pair.record.epoch then some Status.staleToken
    else if kind = 2 && (tokenArg t).toNat ≤ (oldestSeq s.log.ring s.log.nextSeq).toNat then some Status.staleToken
    else none

/-! ### Image choice, R340 to R342 -/

/-- A candidate: valid and at or above the rollback counter. -/
def candidate (s : State) (i : Image) : Bool := i.valid && decide (s.trust.rollback.toNat ≤ i.level.toNat)

/-- R342: which image runs (true B), if any. -/
def chooseImage (s : State) : Option Bool :=
  match candidate s s.trust.imageA, candidate s s.trust.imageB with
  | false, false => none
  | true, false => some false
  | false, true => some true
  | true, true =>
    if s.trust.imageB.version.toNat < s.trust.imageA.version.toNat then some false
    else if s.trust.imageA.version.toNat < s.trust.imageB.version.toNat then some true
    else some s.trust.flagged

/-- The island starts the chosen image, or none (record NO_IMAGE). -/
def bootImage (s : State) : State :=
  match chooseImage s with
  | some b => { s with trust := { s.trust with running := b, noImage := false } }
  | none => record Code.noImage [] { s with trust := { s.trust with noImage := true } }

end Sys2Proof.Machine
end

