-- ==== Sys2Proof/Machine/Reset.lean ====
section
/-!
DEFINITION. Losses and resets as shared operations: power loss, cold start, warm reset, the emergency down sequence, tamper
erase, fences and the loss of a partner (spec/17_modes_repair.md Tables 17-3, 17-5; spec/16_power.md R369, R370;
spec/14_trust.md R346).
-/
namespace Sys2Proof.Machine

/-! ### The RESHARD journal, spec/11_collectives.md R258 -/

def journalRank (e : JournalEntry) : Nat := e.round.toNat * 4 + e.state.toNat

/-- Bytes 0 to 27 of an entry (Table 11-5), and their CRC. -/
def journalBody (e : JournalEntry) : List Byte :=
  wordBytes e.rid ++ wordBytes e.round ++ leBytes 4 e.state.toNat ++ wordBytes e.ttdig ++ leBytes 2 (e.next.toNat + b2n e.slot * 2 ^ 14) ++
    wordBytes e.pcycle ++ zeros 6

def journalCrcOk (e : JournalEntry) : Bool := e.crc = crc32c (journalBody e)

/-- The entry of a reshard identity whose CRC checks, with the greater (round, STATE). -/
def journalOf (s : State) (rid : BitVec 16) : JournalEntry :=
  let a := s.reshard.journalA
  let b := s.reshard.journalB
  let ina := journalCrcOk a && decide (a.rid = rid) && decide (a.state ≠ 0)
  let inb := journalCrcOk b && decide (b.rid = rid) && decide (b.state ≠ 0)
  if ina && inb then (if journalRank a < journalRank b then b else a)
  else if ina then a else if inb then b else JournalEntry.zero

/-- The entries are written alternately, each with its CRC. -/
def journalPut (e : JournalEntry) (s : State) : State :=
  let e := { e with crc := crc32c (journalBody e) }
  { s with reshard := if s.reshard.lastB then { s.reshard with journalA := e, lastB := false } else { s.reshard with journalB := e, lastB := true } }

/-- No reshard; the journal stays. -/
def Reshard.ended (r : Reshard) : Reshard :=
  { Reshard.reset with journalA := r.journalA, journalB := r.journalB, lastB := r.lastB }

/-- A reshard cut by a cold start is VOID (R259). -/
def voidReshard (s : State) : State :=
  match s.reshard.active with
  | none => s
  | some (rid, round, _) =>
    let s := journalPut { JournalEntry.zero with rid := rid, round := BitVec.ofNat 16 round, state := 3, pcycle := s.log.powerCycles } s
    let s := record Code.reshardVoid (wordBytes rid ++ leBytes 2 round) s
    { s with reshard := s.reshard.ended }

/-! ### Losses -/

/-- What a region is after power-on. -/
def Region.lost (r : Region) : Region := { Region.reset with temp := r.temp }

/-- What a port is after a cold reset: counters clear, MSEQ starts anew, a fence ends. -/
def Port.cold (p : Port) : Port := { Port.reset with dieOk := p.dieOk }

/-- Table 17-3, Cold: tier contents and keys, slots, sessions, job, verdicts, ledgers, links, host windows, SEALING and
IMAGE-STAGED are lost; lifecycle, binding, fabric configuration, pair record, recorder, fuses and images are kept. -/
def volatileLoss (s : State) : State :=
  { s with
    mem := { Mem.reset with host := s.mem.host, era := s.mem.era + 1 }
    seq := Seq.reset
    job := Job.none
    gw := { Gangway.reset with vec0 := s.gw.vec0, vec1 := s.gw.vec1, smb := s.gw.smb }
    fab := { Fabric.reset with cfg := s.fab.cfg, ports := s.fab.ports.map Port.cold }
    regions := s.regions.map Region.lost
    trust := { s.trust with checkpoint := none, sealing := false, imageStaged := false }
    badSpares := []
    log := { s.log with markWait := [] }
    power := { s.power with sleepReq := false }
    pair := { s.pair with sent := none, got := [], shares := [], peerImage := none, diverged := false, wait := [] } }

/-- What the cold start after it writes and chooses: DEBUG-OPEN ends, a reshard is VOID, BOOST_EN is set, an image is chosen. -/
def coldStart (s : State) : State :=
  let s := endDebug 3 s
  let s := voidReshard s
  bootImage { s with power := { s.power with boostEn := true, dozeTarget := false },
                     thermal := { s.thermal with granted := false, creditMs := some 0 } }

/-- A condition of spec/16_power.md Table 16-8 holds the duty at 100 %. -/
def condDuty (t : Thermal) : Bool := t.conds.any (fun c => c.active && (c.cond = .flowStop || c.cond = .sensor))

/-- spec/16_power.md R386: the duty of STANDBY is DUTY_MIN; 100 % before MAIN has come up since AUX became good, and while a condition
forces it. -/
def restDuty (t : Thermal) : Nat := if condDuty t || !t.ran then 1000 else t.dutyMin.toNat * 10

/-- The module is in STANDBY: rails off, keys erased. -/
def standby (s : State) : State :=
  let s := volatileLoss s
  { s with power := { s.power with state := .standby, rails := false, mainHold := false, wakeReq := false, startup := min s.power.startup 1 }
           thermal := { s.thermal with loopOn := false, granted := false, creditMs := some 0, duty := restDuty s.thermal } }

/-- After an emergency sequence MAIN_EN is ignored until it has been deasserted (spec/16_power.md R370), beside a lockout that waits
for AUX. -/
def lockDeassert (l : Lockout) : Lockout := if l = .untilAux || l = .untilBoth then .untilBoth else .untilDeassert

/-- After the third rail fault MAIN_EN is ignored until AUX has been removed and restored, too. -/
def lockAux (l : Lockout) : Lockout := if l = .untilDeassert || l = .untilBoth then .untilBoth else .untilAux

/-- MAIN_EN has been deasserted. -/
def freeDeassert (l : Lockout) : Lockout := if l = .untilAux || l = .untilBoth then .untilAux else .none

/-- AUX has been removed and restored. -/
def freeAux (l : Lockout) : Lockout := if l = .untilDeassert || l = .untilBoth then .untilDeassert else .none

/-- spec/16_power.md R370: the emergency down sequence. -/
def emergencyDown (s : State) : State :=
  let s := standby s
  { s with power := { s.power with lockout := lockDeassert s.power.lockout } }

/-- A cold reset with the rails up (PERST_N with FULL set, RETIRE, a tamper): start-up goes on at step 3 of
Table 17-4, with new memory keys to come. -/
def coldReset (s : State) : State :=
  let s := coldStart (volatileLoss s)
  { s with power := { s.power with state := .run, startup := 2 } }

/-! ### Losing a partner, spec/12_lashing.md R283 -/

/-- A seal that runs as the lash is lost has no manifest and is invalid (spec/12_lashing.md Table 12-5). -/
def cutSeal (s : State) : State :=
  match s.gw.seals with
  | some j =>
    if j.kind = .unseal then s
    else refuse j.req (if j.kind = .seal then 0x40 else 0x41) Status.pairLost
      { s with gw := { s.gw with seals := none }, trust := { s.trust with sealing := false, checkpoint := none } }
  | none => s

/-- Opcode of a command that waits for the other half. -/
def PairWait.opcode : PairWait → Nat
  | .arm _ _ _ => 0x33
  | .run _ _ _ _ _ => 0x36
  | .read _ op _ => op

/-- Commands that wait for the other half are refused (log entry 67). -/
def cutWait (s : State) : State :=
  s.pair.wait.foldl (fun s w => refuse w.req (BitVec.ofNat 8 w.opcode) Status.pairLost s) { s with pair := { s.pair with wait := [] } }

/-- The half halts any run with PAIR_LOST and becomes STRANDED; what was under way between the halves is dropped, and debug access ends
(spec/14_trust.md R344). -/
def strand (s : State) : State :=
  if s.pair.role = .stranded || s.pair.role = .solo then s
  else
    let s := cutWait s
    let s := { s with pair := { s.pair with role := .stranded, sent := none, got := [], shares := [] } }
    let s := onPort 6 (fun p => { p with queue := [], sent := [] }) s
    let s := record Code.pairStranded [] s
    let s := cutSeal (endDebug 5 s)
    haltPeer Status.pairLost s

/-! ### Warm reset -/

/-- The slot as a warm reset leaves it: ACTIVE becomes LOADED, ARMED stays, a load or lowering in progress leaves EMPTY. -/
def warmSlot (cut : Bool) (sl : Slot) : Slot :=
  if cut then Slot.empty else if sl.state = .active then { sl with state := .loaded } else sl

/-- A staging that was running leaves its area invalid. -/
def cutImage (s : State) : State :=
  match s.gw.image with
  | some j => if j.activate then s else setOtherImage Image.invalid s
  | none => s

/-- The ranges of an UNSEAL that was running are undefined. -/
def dropRanges (ranges : List (BitVec 128)) (s : State) : State :=
  { s with mem := { s.mem with
      tier := ranges.foldl (fun t r => sdelRange t (bits r 0 42) (bits r 0 42 + bits r 64 64)) s.mem.tier,
      era := s.mem.era + 1 } }

def cutUnseal (s : State) : State :=
  match s.gw.seals with
  | some j => if j.kind = .unseal then dropRanges j.ranges s else s
  | none => s

/-- The lowering in progress names this slot. -/
def loweringInto (s : State) (b : Bool) : Bool :=
  match s.gw.lowering with | some j => j.slot = some b | none => false

/-- Tables 17-3 and 17-5, Warm. Keeps the tiers, keys, slots, job tables, step number, staging, slice SRAM, sliver maps,
links, windows and journal; ends the run, sessions, accumulators, flags, loops, ledger, verdicts and DEBUG-OPEN. -/
def warmReset (s : State) : State :=
  let s := endDebug 3 s
  let s := cutUnseal (cutImage s)
  let active := match s.gw.image with | some j => j.activate | none => false
  let running := s.seq.run.isSome
  let s := dropEarly (fun _ => true) (loseAcc s)
  let s := { s with
    seq := { s.seq with
      slotA := warmSlot (s.gw.loadA.isSome || loweringInto s false) s.seq.slotA,
      slotB := warmSlot (s.gw.loadB.isSome || loweringInto s true) s.seq.slotB,
      run := none, held := [], flight := [], loops := [], flags := [], a4 := [], hold := [], ledger := [], tiles := [],
      haltCause := if s.job.started then Status.warmReset else s.seq.haltCause,
      haltSlot := match s.seq.run with | some r => r.slot | none => s.seq.haltSlot,
      haltRow := match s.seq.run with | some r => BitVec.ofNat 14 (stopRow s r) | none => s.seq.haltRow,
      haltEntry := match s.seq.run with | some r => some (r.slot, r.stepEntry) | none => s.seq.haltEntry }
    job := if s.gw.join.isSome then Job.none else { s.job with contribs := [], arrivals := [], sums := [], ferryNow := [] }
    gw := { s.gw with sessions := [], runstate := .starting, lowering := none, loadA := none, loadB := none, join := none,
                      claimsHeld := [], resume := none, seals := none, lash := none, powerCmd := none, stopCmd := none, links := [], image := none,
                      warmPending := false, hold := false, accepted := [], outstanding := 0 }
    trust := { s.trust with sealing := false, imageStaged := s.trust.imageStaged && !active }
    log := { s.log with markWait := [] }
    power := { s.power with sleepReq := false, startup := 7 }
    pair := { s.pair with sent := none, got := [], shares := [], wait := [] } }
  let s := if active then bootImage s else s
  if running then tellHalted Status.warmReset s else s

/-- Commands that have started and not completed; a secondary half runs none of its own. -/
def runningJobs (s : State) : List Req :=
  s.pair.wait.map PairWait.req ++ (s.trust.debugWait.bind (fun d => d.2.2.2)).toList ++
  (if s.pair.role = .secondary then [] else
  (s.seq.run.map ActiveRun.req).toList.filter (fun q => q != farReq) ++ (s.gw.lowering.map LowerJob.req).toList ++ (s.gw.loadA.map LoadJob.req).toList ++
  (s.gw.loadB.map LoadJob.req).toList ++ (s.gw.join.map JoinJob.req).toList ++ (s.gw.resume.map ResumeJob.req).toList ++
  (s.gw.seals.map SealJob.req).toList ++ (s.gw.image.map ImageJob.req).toList ++ (s.gw.lash.map LashJob.req).toList ++
  (s.gw.powerCmd.map Prod.fst).toList ++ s.gw.stopCmd.toList ++ s.gw.links.map Prod.snd ++ s.log.markWait.map Prod.fst)

/-- Outstanding commands: those fetched and those still running. -/
def running (s : State) : List Req := s.gw.accepted.map Accepted.req ++ runningJobs s

/-- Every outstanding command completes in the clear with a status; one that a packet check has refused, as that check says. -/
def completeAllClear (status : BitVec 16) (s : State) : State :=
  let t := s.gw.accepted.foldl (fun t a => match a.refused with | some c => hold c t | none => completeClear a.req.tag status t) s
  (runningJobs s).foldl (fun t q => completeClear q.tag status t) t

/-! ### Fences, spec/17_modes_repair.md R401 to R403 -/

/-- REGIONS of a half. -/
def inServiceOf (s : State) (h : Nat) : Nat := (if h = myHalf s then regionsWord s else s.pair.peerRegions).toNat

/-- The first row that names a region out of service; `serves` says which regions of a half are in service. -/
def fencedIn (serves : Nat → Nat → Bool) (rows : List Row) : Option Nat :=
  (List.range rows.length).find? (fun k => [0, 1].any (fun h =>
    (setList (rowRset (nth rows k 0))).any (fun r => rowNames (nth rows k 0) h r && !serves h r)))

def servesNow (s : State) (h r : Nat) : Bool := fld (inServiceOf s h) r 1 = 1

/-- The first row of a slot that names a region that is out of service now. -/
def fencedRow (s : State) (rows : List Row) : Option Nat := fencedIn (servesNow s) rows

/-- The commit barrier of the current step has not issued, in a slot that LOWER wrote: the step may restart (R402). -/
def mayRestart (s : State) (r : ActiveRun) : Bool := (slotOf s r.slot).lowered.isSome && !r.committed

/-- A fence takes effect. With a run that names the region the step is abandoned: to be restarted, or halted with
REGION_FENCED (spec/07_timetable.md R164). -/
def fenceNow (r : Nat) (cause : FenceCause) (s : State) : State :=
  match s.seq.run with
  | none => fenceMark r cause false s
  | some run =>
    let cuts := slotNames s run.slot r && !run.asleep
    let s := fenceMark r cause cuts s
    if cuts then
      if mayRestart s run then
        { s with seq := { s.seq with held := [],
                                     run := some { run with abandoning := some { cause := Status.regionFenced, slot := run.slot,
                                                                                 row := stopRow s run, code := 0 } } } }
      else halt Status.regionFenced s
    else s

/-- A fence that waits for the boundary, or acts at once without a run. -/
def fenceLater (r : Nat) (cause : FenceCause) (s : State) : State :=
  if s.seq.run.isSome then onRegion r (fun g => { g with pendingFence := some cause }) s else fenceNow r cause s

/-! ### Spares, spec/01_module.md R11, R12, spec/17_modes_repair.md R395, R400 -/

/-- The lowest free spare of a row band. -/
def freeSpare (used bad : List Nat) : Option Nat := (List.range 24).find? (fun i => !used.contains i && !bad.contains i)

/-- Spares of a row band that failed a test. -/
def badOf (s : State) (band : Nat) : List Nat := (s.badSpares.filter (fun x => x / 24 = band)).map (fun x => x % 24)

/-- Give the lowest free spare that passes its known-answer test to a failing core, or put the region on the slipway. -/
def takeSpareFrom (r k : Nat) : Nat → State → State
  | 0, s => fenceLater r .spares (record Code.spareExhausted (regionParam s r) s)
  | n + 1, s =>
    match freeSpare (sparesUsed s (rowBand r)) (badOf s (rowBand r)) with
    | none => fenceLater r .spares (record Code.spareExhausted (regionParam s r) s)
    | some i =>
      let d := draw s
      if Config.spareTest d.1 then
        let s := onRegion r (fun g => { g with sliver := sput g.sliver k i }) d.2
        record Code.coreFenced (coreParam r k ++ [BitVec.ofNat 8 (regionDie r), BitVec.ofNat 8 (regionBandRow r), BitVec.ofNat 8 i]) s
      else takeSpareFrom r k n { d.2 with badSpares := (rowBand r * 24 + i) :: d.2.badSpares }

/-- A region takes at most six spares (spec/01_module.md R11). -/
def takeSpare (r k : Nat) (s : State) : State :=
  takeSpareFrom r k (if 6 ≤ (sdel (region s r).sliver k).length then 0 else 24) s

/-- Failing cores of every region are taken care of (step 4 of the boundary, or the start of a RUN). -/
def serveSpares (s : State) : State :=
  (List.range 64).foldl (fun s r =>
    let cores := (region s r).failing
    cores.foldl (fun s k => takeSpare r k s) (onRegion r (fun g => { g with failing := [] }) s)) s

/-- Step 4 of the boundary (spec/07_timetable.md Table 07-9): a region that is fenced, and no longer on the slipway, gives its spares back
(R395; log entry 88); then failing cores are taken care of. -/
def sliverMaps (s : State) : State :=
  serveSpares (onRegions (fun _ g => match g.mode with | .fenced _ => { g with sliver := [] } | _ => g) s)

/-- Fences that waited for the boundary. -/
def servePendingFences (s : State) : State :=
  (List.range 64).foldl (fun s r => match (region s r).pendingFence with | some c => fenceNow r c s | none => s) s

/-! ### Tamper erase, spec/14_trust.md R346 -/

/-- Steps 5 and 6 once AUX is present: the TAMPER record with the latched bits, lifecycle, count;
`flags` is DEFERRED where the trip came without AUX. -/
def tamperRecord (flags : BitVec 8) (s : State) : State :=
  if s.trust.tamperLatch = 0 then s
  else
    let s := { s with log := s.log.push (s.log.stamp Code.tamper flags [s.trust.tamperLatch]) }
    { s with trust := { s.trust with tamperLatch := 0, tamperCount := s.trust.tamperCount + 1,
                                     lifecycle := if s.trust.lifecycle = .enrolled then .erased else s.trust.lifecycle } }

/-- Steps 1 to 3: the binding, the fabric configuration and the pair record become unreadable, the sensor bits are latched,
every key of the dies is zeroed and every operation ends (R348). -/
def zeroise (sensors : BitVec 8) (s : State) : State :=
  let closed := (running s).filter Req.isSealed
  let s := endDebug 4 s
  let s := { s with trust := { s.trust with ownerKey := 0, domain := 0, policy := 0, wrapKey := 0, tamperLatch := s.trust.tamperLatch ||| sensors }
                    pair := { s.pair with role := .solo, record := PairRecord.zero, recordOk := true }
                    fab := { s.fab with cfg := 0 } }
  let gw := s.gw
  let s := voidReshard s
  let s := volatileLoss s
  let s := { s with gw := { gw with sessions := [], runstate := .starting, lowering := none, loadA := none, loadB := none,
                                    join := none, claimsHeld := [], resume := none, seals := none, lash := none, powerCmd := none,
                                    stopCmd := none, links := [], image := none, warmPending := false, hold := false,
                                    windows := [], accepted := gw.accepted.filter (fun a => !a.req.isSealed) } }
  closed.foldl (fun s q => completeClear q.tag Status.sessionClosed s) s

end Sys2Proof.Machine
end

