-- ==== Sys2Proof/Machine/Rings.lean ====
section
/-!
DEFINITION. BAR0 and the rings (spec/13_commands.md R289 to R301): register writes, the fetch of submission entries with the
packet checks 1 to 6, and the posting of completions. A register access while the link is down reaches nothing (R290).
-/
namespace Sys2Proof.Machine

def onGw (f : Gangway → Gangway) (s : State) : State := { s with gw := f s.gw }

/-- Set a GW_ERR bit (Table 13-2). -/
def gwErr (bit : Nat) (s : State) : State := onGw (fun g => { g with err := g.err ||| BitVec.ofNat 5 (2 ^ bit) }) s

/-- A ring's base and size are legal (Table 13-1). -/
def ringLegal (base : BitVec 64) (size : BitVec 32) : Bool :=
  base.toNat % 4096 = 0 && [16, 32, 64, 128, 256, 512, 1024, 2048, 4096].contains size.toNat

/-- R292: both rings are checked when ENABLE changes from 0 to 1. -/
def setEnable (value : Bool) (s : State) : State :=
  if !value then onGw (fun g => { g with enable := false }) s
  else if s.gw.enable then s
  else
    let sqOk := ringLegal s.gw.sqBase s.gw.sqSize
    let cqOk := ringLegal s.gw.cqBase s.gw.cqSize
    if sqOk && cqOk then
      onGw (fun g => { g with enable := true, sqHead := 0, cqTail := 0, sqTail := 0, cqHead := 0, phase := true }) s
    else
      let s := if sqOk then s else gwErr 0 s
      if cqOk then s else gwErr 1 s

/-- R293, R294: an index at or above the ring's size is ignored and sets DOORBELL. -/
def setTail (value : BitVec 32) (s : State) : State :=
  if s.gw.sqSize.toNat ≤ value.toNat then gwErr 2 s else onGw (fun g => { g with sqTail := value }) s

def setCqHead (value : BitVec 32) (s : State) : State :=
  if s.gw.cqSize.toNat ≤ value.toNat then gwErr 2 s else onGw (fun g => { g with cqHead := value }) s

/-- The low or high half of a base replaced. -/
def setHalf (base : BitVec 64) (high : Bool) (v : BitVec 64) : BitVec 64 :=
  let w := v.toNat % 2 ^ 32
  BitVec.ofNat 64 (if high then base.toNat % 2 ^ 32 + w * 2 ^ 32 else base.toNat / 2 ^ 32 * 2 ^ 32 + w)

/-- R292: a ring base or size is written only while ENABLE is 0; a 64-bit write of a size reaches the index beside it. -/
def setRing (offset : BitVec 16) (wide : Bool) (value : BitVec 64) (s : State) : State :=
  if s.gw.enable then gwErr 4 s
  else
    let lo := BitVec.ofNat 32 (bits value 0 32)
    let hi := BitVec.ofNat 32 (bits value 32 32)
    match offset.toNat with
    | 0x20 => onGw (fun g => { g with sqBase := if wide then value else setHalf g.sqBase false value }) s
    | 0x24 => onGw (fun g => { g with sqBase := setHalf g.sqBase true value }) s
    | 0x28 => let s := onGw (fun g => { g with sqSize := lo }) s; if wide then setTail hi s else s
    | 0x40 => onGw (fun g => { g with cqBase := if wide then value else setHalf g.cqBase false value }) s
    | 0x44 => onGw (fun g => { g with cqBase := setHalf g.cqBase true value }) s
    | 0x48 => let s := onGw (fun g => { g with cqSize := lo }) s; if wide then setCqHead hi s else s
    | _ => s

/-- A register access reaches the endpoint only while the link is up. -/
def bar0 (f : State → State) (s : State) : Host.Outcome State Fault Refusal := done s (if s.gw.linkUp then f s else s)

def execEnableWrite (value : Bool) (s : State) : Host.Outcome State Fault Refusal := bar0 (setEnable value) s

def execIrqEnWrite (value : Bool) (s : State) : Host.Outcome State Fault Refusal :=
  bar0 (onGw (fun g => { g with irqEn := value })) s

/-- GW_ERR bits are cleared by writing 1. -/
def clearErr (mask : BitVec 32) (s : State) : State := onGw (fun g => { g with err := g.err &&& ~~~ BitVec.ofNat 5 mask.toNat }) s

def execGwErrClear (mask : BitVec 32) (s : State) : Host.Outcome State Fault Refusal := bar0 (clearErr mask) s

def execSqTailWrite (value : BitVec 32) (s : State) : Host.Outcome State Fault Refusal := bar0 (setTail value) s

def execCqHeadWrite (value : BitVec 32) (s : State) : Host.Outcome State Fault Refusal := bar0 (setCqHead value) s

def execRingConfigWrite (offset : BitVec 16) (wide : Bool) (value : BitVec 64) (s : State) :
    Host.Outcome State Fault Refusal := bar0 (setRing offset wide value) s

/-- A 32-bit write at an offset (Table 13-1). The MSI-X table of two 16-byte entries takes it; registers without behaviour of their own, and
reserved offsets, ignore it (R291). -/
def setWord (offset : Nat) (v : BitVec 32) (s : State) : State :=
  match offset with
  | 0x0C => clearErr v s
  | 0x10 => setEnable (bitAt v 0) (onGw (fun g => { g with irqEn := bitAt v 1 }) s)
  | 0x2C => setTail v s
  | 0x4C => setCqHead v s
  | _ =>
    if [0x20, 0x24, 0x28, 0x40, 0x44, 0x48].contains offset then setRing (BitVec.ofNat 16 offset) false (BitVec.ofNat 64 v.toNat) s
    else if 0x1000 ≤ offset && offset < 0x1020 then onGw (fun g => { g with msix := mwrite g.msix offset (leBytes 4 v.toNat) }) s
    else s

/-- An aligned 32-bit write, or an aligned 64-bit one: of both words, the lower first. An access that is not aligned reaches no register. -/
def setRegister (offset : BitVec 16) (wide : Bool) (value : BitVec 64) (s : State) : State :=
  let lo := BitVec.ofNat 32 (bits value 0 32)
  if offset.toNat % (if wide then 8 else 4) ≠ 0 then s
  else if wide then setWord (offset.toNat + 4) (BitVec.ofNat 32 (bits value 32 32)) (setWord offset.toNat lo s)
  else setWord offset.toNat lo s

def execRegisterWrite (offset : BitVec 16) (value : BusWrite) (s : State) : Host.Outcome State Fault Refusal :=
  bar0 (setRegister offset value.wide value.value) s

/-! ### Reads of BAR0 and the configuration header, R289 to R291 -/

/-- Values of the configuration header (R289). -/
def vendorId : BitVec 16 := 0x1F3A
def deviceId : BitVec 16 := 0x1408
def revisionId : BitVec 8 := 0xB0
def classCode : BitVec 24 := 0x120000

/-- BAR0 is 64 KiB, 64-bit and not prefetchable. -/
def bar0Bytes : Nat := 65536

/-- A 32-bit register word. GW_STATUS is what page 0 of GET_STATUS begins with. The pending bits of the MSI-X vectors are clear: a vector that
IRQ_EN lets through is raised at once (PRESUMED, log entry 95). -/
def regWord (s : State) (offset : Nat) : BitVec 32 :=
  let lo (b : BitVec 64) : BitVec 32 := BitVec.ofNat 32 (bits b 0 32)
  let hi (b : BitVec 64) : BitVec 32 := BitVec.ofNat 32 (bits b 32 32)
  match offset with
  | 0x00 => 0x474E4147
  | 0x04 => 0x00010000
  | 0x08 => gwStatus s
  | 0x0C => BitVec.ofNat 32 s.gw.err.toNat
  | 0x10 => BitVec.ofNat 32 (b2n s.gw.enable + b2n s.gw.irqEn * 2)
  | 0x20 => lo s.gw.sqBase | 0x24 => hi s.gw.sqBase | 0x28 => s.gw.sqSize | 0x2C => s.gw.sqTail | 0x30 => s.gw.sqHead
  | 0x40 => lo s.gw.cqBase | 0x44 => hi s.gw.cqBase | 0x48 => s.gw.cqSize | 0x4C => s.gw.cqHead | 0x50 => s.gw.cqTail
  | _ => if 0x1000 ≤ offset && offset < 0x1020 then bytesWord 32 (mread (fun _ => 0) s.gw.msix offset 4) else 0

/-- What an aligned read of BAR0 is answered with, in every RUNSTATE; while the link is down no request is answered (R290). -/
def bar0Read (s : State) (offset : Nat) (wide : Bool) : Option (List Byte) :=
  if s.gw.linkUp then
    some (wordBytes (regWord s (offset / 4 * 4)) ++ (if wide then wordBytes (regWord s (offset / 4 * 4 + 4)) else []))
  else none

/-! ### Opcodes, Table 13-9 -/

/-- The opcodes of the table. -/
def opcodes : List Nat :=
  [0x01, 0x02, 0x03, 0x04, 0x05, 0x06, 0x08, 0x10, 0x11, 0x12, 0x13, 0x14, 0x20, 0x21, 0x22, 0x23, 0x24, 0x30, 0x31, 0x32] ++
  [0x33, 0x34, 0x35, 0x36, 0x37, 0x38, 0x39, 0x3A, 0x3B, 0x40, 0x41, 0x42, 0x50, 0x51, 0x60, 0x61, 0x62, 0x70, 0x71, 0x72]

/-- R298: opcodes of the CLEAR form. -/
def clearOpcode (s : State) (op : Nat) : Bool := (1 ≤ op && op ≤ 5) || (op = 0x24 && s.pair.role = .secondary)

/-- The reply bound of Table 13-9 for check 6; `page` is the first parameter byte. -/
def replyBound (op page : Nat) : Nat :=
  if op = 0x02 then (if page = 1 then 384 else if page = 2 then 280 else 64)
  else if op = 0x01 || op = 0x03 then 8192
  else if op = 0x04 then 512
  else if op = 0x05 || op = 0x72 then 262144
  else if op = 0x08 then 1048576
  else if op = 0x30 then 65600
  else if op = 0x31 then 256
  else if op = 0x42 then 4136
  else if [0x06, 0x11, 0x20, 0x22, 0x24, 0x33, 0x34, 0x37, 0x38, 0x39, 0x3B, 0x61, 0x62].contains op then 0
  else 64

/-! ### Submission fetch -/

/-- Check 1 of Table 13-7 on a packet header. -/
def headOk (h : List Byte) (plen : Nat) : Bool :=
  let w := ofLe h
  let isS := fld w 32 2 = 1
  fld w 0 32 = 0x474E4147 && fld w 32 2 ≤ 1 && fld w 34 6 = 0 && fld w 43 5 = 0 && fld w 56 8 = 0 && fld w 96 32 = 0 &&
    fld w 192 64 = 0 && (if isS then 1 ≤ fld w 40 3 && fld w 40 3 ≤ 4 && fld w 48 8 = 0 else fld w 40 3 = 0 && fld w 128 64 = 0) &&
    fld w 64 32 % 16 = 0 && 32 ≤ fld w 64 32 && fld w 64 32 ≤ 2 ^ 26 && fld w 64 32 = plen

/-- A fetched entry joins those that start or complete in ring order (R315). -/
def accept (a : Accepted) (s : State) : State := onGw (fun g => { g with accepted := g.accepted ++ [a] }) s

/-- A refusal by checks 1 to 6. -/
def refuseFetch (q : Req) (c : Completion) (s : State) : State :=
  accept { req := q, opcode := 0, params := [], formOk := true, closed := false, refused := some c } s

/-- A refusal in the clear with no reply. -/
def refuseClear (q : Req) (status : BitVec 16) (s : State) : State :=
  refuseFetch q { tag := q.tag, kind := 0, status := status, raddr := 0, reply := [] } s

/-- The request of an entry of which no packet header counts: its tag alone. -/
def bareReq (tag : BitVec 16) : Req := { tag := tag, isSealed := false, sid := 0, seq := 0, raddr := 0, rcap := 0 }

/-- Checks 5 and 6, then acceptance; `formOk` is a part of check 8, made after check 7. -/
def acceptPacket (q : Req) (op : Nat) (params : List Byte) (formOk : Bool) (s : State) : State :=
  let o := BitVec.ofNat 8 op
  if !opcodes.contains op then refuseFetch q (completionOf s q o Status.badOpcode 0 []) s
  else if q.rcap.toNat < 64 + replyBound op (ofLe (params.take 1)) then refuseFetch q (completionOf s q o Status.replyTooSmall 0 []) s
  else accept { req := q, opcode := o, params := params, formOk := formOk, closed := false, refused := none } s

/-- Checks 3 and 4 on a packet that has been read whole. -/
def checkPacket (q : Req) (head body : List Byte) (s : State) : State :=
  let op := fld (ofLe head) 48 8
  if !q.isSealed then
    if clearOpcode s op then acceptPacket q op body true s else refuseClear q Status.noSession s
  else
    match session? s q.sid with
    | none => refuseClear q Status.noSession s
    | some ses =>
      let n := body.length - 16
      match gcmOpen ses.h2d (packetNonce q.seq q.sid 0) head (body.take n) (body.drop n) with
      | none => refuseClear q Status.authFailed (authRecord 0 q.sid q.seq 0 s)
      | some pt =>
        if q.seq.toNat ≤ ses.seq.toNat then refuseClear q Status.replay (authRecord 1 q.sid q.seq 0 s)
        else
          let s := onGw (fun g => { g with sessions := g.sessions.map (fun x => if x.sid = q.sid then { x with seq := q.seq } else x) }) s
          let w := ofLe (pt.take 16)
          acceptPacket q (fld w 0 8) ((pt.drop 16).take (fld w 32 32))
            (fld w 8 24 = 0 && fld w 64 64 = 0 && fld w 32 32 ≤ pt.length - 16) s

/-- R293, R296, R301: one entry is fetched. -/
def fetchEntry (entryOk hOk rOk : Bool) (s : State) : State :=
  if !entryOk then gwErr 3 (onGw (fun g => { g with enable := false }) s)
  else
    let e := ofLe (readMem s 3 (s.gw.sqBase.toNat + 64 * s.gw.sqHead.toNat) 64)
    let s := onGw (fun g => { g with sqHead := BitVec.ofNat 32 ((g.sqHead.toNat + 1) % max g.sqSize.toNat 1),
                                     outstanding := g.outstanding + 1 }) s
    let tag := BitVec.ofNat 16 (fld e 0 16)
    if tag = 0xFFFF || fld e 16 16 ≠ 0 || fld e 224 288 ≠ 0 then refuseClear (bareReq tag) Status.badHeader s
    else if !hOk then refuseClear (bareReq tag) Status.hostAccess (gwErr 3 s)
    else
      let paddr := fld e 64 64
      let head := readMem s 3 paddr 32
      if !headOk head (fld e 32 32) then refuseClear (bareReq tag) Status.badHeader s
      else if !rOk then refuseClear (bareReq tag) Status.hostAccess (gwErr 3 s)
      else
        let w := ofLe head
        let q : Req := { tag := tag, isSealed := fld w 32 2 = 1, sid := BitVec.ofNat 3 (fld w 40 3),
                         seq := BitVec.ofNat 64 (fld w 128 64), raddr := BitVec.ofNat 64 (fld e 128 64),
                         rcap := BitVec.ofNat 32 (fld e 192 32) }
        checkPacket q head (readMem s 3 (paddr + 32) (fld w 64 32 - 32)) s

/-- An entry is fetched while the link is up, ENABLE is set, the ring holds one and a place of 256 is free (R293, R315). -/
def canFetch (s : State) : Bool := s.gw.linkUp && s.gw.enable && s.gw.sqHead != s.gw.sqTail && decide (s.gw.outstanding < 256)

def execSubmissionFetch (entryOk hOk rOk : Bool) (s : State) : Host.Outcome State Fault Refusal :=
  if canFetch s then done s (fetchEntry entryOk hOk rOk s) else .next s

/-! ### Completion post -/

/-- Bytes 0 to 15 of a completion entry. -/
def entryHead (c : Completion) (phase : Bool) (status : BitVec 16) (rlen : Nat) : List Byte :=
  wordBytes c.tag ++ leBytes 2 (c.kind.toNat + b2n phase * 16) ++ wordBytes status ++ zeros 2 ++ leBytes 4 rlen ++ zeros 4

/-- R313: a notification is sealed as it is posted, or posted empty where its session has closed. -/
def notifyEntry (s : State) (c : Completion) : List Byte × State :=
  let sid := BitVec.ofNat 3 c.raddr.toNat
  match session? s sid with
  | none => (entryHead c s.gw.phase Status.sessionClosed 0 ++ zeros 48, s)
  | some ses =>
    let n := ses.nseq + 1
    let head := entryHead c s.gw.phase Status.ok 0
    let r := gcmSeal ses.d2h (packetNonce n sid 2) head c.reply
    (head ++ wordBytes n ++ r.1 ++ r.2 ++ zeros 8,
      onGw (fun g => { g with sessions := g.sessions.map (fun x => if x.sid = sid then { x with nseq := n } else x) }) s)

/-- The oldest NOTIFY row in flight completes. -/
def noteDone (s : State) : State :=
  let k := s.seq.flight.findIdx (fun f => f.stage = .notify)
  { s with seq := { s.seq with flight := modifyAt s.seq.flight k (fun f => { f with stage := .done }) } }

/-- R294 to R296: the reply, then the entry, then vector 0. -/
def postOne (c : Completion) (replyOk entryOk : Bool) (s : State) : State :=
  let isNote := c.kind = 1
  let failed := !isNote && !c.reply.isEmpty && !replyOk
  let s := if failed then gwErr 3 s
    else if !isNote && !c.reply.isEmpty then writeMem 3 c.raddr.toNat c.reply s else s
  if !entryOk then gwErr 3 (onGw (fun g => { g with enable := false }) s)
  else
    let r := if isNote then notifyEntry s c
      else (entryHead c s.gw.phase (if failed then Status.hostAccess else c.status) (if failed then 0 else c.reply.length) ++ zeros 48, s)
    let s := writeMem 3 (s.gw.cqBase.toNat + 64 * s.gw.cqTail.toNat) r.1 r.2
    let last := s.gw.cqTail.toNat + 1 = s.gw.cqSize.toNat
    let s := onGw (fun g => { g with
      cqTail := if last then 0 else g.cqTail + 1, phase := if last then !g.phase else g.phase, held := g.held.drop 1,
      outstanding := if isNote then g.outstanding else g.outstanding - 1, vec0 := if g.irqEn then g.vec0 + 1 else g.vec0 }) s
    if isNote then noteDone s else s

/-- On the secondary the reply is written and no entry is posted (spec/12_lashing.md R274; log entry 21). -/
def postReplyOnly (c : Completion) (replyOk : Bool) (s : State) : State :=
  let s := if replyOk && c.kind = 0 then writeMem 3 c.raddr.toNat c.reply s else if c.kind = 0 then gwErr 3 s else s
  onGw (fun g => { g with held := g.held.drop 1, outstanding := g.outstanding - 1 }) s

/-- The completion ring has room (R294). -/
def cqRoom (s : State) : Bool := (s.gw.cqTail.toNat + 1) % max s.gw.cqSize.toNat 1 != s.gw.cqHead.toNat

/-- Posting waits while a protected event waits for an entry of the recorder's queue (spec/15_recorder.md R357). -/
def canPost (s : State) : Bool := s.gw.linkUp && s.gw.enable && cqRoom s && s.log.protWait.isEmpty

def execCompletionPost (replyOk entryOk : Bool) (s : State) : Host.Outcome State Fault Refusal :=
  let t := if shortRuns s then s else passRefused s
  match t.gw.held with
  | [] => .next s
  | c :: _ =>
    if canPost s then
      done s (if s.pair.role = .secondary then postReplyOnly c replyOk t else postOne c replyOk entryOk t)
    else .next s

end Sys2Proof.Machine
end

