-- ==== Sys2Proof/Machine/Gate.lean ====
section
/-!
DEFINITION. How a gangway command starts: checks 3, 6 and 7 of spec/13_commands.md Table 13-7, with the states that R274,
R284, R271, R281, R303, R304, R311, R318, R321 and R342 give (check 4 was made as the packet was fetched).
-/
namespace Sys2Proof.Machine

/-- Opcodes that a SLEEP accepts (R311): those of the CLEAR form (R298) and five others. -/
def sleepOpcode (op : Nat) (q : Req) : Bool := (1 ≤ op && op ≤ 6) || [0x08, 0x12, 0x13, 0x50, 0x60].contains op || (op = 0x24 && !q.isSealed)

/-- A pending LASH lets the five CLEAR opcodes through (R271). -/
def lashOpcode (op : Nat) : Bool := 1 ≤ op && op ≤ 5

/-- The role accepts the opcode: R274 for a secondary, R284 for a stranded half, R281 for a diverged pair. -/
def roleAccepts (op : Nat) (q : Req) (s : State) : Bool :=
  (match s.pair.role with
    | .secondary => [0x01, 0x02, 0x05].contains op || (op = 0x24 && !q.isSealed)
    | .stranded => (1 ≤ op && op ≤ 5) || [0x40, 0x41, 0x24].contains op
    | _ => true) &&
  (!s.pair.diverged || [0x01, 0x02, 0x05, 0x24].contains op)

/-- The lifecycle accepts the opcode (R321), and the boot ROM alone answers three (R342). -/
def lifecycleAccepts (op : Nat) (s : State) : Bool :=
  (match s.trust.lifecycle with
    | .enrolled => op != 0x10
    | .retired => [0x01, 0x02, 0x03, 0x05].contains op
    | _ => (1 ≤ op && op ≤ 6) || op = 0x10) &&
  (!s.trust.noImage || [0x01, 0x02, 0x05].contains op)

/-- The session has the authority the opcode asks for (R303, R304). -/
def sessionAccepts (op : Nat) (ses : Session) : Bool :=
  if ses.provisional then op = 0x10 || op = 0x06 else op != 0x10

/-- RUNSTATE STARTING accepts the CLEAR commands and CLOSE_SESSION (R304). -/
def startingAccepts (op : Nat) (q : Req) (s : State) : Bool := s.gw.runstate != .starting || !q.isSealed || (1 ≤ op && op ≤ 6)

/-- Checks 3, 6 and 7 in order; `own` is the condition on states of the command's own row. -/
def gate (op page : Nat) (q : Req) (own : Bool) (s : State) : Option (BitVec 16) :=
  if !q.isSealed && !clearOpcode s op then some Status.noSession
  else if q.isSealed && ((session? s q.sid).isNone || (nextAccepted s).any Accepted.closed) then some Status.noSession
  else if q.rcap.toNat < 64 + replyBound op page then some Status.replyTooSmall
  else if s.gw.lash.isSome && !lashOpcode op then some Status.wrongState
  else if !roleAccepts op q s || !lifecycleAccepts op s || !startingAccepts op q s then some Status.wrongState
  else if q.isSealed && !((session? s q.sid).any (sessionAccepts op)) then some Status.wrongState
  else if s.power.state = .sleep && !sleepOpcode op q then some Status.wrongState
  else if !own then some Status.wrongState
  else none

/-- Commands start in ring order: the first of those fetched, or one that is fetched as it starts, of which 256 may be outstanding. -/
def inTurn (q : Req) (s : State) : Bool :=
  match nextAccepted s with
  | some a => decide (a.req = q)
  | none => decide (s.gw.outstanding < 256)

/-- A command cannot start before the island is up, out of turn, during the hold of R318, nor while another that is not long runs or a
protected event waits for an entry of the recorder's queue (spec/15_recorder.md R353, R357): it waits. -/
def waits (q : Req) (s : State) : Bool :=
  s.gw.hold || s.power.startup = 0 || shortRuns s || !s.log.protWait.isEmpty || !inTurn q s

/-- Start a command: refused by the gate, or its effect. A refusal for want of a session travels in the clear. -/
def command (op page : Nat) (q : Req) (own : Bool) (f : State → State) (s : State) : Host.Outcome State Fault Refusal :=
  if waits q s then .next s
  else
    let s1 := start q s
    match gate op page q own s with
    | some st =>
      done s (if st = Status.noSession then completeClear q.tag st s1 else refuse q (BitVec.ofNat 8 op) st s1)
    | none => done s (if (nextAccepted s).all Accepted.formOk then f s1 else refuseField q (BitVec.ofNat 8 op) 0 s1)

/-- Check 8 or 9 failed, or the effect. -/
def check (q : Req) (op : Nat) (ok : Bool) (status : BitVec 16) (f : State → State) (s : State) : State :=
  if ok then f s else refuse q (BitVec.ofNat 8 op) status s

/-- Check 8: a parameter is malformed or out of range. -/
def checkField (q : Req) (op param : Nat) (ok : Bool) (f : State → State) (s : State) : State :=
  if ok then f s else refuseField q (BitVec.ofNat 8 op) param s

def inState (s : State) (l : List RunState) : Bool := l.contains s.gw.runstate

end Sys2Proof.Machine
end

