-- ==== Sys2Proof/Machine/Session.lean ====
section
/-!
DEFINITION. Commands of identity, sessions, lifecycle, policy, log and debug (spec/13_commands.md Table 13-9;
spec/14_trust.md; spec/15_recorder.md R353, R360, R362).
-/
namespace Sys2Proof.Machine

/-- Any command but the CLEAR ones may be refused; its reply is formed by `complete`. -/
def reply (q : Req) (op : Nat) (payload : List Byte) (s : State) : State := complete q (BitVec.ofNat 8 op) payload s

/-! ### IDENTIFY, GET_STATUS, ATTEST -/

/-- The reply's parts in the order of Table 13-9 (log entry 17). -/
def identifyPayload (s : State) : List Byte :=
  s.identity.certificates ++ wordBytes (descriptor s) ++ [BitVec.ofNat 8 s.trust.lifecycle.code] ++ wordBytes (ownerFp s) ++
  s.identity.serial ++ wordBytes s.trust.imageA.versionOr0 ++ wordBytes s.trust.imageA.digestOr0 ++
  wordBytes s.trust.imageB.versionOr0 ++ wordBytes s.trust.imageB.digestOr0

def execIdentify (q : Req) (s : State) : Host.Outcome State Fault Refusal :=
  command 0x01 0 q true (fun s => reply q 0x01 (identifyPayload s) s) s

/-- Bit p is set where a port satisfies a condition. -/
def portMask (s : State) (f : Port → Bool) : Nat := ((List.range 6).map (fun p => b2n (f (port s p)) * 2 ^ p)).sum

def lashCode (s : State) : Nat :=
  let p := port s 6
  if p.state = .active || p.state = .doze then (if p.lanes = 0 then 1 else 2) else 0

/-- GET_STATUS page 0, Table 13-8. -/
def page0 (s : State) : List Byte :=
  leBytes 4 (gwStatus s).toNat ++ wordBytes s.seq.haltCause ++ leBytes 2 (b2n s.seq.haltSlot + s.seq.haltRow.toNat * 2) ++
  wordBytes (regionsWord s) ++
  leBytes 2 (portMask s (fun p => p.state = .active || p.state = .doze) + portMask s (fun p => p.state = .fenced) * 2 ^ 6 +
    lashCode s * 2 ^ 12) ++
  wordBytes s.trust.cellMv ++ leBytes 2 (wrapInt 16 s.thermal.tj) ++ leBytes 2 s.thermal.inputW ++
  wordBytes s.log.opSeconds ++ zeros 3 ++ wordBytes s.log.powerCycles ++ zeros 28

/-- Page 1: per stack, corrected errors and parity re-fetches. -/
def page1 (s : State) : List Byte :=
  (List.range 24).flatMap (fun k => wordBytes (sget s.mem.corrected k 0) ++ wordBytes (sget s.mem.refetch k 0))

/-- Page 2: per port 0 to 5 then lash, the five counters of spec/10_fabric.md R239. -/
def page2 (s : State) : List Byte :=
  (List.range 7).flatMap (fun k =>
    let p := port s k
    wordBytes p.corrected ++ wordBytes p.uncorrectable ++ wordBytes p.crcFails ++ wordBytes p.replays ++ wordBytes p.retrainCount)

def execGetStatus (q : Req) (page : BitVec 32) (s : State) : Host.Outcome State Fault Refusal :=
  command 0x02 page.toNat q true (fun s =>
    match page.toNat with
    | 0 => reply q 0x02 (page0 s) s
    | 1 => reply q 0x02 (page1 s) s
    | 2 => reply q 0x02 (page2 s) s
    | _ => refuseField q 0x02 0 s) s

def execAttest (q : Req) (nonce : BitVec 256) (s : State) : Host.Outcome State Fault Refusal :=
  command 0x03 0 q true (fun s =>
    let r := evidence s nonce
    reply q 0x03 (r.1 ++ s.identity.certificates) r.2) s

/-! ### Sessions -/

/-- A mesh, a light sensor or a lid switch stays tripped (spec/14_trust.md R346). -/
def envelopeOpen (s : State) : Bool := s.trust.tamperNow &&& 0x0F != 0

/-- The lowest free session number. -/
def freeSid (s : State) : Option (BitVec 3) := [1, 2, 3, 4].find? (fun i => (session? s i).isNone)

/-- R329: the session is opened and its keys derived. -/
def openNow (q : Req) (sid : BitVec 3) (key : Key) (params : List Byte) (ephemeral : Key) (s : State) : State :=
  let d := draw s
  let priv := Config.random384 d.1
  let part := [BitVec.ofNat 8 sid.toNat] ++ zeros 15 ++ wordBytes (publicKey priv)
  let sg := identitySign (ascii "ez1 accept" ++ params ++ part) d.2
  let x := ecdhX priv ephemeral
  let salt := sha384 (params ++ part)
  let ses : Session := { sid := sid, provisional := s.trust.lifecycle ≠ .enrolled, owner := key, seq := 0, nseq := 0,
                         h2d := hkdf x salt (ascii "ez1 session h2d"), d2h := hkdf x salt (ascii "ez1 session d2h") }
  reply q 0x04 (part ++ wordBytes sg.1) (onGw (fun g => { g with sessions := g.sessions ++ [ses] }) sg.2)

/-- R302, R303, R329: the checks of OPEN_SESSION. -/
def openSession (q : Req) (owner ephemeral signature : Key) (s : State) : State :=
  let enrolled := decide (s.trust.lifecycle = .enrolled)
  let key := if enrolled then s.trust.ownerKey else owner
  let named := wordBytes owner ++ wordBytes ephemeral
  let params := named ++ wordBytes signature
  if envelopeOpen s then refuse q 0x04 Status.wrongState s
  else if !enrolled && s.pins.ownerPresentN then refuse q 0x04 Status.ownerAbsent s
  else if !P384.onCurve ephemeral || (enrolled && bits owner 128 640 ≠ 0) then refuseField q 0x04 0 s
  else if (enrolled && bits owner 0 128 ≠ (ownerFp s).toNat) ||
      !ecdsaVerify key (ascii "ez1 open" ++ named ++ wordBytes (identityFp s)) signature then
    refuse q 0x04 Status.authFailed (authRecord 2 0 0 0x04 s)
  else
    match freeSid s with
    | none => refuse q 0x04 Status.sessionLimit s
    | some sid => openNow q sid key params ephemeral s

def execOpenSession (q : Req) (owner ephemeral signature : Key) (s : State) : Host.Outcome State Fault Refusal :=
  command 0x04 0 q true (openSession q owner ephemeral signature) s

/-- The reply is sealed before the session's keys go. -/
def closeNow (q : Req) (sid : BitVec 8) (s : State) : State :=
  let target := if sid = 0 then q.sid else BitVec.ofNat 3 sid.toNat
  checkField q 0x06 0 (decide (sid.toNat ≤ 4) && (session? s target).isSome) (fun s => endSession target (reply q 0x06 [] s)) s

def execCloseSession (q : Req) (sid : BitVec 8) (s : State) : Host.Outcome State Fault Refusal :=
  command 0x06 0 q true (closeNow q sid) s

/-! ### Enrolment, policy, retirement -/

/-- R323: ENROL takes effect. -/
def enrolNow (q : Req) (owner : Key) (domain : BitVec 256) (policy : BitVec 4096) (s : State) : State :=
  let d := draw s
  let s := { d.2 with trust := { d.2.trust with wrapKey := Config.random256 d.1, ownerKey := owner, domain := domain,
                                                policy := policy, lifecycle := .enrolled } }
  let s := onGw (fun g => { g with sessions := g.sessions.map (fun x => if x.sid = q.sid then { x with provisional := false } else x) }) s
  let s := record Code.enrolled (wordBytes (fingerprint owner)) s
  reply q 0x10 (wordBytes (fingerprint owner)) s

def enrol (q : Req) (owner : Key) (domain : BitVec 256) (policy : BitVec 4096) (s : State) : State :=
  if !(session? s q.sid).any (fun x => x.owner = owner) then refuseField q 0x10 0 s
  else if !policyFormOk policy then refuseField q 0x10 2 s
  else if !policySigned policy owner then refuse q 0x10 Status.authFailed (authRecord 3 q.sid 0 0x10 s)
  else if s.pins.ownerPresentN then refuse q 0x10 Status.ownerAbsent s
  else enrolNow q owner domain policy s

def execEnrol (q : Req) (owner : Key) (domain : BitVec 256) (policy : BitVec 4096) (s : State) :
    Host.Outcome State Fault Refusal :=
  command 0x10 0 q true (enrol q owner domain policy) s

/-- A refusal of a token, with its record (R331). -/
def tokenRefused (q : Req) (op : Nat) (st : BitVec 16) (s : State) : State :=
  if st = Status.badField then refuseField q (BitVec.ofNat 8 op) 0 s
  else refuse q (BitVec.ofNat 8 op) st (if st = Status.authFailed then authRecord 3 (if q.isSealed then q.sid else 0) 0 (BitVec.ofNat 8 op) s else s)

/-- A command that a token carries. -/
def withToken (q : Req) (op kind : Nat) (pairTok : Bool) (t : BitVec 1536) (f : State → State) (s : State) : State :=
  match tokenCheck kind pairTok t s with
  | some st => tokenRefused q op st s
  | none => f s

/-- R321: the wrap key is erased, the fuse blown, and a cold reset follows, which posts no completion (R319). -/
def retireNow (s : State) : State :=
  let s := record Code.retired [] s
  let s := { s with trust := { s.trust with lifecycle := .retired, ownerKey := 0, domain := 0, policy := 0, wrapKey := 0 }
                    fab := { s.fab with cfg := 0 }, pair := { s.pair with record := PairRecord.zero } }
  coldReset s

def execRetire (q : Req) (token : BitVec 1536) (s : State) : Host.Outcome State Fault Refusal :=
  command 0x11 0 q (inState s [.ready] && decide (s.pair.role = .solo) && maintNone s) (withToken q 0x11 1 false token retireNow) s

/-- R328. -/
def policySet (q : Req) (policy : BitVec 4096) (s : State) : State :=
  if !policyFormOk policy then refuseField q 0x14 0 s
  else if !policySigned policy s.trust.ownerKey then refuse q 0x14 Status.authFailed (authRecord 3 q.sid 0 0x14 s)
  else if policyVersion policy ≤ policyVersion s.trust.policy then refuse q 0x14 Status.staleToken s
  else
    let s := record Code.policySet [] { s with trust := { s.trust with policy := policy } }
    reply q 0x14 (wordBytes (policyDigest s)) s

def execPolicySet (q : Req) (policy : BitVec 4096) (s : State) : Host.Outcome State Fault Refusal :=
  command 0x14 0 q (inState s [.ready]) (policySet q policy) s

/-! ### The log -/

/-- R360: committed records of an area from FIRST, up to COUNT. -/
def logFrom (recs : List Rec) (first : BitVec 64) (count : Nat) : List Rec :=
  (recs.filter (fun r => first.toNat ≤ r.seq.toNat)).take count

def area (s : State) (prot : Bool) : List Rec := if prot then s.log.prot else s.log.ring

def execLogRead (q : Req) (areaNo : BitVec 8) (first : BitVec 64) (count : BitVec 32) (s : State) :
    Host.Outcome State Fault Refusal :=
  command 0x05 0 q true (fun s =>
    checkField q 0x05 0 (decide (areaNo.toNat ≤ 1)) (checkField q 0x05 2 (1 ≤ count.toNat && count.toNat ≤ 4096)
      (fun s => reply q 0x05 ((logFrom (area s (areaNo = 1)) first count.toNat).flatMap Rec.bytes) s)) s) s

/-- R353: the record is queued and the reply carries the SEQUENCE it will take (R357: the queue is written in order). -/
def markNow (q : Req) (hostTime : BitVec 64) (note : BitVec 192) (s : State) : State :=
  let l := s.log.takeLost
  let r := l.stamp Code.logMark 0 (wordBytes hostTime ++ wordBytes note)
  let s := { s with log := { l with queue := l.queue ++ [r] } }
  reply q 0x12 (leBytes 8 (l.nextSeq.toNat + l.queue.length)) s

/-- An ordinary entry is free for a LOG_MARK. -/
def markRoom (s : State) : Bool := decide (s.log.takeLost.ordinary < 240)

def logMark (q : Req) (hostTime : BitVec 64) (note : BitVec 192) (s : State) : State :=
  if markRoom s && s.log.markWait.isEmpty then markNow q hostTime note s
  else { s with log := { s.log with markWait := s.log.markWait ++ [(q, hostTime, note)] } }

def execLogMark (q : Req) (hostTime : BitVec 64) (note : BitVec 192) (s : State) : Host.Outcome State Fault Refusal :=
  command 0x12 0 q true (logMark q hostTime note) s

/-- R362. -/
def clearLog (q : Req) (upto : BitVec 64) (fp : Fp) (s : State) : State :=
  let gone := s.log.ring.filter (fun r => r.seq.toNat < upto.toNat)
  let lo := (gone.head?.map Rec.seq).getD 0
  let hi := (gone.getLast?.map Rec.seq).getD 0
  let range := wordBytes lo ++ wordBytes hi ++ leBytes 8 gone.length
  let s := { s with log := { s.log with ring := s.log.ring.filter (fun r => upto.toNat ≤ r.seq.toNat) } }
  let s := record Code.cleared (range ++ leBytes 8 fp.toNat) s
  reply q 0x13 range s

def execLogClear (q : Req) (token : BitVec 1536) (s : State) : Host.Outcome State Fault Refusal :=
  command 0x13 0 q (inState s [.ready, .job])
    (withToken q 0x13 2 false token (clearLog q (tokenArg token) (tokenOwner token))) s

/-! ### READ_STATE, Table 13-10 -/

def watchBytes (w : Watch) : List Byte :=
  leBytes 6 w.elements ++ leBytes 6 w.saturated ++ leBytes 4 w.nans ++ leBytes 4 w.flat ++ wordBytes w.err ++
  wordBytes w.energy ++ leBytes 2 w.rejects ++ leBytes 2 (b2n w.drift)

/-- Verdict register: 0b00 A4, 0b01 A8. -/
def verdictOf (s : State) (k : Nat) : Nat := if s.seq.a4.contains k then 0 else 1

def ferryCount (s : State) (k : Nat) : FerryCount := sget s.job.ferry k { sent := 0, dropped := 0, admitted := 0, second := 0 }

/-- One byte of a sliver map, Table 07-3. -/
def sliverByte (g : Region) (k : Nat) : Byte :=
  match sget? g.sliver k with
  | some i => BitVec.ofNat 8 (i + 128)
  | none => 0

/-- Units and bytes a unit of a selection. -/
def selection (s : State) (sel : Nat) : Option (Nat × Nat) :=
  match sel with
  | 0 => some (256, 32)
  | 1 => some (if inPair s then 128 else 64, 256)
  | 2 => some (1, 256)
  | 3 => some (1, 16)
  | 4 => some (64, 2)
  | 5 => some (256, 32)
  | 6 => some (65536, 16)
  | 7 => some (if inPair s then 128 else 64, 144)
  | 8 => some (1, 16)
  | _ => none

def stateUnit (s : State) (sel k : Nat) : List Byte :=
  match sel with
  | 0 => watchBytes (sget s.seq.watch k Watch.zero)
  | 1 => (List.range 32).flatMap (fun c => wordBytes (sget s.seq.stallR (k * 32 + c) 0))
  | 2 => (List.range 32).flatMap (fun c => wordBytes (sget s.seq.stallM c 0))
  | 3 => (List.range 15).flatMap (fun i => [sget s.seq.flags (i + 1) 0]) ++ [0]
  | 4 => [BitVec.ofNat 8 (verdictOf s k), sget s.seq.hold k 0]
  | 5 => let c := ferryCount s k
         leBytes 8 c.sent.toNat ++ leBytes 8 c.dropped.toNat ++ leBytes 8 c.admitted.toNat ++ leBytes 8 c.second.toNat
  | 6 => match sget? s.seq.ledger k with
         | some e => wordBytes e.shard ++ wordBytes e.digest ++ wordBytes e.epoch
         | none => zeros 16
  | 7 => (List.range 144).map (sliverByte (region s k))
  | _ => leBytes 8 s.seq.step.toNat ++ wordBytes s.seq.remap

def stateUnits (s : State) (sel first count : Nat) : List Byte := (List.range count).flatMap (fun i => stateUnit s sel (first + i))

/-- A reply waits for what the other half reads; `own` comes first. -/
def askOther (q : Req) (op : Nat) (own : List Byte) (f : PairFwd) (s : State) : State :=
  sendLash (.forward f) { s with pair := { s.pair with wait := s.pair.wait ++ [.read q op own] } }

/-- Of the selections by region, a pair's units from 64 on are the other half's. -/
def readState (q : Req) (sel : BitVec 8) (first count : BitVec 32) (s : State) : State :=
  match selection s sel.toNat with
  | none => refuseField q 0x08 0 s
  | some (n, _) =>
    checkField q 0x08 1 (decide (first.toNat + count.toNat ≤ n)) (fun s =>
      if n = 128 && 64 < first.toNat + count.toNat then
        let mine := 64 - first.toNat
        let own := if mine < count.toNat then mine else count.toNat
        askOther q 0x08 (stateUnits s sel.toNat first.toNat own) (.askState sel.toNat (first.toNat + own - 64) (count.toNat - own)) s
      else reply q 0x08 (stateUnits s sel.toNat first.toNat count.toNat) s) s

def execReadState (q : Req) (sel : BitVec 8) (first count : BitVec 32) (s : State) : Host.Outcome State Fault Refusal :=
  command 0x08 0 q (inState s [.job, .running, .halted]) (readState q sel first count) s

/-! ### Debug access, spec/14_trust.md R344 -/

/-- At once, or in a pair with an active run at the next boundary of both halves. -/
def debugOpen (q : Req) (token : BitVec 1536) (s : State) : State :=
  let s := sendLash (.forward (.debugOpen (tokenExpiry token) (tokenOwner token))) s
  if s.pair.role = .primary && s.seq.run.isSome then
    { s with trust := { s.trust with debugWait := some (tokenExpiry token, q.sid, tokenOwner token, some q) } }
  else enterDebug (tokenExpiry token) q.sid (tokenOwner token) (some q) s

def execDebugOpen (q : Req) (token : BitVec 1536) (s : State) : Host.Outcome State Fault Refusal :=
  command 0x70 0 q ((s.trust.debug).isNone && s.trust.debugWait.isNone && policyDebug s.trust.policy)
    (withToken q 0x70 3 (inPair s) token (debugOpen q token)) s

def execDebugClose (q : Req) (s : State) : Host.Outcome State Fault Refusal :=
  command 0x71 0 q (s.trust.debug).isSome
    (fun s => reply q 0x71 [0] (endDebug 0 (sendLash (.forward (.debugClose 0)) s))) s

/-- Key of an accumulator word (spec/05_accumulators.md R117). -/
def accKey (core bank row lane : Nat) : Nat := ((core * 2 + bank) * 48 + row) * 512 + lane

def accWord (s : State) (key : Nat) : F32 := sget s.mem.acc key (Config.undefWord s.mem.era key)

/-- Word k of an area of table memory held as 16-bit words; `free` where none has been written there. -/
def tableWord (free : BitVec 32) (l : List (BitVec 16)) (k : Nat) : BitVec 32 :=
  BitVec.ofNat 32 ((nth l (2 * k) (free.truncate 16)).toNat + (nth l (2 * k + 1) (free.truncate 16)).toNat * 2 ^ 16)

def half {α : Type} (b : Bool) (x : α × α) : α := if b then x.2 else x.1

/-- A word of a region scan of a core: what it stands for is the module's own (log entry 22); `free` is an unstated word. -/
def scanWord (s : State) (r phys : Nat) (free : BitVec 32) (place : Config.ScanPlace) : BitVec 32 :=
  let t := sget s.mem.table phys CoreTable.fresh
  match place with
  | .staging k => bytesWord 32 (readMem s 1 (stagingKey phys (4 * (k % 65536))) 4)
  | .acc b k => accWord s (accKey phys (b2n b) 0 (k % 24576))
  | .slice k => bytesWord 32 (readMem s 2 (sliceKey r (4 * (k % 2 ^ 20))) 4)
  | .sums b k => tableWord free (half b t.sums).flatten k
  | .scales b k => tableWord free (half b t.scales) k
  | .codes b k => let l := ((half b t.codes).drop (4 * k)).take 4; if l.length = 4 then bytesWord 32 l else free
  | .other => free

/-- Accumulator words that a DEBUG_READ reads. -/
def debugAccs (phys target bank first length : Nat) : List Nat :=
  (List.range length).filterMap (fun k =>
    if target = 0 then some (accKey phys bank 0 (first + k))
    else if target = 2 then match Config.scanPlace (first + k) with | .acc b j => some (accKey phys (b2n b) 0 (j % 24576)) | _ => none
    else none)

/-- The words of DEBUG_READ: accumulator words of a bank, staging words, or a region scan. -/
def debugWords (s : State) (target r core bank first length : Nat) : List Byte :=
  let phys := physCore s r core
  if target = 0 then (List.range length).flatMap (fun k => wordBytes (accWord s (accKey phys bank 0 (first + k))))
  else if target = 1 then readMem s 1 (stagingKey phys (4 * first)) (4 * length)
  else (List.range length).flatMap (fun k => wordBytes (scanWord s r phys (Config.freeWord s.free k) (Config.scanPlace (first + k))))

/-- ACC_PARITY and the halt (R134): core, bank, tile row and slot. -/
def accFault (row : Option Nat) (r k bank tileRow slot : Nat) (s : State) : State :=
  haltWith Status.parityFault 0 row false (nameCore r k
    (record Code.accParity (coreParam r k ++ leBytes 1 bank ++ leBytes 1 tileRow ++ leBytes 1 slot) s))

/-- A DEBUG_READ in a run meets an accumulator word whose parity fails (spec/05_accumulators.md R134): the slot is that of the tile which
holds the word, unstated where none does. -/
def debugParity (r core target bank first length : Nat) (s : State) : State :=
  match (if s.gw.runstate = .running then (debugAccs (physCore s r core) target bank first length).find? (fun a => s.mem.accBad.contains a)
         else none) with
  | none => s
  | some a =>
    let tileRow := a / 512 % 48
    let bank := a / 512 / 48 % 2
    let owner := s.seq.tiles.find? (fun t => t.region = r && t.core = core && t.bank = bank && t.base ≤ tileRow &&
      decide (tileRow < t.base + t.nrows * (t.levels + 1)))
    accFault none r core bank tileRow ((owner.map Tile.slot).getD ((Config.freeWord s.free 0).toNat % 128)) s

/-- The words of a DEBUG_READ of this half's, and what reading them does. -/
def scanned (target r core bank first length : Nat) (s : State) : List Byte × State :=
  (debugWords s target r core bank first length, (draw (debugParity r core target bank first length s)).2)

def debugRead (q : Req) (target r core bank : BitVec 8) (first length : BitVec 32) (s : State) : State :=
  let words := if target = 0 then 24576 else if target = 1 then 65536 else 2 ^ 32
  if 2 < target.toNat || (if inPair s then 128 else 64) ≤ r.toNat || 144 ≤ core.toNat || 1 < bank.toNat ||
      65536 < length.toNat || words < first.toNat + length.toNat then refuseField q 0x72 0 s
  else
    let s := wakeDoze s
    if 64 ≤ r.toNat then
      askOther q 0x72 [] (.askDebug target.toNat (r.toNat - 64) core.toNat bank.toNat first.toNat length.toNat) s
    else
      let p := scanned target.toNat r.toNat core.toNat bank.toNat first.toNat length.toNat s
      reply q 0x72 p.1 p.2

def execDebugRead (q : Req) (target r core bank : BitVec 8) (first length : BitVec 32) (s : State) :
    Host.Outcome State Fault Refusal :=
  command 0x72 0 q (s.trust.debug).isSome (debugRead q target r core bank first length) s

/-! ### Host windows, spec/09_memory.md R208 -/

/-- Windows of the long commands that run. -/
def windowsInUse (s : State) : List (BitVec 8) :=
  (s.gw.seals.map SealJob.window).toList ++ (s.gw.image.bind ImageJob.window).toList ++ (s.gw.lowering.bind LowerJob.window).toList

def windowReg (q : Req) (window : BitVec 32) (base size : BitVec 64) (s : State) : State :=
  if 255 < window.toNat then refuseField q 0x3B 0 s
  else if base.toNat % 4096 ≠ 0 then refuseField q 0x3B 1 s
  else
    let ws := s.gw.windows
    let k := window.toNat
    reply q 0x3B [] (onGw (fun g => { g with windows := if size = 0 then (sdel ws k) else (sput ws k (base, size)) }) s)

def execWindowReg (q : Req) (window : BitVec 32) (base size : BitVec 64) (s : State) : Host.Outcome State Fault Refusal :=
  command 0x3B 0 q (inState s [.ready, .job, .halted] && !(windowsInUse s).any (fun w => w.toNat = window.toNat))
    (windowReg q window base size) s

end Sys2Proof.Machine
end

