-- ==== Sys2Proof/Machine/Supply.lean ====
section
/-!
DEFINITION. Supplies, clocks, resets, start-up and power states (spec/16_power.md R364 to R380; spec/17_modes_repair.md R392 to
R397; spec/18_limits.md R411). An event whose condition does not hold changes nothing.
-/
namespace Sys2Proof.Machine

def onPower (f : Power → Power) (s : State) : State := { s with power := f s.power }
def onPins (f : Pins → Pins) (s : State) : State := { s with pins := f s.pins }
def onThermal (f : Thermal → Thermal) (s : State) : State := { s with thermal := f s.thermal }

/-- An event with a condition: its effect, or nothing. -/
def event (cond : Bool) (f : State → State) (s : State) : Host.Outcome State Fault Refusal :=
  if cond then done s (f s) else .next s

/-! ### Link bring-up starts, spec/10_fabric.md R229, spec/18_limits.md R414 -/

/-- A cable is sensed, or the port has been ACTIVE since the cold reset. -/
def sensed (s : State) (p : Nat) : Bool :=
  (if p = 6 then !s.pins.lashSenseN else !bitAt s.pins.fabricSenseN p) || (port s p).everActive

/-- A fabric port enabled in PORT_EN, or the lash port of a pair, a stranded half or a pending LASH. -/
def wanted (s : State) (p : Nat) : Bool :=
  if p = 6 then s.pair.role != .solo || s.gw.lash.isSome else portEnabled s p && !(port s p).offHold

/-- Bring-up starts on an OFF port that is wanted and sensed, with the rails up, outside SLEEP and in ENROLLED. -/
def bringUp (p : Nat) (s : State) : State :=
  let q := port s p
  if q.state = .off && q.hs = .idle && wanted s p && sensed s p && s.power.rails && s.power.state != .sleep &&
      s.trust.lifecycle = .enrolled then
    onPort p (fun q => { q with hs := .train, transcript := [] }) s
  else s

def bringUpAll (s : State) : State := (List.range 7).foldl (fun s p => bringUp p s) s

/-! ### AUX -/

/-- R357, R358: when AUX fails queued ordinary events are lost into the battery-backed count. -/
def Recorder.auxFail (l : Recorder) : Recorder :=
  let lost := l.queue.filter (fun r => !r.isProt)
  match lost with
  | [] => { l with markWait := [] }
  | r :: _ =>
    let last := lost.getLast?.getD r
    { l with queue := l.queue.filter Rec.isProt, loss := satAdd l.loss lost.length, lossFirst := some (l.lossFirst.getD r),
             lossLast := (last.source, last.code), markWait := [] }

/-- R358: the LOST record with DEFERRED set goes before everything kept. -/
def Recorder.auxBack (l : Recorder) : Recorder :=
  if l.loss = 0 then l
  else { l with queue := l.lostRecord 8 :: l.queue, loss := 0, lossFirst := none, lossLast := (0, 0) }

/-- spec/14_trust.md R347: CELL_LOW is set below 2.6 V, with one record for each crossing (`flags` DEFERRED where the crossing
came without AUX). -/
def cellCheck (flags : BitVec 8) (mv : BitVec 16) (s : State) : State :=
  let low := decide (mv.toNat < 2600)
  let t := { s with trust := { s.trust with cellMv := mv, cellLow := low } }
  if low && !s.trust.cellLow then { t with log := t.log.push (t.log.stamp Code.cellLow flags []) } else t

/-- R358: LOST, TAMPER, the protected events kept, AUX_ORDER, POWER_UP, in this order. -/
def auxRecords (deferred : Bool) (cell : BitVec 16) (s : State) : State :=
  let kept := s.log.queue
  let s := { s with log := ({ s.log with queue := [] } : Recorder).auxBack }
  let s := tamperRecord (if deferred then 8 else 0) s
  let s := { s with log := { s.log with queue := s.log.queue ++ kept } }
  let s := if s.power.auxOrder then
      { s with log := s.log.push (s.log.stamp Code.auxOrder 8 []), power := { s.power with auxOrder := false } } else s
  let s := cellCheck 8 cell s
  let s := bootImage s
  record Code.powerUp (wordBytes cell ++ [BitVec.ofNat 8 (b2n s.trust.running), BitVec.ofNat 8 s.trust.lifecycle.code]) s

/-- Table 17-4, step 1: the island boots. Cell loss loses the latch (spec/14_trust.md R347), restores the counters from flash (R352) and
trips sensor 7. -/
def auxGood (islandOk : Bool) (cell : BitVec 16) (slotId : BitVec 3) (ownerPresentN : Bool) (s : State) : State :=
  let s := { s with
    pins := { s.pins with aux := true, slotId := slotId, ownerPresentN := ownerPresentN, thermTripN := true }
    power := { s.power with startup := 1, auxReady := false, railFaults := 0, lockout := freeAux s.power.lockout }
    thermal := { s.thermal with outletTarget := 0x370, dutyMin := 25, duty := 1000, cappedMs := 0, boostMs := 0, conds := [],
                                tripped := false, hot := false, loopOn := false, ran := false }
    trust := { s.trust with cellMv := cell, tamperLatch := if islandOk then s.trust.tamperLatch else 0 }
    log := if islandOk then { s.log with powerCycles := s.log.powerCycles + 1, flashCycles := s.log.powerCycles + 1 }
           else { s.log with opSeconds := s.log.flashOp + 256, powerCycles := s.log.flashCycles + 1,
                             flashCycles := s.log.flashCycles + 1 } }
  let deferred := decide (s.trust.tamperLatch ≠ 0)
  let s := if islandOk then s else zeroise 0x80 s
  let s := auxRecords deferred cell s
  onPower (fun p => { p with mainHold := s.pins.mainEn }) s

def execAuxGood (islandOk : Bool) (cell : BitVec 16) (slotId : BitVec 3) (ownerPresentN : Bool) (s : State) :
    Host.Outcome State Fault Refusal :=
  event (!s.pins.aux) (auxGood islandOk cell slotId ownerPresentN) s

/-- R371: the emergency sequence if MAIN is up, then the tamper cell; THERM_TRIP_N and SMB_ALERT_N are released. -/
def auxLost (s : State) : State :=
  let order := s.power.rails
  let s := if order then emergencyDown s else standby s
  { s with
    pins := { s.pins with aux := false, thermTripN := true, smbAlertN := true }
    power := { s.power with startup := 0, auxReady := false, auxOrder := s.power.auxOrder || order }
    thermal := { s.thermal with tripped := false, hot := false }
    log := s.log.auxFail }

def execAuxLost (s : State) : Host.Outcome State Fault Refusal := event s.pins.aux auxLost s

/-! ### MAIN -/

/-- R386: when the valve loop starts, integ makes the duty 100 %. Temperatures are in 1/16 °C, integ in 1/160 K·s. -/
def startInteg (outlet : Int) (target : BitVec 16) : Int := 32000 - 80 * (outlet - target.toNat)

/-- Tables 16-3 and 17-4: MAIN good, rails up, PLLs locked, regions gated at 850 MHz; memory training is next. -/
def startMain (s : State) : State :=
  let s := coldStart s
  let s := { s with
    power := { s.power with rails := true, mainHold := false, state := .run, startup := 2 }
    pins := { s.pins with thermTripN := true }
    thermal := { s.thermal with tripped := false, hot := false, tp := s.thermal.tj * 62500, loopOn := true, ran := true,
                                integ := startInteg s.thermal.outlet s.thermal.outletTarget, duty := 1000 } }
  bringUpAll s

/-- The lockouts of R370 and the conditions of R365. -/
def mainAllowed (s : State) : Bool := s.pins.aux && s.power.auxReady && s.power.lockout = .none && !s.power.rails

def mainEnAssert (s : State) : State :=
  let s := onPins (fun p => { p with mainEn := true }) s
  if mainAllowed s then startMain s
  else if s.pins.aux && !s.power.auxReady && s.power.lockout = .none then onPower (fun p => { p with mainHold := true }) s
  else s

def execMainEnAssert (s : State) : Host.Outcome State Fault Refusal := event (!s.pins.mainEn) mainEnAssert s

/-- R365: AUX has been good for 20 ms and the island boot has ended; a held MAIN_EN acts. -/
def mainHoldRelease (s : State) : State :=
  let s := onPower (fun p => { p with auxReady := true }) s
  if s.power.mainHold && s.pins.mainEn && mainAllowed s then startMain s else s

def execMainHoldRelease (s : State) : Host.Outcome State Fault Refusal :=
  event (s.pins.aux && !s.power.auxReady) mainHoldRelease s

/-- R369: the down sequence into STANDBY; a lockout until deassertion ends. -/
def mainEnDeassert (s : State) : State :=
  let s := onPins (fun p => { p with mainEn := false }) s
  let s := if s.power.rails then standby s else s
  onPower (fun p => { p with mainHold := false, lockout := freeDeassert p.lockout }) s

def execMainEnDeassert (s : State) : Host.Outcome State Fault Refusal := event s.pins.mainEn mainEnDeassert s

/-- The band of R366: 0 in range, 1 to 4 its rows. -/
def mainBandOf (mv : Nat) : Nat :=
  if mv < 36000 then 2 else if mv < 38000 then 1 else if mv ≤ 50000 then 0 else if mv ≤ 55000 then 3 else 4

/-- R366: each record once for each entry into its band. -/
def mainRange (mv : Nat) (lasted : Bool) (s : State) : State :=
  let s := onThermal (fun t => { t with mainMv := mv }) s
  let b := mainBandOf mv
  if b = 0 then onThermal (fun t => { t with mainBand := 0 }) s
  else if !lasted then (if s.thermal.mainBand = b then s else onThermal (fun t => { t with mainBand := 0 }) s)
  else
    let s := if s.thermal.mainBand = b then s else record Code.mainRange (leBytes 2 mv) s
    let s := onThermal (fun t => { t with mainBand := b }) s
    if b = 2 || b = 4 then emergencyDown s else s

def execMainRange (mv : Nat) (lasted : Bool) (s : State) : Host.Outcome State Fault Refusal :=
  event s.power.rails (mainRange mv lasted) s

/-- R370. -/
def railFault (rail : Fin 12) (phase : Fin 3) (mv : Nat) (s : State) : State :=
  let s := record Code.railFault (leBytes 1 rail.val ++ leBytes 1 phase.val ++ leBytes 2 mv) s
  let s := emergencyDown s
  onPower (fun p => { p with railFaults := p.railFaults + 1, lockout := if 2 ≤ p.railFaults then lockAux p.lockout else p.lockout }) s

def execRailFault (rail : Fin 12) (phase : Fin 3) (mv : Nat) (s : State) : Host.Outcome State Fault Refusal :=
  event s.pins.aux (railFault rail phase mv) s

/-! ### Clocks, R374 -/

def pllLossOfLock (r : Fin 64) (s : State) : State :=
  let s := record Code.clockFault (regionParam s r) s
  if (region s r).inService then fenceNow r .pll s else onRegion r (fun g => { g with clock := .gated }) s

def execPllLossOfLock (r : Fin 64) (s : State) : Host.Outcome State Fault Refusal :=
  event ((region s r).clock = .ready) (pllLossOfLock r) s

def execLinkRefclkFault (s : State) : Host.Outcome State Fault Refusal :=
  event s.power.rails (fun s => emergencyDown (record Code.clockFault [0xFF] s)) s

/-- The timetable keeps running; completions are held until the link returns. -/
def execPcieRefclkLoss (s : State) : Host.Outcome State Fault Refusal :=
  event s.pins.pcieRef (fun s => onGw (fun g => { g with linkUp := false }) (onPins (fun p => { p with pcieRef := false }) s)) s

/-! ### PERST_N and the warm reset -/

/-- The endpoint's registers return to their reset values and the link is down; no completion is posted (R319). -/
def resetEndpoint (s : State) : State :=
  onGw (fun g => { g with linkUp := false, err := 0, enable := false, irqEn := false, sqBase := 0, sqSize := 0, sqTail := 0,
                          sqHead := 0, cqBase := 0, cqSize := 0, cqHead := 0, cqTail := 0, phase := true, msix := [] }) s

/-- spec/18_limits.md R411: FULL_STRAP is sampled; a warm reset before READY resets only the endpoint. -/
def perstNFall (fullStrap : Bool) (s : State) : State :=
  let s := onPins (fun p => { p with perstN := false, fullStrap := fullStrap }) s
  if !s.power.rails then resetEndpoint s
  else if s.pins.fullStrap then bringUpAll (coldReset (resetEndpoint s))
  else
    let s := resetEndpoint s
    if s.power.startup = 6 then onGw (fun g => { g with warmPending := true, held := [] }) s
    else onGw (fun g => { g with held := [], accepted := [], outstanding := 0 }) s

def execPerstNFall (fullStrap : Bool) (s : State) : Host.Outcome State Fault Refusal :=
  event s.pins.perstN (perstNFall fullStrap) s

def execPcieLinkUp (s : State) : Host.Outcome State Fault Refusal :=
  event (s.power.rails && !s.gw.linkUp) (fun s =>
    onGw (fun g => { g with linkUp := true }) (onPins (fun p => { p with perstN := true, pcieRef := true }) s)) s

/-- Held completions that the ring has room for are posted. -/
def postAll : Nat → State → State
  | 0, s => s
  | n + 1, s =>
    match s.gw.held with
    | [] => s
    | c :: _ => if canPost s && s.pair.role != .secondary then postAll n (postOne c true true s) else s

/-- R319: WARM_RESET for every outstanding command, ENABLE cleared, vector 1; without a link nothing is posted. -/
def warmPosts (s : State) : State :=
  if s.gw.linkUp then
    let s := completeAllClear Status.warmReset s
    let s := postAll s.gw.held.length s
    raiseVec1 (onGw (fun g => { g with enable := false }) s)
  else s

/-- R392, R393: the reset takes effect between boundaries; the other half resets too (R277). -/
def warmNow (s : State) : State :=
  warmReset (warmPosts (sendLash .warmReset s))

def execWarmResetEffect (s : State) : Host.Outcome State Fault Refusal := event (s.gw.warmPending && s.power.rails) warmNow s

/-- R392: HALTED if a job was started, else READY; power RUN, or as a SLEEP or DOZE left it. -/
def controlRestartDone (s : State) : State :=
  let s := onPower (fun p => { p with startup := 6, state := .run }) s
  settleDoze (onGw (fun g => { g with runstate := if s.job.started then .halted else .ready }) s)

def execControlRestartDone (s : State) : Host.Outcome State Fault Refusal := event (s.power.startup = 7) controlRestartDone s

/-! ### Start-up, R394 to R396 -/

/-- The security processor makes both key pairs from its random source (spec/09_memory.md R216). -/
def newMemKeys (s : State) : State :=
  let k (i : Nat) : BitVec 256 := Config.random256 (s.free + i)
  { s with mem := { s.mem with keys := some { near := (k 0, k 1), far := (k 2, k 3) } }, free := s.free + 4 }

def memoryTrained (failed : Option (Fin 24)) (s : State) : State :=
  match failed with
  | some k => onPower (fun p => { p with startup := 9 }) (record Code.selftestFail ([0xFF, 0xFF, 0xFF] ++ leBytes 1 k.val) s)
  | none =>
    newMemKeys (onPower (fun p => { p with startup := 3 }) s)

def execMemoryTrained (failed : Option (Fin 24)) (s : State) : Host.Outcome State Fault Refusal :=
  event (s.power.startup = 2) (memoryTrained failed) s

/-- Spares given to the failing cores of the regions of one row band, in ascending region order, each core the lowest free
index: (region, core, spare), or the region and core that found none. -/
def assignSpares (bad : List Nat) : List (Nat × Nat) → List Nat → List (Nat × Nat × Nat) → List (Nat × Nat × Nat) ⊕ (Nat × Nat)
  | [], _, acc => .inl acc.reverse
  | (r, k) :: rest, used, acc =>
    match freeSpare used bad with
    | none => .inr (r, k)
    | some i => assignSpares bad rest (i :: used) ((r, k, i) :: acc)

/-- R395: a region for which no spare is left is fenced, and its band is assigned again without it. -/
def bandSpares (bad : List Nat) (fails : Nat → List Nat) : Nat → List Nat → List (Nat × Nat × Nat) × List (Nat × Nat)
  | 0, _ => ([], [])
  | n + 1, regions =>
    match assignSpares bad (regions.flatMap (fun r => (fails r).map (fun k => (r, k)))) [] [] with
    | .inl a => (a, [])
    | .inr (r, k) =>
      let rest := bandSpares bad fails n (regions.filter (fun x => x != r))
      (rest.1, (r, k) :: rest.2)

/-- The location of a failed slice (R395). -/
def sliceParam (r : Nat) : List Byte := [BitVec.ofNat 8 (regionDie r), 0xFF, BitVec.ofNat 8 (r % 16)]

/-- One row band of start-up step 5: what is fenced and which spares stand. -/
def bandResult (cores : List (Fin 64 × Fin 144)) (spares : List (Fin 16 × Fin 24)) (slices : List (Fin 64)) (band : Nat) :
    List (Nat × List Byte) × List (Nat × Nat × Nat) :=
  let fails (r : Nat) : List Nat := (List.range 144).filter (fun k => cores.any (fun c => c.1.val = r && c.2.val = k))
  let bad := (spares.filter (fun p => p.1.val = band)).map (fun p => p.2.val)
  let regions := (List.range 4).map (fun j => band * 4 + j)
  let sliceBad := regions.filter (fun r => slices.any (fun x => x.val = r))
  let tooMany := regions.filter (fun r => !sliceBad.contains r && decide (6 < (fails r).length))
  let res := bandSpares bad fails 4 (regions.filter (fun r => !sliceBad.contains r && !tooMany.contains r))
  (sliceBad.map (fun r => (r, sliceParam r)) ++ tooMany.map (fun r => (r, coreParam r ((fails r).headD 0))) ++
    res.2.map (fun p => (p.1, coreParam p.1 p.2)), res.1)

/-- CORE_FENCED names the core and the spare: die, band row, index. -/
def coreFencedParam (r k i : Nat) : List Byte :=
  coreParam r k ++ [BitVec.ofNat 8 (regionDie r), BitVec.ofNat 8 (regionBandRow r), BitVec.ofNat 8 i]

def selftestBand (cores : List (Fin 64 × Fin 144)) (spares : List (Fin 16 × Fin 24)) (slices : List (Fin 64)) (band : Nat)
    (s : State) : State :=
  let b := bandResult cores spares slices band
  let s := b.1.foldl (fun s f => record Code.selftestFail (regionParam s f.1 ++ f.2)
    (onRegion f.1 (fun g => { g with mode := .fenced .selftest, sliver := [], clock := .gated }) s)) s
  let s := b.2.foldl (fun s a => record Code.coreFenced (coreFencedParam a.1 a.2.1 a.2.2)
    (onRegion a.1 (fun g => { g with sliver := sput g.sliver a.2.1 a.2.2 }) s)) s
  (((List.range 4).map (fun j => band * 4 + j)).filter (fun r => !b.1.any (fun f => f.1 = r))).foldl (fun s r =>
    onRegion r (fun g => { g with mode := .service, clock := .ready }) s) s

/-- Steps 4 to 6 of Table 17-4: READY with any number of regions in service. -/
def selftestDone (cores : List (Fin 64 × Fin 144)) (spares : List (Fin 16 × Fin 24)) (slices : List (Fin 64)) (s : State) : State :=
  let s := { s with badSpares := spares.map (fun p => p.1.val * 24 + p.2.val) }
  let s := (List.range 16).foldl (fun s b => selftestBand cores spares slices b s) s
  settleDoze (onGw (fun g => { g with runstate := .ready }) (onPower (fun p => { p with startup := 6, state := .run }) s))

def execSelftestDone (cores : List (Fin 64 × Fin 144)) (spares : List (Fin 16 × Fin 24)) (slices : List (Fin 64)) (s : State) :
    Host.Outcome State Fault Refusal :=
  event (s.power.startup = 3) (selftestDone cores spares slices) s

/-! ### POWER, SLEEP and DOZE, R378 to R380, spec/13_commands.md R311 -/

/-- Every region is gated and the module dozes. -/
def enterDoze (s : State) : State :=
  onPower (fun p => { p with state := .doze }) (onRegions (fun _ g => { g with clock := .gated }) s)

def retesting (s : State) : Bool := s.regions.any Region.retest

def powerTo (q : Req) (target : Nat) (s : State) : State :=
  match target with
  | 0 =>
    if s.power.state = .sleep then onPower (fun p => { p with wakeReq := true, dozeTarget := false }) (onGw (fun g => { g with powerCmd := some (q, 0) }) s)
    else
      let s := onPower (fun p => { p with dozeTarget := false, state := if p.state = .doze then .run else p.state }) s
      reply q 0x60 [BitVec.ofNat 8 s.power.state.code] s
  | 1 =>
    let s := onPower (fun p => { p with dozeTarget := true }) s
    if retesting s || s.power.state = .sleep then onGw (fun g => { g with powerCmd := some (q, 1) }) s
    else let s := enterDoze s; reply q 0x60 [BitVec.ofNat 8 s.power.state.code] s
  | _ =>
    if s.seq.run.any (fun r => !r.asleep) then
      onPower (fun p => { p with sleepReq := true }) (onGw (fun g => { g with powerCmd := some (q, 2) }) s)
    else let s := enterSleep s; reply q 0x60 [BitVec.ofNat 8 s.power.state.code] s

/-- The states in which a POWER request can act: DOZE is refused while RUNNING (R311), SLEEP during SEALING (Table 17-2). In SLEEP
a DOZE request is accepted and leaves the module there (R311, R380; DEDUCED, log entry 82). -/
def powerAccepts (target : Nat) (s : State) : Bool :=
  s.gw.powerCmd.isNone && s.gw.stopCmd.isNone &&
    (if target = 1 then s.gw.runstate != .running
     else if target = 2 then !s.trust.sealing else true)

/-- A power request reaches the other half as a message where it is awake and stays so; a SLEEP without a run by the sleep notice, and a wake
by training of the lash port (spec/12_lashing.md R277; log entry 67). -/
def tellPower (target : BitVec 8) (boostEn : Bool) (s : State) : State :=
  let byPort := (target = 2 && !s.seq.run.any (fun r => !r.asleep)) || (target = 0 && s.power.state = .sleep)
  sendLash (.forward (if byPort then .boost boostEn else .power target boostEn)) s

def powerCommand (q : Req) (target boostEn : BitVec 8) (s : State) : State :=
  if 2 < target.toNat then refuseField q 0x60 0 s
  else if 1 < boostEn.toNat then refuseField q 0x60 1 s
  else
    let s := tellPower target (boostEn = 1) s
    powerTo q target.toNat (onPower (fun p => { p with boostEn := boostEn = 1 }) s)

def execPower (q : Req) (target boostEn : BitVec 8) (s : State) : Host.Outcome State Fault Refusal :=
  command 0x60 0 q (powerAccepts target.toNat s) (powerCommand q target boostEn) s

/-- R380. -/
def execIdleSleep (s : State) : Host.Outcome State Fault Refusal :=
  event (s.gw.runstate = .ready && (s.power.state = .doze || s.power.state = .run) && s.gw.seals.isNone && s.gw.powerCmd.isNone)
    enterSleep s

/-- R379: ports are brought up, a run that slept continues, retests start again, POWER completes. -/
def sleepWakeDone (s : State) : State :=
  let s := onPower (fun p => { p with state := .run, wakeReq := false }) s
  let s := { s with seq := { s.seq with run := s.seq.run.map (fun r => { r with asleep := false }) } }
  let s := onRegions (fun _ g => if g.retest then { g with clock := .waking } else g) s
  completePower (bringUpAll s)

def execSleepWakeDone (s : State) : Host.Outcome State Fault Refusal :=
  event (s.power.state = .sleep && s.power.wakeReq) sleepWakeDone s

/-! ### RESET, spec/13_commands.md R312 -/

/-- Regions that commands may name: those of both halves in a pair (spec/12_lashing.md R273). -/
def regionCount (s : State) : Nat := if inPair s then 128 else 64

/-- The region, by its pair number, is named by the ACTIVE or an ARMED slot. -/
def regionBusy (s : State) (r : Nat) : Bool :=
  [false, true].any (fun b => ((slotOf s b).state = .active || (slotOf s b).state = .armed) && slotNamesOf s b (r / 64) (r % 64))

/-- Table 17-3, Region: contents are lost and the self-test runs in PROVING. -/
def resetRegion (r : Nat) (s : State) : State :=
  let s := onRegion r (fun g => { g with mode := .slipway .regionReset, retest := true, clock := .waking, pendingFence := none,
                                         failing := [], coreParity := [], sliceParity := [] }) (loseRegion r s)
  sendLash (.forward (.regions (regionsWord s) false)) s

/-- RESET is accepted where its kind is: WARM in any RUNSTATE but STARTING with no POWER or STOP running; REGION in READY,
JOB and HALTED on a region that no ACTIVE or ARMED slot names. -/
def resetAccepts (kind r : Nat) (s : State) : Bool :=
  if kind = 0 then s.gw.powerCmd.isNone && s.gw.stopCmd.isNone
  else if kind = 1 then inState s [.ready, .job, .halted] && !regionBusy s r
  else true

def resetCommand (q : Req) (kind r : BitVec 8) (s : State) : State :=
  if 1 < kind.toNat then refuseField q 0x61 0 s
  else if (kind = 1 && regionCount s ≤ r.toNat) || (kind = 0 && r ≠ 0) then refuseField q 0x61 1 s
  else if kind = 0 then onGw (fun g => { g with warmPending := true }) (reply q 0x61 [] s)
  else reply q 0x61 [] (if r.toNat < 64 then resetRegion r.toNat (wakeDoze s) else sendLash (.forward (.regionReset (r.toNat % 64))) s)

def execReset (q : Req) (kind r : BitVec 8) (s : State) : Host.Outcome State Fault Refusal :=
  command 0x61 0 q (resetAccepts kind.toNat r.toNat s) (resetCommand q kind r) s

end Sys2Proof.Machine
end

