-- ==== Sys2Proof/Machine/Recorder.lean ====
section
/-!
DEFINITION. The recorder's writes, the SMBus sideband, the operating counters, and the tamper sensors (spec/15_recorder.md;
spec/14_trust.md R344 to R348; spec/16_power.md R387; spec/18_limits.md R412, R413).
-/
namespace Sys2Proof.Machine

def onLog (f : Recorder → Recorder) (s : State) : State := { s with log := f s.log }

/-! ### Writing records -/

/-- An entry of the queue is free again: a waiting LOST record enters, then a protected event that waits (R357). -/
def Recorder.settle (l : Recorder) : Recorder :=
  let l := l.takeLost
  match l.protWait with
  | r :: rest => if l.protQueued < 16 then { l with queue := l.queue ++ [r], protWait := rest } else l
  | [] => l

/-- R354, R355: a record is written to its area, over the one of lowest SEQUENCE where the area is full. R352: the counters
are copied to secure flash. -/
def Recorder.commit (l : Recorder) (r : Rec) : Recorder :=
  let l := { l with nextSeq := l.nextSeq + 1, flashOp := l.opSeconds, flashCycles := l.powerCycles }
  if r.isProt then { l with prot := (l.prot ++ [r]).drop (l.prot.length + 1 - 8192) }
  else { l with ring := (l.ring ++ [r]).drop (l.ring.length + 1 - 1048576) }

/-- spec/18_limits.md R413: a record of severity ERROR or CRITICAL asserts SMB_ALERT_N. -/
def alertFor (r : Rec) (s : State) : State :=
  if 3 ≤ r.severity.toNat then onPins (fun p => { p with smbAlertN := false }) s else s

/-- R278, R359: a pair event that the primary wrote becomes the log tail, and is sent to the other half. -/
def pairTail (r : Rec) (s : State) : State :=
  if s.pair.role = .primary && r.flags &&& 0x05 = 1 then
    let c := crc32c r.body
    sendLash (.forward (.record { source := r.source, code := r.code, params := r.params, crc := c }))
      { s with pair := { s.pair with tail := c, events := s.pair.events + 1 } }
  else s

/-- R356: the record at the head of the queue takes its SEQUENCE and is committed. -/
def recordWrite (s : State) : State :=
  match s.log.queue with
  | [] => s
  | q :: rest =>
    let r := { q with seq := s.log.nextSeq }
    let s := onLog (fun l => (({ l with queue := rest } : Recorder).commit r).settle) s
    pairTail r (alertFor r s)

def execRecordWrite (s : State) : Host.Outcome State Fault Refusal := event (s.pins.aux && !s.log.queue.isEmpty) recordWrite s

/-- R353: an ordinary entry has freed for a waiting LOG_MARK. -/
def markQueued (s : State) : State :=
  match s.log.markWait with
  | [] => s
  | (q, t, n) :: rest => markNow q t n (onLog (fun l => { l with markWait := rest }) s)

def execLogMarkQueued (s : State) : Host.Outcome State Fault Refusal :=
  event (s.pins.aux && !s.log.markWait.isEmpty && markRoom s) markQueued s

/-! ### The sideband: a transaction needs AUX and a good PEC; another is not acknowledged and changes nothing -/

def smbReply (bs : List Byte) (s : State) : State := onGw (fun g => { g with smb := some bs }) s

def execLogSelect (areaNo : BitVec 8) (first : BitVec 64) (pecOk : Bool) (s : State) : Host.Outcome State Fault Refusal :=
  event (s.pins.aux && pecOk && decide (areaNo.toNat ≤ 1))
    (fun s => smbReply [] (onLog (fun l => { l with sbArea := areaNo = 1, sbPtr := first }) s)) s

def logNext (s : State) : State :=
  match logFrom (area s s.log.sbArea) s.log.sbPtr 1 with
  | r :: _ => smbReply r.bytes (onLog (fun l => { l with sbPtr := r.seq + 1 }) s)
  | [] => smbReply [] s

def execLogNext (pecOk : Bool) (s : State) : Host.Outcome State Fault Refusal := event (s.pins.aux && pecOk) logNext s

/-- Table 15-5, LOG_BOUNDS. -/
def boundsBytes (s : State) : List Byte :=
  wordBytes (oldestSeq s.log.ring s.log.nextSeq) ++ wordBytes (oldestSeq s.log.prot s.log.nextSeq) ++
    wordBytes s.log.nextSeq ++ wordBytes s.log.loss

def execLogBounds (pecOk : Bool) (s : State) : Host.Outcome State Fault Refusal :=
  event (s.pins.aux && pecOk) (fun s => smbReply (boundsBytes s) (onPins (fun p => { p with smbAlertN := true }) s)) s

/-- Target frequency in units of 50 MHz (spec/16_power.md R381). -/
def targetStep (s : State) : Nat := if s.power.state = .boost then 20 else 17

/-- spec/16_power.md Table 16-9. -/
def thermalBytes (s : State) : List Byte :=
  let t := s.thermal
  leBytes 2 (wrapInt 16 t.inlet) ++ leBytes 2 (wrapInt 16 t.outlet) ++ leBytes 2 (wrapInt 16 t.tj) ++ leBytes 2 t.flow ++
    leBytes 2 t.duty ++ leBytes 2 t.inputW ++ leBytes 2 t.mainMv ++ leBytes 2 t.capW ++
    leBytes 4 (match t.creditMs with | some n => min n 0xFFFFFFFE | none => 0xFFFFFFFF) ++
    leBytes 1 (targetStep s) ++ leBytes 3 (b2n (creditGranted s) + b2n (s.power.state = .boost) * 2) ++ wordBytes t.cappedMs ++
    leBytes 4 (min (t.boostMs / 1000) 0xFFFFFFFF)

def execThermalRead (pecOk : Bool) (s : State) : Host.Outcome State Fault Refusal :=
  event (s.pins.aux && pecOk) (fun s => smbReply (thermalBytes s) s) s

/-- spec/16_power.md Table 16-10: 30 to 60 °C and 10 to 100 per cent; a value outside is not acknowledged. -/
def coolantLegal (target : BitVec 16) (dutyMin reserved : BitVec 8) : Bool :=
  480 ≤ target.toNat && target.toNat ≤ 960 && 10 ≤ dutyMin.toNat && dutyMin.toNat ≤ 100 && reserved = 0

/-- In STANDBY the duty follows DUTY_MIN (R386). -/
def coolantDuty (s : State) : State := if s.power.state = .standby then onThermal (fun t => { t with duty := restDuty t }) s else s

def execCoolantSet (target : BitVec 16) (dutyMin reserved : BitVec 8) (pecOk : Bool) (s : State) :
    Host.Outcome State Fault Refusal :=
  event (s.pins.aux && pecOk && coolantLegal target dutyMin reserved)
    (fun s => smbReply [] (coolantDuty (onThermal (fun t => { t with outletTarget := target, dutyMin := dutyMin }) s))) s

/-- spec/18_limits.md R413: the module answers with its address 0x58 + SLOT_ID. -/
def execAlertResponse (s : State) : Host.Outcome State Fault Refusal :=
  event s.pins.aux (fun s => smbReply [BitVec.ofNat 8 (0x58 + s.pins.slotId.toNat)] s) s

/-! ### Counters -/

def execOperatingSecond (s : State) : Host.Outcome State Fault Refusal :=
  event s.pins.aux (onLog (fun l => { l with opSeconds := l.opSeconds + 1 })) s

def execCounterCopy (s : State) : Host.Outcome State Fault Refusal :=
  event s.pins.aux (onLog (fun l => { l with flashOp := l.opSeconds, flashCycles := l.powerCycles })) s

/-! ### Debug expiry, tamper, cell, owner presence -/

/-- The operating seconds have reached EXPIRY × 3,600. -/
def debugExpired (s : State) : Bool :=
  match s.trust.debug with
  | some (e, _) => decide (e.toNat * 3600 ≤ s.log.opSeconds.toNat)
  | none => false

def execDebugExpiry (s : State) : Host.Outcome State Fault Refusal :=
  event (debugExpired s) (fun s => endDebug 1 (sendLash (.forward (.debugClose 1)) s)) s

/-- Step 6 of Table 14-11: a cold start under which the PCI Express endpoint is not held in reset, so that the rings and the
completions of step 4 stay (log entry 76). -/
def tamperRestart (s : State) : State := { coldReset s with gw := s.gw }

/-- R346: zeroise and latch; with AUX the record and, with MAIN, a cold start. -/
def tamperTrip (sensors : BitVec 8) (s : State) : State :=
  let s := zeroise sensors s
  let s := { s with trust := { s.trust with tamperNow := sensors } }
  if s.pins.aux then
    let s := tamperRecord 0 s
    if s.power.rails then tamperRestart s else s
  else s

/-- `sensors` are the sensors that are tripped now; none reports that all have returned (log entry 25). -/
def execTamperTrip (sensors : BitVec 8) (s : State) : Host.Outcome State Fault Refusal :=
  done s (if sensors = 0 then { s with trust := { s.trust with tamperNow := 0 } } else tamperTrip sensors s)

/-- R347: with AUX the crossing is recorded at once; without it, at the next AUX good. -/
def execCellLow (mv : BitVec 16) (s : State) : Host.Outcome State Fault Refusal := event s.pins.aux (cellCheck 0 mv) s

/-- spec/13_commands.md R303: a provisional session closes; in ENROLLED and RETIRED the pin has no effect (spec/14_trust.md R322). -/
def ownerRise (s : State) : State :=
  let s := onPins (fun p => { p with ownerPresentN := true }) s
  if s.trust.lifecycle = .enrolled || s.trust.lifecycle = .retired then s
  else (s.gw.sessions.filter Session.provisional).foldl (fun s x => endSession x.sid s) s

def execOwnerPresentRise (s : State) : Host.Outcome State Fault Refusal := event (!s.pins.ownerPresentN) ownerRise s

end Sys2Proof.Machine
end

