-- ==== Sys2Proof/Machine/Thermal.lean ====
section
/-!
DEFINITION. Temperatures, the power cap, the thermal credit and the coolant loop (spec/16_power.md R376, R377, R381 to R387).
Temperatures are in 1/16 °C, the plate estimate in micro-degrees, clock steps in units of 50 MHz.
-/
namespace Sys2Proof.Machine

def clocked (g : Region) : Bool := g.clock = .ready

/-- Two adjacent regions under the limits of R376: both clocked, or one clocked and the other waking. -/
def covered (s : State) (a b : Nat) : Bool :=
  adjacent a b && (region s a).clock != .gated && (region s b).clock != .gated && (clocked (region s a) || clocked (region s b))

/-- R377: no region below half the step of a clocked adjacent region, nor below 300 MHz. -/
def stepFloor (s : State) (r : Nat) : Nat :=
  (List.range 64).foldl (fun m b => if adjacent r b && clocked (region s b) then max m (ceilDiv (region s b).clkStep 2) else m) 6

/-- R376: no region above twice the step of a clocked adjacent region. -/
def stepCeil (s : State) (r : Nat) : Nat :=
  (List.range 64).foldl (fun m b => if adjacent r b && clocked (region s b) then min m (2 * (region s b).clkStep) else m) 20

/-- Regions are held at 300 MHz: R384 at 105 °C, and the flow condition of Table 16-8. -/
def heldLow (s : State) : Bool := s.thermal.hot || s.thermal.conds.any (fun c => c.active && c.cond = .flowStop)

/-- R381: the target of a region; at most 850 MHz on the slipway. -/
def regionTarget (s : State) (r : Nat) : Nat :=
  if heldLow s then 6 else if (region s r).onSlipway then min (targetStep s) 17 else targetStep s

/-- Every clocked region to 300 MHz. -/
def slowAll (s : State) : State := onRegions (fun _ g => if clocked g then { g with clkStep := min g.clkStep 6 } else g) s

/-! ### Neighbour throttle, R377 -/

/-- The covered neighbour that a region is hottest against, with the difference. -/
def coolest (s : State) (r : Nat) : Option (Nat × Int) :=
  (List.range 64).foldl (fun m b =>
    if covered s r b then
      let d := (region s r).temp - (region s b).temp
      match m with
      | none => some (b, d)
      | some (_, e) => if e < d then some (b, d) else m
    else m) none

/-- NEIGHBOUR_THROTTLE: the region, the neighbour and both temperatures. -/
def throttleParams (s : State) (r b : Nat) : List Byte :=
  regionParam s r ++ regionParam s b ++ leBytes 2 (wrapInt 16 (region s r).temp) ++ leBytes 2 (wrapInt 16 (region s b).temp)

/-- One millisecond of stepping down to the floor against neighbour b, d hotter; 100 ms at the floor fence a region still more than
20 °C hotter. -/
def throttleDown (r b : Nat) (d : Int) (s : State) : State :=
  let g := region s r
  let floor := stepFloor s r
  let s := if g.throttled then s else record Code.neighbourThrottle (throttleParams s r b) s
  let step := max (g.clkStep - 1) (min floor g.clkStep)
  let ms := if g.clkStep ≤ floor then g.floorMs + 1 else 0
  let s := onRegion r (fun g => { g with throttled := true, easing := true, clkStep := step, floorMs := ms }) s
  let s := chargeRegionCycles Cause.thermal r (step * 50000) s
  if 320 < d && 100 ≤ ms && g.inService then fenceLater r .temperature s else s

/-- One millisecond of stepping up again toward the target. -/
def throttleUp (r : Nat) (s : State) : State :=
  let target := regionTarget s r
  let step := min (min ((region s r).clkStep + 1) target) (max (region s r).clkStep (stepCeil s r))
  let s := onRegion r (fun g => { g with clkStep := step, floorMs := 0, easing := false, throttled := step < target }) s
  if step < target then chargeRegionCycles Cause.thermal r (step * 50000) s else s

/-- One millisecond of a region's throttle: it steps down from more than 20 °C until 17 °C or less, and then up. -/
def throttleRegion (r : Nat) (s : State) : State :=
  let g := region s r
  if !clocked g then s
  else
    match coolest s r with
    | some (b, d) => if 320 < d || (g.easing && 272 < d) then throttleDown r b d s else if g.throttled then throttleUp r s else s
    | none => if g.throttled then throttleUp r s else s

/-! ### Temperature limits, R384 -/

/-- The hottest sensor: a region's number, or 0xFF for another die (log entry 26). -/
def hottest (regions : List Int) (others : Int) : Nat × Int :=
  let m := regions.foldl max others
  ((List.range 64).find? (fun r => nth regions r 0 = m && others < m) |>.getD 255, m)

/-- At 115 °C. -/
def thermalTrip (sensor : Nat) (tj : Int) (s : State) : State :=
  let s := onPins (fun p => { p with thermTripN := false, smbAlertN := false }) s
  let s := onThermal (fun t => { t with tripped := true, duty := 1000 }) s
  let s := record Code.thermalTrip (leBytes 1 sensor ++ leBytes 2 (wrapInt 16 tj)) s
  onRegions (fun _ g => { g with clock := .gated }) (halt Status.thermalTrip s)

/-- At 105 °C, and back below 100 °C. -/
def hotCheck (tj : Int) (s : State) : State :=
  if 1680 ≤ tj then
    let s := if s.thermal.hot then s else record Code.hotThrottle [] s
    slowAll (onThermal (fun t => { t with hot := true }) s)
  else if tj < 1600 then onThermal (fun t => { t with hot := false }) s
  else if s.thermal.hot then slowAll s else s

def temperatureSample (regions : List Int) (others : Int) (s : State) : State :=
  let h := hottest regions others
  let s := onRegions (fun i g => { g with temp := nth regions i g.temp }) s
  let s := onThermal (fun t => { t with tj := h.2 }) s
  if s.thermal.tripped then (if 2000 ≤ h.2 then emergencyDown s else s)
  else if 1840 ≤ h.2 then thermalTrip h.1 h.2 s
  else settleBoost ((List.range 64).foldl (fun s r => throttleRegion r s) (hotCheck h.2 s))

def execTemperatureSample (regions : List Int) (others : Int) (s : State) : Host.Outcome State Fault Refusal :=
  event s.power.rails (temperatureSample regions others) s

/-! ### Power cap, R381, R366 -/

/-- P_cap in watts. -/
def capWatts (s : State) : Nat :=
  let c := if creditGranted s then 1900 else 1500
  if s.thermal.mainMv ≠ 0 && s.thermal.mainMv < 38000 then min c (50 * s.thermal.mainMv / 1000) else c

/-- One step down, or up for regions below their target that no neighbour throttle holds. -/
def capStep (watts cap : Nat) (s : State) : State :=
  if cap < watts then
    (List.range 64).foldl (fun s r =>
      onRegion r (fun g => if clocked g then { g with clkStep := max (g.clkStep - 1) (min g.clkStep (stepFloor s r)) } else g) s) s
  else if watts * 100 ≤ cap * 95 then
    (List.range 64).foldl (fun s r =>
      onRegion r (fun g => if clocked g && !g.throttled && g.clkStep < regionTarget s r && g.clkStep < stepCeil s r then { g with clkStep := g.clkStep + 1 } else g) s) s
  else s

/-- A clocked region stands below the frequency it would have without R381 or R384. -/
def belowTarget (s : State) : Bool :=
  (List.range 64).any (fun r => clocked (region s r) && !(region s r).throttled &&
    decide ((region s r).clkStep < (if (region s r).onSlipway then min (targetStep s) 17 else targetStep s)))

def powerCapTick (watts : Nat) (s : State) : State :=
  let s := settleBoost (onThermal (fun t => { t with inputW := watts }) s)
  let cap := capWatts s
  let s := capStep watts cap (onThermal (fun t => { t with capW := cap }) s)
  onThermal (fun t => { t with cappedMs := if belowTarget s then satAdd t.cappedMs 1 else t.cappedMs
                               boostMs := if s.power.state = .boost then t.boostMs + 1 else t.boostMs }) s

def execPowerCapTick (watts : Nat) (s : State) : Host.Outcome State Fault Refusal := event s.power.rails (powerCapTick watts) s

/-! ### Thermal credit, R382, R383 -/

/-- ln(num / den) for num ≥ den, in units of 2^−40 (truncated). -/
def halveCount : Nat → Nat → Nat → Nat → Nat × Nat
  | 0, _, den, k => (k, den)
  | n + 1, num, den, k => if 2 * den ≤ num then halveCount n num (2 * den) (k + 1) else (k, den)

def atanhSum (z2 : Nat) : Nat → Nat → Nat → Nat → Nat
  | 0, _, _, acc => acc
  | n + 1, k, term, acc => atanhSum z2 n (k + 2) (term * z2 / 2 ^ 40) (acc + term / k)

def lnFix (num den : Nat) : Nat :=
  let h := halveCount 64 num den 0
  let z := (num - h.2) * 2 ^ 40 / (num + h.2)
  h.1 * 762123384785 + 2 * atanhSum (z * z / 2 ^ 40) 24 1 z 0

/-- P · R_pc in micro-kelvin for a flow in mL/min, limited to 4 L/min. -/
def plateRise (watts flow : Nat) : Nat :=
  if flow = 0 then watts * Config.stillPlate else watts * 6000 + watts * 60000000000 / (7800 * min flow 4000)

/-- T_in in micro-degrees: 45 °C while a coolant sensor fails (Table 16-8). -/
def inletMicro (t : Thermal) : Int :=
  if t.conds.any (fun c => c.active && c.cond = .sensor) then 45000000 else t.inlet * 62500

def steadyPlate (t : Thermal) (watts : Nat) : Int := inletMicro t + plateRise watts t.flow

/-- L = T_lim − R_jp · P_b. -/
def plateLimit : Int := 58200000

/-- The credit in milliseconds; none is unlimited. -/
def creditOf (t : Thermal) (tp : Int) : Option Nat :=
  let b := steadyPlate t 1900
  if b ≤ plateLimit then none
  else if plateLimit ≤ tp then some 0
  else some (8000 * lnFix (b - tp).toNat (b - plateLimit).toNat / 2 ^ 40)

/-- e^(−0.01/8) in units of 10^−12. -/
def plateDecay : Int := 998750780925

def thermalCreditUpdate (watts : Nat) (s : State) : State :=
  let t := { s.thermal with inputW := watts }
  let ss := steadyPlate t watts
  let tp := max (ss + (t.tp - ss) * plateDecay / 1000000000000) (t.tj * 62500 - (22000 * watts : Nat))
  let c := creditOf t tp
  let enough := match c with | none => true | some ms => decide (2000 ≤ ms)
  let low := match c with | none => false | some ms => decide (ms < 500)
  let granted := if t.granted then !low else enough
  let t := { t with tp := tp, creditMs := c, granted := granted
                    grants := if granted && !t.granted then t.grants + 1 else t.grants
                    revokes := if !granted && t.granted then t.revokes + 1 else t.revokes }
  settleBoost { s with thermal := t }

def execThermalCreditUpdate (watts : Nat) (s : State) : Host.Outcome State Fault Refusal :=
  event s.power.rails (thermalCreditUpdate watts) s

/-! ### Valve, R386; flow, R385 -/

/-- A condition or a trip forces the duty to 100 % (Table 16-8, R384). -/
def dutyForced (s : State) : Bool := s.thermal.tripped || condDuty s.thermal

/-- In STANDBY the duty is DUTY_MIN (R386); elsewhere a condition or a trip forces it. -/
def settleDuty (s : State) : State :=
  if s.power.state = .standby then coolantDuty s
  else if dutyForced s then onThermal (fun t => { t with duty := 1000 }) s else s

/-- One pass of the loop; d in 1/320 per cent is 80 e + integ with e in 1/16 K. -/
def valveLoop (t : Thermal) : Thermal :=
  let e : Int := t.outlet - t.outletTarget.toNat
  let next := t.integ + e
  let d := 80 * e + next
  if 32000 < d then { t with duty := 1000, integ := if e ≤ 0 then next else t.integ }
  else if d < 320 * t.dutyMin.toNat then { t with duty := t.dutyMin.toNat * 10, integ := if 0 ≤ e then next else t.integ }
  else { t with duty := ((d + 16) / 32).toNat, integ := next }

def execValveLoopTick (s : State) : Host.Outcome State Fault Refusal :=
  event (s.thermal.loopOn && s.power.state != .standby)
    (fun s => onThermal (fun t => if dutyForced s then { t with duty := 1000 } else valveLoop t) s) s

/-- 600 pulses a litre over the last second: n pulses are 100 n mL/min. -/
def execFlowUpdate (edges : Nat) (s : State) : Host.Outcome State Fault Refusal :=
  event s.pins.aux (onThermal (fun t =>
    let w := (edges :: t.tach).take 20
    { t with tach := w, flow := 100 * (w.take 10).sum })) s

/-! ### Coolant conditions, R387 -/

def Condition.code : Condition → RecCode
  | .flowLow => Code.flowLow | .flowStop => Code.flowLow
  | .inletHigh => Code.coolantRange | .inletLow => Code.coolantRange
  | .sensor => Code.coolantSensor

/-- Milliseconds a trigger lasts before its condition holds. -/
def Condition.hold : Condition → Nat
  | .flowLow => 5000 | .flowStop => 0 | .inletHigh => 1000 | .inletLow => 1000 | .sensor => 0

/-- −20 to 120 °C in 1/16 °C. -/
def sensorInRange (t : Int) : Bool := decide (-320 ≤ t) && decide (t ≤ 1920)

/-- The trigger of a condition now. -/
def triggered (s : State) (r : CoolantReading) : Condition → Bool
  | .flowLow => decide (s.thermal.flow < 1500) && decide (s.thermal.duty = 1000)
  | .flowStop => s.power.rails && (decide (s.thermal.flow < 500) || (decide (s.thermal.tach.length = 20) && s.thermal.tach.all (fun n => n = 0)))
  | .inletHigh => decide (720 < r.inlet)
  | .inletLow => decide (r.inlet < 240)
  | .sensor => r.sensorBad || !sensorInRange r.inlet || !sensorInRange r.outlet

def condOf (s : State) (c : Condition) : CondState :=
  (s.thermal.conds.find? (fun x => x.cond = c)).getD { cond := c, heldMs := 0, active := false, absentMs := 10000 }

/-- One condition, 100 ms later. -/
def testCondition (reading : CoolantReading) (c : Condition) (s : State) : State :=
  let o := condOf s c
  let on := triggered s reading c
  let active := on && decide (c.hold ≤ o.heldMs)
  let n : CondState := { cond := c, heldMs := if on then o.heldMs + 100 else 0, active := active,
                         absentMs := if active then 0 else min (o.absentMs + 100) 10000 }
  let s := if active && !o.active && 10000 ≤ o.absentMs then record c.code [] s else s
  onThermal (fun t => { t with conds := n :: t.conds.filter (fun x => x.cond != c) }) s

def coolantTest (reading : CoolantReading) (s : State) : State :=
  let s := onThermal (fun t => { t with inlet := reading.inlet, outlet := reading.outlet }) s
  let s := [Condition.flowLow, .flowStop, .inletHigh, .inletLow, .sensor].foldl (fun s c => testCondition reading c s) s
  settleBoost (if heldLow s then slowAll (settleDuty s) else settleDuty s)

def execCoolantConditionTest (reading : CoolantReading) (s : State) : Host.Outcome State Fault Refusal :=
  event s.pins.aux (coolantTest reading) s

end Sys2Proof.Machine
end

