-- ==== Sys2Proof/Machine/Operands.lean ====
section
/-!
DEFINITION. Fields of timetable rows, operand references, copy descriptors, array sizes, and the ranges a row reads and writes
(spec/04_table_arithmetic.md Tables 04-6 and 04-7; spec/05_accumulators.md Table 05-1; spec/06_vector_engine.md Tables 06-2 to
06-4; spec/07_timetable.md Tables 07-4 to 07-6; spec/09_memory.md Tables 09-2 and 09-3).
-/
namespace Sys2Proof.Machine

/-! ### Format bytes, spec/02_formats.md Tables 02-1 and 02-2 -/

/-- Format code of a format byte. -/
def fmtCode (b : Nat) : Nat := b % 32

def fmtClamp (b : Nat) : Bool := b / 32 % 2 = 1

def fmtSr (b : Nat) : Bool := b / 64 % 2 = 1

/-- A format byte that a row reads: a known code, no reserved bit, no SR; CLAMP only on S8 and S4. -/
def fmtKnown (b : Nat) : Bool :=
  let c := fmtCode b
  decide (b < 128) && ((1 ≤ c && c ≤ 9) || (0x10 ≤ c && c ≤ 0x1C)) && (!fmtClamp b || c = 1 || c = 3) &&
    (!fmtSr b || (1 ≤ c && c ≤ 4) || c = 6)

def isW (c : Nat) : Bool := 0x10 ≤ c && c ≤ 0x17
def isB (c : Nat) : Bool := 0x18 ≤ c && c ≤ 0x1B
def isT (c : Nat) : Bool := c = 0x1C
def isFloat (c : Nat) : Bool := 6 ≤ c && c ≤ 8

/-- Planes of a plane-side format. -/
def planeCount (c : Nat) : Nat := if isW c then c - 0x0F else if isB c then c - 0x17 else 1

/-- Width of an element in bits, of the formats that are not planes. -/
def fmtBits (c : Nat) : Nat :=
  match c with
  | 1 => 8 | 2 => 8 | 3 => 4 | 4 => 4 | 5 => 16 | 6 => 16 | 7 => 16 | 8 => 32 | 9 => 8
  | _ => 8

/-- Bytes of n elements. -/
def fmtBytes (c n : Nat) : Nat := ceilDiv (n * fmtBits c) 8

/-- Group size from its code (R61). -/
def groupSize (code : Nat) : Nat := match code with | 0 => 32 | 1 => 48 | 2 => 64 | 3 => 96 | _ => 128

/-! ### Operand references -/

structure OpRef where
  addr : Nat
  core : Nat
deriving DecidableEq, Repr

def opRef {n : Nat} (w : BitVec n) (lo : Nat) : OpRef := { addr := bits w lo 18, core := bits w (lo + 18) 8 }

/-- R139: no reserved value. -/
def refLegal {n : Nat} (w : BitVec n) (lo : Nat) : Bool :=
  bits w (lo + 26) 6 = 0 && (bits w (lo + 18) 8 = 255 || (bits w (lo + 18) 8 < 144 && bits w lo 18 < 16384))

/-- A reference moved by 16-byte units. -/
def OpRef.up (o : OpRef) (units : Nat) : OpRef := { o with addr := o.addr + units }

/-- Bytes from a reference to the end of its memory. -/
def OpRef.room (o : OpRef) : Nat := if o.core = 255 then 2 ^ 22 - 16 * o.addr else 2 ^ 18 - 16 * o.addr

/-- Space and byte key of a reference in region r: staging of the physical core, or slice SRAM. -/
def placeOf (s : State) (r : Nat) (o : OpRef) : Nat × Nat :=
  if o.core = 255 then (2, sliceKey r (16 * o.addr)) else (1, stagingKey (physCore s r o.core) (16 * o.addr))

/-! ### Strided ranges; an ordering range is compared in whole units (spec/09_memory.md R203) -/

def Span.unit (a : Span) : Nat := if a.space = 0 || a.space = 4 then 256 else 16

/-- Some run of the span shares a unit of g bytes with the run of `len` bytes at `start`. -/
def Span.hitsRun (a : Span) (g start len : Nat) : Bool :=
  let x := start / g * g
  let y := (start + len - 1) / g * g + g - 1
  let j := if a.stride = 0 || x < a.base + a.len then 0 else ceilDiv (x + 1 - (a.base + a.len)) a.stride
  0 < len && 0 < a.len && j < a.n && a.base + j * a.stride ≤ y && x < a.base + j * a.stride + a.len

/-- Runs at different places: with a stride of 0 they are one. -/
def Span.places (a : Span) : Nat := if a.stride = 0 then min a.n 1 else a.n

/-- Two spans share a unit of g bytes. -/
def Span.meetsBy (g : Nat) (a b : Span) : Bool :=
  a.space = b.space &&
    (if a.places ≤ b.places then (List.range a.places).any (fun i => b.hitsRun g (a.base + i * a.stride) a.len)
     else (List.range b.places).any (fun i => a.hitsRun g (b.base + i * b.stride) b.len))

def Span.meets (a b : Span) : Bool := a.meetsBy a.unit b

def spansMeet (a b : List Span) : Bool := a.any (fun x => b.any (fun y => x.meets y))

def span (space base len : Nat) : Span := { space := space, base := base, len := len, stride := 0, n := 1 }

/-- `n` runs of `len` bytes, `stride` bytes apart, from byte `off` past a reference. -/
structure Piece where
  ref : OpRef
  off : Nat
  len : Nat
  stride : Nat
  n : Nat
deriving DecidableEq, Repr

/-- An array without gaps. -/
def piece (o : OpRef) (len : Nat) : Piece := { ref := o, off := 0, len := len, stride := 0, n := 1 }

def Piece.fits (p : Piece) : Bool :=
  (p.ref.core = 255 || (p.ref.core < 144 && p.ref.addr < 16384)) && decide (p.off + (p.n - 1) * p.stride + p.len ≤ p.ref.room)

/-- The runs in region r. -/
def Piece.span (r : Nat) (p : Piece) : Span :=
  { space := if p.ref.core = 255 then 2 else 1,
    base := (if p.ref.core = 255 then r * 2 ^ 22 else (r * 144 + p.ref.core) * 2 ^ 18) + 16 * p.ref.addr + p.off,
    len := p.len, stride := p.stride, n := p.n }

/-- A reference's array of `len` bytes in region r. -/
def refSpan (r : Nat) (o : OpRef) (len : Nat) : Span :=
  if o.core = 255 then span 2 (r * 2 ^ 22 + 16 * o.addr) len else span 1 ((r * 144 + o.core) * 2 ^ 18 + 16 * o.addr) len

/-! ### Copy descriptors -/

def descOf (w : Row) (k : Nat) : BitVec 384 := BitVec.ofNat 384 (bits w (if k = 0 then 192 else 576) 384)

/-- NDESC of a COPY row. -/
def descs (w : Row) : List (BitVec 384) := (List.range (bits w 128 2)).map (descOf w)

def dSkind (d : BitVec 384) : Nat := bits d 0 4
def dDkind (d : BitVec 384) : Nat := bits d 4 4
def dCfmt (d : BitVec 384) : Nat := bits d 8 8
def dSfmt (d : BitVec 384) : Nat := bits d 16 8
def dNode (d : BitVec 384) : Nat := bits d 32 14
def dSaddr (d : BitVec 384) : Nat := bits d 64 64
def dDaddr (d : BitVec 384) : Nat := bits d 128 64
def dRun (d : BitVec 384) : Nat := bits d 192 32
def dNrun (d : BitVec 384) : Nat := bits d 224 32
def dSstride (d : BitVec 384) : Nat := bits d 256 32
def dDstride (d : BitVec 384) : Nat := bits d 288 32
def dTensor (d : BitVec 384) : BitVec 32 := BitVec.ofNat 32 (bits d 320 32)

/-- Bytes of a destination run: twice as long when converting (R201). -/
def dDrun (d : BitVec 384) : Nat := if dCfmt d = 0 then dRun d else 2 * dRun d

def localRef (a : Nat) : OpRef := { addr := fld a 0 18, core := fld a 18 8 }
def localRegion (a : Nat) : Nat := fld a 32 6
def localHalf (a : Nat) : Nat := fld a 38 1

/-- An endpoint's runs as a span; a host endpoint has none. A LOCAL endpoint of the secondary half counts as regions 64 up
(spec/12_lashing.md R273). -/
def endSpan (d : BitVec 384) (kind a len stride : Nat) : List Span :=
  let mk (space base : Nat) : List Span := [{ space := space, base := base, len := len, stride := 16 * stride, n := dNrun d }]
  match kind with
  | 0 =>
    let o := localRef a
    let r := localRegion a + 64 * localHalf a
    if o.core = 255 then mk 2 (r * 2 ^ 22 + 16 * o.addr) else mk 1 ((r * 144 + o.core) * 2 ^ 18 + 16 * o.addr)
  | 1 => mk 0 (fld a 0 42)
  | 2 => mk 4 (dNode d * 2 ^ 42 + fld a 0 42)
  | _ => []

def srcSpan (d : BitVec 384) : List Span := endSpan d (dSkind d) (dSaddr d) (dRun d) (dSstride d)
def dstSpan (d : BitVec 384) : List Span := endSpan d (dDkind d) (dDaddr d) (dDrun d) (dDstride d)

/-! ### Pass field block: offset 160 of a PASS row -/

structure Pass where
  rect : Nat
  tside : Nat
  pside : Nat
  gsize : Nat
  tzp : Bool
  pzp : Bool
  psign : Bool
  kw : Nat
  ka : Nat
  gfirst : Nat
  ngroup : Nat
  ntok : Nat
  planes : Nat
  pscale : Nat
  wcode : Nat
  wzp : Nat
  wscale : Nat
  tcode : Nat
  vcode : Nat
  azp : Nat
  ascale : Nat
deriving DecidableEq, Repr

def passOf (w : Row) : Pass :=
  let f (lo n : Nat) : Nat := bits w (160 + lo) n
  { rect := bits w 128 16, tside := f 0 8, pside := f 8 8, gsize := f 16 3, tzp := f 19 1 = 1, pzp := f 20 1 = 1,
    psign := f 21 1 = 1, kw := f 24 5, ka := f 32 5, gfirst := f 40 4, ngroup := f 48 12, ntok := f 64 6, planes := f 80 16,
    pscale := f 96 16, wcode := f 112 16, wzp := f 128 16, wscale := f 144 16, tcode := f 160 16, vcode := f 176 16,
    azp := f 192 16, ascale := f 208 16 }

def Pass.g (p : Pass) : Nat := groupSize p.gsize
def Pass.pcode (p : Pass) : Nat := fmtCode p.pside
def Pass.tfmt (p : Pass) : Nat := fmtCode p.tside
def Pass.b (p : Pass) : Nat := planeCount p.pcode

/-- Super-groups that the row covers, whole or in part. -/
def Pass.nsup (p : Pass) : Nat := ceilDiv (p.gfirst + p.ngroup) 16

/-- Bytes of one column's bit string of one plane of one group (Table 04-7). -/
def Pass.stringBytes (p : Pass) : Nat := if isT p.pcode then (if p.g = 48 then 10 else 20) else p.g / 8

/-- Token strides of the table side. -/
def Pass.codeStride (p : Pass) : Nat := up16 (fmtBytes p.tfmt (p.ngroup * p.g))
def Pass.vStride (p : Pass) : Nat := up16 p.ngroup
def Pass.a2Stride (p : Pass) : Nat := up16 (2 * p.nsup)

/-- The arrays of Table 04-7: staging unit and bytes. -/
def Pass.arrays (p : Pass) : List (Nat × Nat) :=
  [(p.planes, p.ngroup * p.b * 512 * p.stringBytes)] ++
  (if isB p.pcode then [(p.pscale, p.nsup * p.b * 1024)] else []) ++
  [(p.wcode, p.ngroup * 512)] ++ (if p.pzp then [(p.wzp, p.ngroup * 512)] else []) ++
  [(p.wscale, p.nsup * 1024), (p.tcode, p.ntok * p.codeStride), (p.vcode, p.ntok * p.vStride)] ++
  (if p.tzp then [(p.azp, p.ntok * p.vStride)] else []) ++ [(p.ascale, p.ntok * p.a2Stride)]

/-- Logical cores of a rectangle (R162). -/
def rectCores (rect : Nat) : List Nat :=
  let r0 := fld rect 0 4
  let rn := fld rect 4 4 + 1
  let c0 := fld rect 8 4
  let cn := fld rect 12 4 + 1
  (List.range rn).flatMap (fun i => (List.range cn).map (fun j => (r0 + i) * 12 + c0 + j))

/-! ### Accumulate field block: offset 416 of a PASS row -/

structure Acc where
  slot : Nat
  act : Nat
  solo : Bool
  bank : Nat
  base : Nat
  nrows : Nat
  levels : Nat
  order : Nat
  fuse : Nat
  stats : Bool
  ffmt : Nat
  ofmt : Nat
  scols : Nat
  faddr : Nat
  oaddr : Nat
  saddr : Nat
deriving DecidableEq, Repr

def accBits (w : Row) : BitVec 128 := BitVec.ofNat 128 (bits w 416 128)

def accOf (w : BitVec 128) : Acc :=
  let f (lo n : Nat) : Nat := bits w lo n
  { slot := f 0 7, act := f 8 2, solo := f 10 1 = 1, bank := f 11 1, base := f 12 6, nrows := f 18 6, levels := f 24 3,
    order := f 27 2, fuse := f 32 2, stats := f 34 1 = 1, ffmt := f 40 8, ofmt := f 48 8, scols := f 64 10, faddr := f 80 16,
    oaddr := f 96 16, saddr := f 112 16 }

def Acc.begins (a : Acc) : Bool := a.act = 0 || a.solo
def Acc.ends (a : Acc) : Bool := 2 ≤ a.act

/-- Output bytes, for each token position. -/
def Acc.outStride (a : Acc) : Nat := if fmtCode a.ofmt = 8 then 2048 else 1024

/-- Arrays that a drain reads and writes: staging unit and bytes. -/
def Acc.reads (a : Acc) : List (Nat × Nat) :=
  if a.act = 3 && a.fuse ≠ 0 then [(a.faddr, a.nrows * (if fmtCode a.ffmt = 8 then 2048 else 1024))] else []
def Acc.writes (a : Acc) : List (Nat × Nat) :=
  if a.ends then [(a.oaddr, a.nrows * a.outStride)] ++ (if a.stats then [(a.saddr, a.nrows * 32)] else []) else []

/-! ### Quantiser field block -/

structure Quant where
  target : Nat
  probe : Nat
  gsize : Nat
  zp : Bool
  scheme : Nat
  rmode : Nat
  rblock : Nat
  rscale : Bool
  satLimit : Nat
  watch : Nat
  rotSeed : Nat
  tensor : Nat
deriving DecidableEq, Repr

/-- The block at an offset of a row: 128 in a QUANT row, 640 in a VECTOR row. -/
def quantOf (w : Row) (lo : Nat) : Quant :=
  let f (a n : Nat) : Nat := bits w (lo + a) n
  { target := f 0 8, probe := f 8 8, gsize := f 16 3, zp := f 19 1 = 1, scheme := f 20 2, rmode := f 22 2, rblock := f 24 2,
    rscale := f 26 1 = 1, satLimit := f 32 12, watch := f 48 8, rotSeed := f 64 32, tensor := f 96 32 }

def Quant.g (q : Quant) : Nat := groupSize q.gsize
def Quant.code (q : Quant) : Nat := fmtCode q.target
def Quant.block (q : Quant) : Nat := 2 ^ (5 + q.rblock)

/-- The generator window of R175. -/
def genOf (w : Row) (lo : Nat) : Nat × Nat × Nat := (bits w lo 48, bits w (lo + 64) 32, bits w (lo + 96) 32)

/-! ### QUANT rows -/

def qSrc (w : Row) : OpRef := opRef w 256
def qDst (w : Row) : OpRef := opRef w 288
def qCal (w : Row) : OpRef := opRef w 320
def qSfmt (w : Row) : Nat := bits w 352 8

/-- The row reads its scales at CAL: an integer code target under CALIBRATED. A W target takes the scales of R71 and a float
target has none (spec/07_timetable.md R165). -/
def qCalibrated (w : Row) : Bool := (quantOf w 128).scheme = 2 && (quantOf w 128).code ≤ 5

def qPsign (w : Row) : Bool := bits w 360 1 = 1
def qNtoken (w : Row) : Nat := bits w 368 24
def qK (w : Row) : Nat := bits w 416 32
/-- Offsets of the generator windows of QUANT and VECTOR rows. -/
def qGen : Nat := 448
def vGen : Nat := 768

/-- Bytes of the scale part of a code block: v, z_a with ZP, A2 (R139), each array from a 16-byte boundary. -/
def scaleBytes (ntok ngroup : Nat) (zp : Bool) : Nat :=
  ntok * up16 ngroup * (if zp then 2 else 1) + ntok * up16 (2 * ceilDiv ngroup 16)

/-- Bytes of one column block in plane-side form (R140): planes, plane-scale words for B, w₁, z_w with ZP, W2. -/
def planeBlockBytes (code g ngroup : Nat) (zp words : Bool) : Nat :=
  let str := if isT code then (if g = 48 then 10 else 20) else g / 8
  up16 (ngroup * planeCount code * 512 * str) + (if words then up16 (ceilDiv ngroup 16 * planeCount code * 1024) else 0) +
    up16 (ngroup * 512) * (if zp then 2 else 1) + up16 (ceilDiv ngroup 16 * 1024)

/-- Bytes that a QUANT row reads and writes in one region. -/
def qSrcBytes (w : Row) : Nat := qNtoken w * up16 (fmtBytes (fmtCode (qSfmt w)) (qK w))

def qDstBytes (w : Row) : Nat :=
  let q := quantOf w 128
  let ng := qK w / q.g
  if isFloat q.code then qNtoken w * up16 (fmtBytes q.code (qK w))
  else if isW q.code then ceilDiv (qNtoken w) 512 * planeBlockBytes q.code q.g ng q.zp false
  else up16 (qNtoken w * up16 (fmtBytes q.code (qK w))) + scaleBytes (qNtoken w) ng q.zp

/-! ### VECTOR rows: the block at 128 -/

def vF (w : Row) (lo n : Nat) : Nat := bits w (128 + lo) n
def vOp (w : Row) : Nat := vF w 0 4
def vOfmt (w : Row) : Nat := vF w 8 8
def vOrder (w : Row) : Nat := vF w 16 2
def vNpart (w : Row) : Nat := vF w 18 6
def vVar (w : Row) : Nat := vF w 24 8
def vCount (w : Row) : Nat := vF w 32 24
def vSrc (w : Row) (k : Nat) : OpRef := opRef w (192 + 32 * k)
def vDst (w : Row) (k : Nat) : OpRef := opRef w (320 + 32 * k)
def vAux0 (w : Row) : Nat := vF w 288 32
def vAux1 (w : Row) : Nat := vF w 320 32
def vC (w : Row) (k : Nat) : F32 := BitVec.ofNat 32 (vF w (352 + 32 * k) 32)
def vTensor (w : Row) : Nat := vF w 480 32
def vVarBit (w : Row) (k : Nat) : Bool := vVar w / 2 ^ k % 2 = 1

/-- FULL and GFP32 of an OPT row. -/
def optFull (w : Row) : Bool := vVarBit w 1
def optGfp32 (w : Row) : Bool := vVarBit w 0
def optGsize (w : Row) : Nat := groupSize (vVar w / 4 % 8)

/-- Bytes of a code block of one token and `n` elements of 8-bit codes in groups of g. -/
def momentBytes (n g : Nat) : Nat := up16 n + up16 (ceilDiv n g) + up16 (2 * ceilDiv n (16 * g))

/-- Code block of an OPT gradient, moment and master. -/
def optArrays (w : Row) : Nat × Nat × Nat :=
  let n := vCount w
  if optFull w then (if optGfp32 w then 4 * n else momentBytes n (optGsize w), 4 * n, 4 * n)
  else (if optGfp32 w then 4 * n else momentBytes n (optGsize w), momentBytes n 128, 2 * n)

/-- Columns that a REBUILD or SGRAD row reads a master for: C0 of a REBUILD, all of a SGRAD. -/
def liveColumns (w : Row) : Nat := if vOp w = 6 then (nearAway (vC w 0)).toNat else 512

/-- The master elements that a row reads: element (n, k) lies at 2 (n · AUX0 + k), where n is the reduction index under TRANS. -/
def masterPiece (w : Row) : Piece :=
  let k := vCount w * (quantOf w 640).g
  let live := liveColumns w
  let x := if vOp w = 6 && vVarBit w 0 then (live, k) else (k, live)
  { ref := vSrc w 0, off := 0, len := 2 * x.1, stride := 2 * vAux0 w, n := x.2 }

/-- Bytes from the first to the last master element. -/
def masterBytes (w : Row) : Nat := let p := masterPiece w; (p.n - 1) * p.stride + p.len

/-- Bytes of the calibrated arrays w₁, z_w and W2 of a REBUILD row. -/
def calibratedBytes (ngroup : Nat) (zp : Bool) : Nat := up16 (ngroup * 512) * (if zp then 2 else 1) + up16 (ceilDiv ngroup 16 * 1024)

/-- The plane-side block of a REBUILD or SGRAD row. -/
def vBlockBytes (w : Row) : Nat :=
  let q := quantOf w 640
  planeBlockBytes q.code q.g (vCount w) q.zp (isB q.code)

/-- Sources of a VECTOR row: SRC0 to SRC3. -/
def vSources (w : Row) : List Piece :=
  let n := vCount w
  match vOp w with
  | 0 => (List.range (vNpart w + 1)).map (fun p => piece ((vSrc w 0).up (p * vAux0 w)) (4 * n))
  | 1 => [piece (vSrc w 0) (32 * n * (vNpart w + 1))]
  | 2 => [piece (vSrc w 0) (n * up16 ((if vVarBit w 2 then 2 else 4) * vAux0 w)), piece (vSrc w 1) (32 * n * (vNpart w + 1)),
          piece (vSrc w 2) (2 * vAux0 w)] ++ (if vVarBit w 1 then [] else [piece (vSrc w 3) (2 * vAux0 w)])
  | 3 => [piece (vSrc w 0) (n * up16 (4 * vAux0 w))]
  | 4 => let a := optArrays w
         [piece (vSrc w 0) a.1, piece (vSrc w 1) a.2.1, piece (vSrc w 2) a.2.1, piece (vSrc w 3) a.2.2]
  | 5 => [masterPiece w, piece (vSrc w 1) (4 * 512 * n * (quantOf w 640).g), piece (vSrc w 2) (vBlockBytes w)]
  | _ => [masterPiece w] ++
         (if (quantOf w 640).scheme = 1 then [piece (vSrc w 1) (4 * 512 * n)]
          else if (quantOf w 640).scheme = 2 then [piece (vSrc w 1) (calibratedBytes n (quantOf w 640).zp)] else [])

/-- What a VECTOR row reads: its sources, the schedule record of an OPT row, and the head of an anchor table with `indices` columns. -/
def vReads (w : Row) (indices : Nat) : List Piece :=
  vSources w ++ (if vOp w = 4 then [piece (opRef w 416) 16] else []) ++
    (if vOp w < 4 || vAux1 w = 0 then [] else [piece (opRef w 448) (16 + 4 * indices)])

/-- The most indices of an anchor table (R420). -/
def maxAnchors : Nat := 64

/-- COUNT of the anchor table that a row names in region r of this half; 0 where it is malformed. -/
def anchorCount (s : State) (r : Nat) (w : Row) : Nat :=
  if vOp w < 4 || vAux1 w = 0 then 0
  else
    let p := placeOf s r (opRef w 448)
    let n := ofLe (readMem s p.1 p.2 4)
    if n ≤ maxAnchors then n else 0

/-- Halves that execute a row. -/
def halvesOf (w : Row) : List Nat := [0, 1].filter (fun h => fld (rowHalves w) h 1 = 1)

/-- Destinations of a VECTOR row with their bytes. -/
def vWrites (w : Row) : List (OpRef × Nat) :=
  let n := vCount w
  match vOp w with
  | 0 => [(vDst w 0, fmtBytes (fmtCode (vOfmt w)) n)]
  | 1 => [(vDst w 0, 32 * n)]
  | 2 => [(vDst w 0, n * up16 (fmtBytes (fmtCode (vOfmt w)) (vAux0 w)))]
  | 3 => [(vDst w 0, 64 * n), (vDst w 1, 8 * vAux0 w)]
  | 4 => let a := optArrays w
         [(vDst w 0, a.2.1), (vDst w 1, a.2.1), (vDst w 2, a.2.2)]
  | 5 => [(vDst w 0, 4 * 512 * n)]
  | _ => [(vDst w 0, vBlockBytes w)]

/-! ### COLLECT and FERRY rows -/

def cCop (w : Row) : Nat := bits w 128 8
def cFmt (w : Row) : Nat := bits w 136 8
def cGroup (w : Row) : Nat := bits w 144 12
def cCount (w : Row) : Nat := bits w 160 40
def cSrc (w : Row) : Nat := bits w 224 64
def cDst (w : Row) : Nat := bits w 288 64
def cTag (w : Row) : BitVec 32 := BitVec.ofNat 32 (bits w 352 32)

/-- Bytes of n elements of a collective: packed formats count bytes (R246). -/
def cBytes (fmt n : Nat) : Nat := if 0x10 ≤ fmtCode fmt then n else fmtBytes (fmtCode fmt) n

def fFop (w : Row) : Nat := bits w 128 8
def fPolicy (w : Row) : Nat := bits w 136 1
def fHomes (w : Row) : Nat := bits w 144 8
def fCap (w : Row) : Nat := bits w 160 24
def fRoutes (w : Row) : OpRef := opRef w 192
def fTokens (w : Row) : OpRef := opRef w 224
def fLand (w : Row) : OpRef := opRef w 256
def fCount (w : Row) : Nat := bits w 288 32
def fWidth (w : Row) : Nat := bits w 320 32
def fFmt (w : Row) : Nat := bits w 352 8

/-- Token stride of ferry data. -/
def fStride (w : Row) : Nat := up16 (fmtBytes (fmtCode (fFmt w)) (fWidth w))

/-- Landing area of CAP slots and tags (R262). -/
def landBytes (w : Row) : Nat := fCap w * (fStride w + 16)

/-! ### Control rows -/

def gWatch (w : Row) : Nat := bits w 128 8
def gVerdict (w : Row) : Nat := bits w 136 6
def gJob (w : Row) : Bool := bits w 142 1 = 1
def gHold (w : Row) : BitVec 8 := BitVec.ofNat 8 (bits w 144 8)
def gTlo (w : Row) : F32 := BitVec.ofNat 32 (bits w 160 32)
def gThi (w : Row) : F32 := BitVec.ofNat 32 (bits w 192 32)
def bCond (w : Row) : Nat := bits w 128 8
def bArg0 (w : Row) : Nat := bits w 136 8
def bArg1 (w : Row) : Nat := bits w 144 8
def bClr (w : Row) : Bool := bits w 152 1 = 1
def bTarget (w : Row) : Nat := bits w 160 14
def bCode (w : Row) : BitVec 16 := BitVec.ofNat 16 (bits w 160 16)
def bMod (w : Row) : Nat := bits w 192 32
def bRem (w : Row) : Nat := bits w 224 32
def lReg (w : Row) : Nat := bits w 128 3
def lCount (w : Row) : Nat := bits w 144 16
def lMate (w : Row) : Nat := bits w 160 14
def barJob (w : Row) : Bool := bits w 128 1 = 1
def barGroup (w : Row) : Nat := bits w 144 12
def barTag (w : Row) : BitVec 32 := BitVec.ofNat 32 (bits w 160 32)
def barTimeout (w : Row) : Nat := bits w 192 16
def sNext (w : Row) : Nat := bits w 128 14
def sSwapOk (w : Row) : Bool := bits w 142 1 = 1
def sEnd (w : Row) : Bool := bits w 143 1 = 1
def eOp (w : Row) : Nat := bits w 128 8
def eEntry (w : Row) : Nat := bits w 160 16
def eAddr (w : Row) : Nat := bits w 192 64
def eShard (w : Row) : BitVec 32 := BitVec.ofNat 32 (bits w 256 32)
def nValue (w : Row) : BitVec 32 := BitVec.ofNat 32 (bits w 128 32)

/-- Data rows are kinds 1 to 6. -/
def isData (w : Row) : Bool := 1 ≤ rowKind w && rowKind w ≤ 6

end Sys2Proof.Machine
end

