-- ==== Sys2Proof/Machine/Paths.lean ====
section
/-!
DEFINITION. Paths through a timetable: loops, entry rows, the flow of a property along every path with each BRANCH taken both
ways and each loop for its full count, and the boarding window (spec/07_timetable.md R161, R170, R171, R177, R178, R180).
-/
namespace Sys2Proof.Machine

/-! ### Loops and entry rows -/

/-- Loops that enclose row k: (LOOP row, ENDLOOP row) with LOOP < k ≤ ENDLOOP. -/
def enclosing (rows : List Row) (k : Nat) : List (Nat × Nat) :=
  ((List.range rows.length).filter (fun i => rowKind (nth rows i 0) = 9 && i < k && k ≤ lMate (nth rows i 0))).map
    (fun i => (i, lMate (nth rows i 0)))

/-- The LOOP row of the innermost loop around row k. -/
def innermost (rows : List Row) (k : Nat) : Option (Nat × Nat) := (enclosing rows k).getLast?

/-- R180: row 0 and the NEXT of every STEP row. -/
def entryRows (rows : List Row) : List Nat :=
  rows.foldl (fun l w => if rowKind w = 12 then insertOnce (sNext w) l else l) [0]

/-- A HALT that ends its path. -/
def haltsAlways (w : Row) : Bool := rowKind w = 15 && bCond w = 0

/-- Rows that a BRANCH can continue at. -/
def branchNext (w : Row) (k : Nat) : List Nat := if bCond w = 0 then [bTarget w] else [bTarget w, k + 1]

/-! ### Flow of a property along every path -/

/-- Outcome of a flow: the row that breaks a rule, or the values that arrive at each row. -/
abbrev Flow (α : Type) := Except Nat (List (Nat × α))

/-- Values waiting at a row, without repetition. -/
def valuesAt {α : Type} [BEq α] (l : List (Nat × α)) (k : Nat) : List α :=
  (l.filter (fun p => p.1 = k)).foldl (fun acc p => insertOnce p.2 acc) []

/-- Apply a row to every value that arrives, joining errors. -/
def mapRow {α : Type} (f : Nat → Row → α → Option α) (k : Nat) (w : Row) : List α → Except Nat (List α)
  | [] => .ok []
  | v :: r =>
    match f k w v, mapRow f k w r with
    | some x, .ok l => .ok (x :: l)
    | none, _ => .error k
    | _, .error e => .error e

/-- n times, or the first error. -/
def iterate {α : Type} (g : α → Except Nat α) : Nat → α → Except Nat α
  | 0, x => .ok x
  | n + 1, x => match g x with | .ok y => iterate g n y | .error e => .error e

/-- n rows from lo with the values that arrive at them, where `sub` follows a loop's body. -/
def flowSeg {α : Type} [BEq α] (f : Nat → Row → α → Option α) (rows : List Row)
    (sub : Nat → Nat → List (Nat × α) → Flow α) : Nat → Nat → List (Nat × α) → Flow α
  | 0, _, vals => .ok vals
  | n + 1, lo, vals =>
    let vs := valuesAt vals lo
    let rest := vals.filter (fun p => p.1 != lo)
    if vs.isEmpty then flowSeg f rows sub n (lo + 1) rest
    else
      let w := nth rows lo 0
      match mapRow f lo w vs with
      | .error e => .error e
      | .ok outs =>
        if rowKind w = 12 || haltsAlways w then flowSeg f rows sub n (lo + 1) rest
        else if rowKind w = 8 then
          flowSeg f rows sub n (lo + 1) (rest ++ (branchNext w lo).flatMap (fun t => outs.map (fun v => (t, v))))
        else if rowKind w = 9 then
          let m := lMate w
          let body (l : List α) : Except Nat (List α) :=
            match sub (m - lo - 1) (lo + 1) (l.map (fun v => (lo + 1, v))) with
            | .ok out => mapRow f m (nth rows m 0) (valuesAt out m)
            | .error e => .error e
          match iterate body (lCount w) outs with
          | .ok fin => flowSeg f rows sub n (lo + 1) (rest ++ fin.map (fun v => (m + 1, v)))
          | .error e => .error e
        else flowSeg f rows sub n (lo + 1) (rest ++ outs.map (fun v => (lo + 1, v)))

/-- The flow with loops nested at most `depth` deep. The result holds the values that leave for rows outside; `f` answers none
where a row breaks a rule. A STEP row and a HALT ALWAYS end a path. -/
def flow {α : Type} [BEq α] (f : Nat → Row → α → Option α) (rows : List Row) : Nat → Nat → Nat → List (Nat × α) → Flow α
  | 0, _, lo, _ => .error lo
  | depth + 1, n, lo, vals => flowSeg f rows (flow f rows depth) n lo vals

/-- Follow every path from an entry row; a path that leaves the slot breaks R180 at its last row. -/
def flowFrom {α : Type} [BEq α] (f : Nat → Row → α → Option α) (rows : List Row) (entry : Nat) (v : α) : Option Nat :=
  match flow f rows 9 (rows.length - entry) entry [(entry, v)] with
  | .error e => some e
  | .ok out => if out.any (fun p => rows.length ≤ p.1) then some (rows.length - 1) else none

/-- The first row that breaks a rule on some path from some entry row. -/
def flowAll {α : Type} [BEq α] (f : Nat → Row → α → Option α) (rows : List Row) (v : α) : Option Nat :=
  (entryRows rows).findSome? (fun e => flowFrom f rows e v)

/-! ### Rows of one step -/

/-- Rows that a path may go to after row k. -/
def successors (rows : List Row) (k : Nat) : List Nat :=
  let w := nth rows k 0
  if rowKind w = 12 || haltsAlways w then []
  else if rowKind w = 8 then branchNext w k
  else [k + 1]

/-- Rows reachable from an entry row within its step, in row order. -/
def reachable (rows : List Row) (entry : Nat) : List Nat :=
  (List.range rows.length).foldl (fun l k => if l.contains k then (successors rows k).foldl (fun l t => insertOnce t l) l else l) [entry]

/-- Two rows lie in one step. -/
def oneStep (rows : List Row) (a b : Nat) : Bool :=
  (entryRows rows).any (fun e => (reachable rows e).contains a && (reachable rows e).contains b)

/-- Issues of a row within a step (R176): the loops around it taken at their full counts, where a path from it reaches their end. -/
def issueCount (rows : List Row) (k : Nat) : Nat :=
  ((enclosing rows k).filter (fun l => (reachable rows k).contains l.2)).foldl (fun n l => n * lCount (nth rows l.1 0)) 1

/-! ### The boarding window -/

/-- One level of the window: rows with the least sum of GAP fields before them, each with the rows that may follow. `swap` is
where a STEP with SWAP_OK continues when a swap is armed. -/
def windowNext (s : State) (swap : Option (Bool × Nat)) (p : Bool × Nat × Nat) : List (Bool × Nat × Nat) :=
  let rows := (slotOf s p.1).rows
  let w := nth rows p.2.1 0
  let gap := p.2.2 + rowGap w
  if haltsAlways w then []
  else if rowKind w = 12 then
    if sEnd w then []
    else match swap with
      | some (b, e) => if sSwapOk w then [(b, e, gap)] else [(p.1, sNext w, gap)]
      | none => [(p.1, sNext w, gap)]
  else if rowKind w = 8 then (branchNext w p.2.1).map (fun t => (p.1, t, gap))
  else if rowKind w = 10 then
    (if 1 < sget s.seq.loops (lReg w) (lCount (nth rows (lMate w) 0)) then [(p.1, lMate w + 1, gap)] else []) ++ [(p.1, p.2.1 + 1, gap)]
  else [(p.1, p.2.1 + 1, gap)]

/-- Keep the earlier estimate of each row. -/
def addLevel (l : List (Bool × Nat × Nat)) (p : Bool × Nat × Nat) : List (Bool × Nat × Nat) :=
  match l.find? (fun q => q.1 = p.1 && q.2.1 = p.2.1) with
  | none => l ++ [p]
  | some q => if p.2.2 < q.2.2 then l.map (fun x => if x.1 = p.1 && x.2.1 = p.2.1 then p else x) else l

def windowLevels (s : State) (swap : Option (Bool × Nat)) : Nat → List (Bool × Nat × Nat) → List (Bool × Nat × Nat)
  | 0, l => l
  | n + 1, l => l ++ windowLevels s swap n ((l.flatMap (windowNext s swap)).foldl addLevel [])

/-- The swap that a STEP with SWAP_OK would make: the ARMED slot and its entry row. -/
def armedSwap (s : State) : Option (Bool × Nat) :=
  if s.seq.slotA.state = .armed then some (false, s.seq.slotA.entry)
  else if s.seq.slotB.state = .armed then some (true, s.seq.slotB.entry) else none

/-- The next 256 rows along every path with the sum of GAP fields before each, the last issued row's included (R177), in 16 ns
units. -/
def window (s : State) : List (Bool × Nat × Nat) :=
  match s.seq.run with
  | none => []
  | some r => if r.asleep || r.halting.isSome then [] else windowLevels s (armedSwap s) 255 [(r.slot, r.next, r.gap)]

/-- A row of a kind is held, or is in the window with an estimate of at most `units` × 16 ns after the last issued row
(log entry 27). -/
def dueWithin (s : State) (units : Nat) (test : Row → Bool) : Bool :=
  s.seq.held.any (fun h => test h.bits) || (window s).any (fun p => p.2.2 ≤ units && test (rowAt s p.1 p.2.1))

/-- A copy reads or writes staging or slice SRAM of region r of a half, whichever half executes it. -/
def copyTouches (w : Row) (half r : Nat) : Bool :=
  rowKind w = 4 && (descs w).any (fun d =>
    (dSkind d = 0 && localHalf (dSaddr d) = half && localRegion (dSaddr d) = r) ||
      (dDkind d = 0 && localHalf (dDaddr d) = half && localRegion (dDaddr d) = r))

/-- A row uses region r of a half. -/
def rowUses (w : Row) (half r : Nat) : Bool := rowNames w half r || copyTouches w half r

/-- 2 µs and 6 µs in units of 16 ns. -/
def wakeUnits : Nat := 125
def gateUnits : Nat := 375

def inWindow (s : State) (r units : Nat) : Bool := dueWithin s units (fun w => rowUses w (myHalf s) r)

end Sys2Proof.Machine
end

