-- ==== Sys2Proof/Machine/Quantiser.lean ====
section
/-!
DEFINITION. The quantiser and the rotation unit (spec/03_quantiser.md R61 to R85), the random generator
(spec/02_formats.md R53 to R56), the canonical tree (spec/05_accumulators.md R123), and the packing of codes, code blocks and
plane-side blocks (spec/02_formats.md R27 to R33; spec/06_vector_engine.md R139, R140).
-/
namespace Sys2Proof.Machine

/-! ### The canonical tree -/

/-- canon over a list: the left subtree takes the largest power of two below the length. -/
def canonBy {α : Type} (f : α → α → α) (d : α) : Nat → List α → α
  | 0, _ => d
  | n + 1, xs =>
    match xs with
    | [] => d
    | [x] => x
    | _ =>
      let m := 2 ^ Nat.log2 (xs.length - 1)
      f (canonBy f d n (xs.take m)) (canonBy f d n (xs.drop m))

/-- canon of floats; +0 of none. -/
def canon (xs : List Fr) : Fr := canonBy Fr.add (fr 0) xs.length xs

/-- Consecutive runs of n, with a shorter last one; `fuel` at least the number of runs. -/
def runsOf {α : Type} (n : Nat) : Nat → List α → List (List α)
  | 0, _ => []
  | k + 1, xs => if xs.isEmpty then [] else xs.take n :: runsOf n k (xs.drop n)

/-- ORDER of a reduction: TREE, or runs of 4, 8 or 16 in sequence. -/
def reduceBy (order : Nat) (xs : List Fr) : Fr :=
  if order = 0 then canon xs
  else
    match (runsOf (2 ^ (order + 1)) xs.length xs).map canon with
    | [] => fr 0
    | g :: gs => gs.foldl Fr.add g

/-! ### Code ranges -/

/-- Range of codes, q_max and L of R71, zero point, SR. -/
structure CodeRule where
  lo : Int
  hi : Int
  qmax : Nat
  span : Nat
  zp : Bool
  sr : Bool
deriving DecidableEq, Repr

/-- spec/02_formats.md R29: integer code formats under their clamp. -/
def intRule (fmt : Nat) (zp sr : Bool) : CodeRule :=
  let mk (lo hi : Int) : CodeRule := { lo := lo, hi := hi, qmax := hi.toNat, span := (hi - lo).toNat, zp := zp, sr := sr }
  let c := fmtClamp fmt
  match fmtCode fmt with
  | 1 => mk (if c then -127 else -128) 127
  | 2 => mk 0 255
  | 3 => mk (if c then -7 else -8) 7
  | 4 => mk 0 15
  | _ => mk (-32768) 32767

/-- spec/06_vector_engine.md Table 06-5: plane targets. -/
def planeRule (code : Nat) (psign zp : Bool) : CodeRule :=
  let b := planeCount code
  let mk (lo hi : Int) (q l : Nat) : CodeRule := { lo := lo, hi := hi, qmax := q, span := l, zp := zp, sr := false }
  if isT code then mk (-1) 1 1 2
  else if isW code && psign then mk (-(2 : Int) ^ (b - 1)) (2 ^ (b - 1) - 1) (2 ^ (b - 1) - 1) (2 ^ b - 1)
  else mk 0 (2 ^ b - 1) (2 ^ b - 1) (2 ^ b - 1)

/-! ### Dynamic scales, R71, R72 -/

inductive GroupKind where | zero | flat | ordinary
deriving DecidableEq, Repr

def groupKind (xs : List F32) : GroupKind :=
  if xs.all isZero then .zero
  else if xs.all (fun x => x = xs.headD 0) && !isNan (xs.headD 0) && !isInf (xs.headD 0) then .flat
  else .ordinary

def finites (xs : List F32) : List Int := (xs.filter (fun x => !isNan x && !isInf x)).map units

def maxMag (xs : List F32) : Nat := (finites xs).foldl (fun m x => max m x.natAbs) 0

def minZero (xs : List F32) : Int := (finites xs).foldl min 0

def maxZero (xs : List F32) : Int := (finites xs).foldl max 0

/-- need of a group as a quotient of units; where q_max is 0 the spec states no range. -/
def needOf (r : CodeRule) (xs : List F32) : Nat × Nat :=
  if r.zp && groupKind xs = .ordinary then ((maxZero xs - minZero xs).toNat, r.span)
  else if r.qmax = 0 then (Config.unitNeed (maxMag xs) % 2 ^ 270 + 1, 1)
  else (maxMag xs, r.qmax)

def ratLt (a b : Nat × Nat) : Bool := decide (a.1 * b.2 < b.1 * a.2)

/-- The smallest BF16 not below num / den units. -/
def bf16Up (num den : Nat) : BitVec 16 :=
  if num = 0 then 0 else
  let l0 : Int := (Nat.log2 num : Int) - Nat.log2 den
  let small := if 0 ≤ l0 then decide (num < den * 2 ^ l0.toNat) else decide (num * 2 ^ (-l0).toNat < den)
  let l := if small then l0 - 1 else l0
  let u := max (l - 7) 16
  BitVec.ofNat 16 (ceilDiv num (den * 2 ^ u.toNat) + (u - 16).toNat * 2 ^ 7)

/-- A group's first-level code and zero point, and what its elements are. -/
structure GScale where
  w1 : Nat
  z : Int
  kind : GroupKind
deriving DecidableEq, Repr

/-- Scales of one super-group: W2 and each group's. -/
structure Scales where
  w2 : BitVec 16
  gs : List GScale
deriving DecidableEq, Repr

def clampNat (x lo hi : Nat) : Nat := max lo (min x hi)

def clampInt (x lo hi : Int) : Int := max lo (min x hi)

/-- One group's codes against W2 of m units. -/
def groupScale (r : CodeRule) (m : Nat) (xs : List F32) : GScale :=
  let n := needOf r xs
  match groupKind xs with
  | .zero => ⟨1, 0, .zero⟩
  | .flat => ⟨clampNat (awayDiv n.1 (n.2 * m)) 1 255, 0, .flat⟩
  | .ordinary =>
    let w := clampNat (ceilDiv n.1 (n.2 * m)) 1 255
    ⟨w, if r.zp then clampInt (r.lo + awayDiv (minZero xs).natAbs (w * m)) r.lo r.hi else 0, .ordinary⟩

/-- dynamic_scales of R71; `proving` is the region's assurance. -/
def dynamicScales (r : CodeRule) (proving : Bool) (groups : List (List F32)) : Scales :=
  if proving && groups.any (fun g => g.any isNan) then ⟨0x7FC0, groups.map (fun g => ⟨1, 0, groupKind g⟩)⟩
  else
    let needs := (groups.filter (fun g => groupKind g != .zero)).map (needOf r)
    let top := needs.foldl (fun t n => if ratLt t n then n else t) (0, 1)
    let w2 := if top.1 = 0 then 0x3F80 else bf16Up top.1 (top.2 * 255)
    ⟨w2, groups.map (groupScale r (units (bf16Word w2)).natAbs)⟩

/-! ### Steps and codes, R63, R73 -/

/-- A step: its FP32 word with the flags of forming it, and its exact units where it is finite. -/
structure StepVal where
  word : Fr
  exact : Option Int
deriving DecidableEq, Repr

/-- The step of a group whose scales the EZ-1 sets itself: finite and positive. -/
def ownStep (w1 : Nat) (w2 : BitVec 16) : StepVal :=
  let d := units (bf16Word w2) * (w1 : Int)
  if isNan (bf16Word w2) then ⟨fr qnan, none⟩ else ⟨fr (rneScaled d 149).1, some d⟩

/-- The step read from arrays: rne_fp32(w₁ × A2) by R44. -/
def readStep (w1 : Nat) (w2 : BitVec 16) : StepVal :=
  let p := fmul (rneInt w1) (bf16Word w2)
  ⟨p, if isNan p.1 || isInf p.1 then none else some (units p.1)⟩

/-- x / Δ, rounded once. -/
def quot (x : F32) (st : StepVal) : Fr :=
  match fl x, st.exact with
  | .fin neg n, some d => if d = 0 then fdiv x st.word.1 else rneRat (neg != decide (d < 0)) n d.natAbs
  | _, _ => fdiv x st.word.1

/-- y of R73. -/
def yOf (x : F32) (st : StepVal) (zp : Bool) (z : Int) : Fr :=
  let q := quot x st
  let y := if zp then (let a := fadd q.1 (rneInt z); (a.1, q.2 ||| a.2)) else q
  (y.1, y.2 ||| st.word.2)

/-- One element by R73, with its draw where SR is set. -/
def codeElem (r : CodeRule) (x : F32) (st : StepVal) (z : Int) (draw : Nat) : Coded :=
  let y := yOf x st r.zp z
  let c := if r.sr then quantiseSr y.1 r.lo r.hi draw else quantise y.1 r.lo r.hi
  ⟨c.code, c.flags ||| y.2⟩

/-- A flat group's code, through the range clamp. -/
def flatCode (r : CodeRule) (x : F32) : Coded := clipCode (if units x < 0 then -(r.qmax : Int) else r.qmax) r.lo r.hi

/-- How a super-group's steps came about. -/
inductive ScaleSource where
  /-- R71. -/
  | dynamic
  /-- Learned or anchored scales. -/
  | given
  /-- R74: groups are tested for flatness, and counted. -/
  | calibrated
deriving DecidableEq, Repr

def stepOf (src : ScaleSource) (w1 : Nat) (w2 : BitVec 16) : StepVal :=
  match src with
  | .dynamic => ownStep w1 w2
  | _ => readStep w1 w2

/-- Codes of one group; `draw` by the element's place in the group. -/
def codeGroup (r : CodeRule) (src : ScaleSource) (w2 : BitVec 16) (g : GScale) (xs : List F32) (draw : Nat → Nat) :
    List Coded :=
  if src = .dynamic && isNan (bf16Word w2) then
    xs.map (fun x => ⟨0, flagNanCode ||| (if isNan x then flagNanIn else 0)⟩)
  else if src = .dynamic && g.kind = .zero then xs.map (fun _ => ⟨0, 0⟩)
  else if src = .dynamic && g.kind = .flat then xs.map (flatCode r)
  else xs.mapIdx (fun i x => codeElem r x (stepOf src g.w1 w2) g.z (draw i))

/-! ### The watch, R83, R84 -/

/-- What a conversion adds: counts, the squares in order, and the numeric flags. -/
structure Tally where
  elements : Nat
  saturated : Nat
  nans : Nat
  flat : Nat
  rejects : Nat
  err : List F32
  energy : List F32
  flags : BitVec 8
deriving DecidableEq, Repr

def Tally.zero : Tally :=
  { elements := 0, saturated := 0, nans := 0, flat := 0, rejects := 0, err := [], energy := [], flags := 0 }

def Tally.add (a b : Tally) : Tally :=
  { elements := a.elements + b.elements, saturated := a.saturated + b.saturated, nans := a.nans + b.nans,
    flat := a.flat + b.flat, rejects := a.rejects + b.rejects, err := a.err ++ b.err, energy := a.energy ++ b.energy,
    flags := a.flags ||| b.flags }

def Tally.sum (l : List Tally) : Tally := l.foldl Tally.add Tally.zero

/-- Squares of one finite element against what its code stands for, in exact units (none: not finite). -/
def squares (x : F32) (xhat : Option Int) : Option (F32 × F32) :=
  match fl x, xhat with
  | .fin _ _, some h =>
    let e := (rneScaled (units x - h) 149).1
    some ((fmul e e).1, (fmul x x).1)
  | _, _ => none

/-- What a code stands for by R64, in units. -/
def standsFor (st : StepVal) (zp : Bool) (z code : Int) : Option Int :=
  st.exact.map (fun d => (code - (if zp then z else 0)) * d)

/-- The tally of a group: its coded elements with what each stands for. -/
def tallyGroup (flat : Bool) (xs : List F32) (cs : List Coded) (hats : List (Option Int)) : Tally :=
  let sq := (xs.zip hats).filterMap (fun p => squares p.1 p.2)
  { elements := xs.length
    saturated := (cs.filter (fun c => c.flags &&& flagSaturated != 0)).length
    nans := (cs.filter (fun c => c.flags &&& flagNanCode != 0)).length
    flat := if flat then 1 else 0
    rejects := 0
    err := sq.map Prod.fst
    energy := sq.map Prod.snd
    flags := cs.foldl (fun f c => f ||| c.flags) (if flat then flagFlat else 0) }

/-- Values of a PROBE's codes: nearest codes under the probe's own dynamic scales, with the row's zero-point choice (R84). -/
def probeHats (fmt : Nat) (zp proving : Bool) (groups : List (List F32)) : List (List (Option Int)) :=
  let r := intRule fmt zp false
  let sc := dynamicScales r proving groups
  (groups.zip sc.gs).map (fun p =>
    let st := ownStep p.2.w1 sc.w2
    (codeGroup r .dynamic sc.w2 p.2 p.1 (fun _ => 0)).map (fun c => standsFor st r.zp p.2.z c.code))

/-- A group counts as flat (R75); one under LEARNED or in an anchored column does not (DESIGN CHOICE, log entry 98). -/
def countsFlat (src : ScaleSource) (w2 : BitVec 16) (xs : List F32) : Bool :=
  match src with
  | .dynamic => !isNan (bf16Word w2) && groupKind xs != .ordinary
  | .given => false
  | .calibrated => groupKind xs != .ordinary

/-- NAN_IN of reading or ranging over a NaN. -/
def nanFlag (xs : List F32) : BitVec 8 := if xs.any isNan then flagNanIn else 0

/-- One super-group coded to integer codes: codes by group, and the tally. -/
def codeSuper (r : CodeRule) (src : ScaleSource) (sc : Scales) (probe : Nat) (proving : Bool) (groups : List (List F32))
    (draw : Nat → Nat) : List (List Int) × Tally :=
  let gl := (groups.headD []).length
  let coded := (groups.zip sc.gs).mapIdx (fun i p => codeGroup r src sc.w2 p.2 p.1 (fun k => draw (i * gl + k)))
  let hats := if probe = 0 then
      ((groups.zip sc.gs).zip coded).map (fun p =>
        p.2.map (fun c => standsFor (stepOf src p.1.2.w1 sc.w2) r.zp p.1.2.z c.code))
    else probeHats probe r.zp proving groups
  let void := src = .dynamic && isNan (bf16Word sc.w2)
  let t := Tally.sum (((groups.zip coded).zip hats).map (fun p =>
    tallyGroup (countsFlat src sc.w2 p.1.1) p.1.1 p.1.2 (if void then p.1.1.map (fun _ => none) else p.2)))
  (coded.map (fun l => l.map Coded.code), { t with flags := t.flags ||| groups.foldl (fun f g => f ||| nanFlag g) 0 })

/-! ### The rotation unit, R79, R80 -/

/-- K_rot. -/
def rotKey (seed : Nat) : List Byte := (sha384 (leBytes 4 seed ++ [1])).take 16

/-- d(k) = −1. -/
def rotNeg (key : List Byte) (k : Nat) : Bool :=
  fld (ofLe (aes128 key (leBytes 8 (k / 128) ++ zeros 8))) (k % 128) 1 = 1

/-- x × d: an exact change of sign. -/
def flipBy (neg : Bool) (x : Fr) : Fr := if isNan x.1 then (qnan, x.2 ||| flagNanIn) else if neg then (negF x.1, x.2) else x

/-- One butterfly stage. -/
def butterfly (s : Nat) (xs : List Fr) : List Fr :=
  (List.range xs.length).map (fun i =>
    if fld i s 1 = 0 then Fr.add (nth xs i (fr 0)) (nth xs (i + 2 ^ s) (fr 0))
    else Fr.sub (nth xs (i - 2 ^ s) (fr 0)) (nth xs i (fr 0)))

def stages (m : Nat) (xs : List Fr) : List Fr := (List.range m).foldl (fun l s => butterfly s l) xs

/-- Multiply by 2^−m. -/
def scaleDown (m : Nat) (on : Bool) (xs : List Fr) : List Fr :=
  if on then xs.map (fun x => Fr.mul x (fr (BitVec.ofNat 32 ((127 - m) * 2 ^ 23)))) else xs

/-- One block from reduction index `base`. -/
def rotateBlock (q : Quant) (key : List Byte) (base : Nat) (xs : List Fr) : List Fr :=
  let m := 5 + q.rblock
  let sign (l : List Fr) : List Fr := l.mapIdx (fun i x => flipBy (rotNeg key (base + i)) x)
  if q.rmode = 1 then scaleDown m q.rscale (stages m (sign xs)) else sign (scaleDown m q.rscale (stages m xs))

/-- A whole reduction, block by block. -/
def rotate (q : Quant) (xs : List Fr) : List Fr :=
  if q.rmode = 0 then xs
  else
    let key := rotKey q.rotSeed
    ((runsOf q.block xs.length xs).mapIdx (fun j l => rotateBlock q key (j * q.block) l)).flatten

/-! ### Random draws, spec/02_formats.md R55, R56, R59 -/

/-- The key of a tensor, and the one that replaces it for a row. -/
def drawKey (s : State) (tensor : Nat) : List Byte :=
  (sha384 (wordBytes s.job.seed ++ leBytes 2 (myNode s).toNat ++
    [if s.pair.role = .secondary then 1 else 0, 0] ++ leBytes 4 tensor)).take 16

def remapKey (key : List Byte) (slot : Bool) (row : Nat) : List Byte := (sha384 (key ++ slotByte slot ++ leBytes 2 row)).take 16

/-- The 32-bit word of an element index. -/
def drawWord (key : List Byte) (step : BitVec 48) (i : Nat) : Nat :=
  fld (ofLe (aes128 key (leBytes 8 (i / 4) ++ leBytes 6 step.toNat ++ [0, 0]))) (i % 4 * 32) 32

/-! ### Packing -/

/-- Codes of one integer format as bytes. -/
def packCodes (code : Nat) (cs : List Int) : List Byte :=
  let b := fmtBits code
  let v := cs.foldr (fun c acc => acc * 2 ^ b + wrapInt b c) 0
  leBytes (ceilDiv (cs.length * b) 8) v

/-- n codes of one integer format from bytes. -/
def unpackCodes (code n : Nat) (bs : List Byte) : List Int :=
  let b := fmtBits code
  let v := ofLe bs
  (List.range n).map (fun i =>
    let x := fld v (b * i) b
    if code = 1 || code = 3 || code = 5 then signedOf b x else x)

/-- A word read as an FP32 operand: a NaN reads as the canonical NaN and sets NAN_IN (R36, Table 02-5). -/
def readWord (x : F32) : Fr := if isNan x then (qnan, flagNanIn) else fr x

/-- Elements of a float format as FP32 words; a NaN read raises NAN_IN. -/
def readFloats (code n : Nat) (bs : List Byte) : List Fr :=
  let v := ofLe bs
  (List.range n).map (fun i =>
    if code = 8 then readWord (BitVec.ofNat 32 (fld v (32 * i) 32))
    else if code = 6 then ofBf16 (BitVec.ofNat 16 (fld v (16 * i) 16))
    else ofFp16 (BitVec.ofNat 16 (fld v (16 * i) 16)))

/-- A float result in its format (spec/02_formats.md Table 02-4): its bytes and flags; `draw` where it rounds
stochastically. FP32 to FP32 is no path of that table: the word is written as it is and no flag is set (R40). -/
def convert (fmt : Nat) (draw : Option Nat) (x : F32) : List Byte × BitVec 8 :=
  match fmtCode fmt with
  | 6 => let r := match draw with | some d => toBf16Sr x d | none => toBf16 x
         (wordBytes r.1, r.2)
  | 7 => let r := toFp16 x; (wordBytes r.1, r.2)
  | _ => (wordBytes (if isNan x then qnan else x), 0)

/-- Bytes that are written at offsets from a reference. -/
abbrev Writes := List (Nat × List Byte)

/-! ### Code blocks and plane-side blocks -/

/-- One token's or column's super-group as coded: codes by group, and its scales. -/
structure SuperCodes where
  codes : List (List Int)
  w1 : List Nat
  z : List Int
  w2 : BitVec 16
  /-- Sign planes: bits by plane and element, and the plane-scale words. -/
  sgn : List (List Bool)
  words : List (BitVec 16)
deriving DecidableEq, Repr

/-- A code block of tokens (R139). -/
def codeBlock (code : Nat) (zp : Bool) (tokens : List (List SuperCodes)) : Writes :=
  let n := tokens.length
  let tok := tokens.headD []
  let k := (tok.map (fun p => (p.codes.map List.length).sum)).sum
  let ng := (tok.map (fun p => p.w1.length)).sum
  let cs := up16 (fmtBytes code k)
  let vs := up16 ng
  let as := up16 (2 * tok.length)
  let vOff := up16 (n * cs)
  let zOff := vOff + n * vs
  let aOff := zOff + (if zp then n * vs else 0)
  (tokens.mapIdx (fun i t => (i * cs, packCodes code (t.flatMap (fun p => p.codes.flatten))))) ++
    (tokens.mapIdx (fun i t => (vOff + i * vs, t.flatMap (fun p => p.w1.map (BitVec.ofNat 8))))) ++
    (if zp then tokens.mapIdx (fun i t => (zOff + i * vs, t.flatMap (fun p => p.z.map (fun z => BitVec.ofNat 8 (wrapInt 8 z))))) else []) ++
    tokens.mapIdx (fun i t => (aOff + i * as, t.flatMap (fun p => wordBytes p.w2)))

/-- A column's bits of one plane of one group. -/
def bitString (bs : List Bool) : List Byte := leBytes (bs.length / 8) (bs.foldr (fun b acc => acc * 2 + b2n b) 0)

/-- A group of trits as five-bit codes (spec/02_formats.md R33). -/
def tritString (cs : List Int) : List Byte :=
  let codes := (runsOf 3 cs.length cs).map (fun t => ((nth t 0 0 + 1) + 3 * (nth t 1 0 + 1) + 9 * (nth t 2 0 + 1)).toNat)
  leBytes (codes.length * 5 / 8) (codes.foldr (fun c acc => acc * 32 + c) 0)

/-- A group's strings, one for each plane. -/
def groupStrings (code g : Nat) (p : SuperCodes) (i : Nat) : List (List Byte) :=
  if isT code then [tritString (nth p.codes i [])]
  else if isB code then p.sgn.map (fun l => bitString ((l.drop (i * g)).take g))
  else (List.range (planeCount code)).map (fun j => bitString ((nth p.codes i []).map (fun c => fld (wrapInt 8 c) j 1 = 1)))

/-- A padding column (spec/04_table_arithmetic.md R103, spec/06_vector_engine.md R154): zero planes, w₁ 0, z_w 0, W2 +0,
plane-scale words 1. -/
def padSuper (code g ngroups : Nat) : SuperCodes :=
  { codes := List.replicate ngroups (List.replicate g 0), w1 := List.replicate ngroups 0, z := List.replicate ngroups 0,
    w2 := 0, sgn := List.replicate (planeCount code) (List.replicate (ngroups * g) false),
    words := List.replicate (planeCount code) 1 }

/-- Strings of a padding column are zero bits in every format. -/
def padStrings (code g : Nat) : List (List Byte) :=
  if isT code then [zeros (if g = 48 then 10 else 20)] else List.replicate (planeCount code) (zeros (g / 8))

/-- A column of a block: its super-groups, or a padding column. -/
abbrev Column := Option (List SuperCodes)

def colStrings (code g : Nat) (c : Column) (i : Nat) : List (List Byte) :=
  match c with
  | some l => groupStrings code g (nth l (i / 16) (padSuper code g 0)) (i % 16)
  | none => padStrings code g

def colW1 (c : Column) (i : Nat) : Byte :=
  match c with | some l => BitVec.ofNat 8 (((l[i / 16]?).bind (fun p => p.w1[i % 16]?)).getD 0) | none => 0

def colZ (c : Column) (i : Nat) : Byte :=
  match c with | some l => BitVec.ofNat 8 (wrapInt 8 (((l[i / 16]?).bind (fun p => p.z[i % 16]?)).getD 0)) | none => 0

def colW2 (c : Column) (h : Nat) : BitVec 16 := match c with | some l => ((l[h]?).map SuperCodes.w2).getD 0 | none => 0

def colWord (c : Column) (h j : Nat) : BitVec 16 :=
  match c with | some l => ((l[h]?).bind (fun p => p.words[j]?)).getD 1 | none => 1

/-- The arrays of a plane-side block of 512 columns from planes to W2, each at a 16-byte boundary. -/
def planeBlock (code g ngroup : Nat) (zp : Bool) (base : Nat) (cols : List Column) : Writes :=
  let b := planeCount code
  let nsup := ceilDiv ngroup 16
  let str := (List.range ngroup).flatMap (fun i =>
    let per := cols.map (fun c => colStrings code g c i)
    (List.range b).flatMap (fun j => per.flatMap (fun l => nth l j [])))
  let words := if isB code then
      (List.range nsup).flatMap (fun h => (List.range b).flatMap (fun j => cols.flatMap (fun c => wordBytes (colWord c h j))))
    else []
  let w1 := (List.range ngroup).flatMap (fun i => cols.map (fun c => colW1 c i))
  let z := if zp then (List.range ngroup).flatMap (fun i => cols.map (fun c => colZ c i)) else []
  let w2 := (List.range nsup).flatMap (fun h => cols.flatMap (fun c => wordBytes (colW2 c h)))
  let o1 := base + up16 str.length
  let o2 := o1 + up16 words.length
  let o3 := o2 + up16 w1.length
  let o4 := o3 + up16 z.length
  [(base, str), (o1, words), (o2, w1), (o3, z), (o4, w2)].filter (fun p => !p.2.isEmpty)

/-! ### QUANT rows in one region -/

/-- What a row writes in one region: bytes by operand, its flags and its tally. -/
structure RowOut where
  writes : List (OpRef × Writes)
  tally : Tally
deriving DecidableEq, Repr

/-- The rule of a QUANT row's target. -/
def quantRule (w : Row) : CodeRule :=
  let q := quantOf w 128
  if isW q.code then planeRule q.code (qPsign w) q.zp else intRule q.target q.zp (fmtSr q.target)

/-- Calibrated scales of token t and super-group h from the bytes at CAL. -/
def calScales (w : Row) (bs : List Byte) (t h : Nat) (groups : List (List F32)) : Scales :=
  let q := quantOf w 128
  let ng := qK w / q.g
  let vs := up16 ng
  let zOff := qNtoken w * vs
  let aOff := zOff + (if q.zp then zOff else 0)
  let byteAt (o : Nat) : Nat := (nth bs o 0).toNat
  let gs := groups.mapIdx (fun i x =>
    let o := t * vs + h * 16 + i
    ({ w1 := byteAt o, z := if q.zp then signedOf 8 (byteAt (zOff + o)) else 0, kind := groupKind x } : GScale))
  ⟨bytesWord 16 ((bs.drop (aOff + t * up16 (2 * ceilDiv ng 16) + 2 * h)).take 2), gs⟩

/-- One token: rotated, cut into super-groups and coded; `draw` by the element's place in the token. -/
def quantToken (w : Row) (proving : Bool) (cal : List Byte) (t : Nat) (xs : List Fr) (draw : Nat → Nat) :
    List SuperCodes × Tally :=
  let q := quantOf w 128
  let r := quantRule w
  let ys := rotate q xs
  let flags := (xs ++ ys).foldl (fun f x => f ||| x.2) 0
  let supers := runsOf (16 * q.g) ys.length (ys.map Prod.fst)
  let out := supers.mapIdx (fun h l =>
    let groups := runsOf q.g l.length l
    let src : ScaleSource := if qCalibrated w then .calibrated else .dynamic
    let sc := if qCalibrated w then calScales w cal t h groups else dynamicScales r proving groups
    let c := codeSuper r src sc q.probe proving groups (fun k => draw (h * 16 * q.g + k))
    (({ codes := c.1, w1 := sc.gs.map GScale.w1, z := sc.gs.map GScale.z, w2 := sc.w2, sgn := [], words := [] } : SuperCodes), c.2))
  (out.map Prod.fst, Tally.add { Tally.zero with flags := flags } (Tally.sum (out.map Prod.snd)))

/-- Tokens of the source, each from its 16-byte stride. -/
def quantSource (w : Row) (bs : List Byte) : List (List Fr) :=
  let c := fmtCode (qSfmt w)
  let st := up16 (fmtBytes c (qK w))
  (List.range (qNtoken w)).map (fun t => readFloats c (qK w) ((bs.drop (t * st)).take (fmtBytes c (qK w))))

/-- A QUANT row in one region: `src` and `cal` are the bytes it reads, `draw` the words of its elements. -/
def quantRegion (w : Row) (proving : Bool) (src cal : List Byte) (draw : Nat → Nat) : RowOut :=
  let q := quantOf w 128
  let k := qK w
  let toks := quantSource w src
  if isFloat q.code then
    let st := up16 (fmtBytes q.code k)
    let out := toks.mapIdx (fun t xs =>
      (rotate q xs).mapIdx (fun i y => let c := convert q.target (if fmtSr q.target then some (draw (t * k + i) / 2 ^ 16) else none) y.1; (c.1, c.2 ||| y.2)))
    let fl := (toks.flatten ++ out.flatten.map (fun p => ((0 : F32), p.2))).foldl (fun f x => f ||| x.2) 0
    { writes := [(qDst w, out.mapIdx (fun t l => (t * st, l.flatMap Prod.fst)))], tally := { Tally.zero with flags := fl } }
  else
    let out := toks.mapIdx (fun t xs => quantToken w proving cal t xs (fun i => draw (t * k + i) / 2 ^ 8))
    let tally := Tally.sum (out.map Prod.snd)
    let ng := k / q.g
    let wr := if isW q.code then
        ((runsOf 512 toks.length (out.map Prod.fst)).mapIdx (fun i cols =>
          planeBlock q.code q.g ng q.zp (i * planeBlockBytes q.code q.g ng q.zp false)
            (cols.map some ++ List.replicate (512 - cols.length) none))).flatten
      else codeBlock q.code q.zp (out.map Prod.fst)
    { writes := [(qDst w, wr)], tally := tally }

end Sys2Proof.Machine
end

