-- ==== Sys2Proof/Machine/Vector.lean ====
section
/-!
DEFINITION. What a vector row computes in one region (spec/06_vector_engine.md R143 to R156), from a reader of its operand
references and the draws of its elements. Every operation raises the row's numeric flags in its tally.
-/
namespace Sys2Proof.Machine

/-- A reader of operand references: n bytes from a reference. -/
abbrev Reader := OpRef → Nat → List Byte

def orFlags (xs : List Fr) : BitVec 8 := xs.foldl (fun f x => f ||| x.2) 0

/-- A row that writes and raises flags, and adds to no watch entry. -/
def outOf (writes : List (OpRef × Writes)) (flags : BitVec 8) : RowOut :=
  { writes := writes, tally := { Tally.zero with flags := flags } }

/-! ### Statistics records, spec/05_accumulators.md R129, R130 -/

structure Stats where
  n : Nat
  sum : Fr
  sumsq : Fr
  mean : Fr
  m2 : Fr
deriving DecidableEq, Repr

/-- merge of R129 with the sums beside it; none is an empty record. -/
def Stats.merge (a b : Option Stats) : Option Stats :=
  match a, b with
  | none, b => b
  | a, none => a
  | some a, some b =>
    let n := a.n + b.n
    let d := Fr.sub b.mean a.mean
    let mean := Fr.add a.mean (Fr.mul d (rneRat false b.n n))
    let m2 := Fr.add (Fr.add a.m2 b.m2) (Fr.mul (Fr.mul d d) (rneRat false (a.n * b.n) n))
    some { n := n, sum := Fr.add a.sum b.sum, sumsq := Fr.add a.sumsq b.sumsq, mean := mean, m2 := m2 }

/-- Records merged over the canonical tree. -/
def Stats.canon (l : List (Option Stats)) : Option Stats := canonBy Stats.merge none l.length l

/-- Statistics of a row of values: SUM, SUMSQ and the triple from leaves (1, x, +0). -/
def Stats.ofValues (xs : List Fr) : Option Stats :=
  Stats.canon (xs.map (fun x => some { n := 1, sum := x, sumsq := Fr.mul x x, mean := x, m2 := fr 0 }))

def Stats.ofBytes (bs : List Byte) : Option Stats :=
  let v := ofLe bs
  let f (i : Nat) : Fr := readWord (BitVec.ofNat 32 (fld v (32 * i) 32))
  if fld v 0 32 = 0 then none else some { n := fld v 0 32, sum := f 1, sumsq := f 2, mean := f 3, m2 := f 4 }

/-- A record's 32 bytes and the flags of what it holds. -/
def Stats.bytes (r : Option Stats) : List Byte × BitVec 8 :=
  match r with
  | none => (zeros 32, 0)
  | some r =>
    let c := [r.sum, r.sumsq, r.mean, r.m2]
    (leBytes 4 (min r.n (2 ^ 32 - 1)) ++ c.flatMap (fun x => wordBytes (if isNan x.1 then qnan else x.1)) ++ zeros 12,
      orFlags c ||| (if 2 ^ 32 ≤ r.n then flagSaturated else 0))

/-- The records of one position over NPART + 1 parts, merged (R144). -/
def mergedAt (bs : List Byte) (parts count r : Nat) : Option Stats :=
  Stats.canon ((List.range parts).map (fun p => Stats.ofBytes ((bs.drop (32 * (p * count + r))).take 32)))

/-! ### COMBINE, MERGE, NORM -/

def combineRegion (w : Row) (rd : Reader) : RowOut :=
  let n := vCount w
  let parts := (List.range (vNpart w + 1)).map (fun p => readFloats 8 n (rd ((vSrc w 0).up (p * vAux0 w)) (4 * n)))
  let res := (List.range n).map (fun i =>
    let x := reduceBy (vOrder w) (parts.map (fun l => nth l i (fr 0)))
    let c := convert (vOfmt w) none x.1
    (c.1, x.2 ||| c.2))
  outOf [(vDst w 0, [(0, res.flatMap Prod.fst)])] (res.foldl (fun f x => f ||| x.2) 0)

def mergeRegion (w : Row) (rd : Reader) : RowOut :=
  let n := vCount w
  let parts := vNpart w + 1
  let bs := rd (vSrc w 0) (32 * n * parts)
  let recs := (List.range n).map (fun r => Stats.bytes (mergedAt bs parts n r))
  outOf [(vDst w 0, [(0, recs.flatMap Prod.fst)])] (recs.foldl (fun f x => f ||| x.2) 0)

/-- A merged record as MERGE gives it: its count at most 2³² − 1 (R130). -/
def Stats.capped (r : Option Stats) : Option Stats := r.map (fun r => { r with n := min r.n (2 ^ 32 - 1) })

/-- The pseudocode of R145 for one position. -/
def normRow (rms nobias : Bool) (eps : F32) (rec : Option Stats) (x gamma beta : List Fr) : List Fr :=
  let r : Stats := rec.getD { n := 0, sum := fr 0, sumsq := fr 0, mean := fr 0, m2 := fr 0 }
  let n : Fr := fr (rneInt r.n)
  let mu := if rms then fr 0 else r.mean
  let var := Fr.div (if rms then r.sumsq else r.m2) n
  let inv := Fr.div (fr 0x3F800000) (Fr.sqrt (Fr.add var (fr eps)))
  x.mapIdx (fun i xi =>
    let v := Fr.mul (Fr.mul (Fr.sub xi mu) inv) (nth gamma i (fr 0))
    if nobias then v else Fr.add v (nth beta i (fr 0)))

/-- NORM in one region: the records are merged as MERGE does, every flag of the merge the row's. Positions of x and of y lie at
16-byte boundaries (DESIGN CHOICE, log entry 83). -/
def normRegion (w : Row) (rd : Reader) : RowOut :=
  let n := vCount w
  let c := vAux0 w
  let parts := vNpart w + 1
  let xf := if vVarBit w 2 then 6 else 8
  let st := up16 (fmtBytes xf c)
  let xs := rd (vSrc w 0) (n * st)
  let recs := rd (vSrc w 1) (32 * n * parts)
  let gamma := readFloats 6 c (rd (vSrc w 2) (2 * c))
  let beta := if vVarBit w 1 then [] else readFloats 6 c (rd (vSrc w 3) (2 * c))
  let ost := up16 (fmtBytes (fmtCode (vOfmt w)) c)
  let merged := (List.range n).map (mergedAt recs parts n)
  let out := merged.mapIdx (fun r rec =>
    (normRow (vVarBit w 0) (vVarBit w 1) (vC w 0) (Stats.capped rec)
      (readFloats xf c ((xs.drop (r * st)).take (fmtBytes xf c))) gamma beta).map (fun y =>
        let k := convert (vOfmt w) none y.1
        (k.1, y.2 ||| k.2)))
  outOf [(vDst w 0, out.mapIdx (fun r l => (r * ost, l.flatMap Prod.fst)))]
    (out.flatten.foldl (fun f x => f ||| x.2) (merged.foldl (fun f rec => f ||| (Stats.bytes rec).2) 0))

/-! ### ROUTE, R146 to R148 -/

/-- Key of the selection: NaN below every number. -/
def routeKey (x : F32) : Int := if isNan x then -(2 : Int) ^ 301 else fkey x

/-- The greatest remaining logit, the lowest index first. -/
def greatest (ls : List F32) (taken : List Nat) : Option Nat :=
  (List.range ls.length).foldl (fun m i =>
    if taken.contains i then m
    else match m with
      | none => some i
      | some j => if routeKey (nth ls j 0) < routeKey (nth ls i 0) then some i else some j) none

/-- k experts in the order of their selection. -/
def selectExperts (ls : List F32) : Nat → List Nat → List Nat
  | 0, acc => acc
  | n + 1, acc => match greatest ls acc with | none => acc | some i => selectExperts ls n (acc ++ [i])

/-- Gates of the selected experts, given in ascending index (R147). -/
def gates (sigmoid : Bool) (ls : List F32) (sel : List Nat) (first : Nat) : List Fr :=
  let m := fr (nth ls first 0)
  let es := sel.map (fun i =>
    let l := fr (nth ls i 0)
    if sigmoid then Fr.div (fr 0x3F800000) (Fr.add (fr 0x3F800000) (Fr.exp (negF l.1, l.2))) else Fr.exp (Fr.sub l m))
  let sum := canon es
  es.map (fun e => Fr.div e sum)

/-- One token's selection: expert and gate in ascending expert index. -/
def routeToken (sigmoid proving : Bool) (k : Nat) (ls : List F32) : List (Nat × Fr) :=
  let nan := ls.any isNan
  if proving && nan then (List.range k).map (fun i => (i, (qnan, flagNanIn)))
  else
    let sel := selectExperts ls k []
    let asc := (List.range ls.length).filter (fun i => sel.contains i)
    (asc.zip (gates sigmoid ls asc (sel.headD 0))).map (fun p => (p.1, (p.2.1, p.2.2 ||| (if nan then flagNanIn else 0))))

def routeBytes (l : List (Nat × Fr)) : List Byte :=
  l.flatMap (fun p => leBytes 2 p.1 ++ [0, 0] ++ wordBytes p.2.1) ++
    (List.replicate (8 - l.length) ([0xFF, 0xFF] ++ zeros 6)).flatten

def routeRegion (w : Row) (proving : Bool) (rd : Reader) : RowOut :=
  let n := vCount w
  let e := vAux0 w
  let st := up16 (4 * e)
  let bs := rd (vSrc w 0) (n * st)
  let toks := (List.range n).map (fun t =>
    routeToken (vVarBit w 0) proving (vNpart w + 1) ((readFloats 8 e ((bs.drop (t * st)).take (4 * e))).map Prod.fst))
  let load := (List.range e).map (fun i =>
    let gs := toks.filterMap (fun l => (l.find? (fun p => p.1 = i)).map Prod.snd)
    let c := canon gs
    (leBytes 4 gs.length ++ wordBytes c.1, c.2))
  outOf [(vDst w 0, [(0, toks.flatMap routeBytes)]), (vDst w 1, [(0, load.flatMap Prod.fst)])]
    ((toks.flatten.map Prod.snd).foldl (fun f x => f ||| x.2) (load.foldl (fun f x => f ||| x.2) 0))

/-! ### Anchor tables, R420 -/

structure Anchors where
  cols : List Nat
  ncol : Nat
  gpc : Nat
deriving DecidableEq, Repr

/-- Strictly ascending, each below a bound. -/
def ascending (bound : Nat) : List Nat → Bool
  | [] => true
  | [x] => decide (x < bound)
  | x :: y :: r => decide (x < y) && ascending bound (y :: r)

/-- The table at AUX1; none where it is malformed, or runs past the end of its memory (DESIGN CHOICE, log entry 84). -/
def anchorsOf (w : Row) (rd : Reader) : Option Anchors :=
  if vAux1 w = 0 then some { cols := [], ncol := 1, gpc := 1 }
  else
    let o := opRef w 448
    let h := ofLe (rd o 16)
    let n := fld h 0 32
    let ncol := fld h 32 32
    let gpc := fld h 64 32
    if 64 < n || ncol = 0 || gpc = 0 || fld h 96 32 ≠ 0 || o.room < 16 + 4 * n then none
    else
      let v := ofLe (rd (o.up 1) (4 * n))
      let cols := (List.range n).map (fun i => fld v (32 * i) 32)
      if ascending ncol cols then some { cols := cols, ncol := ncol, gpc := gpc } else none

/-! ### OPT, R149 to R152 -/

/-- Values of a code block of one token: code × step. -/
def blockValues (code n g : Nat) (bs : List Byte) : List Fr :=
  let cs := unpackCodes code n (bs.take n)
  let ng := ceilDiv n g
  let vOff := up16 n
  let aOff := vOff + up16 ng
  cs.mapIdx (fun i c =>
    let w1 := (nth bs (vOff + i / g) 0).toNat
    let a2 : BitVec 16 := bytesWord 16 ((bs.drop (aOff + i / (16 * g) * 2)).take 2)
    Fr.mul (fr (rneInt c)) (Fr.mul (fr (rneInt w1)) (fr (bf16Word a2))))

/-- β₁, β₂, ε, λ and the schedule's η, c₁, c₂, κ. -/
structure OptConst where
  b1 : F32
  b2 : F32
  eps : F32
  lam : F32
  eta : F32
  c1 : F32
  c2 : F32
  kappa : F32
deriving DecidableEq, Repr

/-- The pseudocode of R149: m, r, w of one element. -/
def optElem (c : OptConst) (gin mo ro w : Fr) : Fr × Fr × Fr :=
  let g := Fr.mul gin (fr c.kappa)
  let one := fr 0x3F800000
  let m := Fr.add (Fr.mul (fr c.b1) mo) (Fr.mul (Fr.sub one (fr c.b1)) g)
  let v := Fr.add (Fr.mul (fr c.b2) (Fr.mul ro ro)) (Fr.mul (Fr.sub one (fr c.b2)) (Fr.mul g g))
  let r := Fr.sqrt v
  let den := Fr.add (Fr.mul r (fr c.c2)) (fr c.eps)
  let u := Fr.div (Fr.mul m (fr c.c1)) den
  (m, r, Fr.sub w (Fr.mul (fr c.eta) (Fr.add u (Fr.mul (fr c.lam) w))))

/-- A moment coded by R150: a code block of one token, with the tally whose counts are dropped. -/
def codeMoment (fmt : Nat) (proving : Bool) (xs : List Fr) : Writes × BitVec 8 :=
  let r := intRule fmt false false
  let out := (runsOf 2048 xs.length (xs.map Prod.fst)).map (fun l =>
    let groups := runsOf 128 l.length l
    let sc := dynamicScales r proving groups
    let c := codeSuper r .dynamic sc 0 proving groups (fun _ => 0)
    (({ codes := c.1, w1 := sc.gs.map GScale.w1, z := [], w2 := sc.w2, sgn := [], words := [] } : SuperCodes), c.2.flags))
  (codeBlock fmt false [out.map Prod.fst], out.foldl (fun f p => f ||| p.2) (orFlags xs))

def optConst (w : Row) (sch : List Byte) : OptConst :=
  let v := ofLe sch
  let f (i : Nat) : F32 := BitVec.ofNat 32 (fld v (32 * i) 32)
  { b1 := vC w 0, b2 := vC w 1, eps := vC w 2, lam := vC w 3, eta := f 0, c1 := f 1, c2 := f 2, kappa := f 3 }

/-- Words written whole, canonical where NaN. -/
def floatBytes (xs : List Fr) : List Byte := xs.flatMap (fun x => wordBytes (if isNan x.1 then qnan else x.1))

/-- OPT in one region (R149 to R152). An anchored element is read, not written, and raises no flag (DESIGN CHOICE, log entry 98). -/
def optRegion (w : Row) (proving : Bool) (anchors : Anchors) (rd : Reader) (draw : Nat → Nat) : RowOut :=
  let n := vCount w
  let a := optArrays w
  let c := optConst w (rd (opRef w 416) 16)
  let g := if optGfp32 w then readFloats 8 n (rd (vSrc w 0) (4 * n)) else blockValues 1 n (optGsize w) (rd (vSrc w 0) a.1)
  let mom (k code : Nat) : List Fr :=
    if optFull w then readFloats 8 n (rd (vSrc w k) (4 * n)) else blockValues code n 128 (rd (vSrc w k) a.2.1)
  let ms := mom 1 1
  let rs := mom 2 2
  let ws := readFloats (if optFull w then 8 else 6) n (rd (vSrc w 3) a.2.2)
  let res := (List.range n).map (fun i => optElem c (nth g i (fr 0)) (nth ms i (fr 0)) (nth rs i (fr 0)) (nth ws i (fr 0)))
  if optFull w then
    let keep (i : Nat) : Bool := anchors.cols.contains (i / anchors.gpc)
    let put (f : Fr × Fr × Fr → Fr) : Writes :=
      (res.mapIdx (fun i x => (i, f x))).filterMap (fun p => if keep p.1 then none else some (4 * p.1, floatBytes [p.2]))
    outOf [(vDst w 0, put Prod.fst), (vDst w 1, put (fun x => x.2.1)), (vDst w 2, put (fun x => x.2.2))]
      ((res.mapIdx (fun i x => (i, x))).foldl (fun f p => if keep p.1 then f else f ||| orFlags [p.2.1, p.2.2.1, p.2.2.2]) 0)
  else
    let m := codeMoment 1 proving (res.map Prod.fst)
    let r := codeMoment 2 proving (res.map (fun x => x.2.1))
    let wb := res.mapIdx (fun i x => let b := toBf16Sr x.2.2.1 (draw i / 2 ^ 16); (wordBytes b.1, x.2.2.2 ||| b.2))
    outOf [(vDst w 0, m.1), (vDst w 1, r.1), (vDst w 2, [(0, wb.flatMap Prod.fst)])]
      (wb.foldl (fun f p => f ||| p.2) (m.2 ||| r.2))

/-! ### Master weights and plane-side blocks as SGRAD and REBUILD read them -/

/-- Master element (n, k), expanded. -/
def masterAt (w : Row) (bs : List Byte) (n k : Nat) : Fr :=
  ofBf16 (bytesWord 16 ((bs.drop (2 * (n * vAux0 w + k))).take 2))

/-- Rotated masters of every column of a block, by column then reduction index: rotation along k, which runs across the
columns under TRANS; a padding column that a rotation mixes in is an unstated value. -/
def rotatedMasters (w : Row) (bs : List Byte) : List (List Fr) :=
  let q := quantOf w 640
  let kk := vCount w * q.g
  let live := liveColumns w
  if vOp w = 6 && vVarBit w 0 then
    let rows := (List.range kk).map (fun n =>
      rotate q ((List.range 512).map (fun k => if k < live then masterAt w bs n k else ofBf16 (Config.padMaster k n))))
    (List.range live).map (fun i => rows.map (fun l => nth l i (fr 0)))
  else (List.range live).map (fun n => rotate q ((List.range kk).map (fun k => masterAt w bs n k)))

/-- Offsets in a plane-side block: words, w₁, z_w, W2. -/
structure BlockOffsets where
  str : Nat
  words : Nat
  w1 : Nat
  z : Nat
  w2 : Nat
deriving DecidableEq, Repr

def blockOffsets (q : Quant) (ng : Nat) : BlockOffsets :=
  let str := if isT q.code then (if q.g = 48 then 10 else 20) else q.g / 8
  let words := up16 (ng * planeCount q.code * 512 * str)
  let w1 := words + (if isB q.code then up16 (ceilDiv ng 16 * planeCount q.code * 1024) else 0)
  let z := w1 + up16 (ng * 512)
  { str := str, words := words, w1 := w1, z := z, w2 := z + (if q.zp then up16 (ng * 512) else 0) }

def byteOf (bs : List Byte) (i : Nat) : Nat := (nth bs i 0).toNat

/-- w₁, z and W2 of a column's group in a block. -/
def blockScale (q : Quant) (o : BlockOffsets) (bs : List Byte) (n i : Nat) : Nat × Int × BitVec 16 :=
  (byteOf bs (o.w1 + i * 512 + n), if q.zp then signedOf 8 (byteOf bs (o.z + i * 512 + n)) else 0,
    bytesWord 16 ((bs.drop (o.w2 + (i / 16 * 512 + n) * 2)).take 2))

/-- α of a plane of column n in super-group h: U × 2^E of its word (spec/02_formats.md R31). -/
def pswValue (w : BitVec 16) : Int := signedOf 9 (bits w 0 9) * (2 : Int) ^ bits w 9 3

def blockAlpha (q : Quant) (o : BlockOffsets) (bs : List Byte) (n h j : Nat) : Int :=
  pswValue (bytesWord 16 ((bs.drop (o.words + ((h * planeCount q.code + j) * 512 + n) * 2)).take 2))

/-- The bit string of plane j of column n and group i, as a number. -/
def blockString (q : Quant) (o : BlockOffsets) (bs : List Byte) (n i j : Nat) : Nat :=
  ofLe ((bs.drop (((i * planeCount q.code + j) * 512 + n) * o.str)).take o.str)

/-- A trit of a code; a code above 26 reads as all zero with BAD_TRIT (spec/02_formats.md R33, R34). -/
def tritOf (c k : Nat) : Int := if 26 < c then 0 else ((c / 3 ^ k % 3 : Nat) : Int) - 1

/-! ### SGRAD, R153 -/

/-- q̂ of element k of a column's group, with its flags, and the range. -/
def currentCode (q : Quant) (o : BlockOffsets) (bs : List Byte) (n i k : Nat) (z : Int) : Int × BitVec 8 :=
  let strs := (List.range (planeCount q.code)).map (fun j => blockString q o bs n i j)
  if isT q.code then
    let c := fld (strs.headD 0) (5 * (k / 3)) 5
    (tritOf c (k % 3), if 26 < c then flagBadTrit else 0)
  else if isB q.code then
    ((strs.mapIdx (fun j v => (if fld v k 1 = 1 then 1 else -1) * blockAlpha q o bs n (i / 16) j)).sum, 0)
  else
    let v := (strs.mapIdx (fun j v => fld v k 1 * 2 ^ j)).sum
    ((if q.zp || Config.sgradSigned then signedOf (planeCount q.code) v else (v : Int)) - z, 0)

def currentRange (q : Quant) (o : BlockOffsets) (bs : List Byte) (n i : Nat) (z : Int) : Int × Int :=
  if isB q.code then
    let s := ((List.range (planeCount q.code)).map (fun j => blockAlpha q o bs n (i / 16) j)).sum
    (-s, s)
  else
    let r := planeRule q.code (q.zp || Config.sgradSigned) q.zp
    (r.lo - z, r.hi - z)

/-- The gradient of one column's group. -/
def sgradGroup (w : Row) (q : Quant) (o : BlockOffsets) (blk gam : List Byte) (n i : Nat) (master : List Fr) : Fr :=
  let sc := blockScale q o blk n i
  let kk := vCount w * q.g
  let step := Fr.mul (fr (rneInt sc.1)) (fr (bf16Word sc.2.2))
  let rng := currentRange q o blk n i sc.2.1
  let terms := (List.range q.g).map (fun k =>
    let c := currentCode q o blk n i k sc.2.1
    let y := Fr.div (nth master (i * q.g + k) (fr 0)) step
    let ga := (readFloats 8 1 ((gam.drop (4 * (n * kk + i * q.g + k))).take 4)).headD (fr 0)
    let inside := fle (rneInt rng.1) y.1 && fle y.1 (rneInt rng.2)
    let t := if inside then Fr.mul ga (Fr.sub (fr (rneInt c.1)) y) else Fr.mul ga (fr (rneInt c.1))
    (t.1, t.2 ||| y.2 ||| c.2))
  Fr.mul (fr (vC w 0)) (canon terms)

def sgradRegion (w : Row) (anchors : Anchors) (rd : Reader) : RowOut :=
  let q := quantOf w 640
  let ng := vCount w
  let o := blockOffsets q ng
  let masters := rotatedMasters w (rd (vSrc w 0) (masterBytes w))
  let gam := rd (vSrc w 1) (4 * 512 * ng * q.g)
  let blk := rd (vSrc w 2) (vBlockBytes w)
  let res := (List.range 512).flatMap (fun n =>
    (List.range ng).map (fun i => if anchors.cols.contains n then fr 0 else sgradGroup w q o blk gam n i (nth masters n [])))
  outOf [(vDst w 0, [(0, floatBytes res)])] (orFlags res ||| orFlags masters.flatten)

/-! ### REBUILD, R154 to R156 -/

/-- encode_psw of R156; the last result is whether it counts as saturated. -/
def encodePsw (a : F32) : Nat × Nat × Bool :=
  if isNan a || isZero a then (1, 0, false)
  else if isInf a then (255, 7, true)
  else
    match (List.range 8).find? (fun e => decide (awayDiv (units a).toNat (2 ^ (149 + e)) ≤ 255)) with
    | some e => (max (awayDiv (units a).toNat (2 ^ (149 + e))) 1, e, false)
    | none => (255, 7, true)

/-- One plane of rebuild_sign: its bits, word, residues and the flags of its mean. -/
def signPlane (res : List Fr) : List Bool × (Nat × Nat × Bool) × List Fr × BitVec 8 :=
  let fin := res.filter (fun x => !isNan x.1 && !isInf x.1)
  let mean := Fr.div (canon (fin.map (fun x => (absF x.1, x.2)))) (fr (rneInt fin.length))
  let p := encodePsw mean.1
  let alpha := fr (rneInt ((p.1 : Int) * 2 ^ p.2.1))
  let bit (x : Fr) : Bool := isNan x.1 || !x.1.getLsbD 31
  (res.map bit, p, res.map (fun x => if bit x then Fr.sub x alpha else Fr.add x alpha), mean.2)

/-- Planes from the top down; results by plane, plane 0 first. -/
def signPlanes : Nat → List Fr → List (List Bool) × List (Nat × Nat × Bool) × List Fr × BitVec 8
  | 0, res => ([], [], res, 0)
  | b + 1, res =>
    let p := signPlane res
    let r := signPlanes b p.2.2.1
    (r.1 ++ [p.1], r.2.1 ++ [p.2.1], r.2.2.1, p.2.2.2 ||| r.2.2.2)

/-- A master scale that can be encoded. -/
def goodScale (x : F32) : Bool := !isNan x && !isInf x && decide (0 < units x)

/-- The step that a master scale stands for: itself, or the previous encoding's (R76). -/
def masterStep (sigma : F32) (prev : Nat × Int × BitVec 16) : Nat × Bool :=
  if goodScale sigma then ((units sigma).toNat, false)
  else
    let d := units (bf16Word prev.2.2) * (prev.1 : Int)
    (if 0 < d then d.toNat else Config.lostStep sigma.toNat % 2 ^ 270 + 1, true)

/-- R75: scales of one column's super-group from the steps of its groups; a zero point is an unstated value. -/
def learnedScales (r : CodeRule) (n g0 : Nat) (steps : List Nat) : Scales :=
  let w2 := bf16Up (steps.foldl max 0) 255
  let m := (units (bf16Word w2)).natAbs
  ⟨w2, steps.mapIdx (fun i x => ⟨clampNat (awayDiv x m) 1 255,
    if r.zp then clampInt (signedOf 8 (Config.learnedZero n (g0 + i)).toNat) r.lo r.hi else 0, .ordinary⟩)⟩

/-- Scales of one column's super-group, how they came about, and the master scales replaced. An anchored column takes the earlier block's at
DST0 in every scheme; calibrated arrays stand at SRC1 as w1, z_w and W2 one after another, and a first-level code of 0 in either is
copied (DESIGN CHOICE, log entry 98). -/
def rebuildScales (w : Row) (r : CodeRule) (proving : Bool) (anchored : Bool) (src1 old : List Byte) (n h : Nat)
    (groups : List (List F32)) : Scales × ScaleSource × Nat :=
  let q := quantOf w 640
  let ng := vCount w
  let o := blockOffsets q ng
  let prev (i : Nat) : Nat × Int × BitVec 16 := blockScale q o old n (h * 16 + i)
  let read (f : Nat → Nat × Int × BitVec 16) : Scales :=
    ⟨(f 0).2.2, groups.mapIdx (fun i l => ⟨(f i).1, (f i).2.1, groupKind l⟩)⟩
  if anchored then (read prev, .given, 0)
  else if q.scheme = 1 then
    let st := groups.mapIdx (fun i _ =>
      masterStep ((readFloats 8 1 ((src1.drop (4 * (n * ng + h * 16 + i))).take 4)).headD (fr 0)).1 (prev i))
    (learnedScales r n (h * 16) (st.map Prod.fst), .given, (st.filter Prod.snd).length)
  else if q.scheme = 2 then
    let z0 := up16 (ng * 512)
    let co : BlockOffsets := { str := o.str, words := 0, w1 := 0, z := z0, w2 := z0 + (if q.zp then z0 else 0) }
    (read (fun i => blockScale q co src1 n (h * 16 + i)), .calibrated, 0)
  else (dynamicScales r proving groups, .dynamic, 0)

/-- Sign planes of one column's super-group. -/
def signSuper (q : Quant) (src : ScaleSource) (sc : Scales) (proving : Bool) (groups : List (List F32)) : SuperCodes × Tally :=
  let steps := (groups.zip sc.gs).flatMap (fun p => p.1.map (fun x => (x, stepOf src p.2.w1 sc.w2)))
  let ys := steps.map (fun p => yOf p.1 p.2 false 0)
  let res := signPlanes (planeCount q.code) ys
  let words := res.2.1.map (fun p => BitVec.ofNat 16 (p.1 + p.2.1 * 2 ^ 9))
  let level (k : Nat) : Int :=
    ((res.1.zip res.2.1).map (fun p => (if nth p.1 k false then 1 else -1) * ((p.2.1 : Int) * 2 ^ p.2.2.1))).sum
  let hats := if q.probe = 0 then steps.mapIdx (fun k p => p.2.exact.map (fun d => level k * d))
    else (probeHats q.probe false proving groups).flatten
  let sq := ((steps.map Prod.fst).zip hats).filterMap (fun p => squares p.1 p.2)
  let infs := (ys.filter (fun y => isInf y.1)).length
  let sats := (res.2.1.filter (fun p => p.2.2)).length + infs
  let nans := (ys.filter (fun y => isNan y.1)).length
  let flat := (groups.filter (fun l => countsFlat src sc.w2 l)).length
  ({ codes := groups.map (fun l => l.map (fun _ => 0)), w1 := sc.gs.map GScale.w1, z := sc.gs.map GScale.z, w2 := sc.w2,
     sgn := res.1, words := words },
   { elements := ys.length, saturated := sats, nans := nans, flat := flat, rejects := 0, err := sq.map Prod.fst,
     energy := sq.map Prod.snd,
     flags := orFlags ys ||| orFlags res.2.2.1 ||| res.2.2.2 ||| (if sats = 0 then 0 else flagSaturated) ||| (if nans = 0 then 0 else flagNanCode) |||
       (if flat = 0 then 0 else flagFlat) })

/-- One column, super-group by super-group. -/
def rebuildColumn (w : Row) (proving anchored : Bool) (src1 old : List Byte) (n : Nat) (xs : List Fr) : List SuperCodes × Tally :=
  let q := quantOf w 640
  let r := planeRule q.code (vVarBit w 1) q.zp
  let out := (runsOf (16 * q.g) xs.length (xs.map Prod.fst)).mapIdx (fun h l =>
    let groups := runsOf q.g l.length l
    let sc := rebuildScales w r proving anchored src1 old n h groups
    let p := if isB q.code then signSuper q sc.2.1 sc.1 proving groups
      else
        let c := codeSuper r sc.2.1 sc.1 q.probe proving groups (fun _ => 0)
        (({ codes := c.1, w1 := sc.1.gs.map GScale.w1, z := sc.1.gs.map GScale.z, w2 := sc.1.w2, sgn := [], words := [] } : SuperCodes), c.2)
    (p.1, { p.2 with rejects := sc.2.2 }))
  (out.map Prod.fst, Tally.sum (out.map Prod.snd))

def rebuildRegion (w : Row) (proving : Bool) (anchors : Anchors) (rd : Reader) : RowOut :=
  let q := quantOf w 640
  let ng := vCount w
  let masters := rotatedMasters w (rd (vSrc w 0) (masterBytes w))
  let src1 := if q.scheme = 1 then rd (vSrc w 1) (4 * 512 * ng) else if q.scheme = 2 then rd (vSrc w 1) (calibratedBytes ng q.zp) else []
  let old := rd (vDst w 0) (vBlockBytes w)
  let out := masters.mapIdx (fun n xs => rebuildColumn w proving (anchors.cols.contains n) src1 old n xs)
  let t := Tally.sum (out.map Prod.snd)
  let cols := out.map (fun p => some p.1) ++ List.replicate (512 - out.length) none
  { writes := [(vDst w 0, planeBlock q.code q.g ng q.zp 0 cols)],
    tally := { t with flags := t.flags ||| orFlags masters.flatten } }

/-! ### Any VECTOR row in one region -/

def vectorRegion (w : Row) (proving : Bool) (anchors : Anchors) (rd : Reader) (draw : Nat → Nat) : RowOut :=
  match vOp w with
  | 0 => combineRegion w rd
  | 1 => mergeRegion w rd
  | 2 => normRegion w rd
  | 3 => routeRegion w proving rd
  | 4 => optRegion w proving anchors rd draw
  | 5 => sgradRegion w anchors rd
  | _ => rebuildRegion w proving anchors rd

end Sys2Proof.Machine
end

