-- ==== Sys2Proof/Machine/Table.lean ====
section
/-!
DEFINITION. Table arithmetic (spec/04_table_arithmetic.md R95 to R110) and the summation orders and drain path of accumulator
tiles (spec/05_accumulators.md R117 to R130), as functions of the operands' bytes.
-/
namespace Sys2Proof.Machine

/-! ### Sum-table entries, R95 to R97 -/

/-- Presence entry: the sum of the values whose index bit is 1. -/
def presence (idx : Nat) (as : List Int) : Int := (as.mapIdx (fun i a => if fld idx i 1 = 1 then a else 0)).sum

/-- Sign entry: each value added or subtracted. -/
def signEntry (idx : Nat) (as : List Int) : Int := (as.mapIdx (fun i a => if fld idx i 1 = 1 then a else -a)).sum

/-- Trit entry; a code above 26 is read as 13. -/
def tritEntry (idx : Nat) (as : List Int) : Int := (as.mapIdx (fun i a => tritOf idx i * a)).sum

/-- Elements of a chunk. -/
def chunkLen (pcode : Nat) : Nat := if isT pcode then 3 else 4

def entryOf (pcode idx : Nat) (as : List Int) : Int :=
  if isT pcode then tritEntry idx as else if isB pcode then signEntry idx as else presence idx as

/-- The lane's index for chunk c from a bit string. -/
def chunkIndex (pcode str c : Nat) : Nat := if isT pcode then fld str (5 * c) 5 else fld str (4 * c) 4

/-- A plane partial: entries of every chunk, the high bytes of an S16 side times 2⁸ (R101). -/
def partialP (pcode : Nat) (idx : Nat → Nat) (low high : List Int) : Int :=
  let n := chunkLen pcode
  let sumOf (l : List Int) : Int := ((runsOf n l.length l).mapIdx (fun c as => entryOf pcode (idx c) as)).sum
  sumOf low + 256 * sumOf high

/-! ### One contribution f, R105 -/

/-- A reader of one core's staging: n bytes from a byte address. -/
abbrev CoreReader := Nat → Nat → List Byte

/-- Table-side values of one token's group: low bytes or whole codes, and the high bytes of S16 (R96). Any z_a byte is taken as it stands
(DESIGN CHOICE, log entry 100). -/
def tableValues (p : Pass) (rd : CoreReader) (t i : Nat) : List Int × List Int :=
  let bits := fmtBits p.tfmt
  let z := if p.tzp then signedOf 8 (byteOf (rd (16 * p.azp + t * p.vStride + i) 1) 0) else 0
  let row := 16 * p.tcode + t * p.codeStride
  let bs := rd (row + i * p.g * bits / 8) (ceilDiv (p.g * bits) 8)
  if p.tfmt = 5 then
    let v := unpackCodes 5 p.g bs
    (v.map (fun x => x % 256), v.map (fun x => x / 256))
  else ((unpackCodes p.tfmt p.g bs).map (fun x => x - z), [])

/-- op of a plane, Table 04-4. -/
def planeOp (p : Pass) (rd : CoreReader) (n h j : Nat) : Int :=
  if isT p.pcode then 1
  else if isB p.pcode then pswValue (bytesWord 16 (rd (16 * p.pscale + ((h * p.b + j) * 512 + n) * 2) 2))
  else if p.psign && j + 1 = p.b then -(2 : Int) ^ j else 2 ^ j

/-- The column's bit string of a plane of a group. -/
def passString (p : Pass) (rd : CoreReader) (n i j : Nat) : Nat :=
  ofLe (rd (16 * p.planes + ((i * p.b + j) * 512 + n) * p.stringBytes) p.stringBytes)

/-- X of one column's group, with BAD_TRIT. -/
def groupX (p : Pass) (rd : CoreReader) (n i : Nat) (vals : List Int × List Int) : Int × BitVec 8 :=
  let h := (p.gfirst + i) / 16
  let strs := (List.range p.b).map (fun j => passString p rd n i j)
  let planes := strs.mapIdx (fun j v => rndAway (partialP p.pcode (chunkIndex p.pcode v) vals.1 vals.2 * planeOp p rd n h j) p.kw)
  let off := if p.pzp then
      rndAway (partialP p.pcode (fun _ => 15) vals.1 vals.2 * -(signedOf 8 (byteOf (rd (16 * p.wzp + i * 512 + n) 1) 0))) p.kw
    else 0
  let bad := isT p.pcode && (List.range (p.g / 3)).any (fun c => decide (26 < chunkIndex p.pcode (strs.headD 0) c))
  (planes.sum + off, if bad then flagBadTrit else 0)

/-- Y of one column's group for a token, from the group's table-side values. -/
def groupY (p : Pass) (rd : CoreReader) (t n i : Nat) (vals : List Int × List Int) : Int × BitVec 8 :=
  let x := groupX p rd n i vals
  let w1 := byteOf (rd (16 * p.wcode + i * 512 + n) 1) 0
  let v := byteOf (rd (16 * p.vcode + t * p.vStride + i) 1) 0
  (rndAway (x.1 * ((w1 * v : Nat) : Int)) p.ka, x.2)

/-- Groups of a super-group that the row covers. -/
def coveredGroups (p : Pass) (h : Nat) : List Nat := (List.range p.ngroup).filter (fun i => (p.gfirst + i) / 16 = h)

/-- The table-side values of a token's groups in a super-group, which every column shares. -/
def tokenValues (p : Pass) (rd : CoreReader) (h t : Nat) : List (Nat × List Int × List Int) :=
  (coveredGroups p h).map (fun i => (i, tableValues p rd t i))

/-- f of super-group h for a token and column, from the token's table-side values. -/
def contribution (p : Pass) (rd : CoreReader) (h t : Nat) (vals : List (Nat × List Int × List Int)) (n : Nat) : Fr :=
  let ys := vals.map (fun v => groupY p rd t n v.1 v.2)
  let z := (ys.map Prod.fst).sum
  let w2 : BitVec 16 := bytesWord 16 (rd (16 * p.wscale + (h * 512 + n) * 2) 2)
  let a2 : BitVec 16 := bytesWord 16 (rd (16 * p.ascale + t * p.a2Stride + 2 * h) 2)
  let sp := scaleProduct w2 a2 (p.kw + p.ka)
  let f := chainF z sp.1
  (f.1, sp.2 ||| f.2 ||| ys.foldl (fun b y => b ||| y.2) 0)

/-- Cycles by which rescale work exceeds the lanes (R115). -/
def rescaleCycles (p : Pass) : Nat :=
  let c := p.g / chunkLen p.pcode
  let np := p.b + b2n p.pzp
  let lane := c * np * (if p.tfmt = 5 then 2 else 1)
  let m := (if isB p.pcode then p.b else 0) + b2n p.pzp
  p.ntok * p.ngroup * (4 * (2 + m) - lane)

/-- The lead of R116: chunk tables of the first buffer, at most 512. -/
def leadCycles (p : Pass) : Nat :=
  min 512 (p.ntok * p.ngroup * (p.g / chunkLen p.pcode) * (if p.tfmt = 5 then 2 else 1))

/-- Lane cycles of the last sum-table buffer of a row (R114 to R116): whole groups at their lane time, and the tables of a group cut by the
buffer's start. -/
def lastBufferCycles (p : Pass) : Nat :=
  let per := p.g / chunkLen p.pcode * (if p.tfmt = 5 then 2 else 1)
  let all := p.ntok * p.ngroup * per
  let n := if all % 512 = 0 then min all 512 else all % 512
  let np := p.b + b2n p.pzp
  let m := (if isB p.pcode then p.b else 0) + b2n p.pzp
  n / per * max (per * np) (4 * (2 + m)) + n % per * np

/-! ### Table memory, R97 to R99, R104, Table 04-3 -/

/-- Stored entries of one chunk's table: every index of a presence table, 8 to 15 of a sign table, 13 to 26 of a trit table. -/
def storedEntries (pcode : Nat) (as : List Int) : List (BitVec 16) :=
  let idx := if isT pcode then (List.range 14).map (· + 13) else if isB pcode then (List.range 8).map (· + 8) else List.range 16
  idx.map (fun i => BitVec.ofInt 16 (entryOf pcode i as))

/-- Token and group in the order in which the lanes take them: super-group by super-group, then token by token. -/
def laneOrder (p : Pass) : List (Nat × Nat) :=
  (List.range p.nsup).flatMap (fun h => (List.range p.ntok).flatMap (fun t => (coveredGroups p h).map (fun i => (t, i))))

/-- The chunk tables of one group of a token: chunk by chunk, the low bytes' before the high bytes'. -/
def groupTables (p : Pass) (rd : CoreReader) (t i : Nat) : List (List (BitVec 16)) :=
  let v := tableValues p rd t i
  let n := chunkLen p.pcode
  let low := (runsOf n v.1.length v.1).map (storedEntries p.pcode)
  if p.tfmt = 5 then (low.zip ((runsOf n v.2.length v.2).map (storedEntries p.pcode))).flatMap (fun x => [x.1, x.2]) else low

/-- New contents over the first part of the old. -/
def overlay {α : Type} (new old : List α) : List α := new ++ old.drop new.length

/-- Parts put alternately into two halves, `next` first; the half after the last. -/
def fillHalves {α : Type} : List (List α) → Bool → List α × List α → (List α × List α) × Bool
  | [], next, x => (x, next)
  | a :: r, next, x => fillHalves r (!next) (if next then (x.1, overlay a x.2) else (overlay a x.1, x.2))

/-- Plane-scale operands of a super-group, as int16. -/
def superScales (p : Pass) (rd : CoreReader) (h : Nat) : List (BitVec 16) :=
  (List.range p.b).flatMap (fun j => (List.range 512).map (fun n => BitVec.ofInt 16 (planeOp p rd n h j)))

/-- v, z_a and A2 of the row's tokens in a super-group. -/
def superCodes (p : Pass) (rd : CoreReader) (h : Nat) : List Byte :=
  (List.range p.ntok).flatMap (fun t =>
    (coveredGroups p h).flatMap (fun i => rd (16 * p.vcode + t * p.vStride + i) 1) ++
    (if p.tzp then (coveredGroups p h).flatMap (fun i => rd (16 * p.azp + t * p.vStride + i) 1) else []) ++
    rd (16 * p.ascale + t * p.a2Stride + 2 * h) 2)

/-- Table memory as a row leaves it on one core (log entry 87 on what the spec does not lay out). -/
def passTable (p : Pass) (rd : CoreReader) (old : CoreTable) : CoreTable :=
  let tabs := (laneOrder p).flatMap (fun x => groupTables p rd x.1 x.2)
  let sums := fillHalves (runsOf 512 tabs.length tabs) old.sumNext old.sums
  let scales := fillHalves ((List.range p.nsup).map (superScales p rd)) old.superNext old.scales
  let codes := fillHalves ((List.range p.nsup).map (superCodes p rd)) old.superNext old.codes
  { sums := sums.1, scales := scales.1, codes := codes.1, sumNext := sums.2, superNext := scales.2 }

/-! ### Summation orders, spec/05_accumulators.md R123 -/

/-- Add the words of the set bits of a count, from level l up; `off` is the level of bit 0. -/
def climb (rd : Nat → F32) (off count : Nat) : Nat → Fr → Nat → Fr × Nat
  | 0, v, l => (v, l)
  | n + 1, v, l => if fld count l 1 = 1 then climb rd off count n (Fr.add (fr (rd (l + off))) v) (l + 1) else (v, l)

/-- A push: the level written and its value with the flags of the additions. -/
def pushWord (order levels count : Nat) (rd : Nat → F32) (f : F32) : Nat × Fr :=
  if order = 0 then
    let r := climb rd 0 count 32 (fr f) 0
    (r.2, r.1)
  else
    let n := 2 ^ levels
    let r := climb rd 1 (count % n) levels (fr f) 0
    if r.2 = levels then (0, if count < n then r.1 else Fr.add (fr (rd 0)) r.1) else (r.2 + 1, r.1)

/-- The words of the set bits of a short run, lowest level first. -/
def closeBits (rd : Nat → F32) (off count levels : Nat) : Option Fr :=
  (List.range levels).foldl (fun v l =>
    if fld count l 1 = 1 then
      match v with
      | none => some (fr (rd (l + off)))
      | some x => some (Fr.add (fr (rd (l + off))) x)
    else v) none

/-- tree_close and grouped_close: the level 0 word. -/
def closeWord (order levels count : Nat) (rd : Nat → F32) : Fr :=
  if order = 0 then (closeBits rd 0 count (levels + 1)).getD (fr 0)
  else
    let n := 2 ^ levels
    match closeBits rd 1 (count % n) levels with
    | none => if count = 0 then fr 0 else fr (rd 0)
    | some v => if count < n then v else Fr.add (fr (rd 0)) v

/-! ### The drain path, R128 -/

/-- One position's words after the close, fused, measured and converted: output, record, flags. -/
def drainPosition (a : Acc) (fuse : List Fr) (ws : List Fr) : List Byte × List Byte × BitVec 8 :=
  if a.act = 2 then (ws.flatMap (fun x => wordBytes x.1), [], orFlags ws)
  else
    let fused := if a.fuse = 1 then ws.mapIdx (fun i x => Fr.add x (nth fuse i (fr 0)))
      else if a.fuse = 2 then ws.mapIdx (fun i x => Fr.mul x (nth fuse i (fr 0))) else ws
    let st := if a.stats then Stats.bytes (Stats.ofValues (fused.take a.scols)) else ([], 0)
    let out := fused.map (fun x => let c := convert a.ofmt none x.1; (c.1, x.2 ||| c.2))
    (out.flatMap Prod.fst, st.1, out.foldl (fun f x => f ||| x.2) st.2)

end Sys2Proof.Machine
end

