-- ==== Sys2Proof/Machine/Checks.lean ====
section
/-!
DEFINITION. The load checks of a timetable (spec/07_timetable.md R180 and the rules it names; spec/00_scope.md R4), the group
checks (R173, R247, R261), and the claims of drawing rows (spec/02_formats.md R57 to R59; spec/07_timetable.md R175, R176).
-/
namespace Sys2Proof.Machine

/-! ### Reserved bits, R4 -/

/-- Only the listed fields (first bit, length) are nonzero. -/
def onlyFields (x : Nat) (fields : List (Nat × Nat)) : Bool := x = (fields.map (fun f => fld x f.1 f.2 * 2 ^ f.1)).sum

def shiftFields (lo : Nat) (l : List (Nat × Nat)) : List (Nat × Nat) := l.map (fun f => (f.1 + lo, f.2))

def headerFields : List (Nat × Nat) := [(0, 4), (8, 4), (16, 16), (32, 2), (48, 16), (64, 64)]

def passFields : List (Nat × Nat) :=
  [(0, 8), (8, 8), (16, 3), (19, 1), (20, 1), (21, 1), (24, 5), (32, 5), (40, 4), (48, 12), (64, 6), (80, 144)]

def accFields : List (Nat × Nat) :=
  [(0, 7), (8, 2), (10, 1), (11, 1), (12, 6), (18, 6), (24, 3), (27, 2), (32, 2), (34, 1), (40, 8), (48, 8), (64, 10), (80, 48)]

def quantFields : List (Nat × Nat) :=
  [(0, 8), (8, 8), (16, 3), (19, 1), (20, 2), (22, 2), (24, 2), (26, 1), (32, 12), (48, 8), (64, 32), (96, 32)]

def genFields : List (Nat × Nat) := [(0, 48), (64, 32), (96, 32)]

def copyFields : List (Nat × Nat) :=
  [(0, 4), (4, 4), (8, 8), (16, 8), (32, 14), (64, 64), (128, 64), (192, 32), (224, 32), (256, 32), (288, 32), (320, 32)]

/-- Body fields by kind (Tables 07-4 to 07-6). -/
def bodyFields (kind : Nat) : List (Nat × Nat) :=
  match kind with
  | 1 => (128, 16) :: shiftFields 160 passFields ++ shiftFields 416 accFields
  | 2 => shiftFields 128 [(0, 4), (8, 8), (16, 2), (18, 6), (24, 8), (32, 24), (64, 448)] ++ shiftFields 640 quantFields ++
         shiftFields 768 genFields
  | 3 => shiftFields 128 quantFields ++ [(256, 96), (352, 8), (360, 1), (368, 24), (416, 32)] ++ shiftFields 448 genFields
  | 4 => (128, 2) :: shiftFields 192 copyFields ++ shiftFields 576 copyFields
  | 5 => [(128, 8), (136, 8), (144, 12), (160, 40), (224, 64), (288, 64), (352, 32)]
  | 6 => [(128, 8), (136, 1), (144, 8), (160, 24), (192, 32), (224, 32), (256, 32), (288, 32), (320, 32), (352, 8)]
  | 7 => [(128, 8), (136, 6), (142, 1), (144, 8), (160, 32), (192, 32)]
  | 8 => [(128, 8), (136, 8), (144, 8), (152, 1), (160, 14), (192, 32), (224, 32)]
  | 9 => [(128, 3), (144, 16), (160, 14)]
  | 10 => [(128, 3), (160, 14)]
  | 11 => [(128, 1), (144, 12), (160, 32), (192, 16)]
  | 12 => [(128, 14), (142, 1), (143, 1)]
  | 13 => [(128, 8), (160, 16), (192, 64), (256, 32)]
  | 14 => [(128, 32)]
  | 15 => [(128, 8), (136, 8), (144, 8), (152, 1), (160, 16), (192, 32), (224, 32)]
  | _ => []

def reservedOk (w : Row) : Bool := onlyFields w.toNat (headerFields ++ bodyFields (rowKind w))

/-! ### Header, R158, R159, R202 -/

def raisesFlags (kind : Nat) : Bool := [1, 2, 3, 5, 6].contains kind

def headerOk (s : State) (w : Row) : Bool :=
  (if isData w then rowRset w != 0 else rowRset w = 0) && (raisesFlags (rowKind w) || rowFreg w = 0) &&
    (if inPair s then (if rowKind w = 4 then rowHalves w = 1 || rowHalves w = 2 else if isData w then rowHalves w != 0 else rowHalves w = 3)
     else rowHalves w = 1)

/-! ### PASS, R112, R119, R162, R67 -/

def arrayFits (p : Nat × Nat) : Bool := p.1 ≤ 16383 && decide (16 * p.1 + p.2 ≤ 2 ^ 18)

def gsizeOk (code fmt : Nat) : Bool := code ≤ 4 && (!isT fmt || groupSize code = 48 || groupSize code = 96)

def rectOk (rect : Nat) : Bool := decide (fld rect 0 4 + fld rect 4 4 ≤ 11) && decide (fld rect 8 4 + fld rect 12 4 ≤ 11)

def passBlockOk (p : Pass) : Bool :=
  (1 ≤ p.tside && p.tside ≤ 5) && (isW p.pside || isB p.pside || isT p.pside) && gsizeOk p.gsize p.pside &&
    (!p.tzp || p.tside = 1 || p.tside = 3) && (!p.pzp || ((p.pside = 0x13 || p.pside = 0x17) && p.psign)) &&
    (!p.psign || isW p.pside) && decide (1 ≤ p.ngroup) && (1 ≤ p.ntok && p.ntok ≤ 48) &&
    (isB p.pside || p.pscale = 0) && (p.pzp || p.wzp = 0) && (p.tzp || p.azp = 0) && p.arrays.all arrayFits

def accBlockOk (p : Pass) (w : BitVec 128) : Bool :=
  let a := accOf w
  decide (a.slot < 96) && (1 ≤ a.nrows && a.nrows ≤ 48) && a.levels ≤ 5 && decide (a.base + a.nrows * (a.levels + 1) ≤ 48) &&
    decide (p.ntok ≤ a.nrows) && (a.order = 0 || a.levels = a.order + 1) && (a.ends || !a.solo) && a.fuse != 3 &&
    (match a.act with
      | 2 => a.fuse = 0 && !a.stats && a.ffmt = 0 && a.ofmt = 8 && a.scols = 0 && a.faddr = 0 && a.saddr = 0
      | 3 => (if a.fuse = 0 then a.ffmt = 0 else a.ffmt = 6 || a.ffmt = 8) && [6, 7, 8].contains a.ofmt &&
             (if a.stats then 1 ≤ a.scols && a.scols ≤ 512 else a.scols = 0)
      | _ => bits w 32 96 = 0) &&
    a.reads.all arrayFits && a.writes.all arrayFits

def passOk (w : Row) : Bool := rectOk (passOf w).rect && passBlockOk (passOf w) && accBlockOk (passOf w) (accBits w)

/-! ### The quantiser field block, R70 -/

def zpOk (code : Nat) (psign : Bool) : Bool := code = 1 || code = 3 || ((code = 0x13 || code = 0x17) && psign)

def quantBlockOk (q : Quant) (k : Nat) : Bool :=
  q.probe ≤ 4 && gsizeOk q.gsize q.code && q.scheme != 3 && q.rmode != 3 && (q.rmode = 0 || k % q.block = 0)

def srOk (b : Nat) : Bool := !fmtSr b || [1, 2, 3, 4, 6].contains (fmtCode b)

/-- A reference with its array inside its memory. -/
def refFits (p : OpRef × Nat) : Bool :=
  (p.1.core = 255 || (p.1.core < 144 && p.1.addr < 16384)) && decide (p.2 ≤ p.1.room)

/-- The generator window is zero in a row that does not draw (R175). -/
def genOk (w : Row) (lo : Nat) (draws : Bool) : Bool := draws || genOf w lo = (0, 0, 0)

/-- QUANT: R40, R62, R67, R70, R165. -/
def quantOk (w : Row) : Bool :=
  let q := quantOf w 128
  let k := qK w
  let c := q.code
  fmtKnown q.target && srOk q.target && (c ≤ 5 || isW c || (isFloat c && q.rmode != 0)) && (!q.zp || zpOk c (qPsign w)) &&
    q.scheme != 1 && (!qPsign w || isW c) && [6, 7, 8].contains (qSfmt w) && decide (1 ≤ qNtoken w) && q.gsize ≤ 4 &&
    decide (q.g ≤ k) && k % q.g = 0 && quantBlockOk q k && refLegal w 256 && refLegal w 288 && refLegal w 320 &&
    (q.scheme = 2 || bits w 320 32 = 0) && refFits (qSrc w, qSrcBytes w) && refFits (qDst w, qDstBytes w) &&
    (!qCalibrated w || refFits (qCal w, scaleBytes (qNtoken w) (k / q.g) q.zp)) && genOk w qGen (fmtSr q.target)

/-! ### VECTOR, R141 -/

def floatFmt (b : Nat) : Bool := [6, 7, 8].contains b

/-- Sources, destinations and constants that Table 06-4 gives an operation. -/
def vUses (op : Nat) : Nat × Nat × Nat :=
  match op with | 0 => (1, 1, 0) | 1 => (1, 1, 0) | 2 => (4, 1, 1) | 3 => (1, 2, 0) | 4 => (4, 3, 4) | 5 => (3, 1, 1) | _ => (2, 1, 1)

/-- Fields of the first 64 bits, and the AUX fields. -/
def vHeadOk (w : Row) : Bool :=
  let op := vOp w
  decide (1 ≤ vCount w) && (if op = 0 || op = 2 then floatFmt (vOfmt w) else vOfmt w = 0) && (op = 0 || vOrder w = 0) &&
    (op ≤ 2 || (op = 3 && vNpart w ≤ 7) || vNpart w = 0) &&
    decide (vVar w < (match op with | 2 => 8 | 3 => 2 | 4 => 32 | 6 => 4 | _ => 1)) && (op != 4 || vVar w / 4 % 8 ≤ 4) &&
    (op != 1 || vAux0 w = 0) && (4 ≤ op || vAux1 w = 0) && (op != 3 || (1 ≤ vAux0 w && vAux0 w ≤ 8192)) &&
    ((op = 4 && !optFull w) || vTensor w = 0)

/-- References and constants. -/
def vRefsOk (w : Row) : Bool :=
  let u := vUses (vOp w)
  (List.range 4).all (fun k => if k < u.1 then refLegal w (192 + 32 * k) else bits w (192 + 32 * k) 32 = 0) &&
    (List.range 3).all (fun k => if k < u.2.1 then refLegal w (320 + 32 * k) else bits w (320 + 32 * k) 32 = 0) &&
    (List.range 4).all (fun k => k < u.2.2 || vC w k = 0) && (vOp w != 4 || refLegal w 416) && refLegal w 448 &&
    (vReads w 0).all Piece.fits && (vWrites w).all refFits

/-- In-place forms: destination k may equal this source. -/
def vInPlace (op k : Nat) : Option Nat := match op with | 0 => (if k = 0 then some 0 else none) | 4 => some (k + 1) | _ => none

/-- A destination overlaps a source only where the two are an in-place form and equal; the parts of a COMBINE are all SRC0. -/
def vOverlapOk (w : Row) : Bool :=
  ((vWrites w).mapIdx (fun k d => ((vSources w).mapIdx (fun i r =>
    !(refSpan 0 d.1 d.2).meetsBy 1 (r.span 0) ||
      (match vInPlace (vOp w) k with | some j => (vOp w = 0 || i = j) && d.1 = vSrc w j && r.ref = d.1 | none => false))).all id)).all id

/-- C0 of a REBUILD row is an integer from 1 to 512. -/
def liveOk (c : F32) : Bool :=
  let n := nearAway c
  !isNan c && !isInf c && units c = n * 2 ^ 149 && 1 ≤ n && n ≤ 512

/-- The quantiser field block of an OPT, SGRAD or REBUILD row; zero in the others. TARGET 0 of an OPT row names no format, and its K counts
as 0 (DESIGN CHOICE, log entry 99). -/
def vQuantOk (w : Row) : Bool :=
  let q := quantOf w 640
  let k := vCount w * q.g
  match vOp w with
  | 4 => (q.target = 0 || (fmtKnown q.target && srOk q.target)) && (!q.zp || zpOk q.code false) && q.scheme != 1 && quantBlockOk q 0
  | 5 => (isW q.target || isB q.target || isT q.target) && (!q.zp || zpOk q.code true) && quantBlockOk q k
  | 6 => (isW q.target || isB q.target || isT q.target) && (!q.zp || zpOk q.code (vVarBit w 1)) && quantBlockOk q k &&
         (!vVarBit w 1 || isW q.target) && !(vVarBit w 0 && q.scheme = 1) && liveOk (vC w 0)
  | _ => bits w 640 128 = 0

def vectorOk (w : Row) : Bool :=
  vOp w ≤ 6 && vHeadOk w && vQuantOk w && vRefsOk w && vOverlapOk w && genOk w vGen (vOp w = 4 && !optFull w)

/-! ### COPY, R199 to R202, R166 -/

/-- End of the module's or pair's address space (R196). -/
def spaceEnd (s : State) : Nat := if inPair s then 0x2C000000000 else 0x16000000000

/-- Last byte of the runs of an endpoint. -/
def runsEnd (d : BitVec 384) (base len stride : Nat) : Nat := base + (dNrun d - 1) * (16 * stride) + len

/-- Window bytes of a host run (R207). -/
def hostRunBytes (n : Nat) : Nat := n + 32 * ceilDiv n 65536

def endpointOk (s : State) (d : BitVec 384) (kind a len stride : Nat) : Bool :=
  match kind with
  | 0 =>
    let o := localRef a
    fld a 26 6 = 0 && fld a 39 25 = 0 && (o.core = 255 || (o.core < 144 && o.addr < 16384)) && (inPair s || localHalf a = 0) &&
      decide (runsEnd d (16 * o.addr) len stride ≤ (if o.core = 255 then 2 ^ 22 else 2 ^ 18))
  | 1 => a < 2 ^ 42 && a % 16 = 0 && decide (runsEnd d a len stride ≤ spaceEnd s)
  | 2 => a < 2 ^ 42 && a % 16 = 0 && decide (runsEnd d a len stride ≤ 0x2C000000000)
  | 3 => fld a 8 8 = 0 && fld a 16 48 % 16 = 0 && decide (runsEnd d (fld a 16 48) (hostRunBytes len) stride ≤ 2 ^ 48)
  | _ => false

def hostSpan (d : BitVec 384) : List Span :=
  if dDkind d = 3 then
    [{ space := 6, base := fld (dDaddr d) 0 8 * 2 ^ 48 + fld (dDaddr d) 16 48, len := hostRunBytes (dDrun d),
       stride := 16 * dDstride d, n := dNrun d }]
  else []

def bytesMeet (a b : List Span) : Bool := a.any (fun x => b.any (fun y => x.meetsBy 1 y))

def descOk (s : State) (d : BitVec 384) : Bool :=
  let dlen := if dDkind d = 3 then hostRunBytes (dDrun d) else dDrun d
  dSkind d ≤ 3 && dDkind d ≤ 3 && !(2 ≤ dSkind d && 2 ≤ dDkind d) &&
    ((dCfmt d = 0 && dSfmt d = 0) || (dCfmt d = 8 && (dSfmt d = 6 || dSfmt d = 7))) &&
    (dNode d = 0 || dSkind d = 2 || dDkind d = 2) && decide (16 ≤ dRun d) && dRun d % 16 = 0 && decide (1 ≤ dNrun d) &&
    (dNrun d != 1 || (dSstride d = 0 && dDstride d = 0)) && endpointOk s d (dSkind d) (dSaddr d) (dRun d) (dSstride d) &&
    endpointOk s d (dDkind d) (dDaddr d) (dDrun d) (dDstride d) && (dNrun d = 1 || decide (dlen ≤ 16 * dDstride d)) &&
    !bytesMeet (dstSpan d) (srcSpan d)

/-- Regions of the LOCAL endpoints of a row. -/
def localRegions (w : Row) : List Nat :=
  (descs w).flatMap (fun d => (if dSkind d = 0 then [localRegion (dSaddr d)] else []) ++
    (if dDkind d = 0 then [localRegion (dDaddr d)] else []))

def copyRsetOk (w : Row) : Bool :=
  let l := localRegions w
  if l.isEmpty then (setList (rowRset w)).length = 1 else (List.range 64).all (fun r => fld (rowRset w) r 1 = b2n (l.contains r))

def copyOk (s : State) (w : Row) : Bool :=
  let n := bits w 128 2
  (n = 1 || n = 2) && (n = 2 || bits w 576 384 = 0) && (descs w).all (descOk s) && copyRsetOk w &&
    (!inPair s || rowHalves w = 1 || (descs w).all (fun d => dSkind d != 3 && dDkind d != 3)) &&
    (n = 1 || !bytesMeet (dstSpan (descOf w 0) ++ hostSpan (descOf w 0)) (dstSpan (descOf w 1) ++ hostSpan (descOf w 1)))

/-! ### COLLECT and FERRY without their groups, R247, R261 -/

/-- A module address range of n bytes. -/
def tierRange (s : State) (a n : Nat) : Bool := a % 16 = 0 && decide (a + n ≤ spaceEnd s)

/-- Bytes of SRC. -/
def cSrcBytes (w : Row) : Nat := if cCop w = 4 then 32 + 48 * cCount w else cBytes (cFmt w) (cCount w)

def rangesMeet (a n b m : Nat) : Bool := decide (a < b + m) && decide (b < a + n)

def collectOk (s : State) (w : Row) : Bool :=
  let c := cCop w
  let n := cSrcBytes w
  let odd4 := (cFmt w = 3 || cFmt w = 4) && cCount w % 2 = 1
  c ≤ 4 && decide (1 ≤ cCount w) && tierRange s (cSrc w) n &&
    (match c with
      | 4 => cFmt w = 0 && cDst w = 0
      | 0 => cFmt w = 8 && tierRange s (cDst w) 4
      | 1 => fmtKnown (cFmt w) && cFmt w < 32 && !odd4 && tierRange s (cDst w) n
      | 2 => cFmt w = 8 && tierRange s (cDst w) n && (cDst w = cSrc w || !rangesMeet (cDst w) n (cSrc w) n)
      | _ => fmtKnown (cFmt w) && cFmt w < 32 && !odd4 && tierRange s (cDst w) n &&
             (cDst w = cSrc w || !rangesMeet (cDst w) n (cSrc w) n))

/-- Areas of a FERRY row whose bytes the row itself gives, in a region that sends, and in one that homes experts. -/
def ferrySends (w : Row) : List (OpRef × Nat) :=
  if fFop w = 1 then [] else [(fRoutes w, 64 * fCount w), (fTokens w, fCount w * fStride w)]

def ferryLands (w : Row) : List (OpRef × Nat) := if fFop w = 0 then [(fLand w, landBytes w)] else []

/-- The references that an operation uses name slice SRAM: no ferry row writes staging (spec/01_module.md R13). -/
def ferryInSlice (w : Row) : Bool := (fFop w = 1 || (fRoutes w).core = 255) && (fTokens w).core = 255 && (fLand w).core = 255

def ferryOk (w : Row) : Bool :=
  fFop w ≤ 2 && (fFmt w = 6 || fFmt w = 8) && (fFop w != 0 || decide (1 ≤ fCap w)) && refLegal w 192 && refLegal w 224 &&
    refLegal w 256 && ferryInSlice w && (ferrySends w ++ ferryLands w).all refFits

/-! ### Control rows -/

/-- R87: finite, positive, T_LO < T_HI. -/
def governOk (w : Row) : Bool :=
  !isNan (gTlo w) && !isInf (gTlo w) && !isNan (gThi w) && !isInf (gThi w) && decide (0 < units (gTlo w)) && flt (gTlo w) (gThi w)

/-- R169. -/
def condOk (w : Row) : Bool :=
  let c := bCond w
  let mod0 := bMod w = 0 && bRem w = 0
  match c with
  | 0 => bArg0 w = 0 && bArg1 w = 0 && mod0 && !bClr w
  | 1 => bArg0 w ≤ 63 && bArg1 w ≤ 1 && mod0 && !bClr w
  | 2 => bArg0 w ≤ 63 && bArg1 w ≤ 1 && mod0 && !bClr w
  | 3 => 1 ≤ bArg0 w && bArg0 w ≤ 15 && mod0
  | 4 => 1 ≤ bArg0 w && bArg0 w ≤ 15 && mod0
  | 5 => bArg1 w = 0 && mod0 && !bClr w
  | 6 => bArg1 w = 0 && mod0 && !bClr w
  | 7 => bArg0 w = 0 && bArg1 w = 0 && 1 ≤ bMod w && decide (bRem w < bMod w) && !bClr w
  | 8 => bArg0 w = 0 && bArg1 w = 0 && mod0 && !bClr w
  | _ => false

/-- R170. -/
def branchOk (rows : List Row) (k : Nat) (w : Row) : Bool :=
  condOk w && decide (k < bTarget w) && decide (bTarget w < rows.length) && innermost rows (bTarget w) = innermost rows k

/-- R171 at a LOOP row. -/
def loopOk (rows : List Row) (k : Nat) (w : Row) : Bool :=
  let m := lMate w
  let e := nth rows m 0
  let outer := enclosing rows k
  decide (1 ≤ lCount w) && decide (k < m) && decide (m < rows.length) && rowKind e = 10 && lMate e = k &&
    outer.length < 8 && outer.all (fun o => m < o.2 && lReg (nth rows o.1 0) != lReg w)

/-- R171 at an ENDLOOP row: its mate points back at it and names the same register. -/
def endloopOk (rows : List Row) (k : Nat) (w : Row) : Bool :=
  let l := nth rows (lMate w) 0
  decide (lMate w < k) && rowKind l = 9 && lMate l = k && lReg l = lReg w

/-- R171: no STEP row and no entry row lies inside a loop body. -/
def bodyOk (rows : List Row) (k : Nat) (w : Row) : Bool :=
  (rowKind w != 12 && !(entryRows rows).contains k) || (enclosing rows k).isEmpty

def barrierOk (w : Row) : Bool :=
  if barJob w then decide (1 ≤ barTimeout w) else barGroup w = 0 && barTag w = 0 && barTimeout w = 0

/-- R168: the shard header lies in the address space. -/
def epochOk (s : State) (w : Row) : Bool := eOp w ≤ 2 && eAddr w % 4096 = 0 && decide (eAddr w + 32 ≤ spaceEnd s)

/-- Every check that looks at one row in its slot. -/
def rowOk (s : State) (rows : List Row) (k : Nat) (w : Row) : Bool :=
  reservedOk w && headerOk s w && bodyOk rows k w &&
    (match rowKind w with
      | 1 => passOk w
      | 2 => vectorOk w
      | 3 => quantOk w
      | 4 => copyOk s w
      | 5 => collectOk s w
      | 6 => ferryOk w
      | 7 => governOk w
      | 8 => branchOk rows k w
      | 9 => loopOk rows k w
      | 10 => endloopOk rows k w
      | 11 => barrierOk w
      | 12 => decide (sNext w < rows.length)
      | 13 => epochOk s w
      | 15 => condOk w
      | _ => true)

/-! ### Group checks: R173, R247, R261 -/

/-- A group is defined and this module's rank is a member. -/
def memberOf (s : State) (g : Nat) : Bool := (groupRanks s g).contains s.job.myRank

/-- Position of this module in a group. -/
def positionIn (s : State) (g : Nat) : Nat := (groupRanks s g).findIdx (fun r => r = s.job.myRank)

/-- Chunk of position q of C elements over m positions (R246). -/
def chunkLenOf (c m q : Nat) : Nat := c / m + (if q < c % m then 1 else 0)

def chunkStart (c m q : Nat) : Nat := q * (c / m) + min q (c % m)

/-- Absent positions that this module stands in for. -/
def standsInFor (s : State) (g : Nat) : List Nat :=
  (List.range (groupRanks s g).length).filter (fun p =>
    let e := rankEntry s (nth (groupRanks s g) p 0)
    !rankPresent e && rankStandIn e = s.job.myRank)

/-- Bytes that this member reads at SRC: with those of the positions that it stands in for in an ALL_GATHER; a BROADCAST is read where
position 0 is supplied (R246). -/
def cSupplied (s : State) (w : Row) : Nat :=
  let n := cBytes (cFmt w) (cCount w)
  match cCop w with
  | 1 => n * (1 + (standsInFor s (cGroup w)).length)
  | 3 => if positionIn s (cGroup w) = 0 || (standsInFor s (cGroup w)).contains 0 then n else 0
  | 4 => 32 + 48 * cCount w
  | _ => n

/-- Bytes of DST of this member. -/
def cDstBytes (s : State) (w : Row) : Nat :=
  let m := (groupRanks s (cGroup w)).length
  match cCop w with
  | 0 => 4 * ((positionIn s (cGroup w) :: standsInFor s (cGroup w)).map (chunkLenOf (cCount w) m)).sum
  | 1 => m * cBytes (cFmt w) (cCount w)
  | 4 => 0
  | _ => cBytes (cFmt w) (cCount w)

/-- Regions that a home table names for this module. -/
def landingRegions (s : State) (table : Nat) : List Nat :=
  match sget? s.job.homes table with
  | none => []
  | some t =>
    let half := if s.pair.role = .secondary then 64 else 0
    let regs := t.entries.flatMap (fun e =>
      (if bits e 0 16 = s.job.myRank then [bits e 16 7] else []) ++ (if bits e 32 16 = s.job.myRank then [bits e 48 7] else []))
    (List.range 64).filter (fun r => regs.contains (half + r))

def groupRowOk (s : State) (w : Row) : Bool :=
  match rowKind w with
  | 11 => !barJob w || memberOf s (barGroup w)
  | 5 =>
    memberOf s (cGroup w) &&
      (let n := cDstBytes s w
       let own := cDst w + positionIn s (cGroup w) * cBytes (cFmt w) (cCount w)
       cCop w = 4 || (tierRange s (cDst w) n && tierRange s (cSrc w) (cSupplied s w) &&
         (match cCop w with
          | 0 => !rangesMeet (cDst w) n (cSrc w) (cSupplied s w)
          | 1 => cSrc w = own || !rangesMeet (cDst w) n (cSrc w) (cSupplied s w)
          | _ => true)))
  | 6 => (landingRegions s (fHomes w)).all (fun r => fFop w != 0 || fld (rowRset w) r 1 = 1)
  | _ => true


/-! ### Path checks: R121, R180, R253, R256 -/

/-- A tile that is open along a path: core (by half and region), slot, descriptor (BANK to ORDER), partials by position. -/
structure OpenTile where
  core : Nat
  slot : Nat
  desc : Nat
  counts : List Nat
deriving DecidableEq, Repr, BEq

/-- What the path checks carry: open tiles, recorded ledger entries, whether the step has had its RESHARD row, and the last DISPATCH
and RETURN rows. -/
structure PathState where
  tiles : List OpenTile
  recorded : List Nat
  reshard : Bool
  dispatch : Option Row
  returned : Option Row
deriving DecidableEq, Repr, BEq

def PathState.start : PathState := { tiles := [], recorded := [], reshard := false, dispatch := none, returned := none }

/-- The areas of RETURN and COMBINE whose bytes an earlier row of the step gives: the outputs of CAP slots, and what returns for COUNT
tokens (R261, R264). -/
def ferryAreas (p : PathState) (w : Row) : List (OpRef × Nat) :=
  match fFop w with
  | 1 => (p.dispatch.map (fun d => [(fTokens w, fCap d * fStride w), (fLand w, 8 * fCount d * fStride w)])).getD []
  | 2 => (p.returned.map (fun r => [(fLand w, 8 * fCount w * fStride r)])).getD []
  | _ => []

def pathFerry (w : Row) (p : PathState) : Option PathState :=
  if !(ferryAreas p w).all refFits then none
  else match fFop w with
    | 0 => some { p with dispatch := some w }
    | 1 => some { p with returned := some w }
    | _ => some p

def rowsMeet (d e : Nat) : Bool :=
  let lo (x : Nat) : Nat := fld x 1 6
  let n (x : Nat) : Nat := fld x 7 6 * (fld x 13 3 + 1)
  fld d 0 1 = fld e 0 1 && decide (lo d < lo e + n e) && decide (lo e < lo d + n d)

/-- Partials delivered by a row, at each of its positions. -/
def addCounts (p : Pass) (counts : List Nat) : List Nat := counts.mapIdx (fun t c => if t < p.ntok then c + p.nsup else c)

/-- The tile that a PASS row leaves on one core of one half, with its partials; none where it breaks R121. -/
def tileAfter (p : Pass) (a : Acc) (desc : Nat) (tiles : List OpenTile) (core : Nat) : Option OpenTile :=
  let mine := tiles.find? (fun t => t.core = core && t.slot = a.slot)
  let limit := if a.order = 0 then 2 ^ (a.levels + 1) - 1 else 2 ^ 32 - 1
  let base : Option (List Nat) :=
    if a.begins then
      (if mine.isSome || tiles.any (fun t => t.core = core && rowsMeet desc t.desc) then none else some (List.replicate a.nrows 0))
    else mine.bind (fun t => if t.desc = desc then some t.counts else none)
  base.bind (fun c0 =>
    let c := addCounts p c0
    if c.any (fun n => limit < n) then none else some { core := core, slot := a.slot, desc := desc, counts := c })

/-- A PASS row on one core: a tile that it ends is open no longer. -/
def stepTile (p : Pass) (a : Acc) (desc : Nat) (tiles : List OpenTile) (core : Nat) : Option (List OpenTile) :=
  (tileAfter p a desc tiles core).map (fun t =>
    tiles.filter (fun x => !(x.core = core && x.slot = a.slot)) ++ (if a.ends then [] else [t]))

/-- Cores of a PASS row, by half and region. -/
def passCores (w : Row) : List Nat :=
  (halvesOf w).flatMap (fun h => (setList (rowRset w)).flatMap (fun r => (rectCores (passOf w).rect).map (fun c => (h * 64 + r) * 144 + c)))

/-- BANK to ORDER of a PASS row. -/
def passDesc (w : Row) : Nat := bits (accBits w) 11 18

def pathPass (w : Row) (tiles : List OpenTile) : Option (List OpenTile) :=
  (passCores w).foldl (fun t core => t.bind (fun l => stepTile (passOf w) (accOf (accBits w)) (passDesc w) l core)) (some tiles)

/-- One row of a path; none where it breaks a rule. -/
def pathRow (_k : Nat) (w : Row) (p : PathState) : Option PathState :=
  if p.reshard && isData w then none
  else match rowKind w with
    | 1 => (pathPass w p.tiles).map (fun t => { p with tiles := t })
    | 5 => some (if cCop w = 4 then { p with reshard := true } else p)
    | 6 => pathFerry w p
    | 12 => if p.tiles.isEmpty then some p else none
    | 15 => if bCond w != 0 || p.tiles.isEmpty then some p else none
    | 13 =>
      if eOp w = 0 then some { p with recorded := insertOnce (eEntry w) p.recorded }
      else if eOp w = 1 && !p.recorded.contains (eEntry w) then none else some p
    | _ => some p

/-- A RETURN row's RSET holds the landing regions of the home table of the DISPATCH before it (R261); COMBINE works on sending regions
alone. -/
def returnHomes (s : State) (_k : Nat) (w : Row) (table : Option Nat) : Option (Option Nat) :=
  if rowKind w != 6 then some table
  else match fFop w with
    | 0 => some (some (fHomes w))
    | 1 => if table.all (fun t => (landingRegions s t).all (fun r => fld (rowRset w) r 1 = 1)) then some table else none
    | _ => some table

/-- The first row that breaks a group check. -/
def groupFault (s : State) (rows : List Row) : Option Nat :=
  ((List.range rows.length).find? (fun k => !groupRowOk s (nth rows k 0))).or (flowAll (returnHomes s) rows none)

/-! ### RESHARD rounds, R256 -/

def reshardRows (rows : List Row) : List Nat :=
  (List.range rows.length).filter (fun k => rowKind (nth rows k 0) = 5 && cCop (nth rows k 0) = 4)

def tagRid (w : Row) : BitVec 16 := BitVec.ofNat 16 (bits (cTag w) 16 16)
def tagRound (w : Row) : Nat := bits (cTag w) 0 16

/-- First address of the secondary's tiers in a pair (spec/09_memory.md R196). -/
def halfSplit : Nat := 0x16000000000

/-- A module address of this half's tiers. -/
def ownHalf (s : State) (a : Nat) : Bool := !inPair s || decide (halfSplit ≤ a) = decide (s.pair.role = .secondary)

/-- A module address range cut where it passes from one half to the other: offset and bytes. -/
def halfPieces (s : State) (a n : Nat) : List (Nat × Nat) :=
  if inPair s && a < halfSplit && halfSplit < a + n then [(0, halfSplit - a), (halfSplit - a, a + n - halfSplit)] else [(0, n)]

/-- Bytes at a module address as this half knows them: those of the other half as they were read last (log entry 30). -/
def listBytes (s : State) (a n : Nat) : List Byte :=
  (halfPieces s a n).flatMap (fun p =>
    if ownHalf s (a + p.1) then readMem s 0 (if inPair s then (a + p.1) % halfSplit else a + p.1) p.2
    else mread (Config.undefByte 5 s.mem.era) s.fab.far (a + p.1) p.2)

/-- The list header and the moves of a round, as they stand in the tiers. -/
def listHead (s : State) (w : Row) : Nat := ofLe (listBytes s (cSrc w) 32)
def movesOf (s : State) (w : Row) : List (BitVec 384) :=
  (List.range (cCount w)).map (fun i => bytesWord 384 (listBytes s (cSrc w + 32 + 48 * i) 48))

/-- Where the move lists of RESHARD rows stand: address and bytes. -/
def moveLists (rows : List Row) : List (Nat × Nat) :=
  (rows.filter (fun w => rowKind w = 5 && cCop w = 4)).map (fun w => (cSrc w, cSrcBytes w))

def mvFrom (m : BitVec 384) : Nat := bits m 0 14
def mvTo (m : BitVec 384) : Nat := bits m 16 14
def mvBfrom (m : BitVec 384) : Nat := bits m 32 14
def mvHasb (m : BitVec 384) : Bool := bitAt m 46
def mvPages (m : BitVec 384) : Nat := bits m 48 16
def mvFaddr (m : BitVec 384) : Nat := bits m 64 42
def mvTaddr (m : BitVec 384) : Nat := bits m 128 42
def mvBaddr (m : BitVec 384) : Nat := bits m 192 42
def mvExpect (m : BitVec 384) : Nat := bits m 256 64
def mvShard (m : BitVec 384) : BitVec 32 := BitVec.ofNat 32 (bits m 320 32)

/-- Pages landed by this module in a round, and pages it vacates. -/
def landedPages (s : State) (w : Row) : List Nat :=
  ((movesOf s w).filter (fun m => mvTo m = s.job.myRank)).flatMap (fun m => (List.range (mvPages m)).map (fun i => mvTaddr m / 4096 + i))
def vacatedPages (s : State) (w : Row) : List Nat :=
  ((movesOf s w).filter (fun m => mvFrom m = s.job.myRank)).flatMap (fun m => (List.range (mvPages m)).map (fun i => mvFaddr m / 4096 + i))

/-- A page is in the free set after the rounds before; `earlier` holds them, the latest first. -/
def pageFree (s : State) (base n page : Nat) : List Row → Bool
  | [] => base ≤ page && page < base + n
  | w :: r => (pageFree s base n page r && !(landedPages s w).contains page) || (vacatedPages s w).contains page

def noRepeat : List Nat → Bool
  | [] => true
  | x :: r => !r.contains x && noRepeat r

/-- One round with those before it. -/
def roundOk (s : State) (w : Row) (earlier : List Row) : Bool :=
  let h := listHead s (earlier.getLast?.getD w)
  let pages := landedPages s w
  tagRound w = earlier.length && decide (pages.length ≤ fld h 64 32) && noRepeat pages &&
    pages.all (fun p => pageFree s (fld h 0 42 / 4096) (fld h 64 32) p earlier)

/-- The first RESHARD row that breaks R256. Moves name ranks, so those that this module receives are checked where a job is started
(log entry 44). -/
def reshardFault (s : State) (rows : List Row) : Option Nat :=
  (reshardRows rows).find? (fun k =>
    let w := nth rows k 0
    let same := (reshardRows rows).filter (fun j => tagRid (nth rows j 0) = tagRid w)
    let earlier := (same.filter (fun j => j < k)).reverse.map (fun j => nth rows j 0)
    tagRound w != earlier.length || (same.getLast? = some k && tagRound w + 1 != fld (listHead s w) 96 16) ||
      (s.job.started && !roundOk s w earlier))

/-! ### Claims, spec/02_formats.md R57 to R59; spec/07_timetable.md R176 -/

def rowDraws (w : Row) : Bool :=
  (rowKind w = 3 && fmtSr (quantOf w 128).target) || (rowKind w = 2 && vOp w = 4 && !optFull w)

/-- Tensor, generator window and elements in one region of a drawing row. -/
def drawTensor (w : Row) : Nat := if rowKind w = 3 then (quantOf w 128).tensor else vTensor w
def drawGen (w : Row) : Nat × Nat × Nat := genOf w (if rowKind w = 3 then qGen else vGen)
def drawCount (w : Row) : Nat := if rowKind w = 3 then qNtoken w * qK w else vCount w

/-- Element windows by region rank, each strided over the row's issues. -/
def claimSpans (rows : List Row) (k : Nat) : List Span :=
  let w := nth rows k 0
  let g := drawGen w
  (List.range (setList (rowRset w)).length).map (fun q =>
    { space := drawTensor w, base := g.1 + q * g.2.2, len := drawCount w, stride := g.2.1, n := issueCount rows k })

/-- Two issues of one window draw the same block of four. -/
def issuesMeet (a : Span) : Bool :=
  (List.range (min (a.n - 1) 4)).any (fun i => decide ((a.base + (i + 1) * a.stride) / 4 ≤ (a.base + i * a.stride + a.len - 1) / 4))

def pairwiseMeet : List Span → Bool
  | [] => false
  | a :: r => r.any (fun b => a.meetsBy 4 b) || pairwiseMeet r

/-- The claim of a row that some path reaches overlaps itself (R59). -/
def selfOverlap (rows : List Row) (k : Nat) : Bool :=
  let l := claimSpans rows k
  oneStep rows k k && (l.any issuesMeet || pairwiseMeet l)

/-- Claims of two rows overlap within one step, on a half that executes both. -/
def claimsMeet (rows : List Row) (a b : Nat) : Bool :=
  let x := nth rows a 0
  let y := nth rows b 0
  drawTensor x = drawTensor y && (rowHalves x &&& rowHalves y) != 0 && oneStep rows a b &&
    (claimSpans rows a).any (fun p => (claimSpans rows b).any (fun q => p.meetsBy 4 q))

def drawingRows (rows : List Row) : List Nat := (List.range rows.length).filter (fun k => rowDraws (nth rows k 0))

/-- The first pair of rows whose claims overlap. -/
def claimFault (rows : List Row) : Option (Nat × Nat) :=
  (drawingRows rows).findSome? (fun b => ((drawingRows rows).find? (fun a => a < b && claimsMeet rows a b)).map (fun a => (a, b)))

/-- Rows whose key is replaced under RELAXED: those that overlap an earlier row that keeps its key. -/
def remapRows (rows : List Row) : List Nat :=
  (drawingRows rows).foldl (fun l b =>
    if (drawingRows rows).any (fun a => a < b && !l.contains a && claimsMeet rows a b) then l ++ [b] else l) []

/-- Claims checked under a determinism: both rows of an overlap, or the rows remapped. -/
def claimCheck (relaxed : Bool) (rows : List Row) : Except (Nat × Nat) (List Nat) :=
  match (drawingRows rows).find? (selfOverlap rows) with
  | some k => .error (k, k)
  | none => if relaxed then .ok (remapRows rows) else match claimFault rows with | some p => .error p | none => .ok []

/-! ### All load checks, R180 -/

/-- Status, row and second row of a refused load. -/
abbrev LoadFault := BitVec 16 × Nat × Nat

/-- The checks in order: each row, the paths, the groups where a job is started, the regions, the claims. The result is the
rows remapped; `serves` says which regions of a half are in service. -/
def checkRowsIn (serves : Nat → Nat → Bool) (s : State) (rows : List Row) : Except LoadFault (List Nat) :=
  match (List.range rows.length).find? (fun k => !rowOk s rows k (nth rows k 0)) with
  | some k => .error (Status.badField, k, 0)
  | none =>
    match flowAll pathRow rows PathState.start with
    | some k => .error (Status.badField, k, 0)
    | none =>
      match reshardFault s rows with
      | some k => .error (Status.badField, k, 0)
      | none =>
        match (if s.job.started then groupFault s rows else none) with
        | some k => .error (Status.badField, k, 0)
        | none =>
          match fencedIn serves rows with
          | some k => .error (Status.regionFenced, k, 0)
          | none =>
            if s.job.started then
              match claimCheck s.job.relaxed rows with
              | .error p => .error (Status.generatorOverlap, p.1, p.2)
              | .ok l => .ok l
            else
              match (drawingRows rows).find? (selfOverlap rows) with
              | some k => .error (Status.generatorOverlap, k, k)
              | none => .ok []

/-- The checks with the regions in service now. -/
def checkRows (s : State) (rows : List Row) : Except LoadFault (List Nat) := checkRowsIn (servesNow s) s rows

end Sys2Proof.Machine
end

