-- ==== Sys2Proof/Machine/Issue.lean ====
section
/-!
DEFINITION. How rows issue and complete (spec/07_timetable.md R160, R161, R172, R183; spec/01_module.md R21, R23;
spec/05_accumulators.md R126): the ranges a row touches, what holds a row, issue in path order, completion, and the watch
table (spec/03_quantiser.md R83 to R86; spec/12_lashing.md R275).
-/
namespace Sys2Proof.Machine

def onSeq (f : Seq → Seq) (s : State) : State := { s with seq := f s.seq }

/-! ### Halves -/

/-- This half executes the row. -/
def executes (s : State) (w : Row) : Bool := fld (rowHalves w) (myHalf s) 1 = 1

/-! ### Ranges a row reads and writes -/

def passSpans (half : Nat) (w : Row) : List Span × List Span :=
  let p := passOf w
  let a := accOf (accBits w)
  let per (l : List (Nat × Nat)) : List Span :=
    (setList (rowRset w)).flatMap (fun r => (rectCores p.rect).flatMap (fun c =>
      l.map (fun x => span 1 (((half * 64 + r) * 144 + c) * 2 ^ 18 + 16 * x.1) x.2)))
  (per (p.arrays ++ a.reads), per a.writes)

def refSpans (half : Nat) (regions : List Nat) (l : List (OpRef × Nat)) : List Span :=
  regions.flatMap (fun r => l.map (fun x => refSpan (half * 64 + r) x.1 x.2))

/-- What a VECTOR row reads in the regions of a half. An anchor table is as long as its head says; one of the other half counts at its
longest (log entry 84). -/
def vectorSpans (s : State) (half : Nat) (w : Row) : List Span :=
  (setList (rowRset w)).flatMap (fun r =>
    (vReads w (if half = myHalf s then anchorCount s r w else maxAnchors)).map (fun p => p.span (half * 64 + r)))

/-- WIDTH and FMT of the last RETURN, for a COMBINE. -/
def ferryState (s : State) (table : Nat) : FerryState :=
  sget s.job.ferryNow (attemptNow s * 256 + table) FerryState.start

/-- Stride of returned outputs. -/
def outStride (s : State) : Nat :=
  let f := ferryState s (fHomes s.job.ferryRow)
  up16 (fmtBytes (fmtCode f.fmt.toNat) f.width)

/-- RSET split into landing and sending regions of the home table. -/
def ferryRegions (s : State) (table : Nat) (w : Row) : List Nat × List Nat :=
  let land := landingRegions s table
  (land, (setList (rowRset w)).filter (fun r => !land.contains r))

def ferrySpans (s : State) (half : Nat) (w : Row) : List Span × List Span :=
  let d := if fFop w = 0 then w else s.job.ferryRow
  let rs := ferryRegions s (fHomes d) w
  match fFop w with
  | 0 => (refSpans half rs.2 (ferrySends w), refSpans half rs.1 [(fLand w, landBytes w)])
  | 1 => (refSpans half rs.1 [(fTokens w, fCap d * fStride w), (fLand d, landBytes d)],
          refSpans half rs.2 [(fLand w, 8 * fCount d * fStride w)])
  | _ => (refSpans half rs.2 [(fRoutes w, 64 * fCount w), (fLand w, 8 * fCount w * outStride s)],
          refSpans half rs.2 [(fTokens w, fCount w * fStride w)])

/-- Moves of a RESHARD row that this module receives, and that leave it. -/
def movesIn (s : State) (w : Row) : List (BitVec 384) := (movesOf s w).filter (fun m => mvTo m = s.job.myRank)
def movesOut (s : State) (w : Row) : List (BitVec 384) := (movesOf s w).filter (fun m => mvFrom m = s.job.myRank)

def collectSpans (s : State) (w : Row) : List Span × List Span :=
  if cCop w = 4 then
    (span 0 (cSrc w) (cSrcBytes w) :: (movesOut s w).map (fun m => span 0 (mvFaddr m) (4096 * mvPages m)),
      (movesIn s w).map (fun m => span 0 (mvTaddr m) (4096 * mvPages m)))
  else (if cSupplied s w = 0 then [] else [span 0 (cSrc w) (cSupplied s w)], [span 0 (cDst w) (cDstBytes s w)])

/-- Ranges read and written by a row. -/
def rowSpans (s : State) (w : Row) : List Span × List Span :=
  let join (f : Nat → List Span × List Span) : List Span × List Span :=
    ((halvesOf w).flatMap (fun h => (f h).1), (halvesOf w).flatMap (fun h => (f h).2))
  let rs := setList (rowRset w)
  match rowKind w with
  | 1 => join (fun h => passSpans h w)
  | 2 => join (fun h => (vectorSpans s h w, refSpans h rs (vWrites w)))
  | 3 => join (fun h => (refSpans h rs ([(qSrc w, qSrcBytes w)] ++
      (if qCalibrated w then [(qCal w, scaleBytes (qNtoken w) (qK w / (quantOf w 128).g) (quantOf w 128).zp)] else [])),
      refSpans h rs [(qDst w, qDstBytes w)]))
  | 4 => ((descs w).flatMap srcSpan, (descs w).flatMap dstSpan)
  | 5 => collectSpans s w
  | 6 => join (fun h => ferrySpans s h w)
  | _ => ([], [])

/-- Two rows touch the same bytes and one of them writes there. -/
def conflict (s : State) (a b : Row) : Bool :=
  let x := rowSpans s a
  let y := rowSpans s b
  spansMeet x.2 (y.1 ++ y.2) || spansMeet x.1 y.2

/-- A later data row shares a region or a range with a held one, whether either writes there or not (R160). -/
def sharesWith (s : State) (w held : Row) : Bool :=
  let x := rowSpans s w
  let y := rowSpans s held
  (setList (rowRset w)).any (fun r => fld (rowRset held) r 1 = 1) || spansMeet (x.1 ++ x.2) (y.1 ++ y.2)

/-! ### Tiles, spec/05_accumulators.md R117 to R126 -/

def Tile.is (t : Tile) (r k slot : Nat) : Bool := t.region = r && t.core = k && t.slot = slot && t.closing.isNone

/-- The tile row of a bank belongs to the tile. -/
def Tile.covers (t : Tile) (tileRow : Nat) : Bool := t.base ≤ tileRow && decide (tileRow < t.base + t.nrows * (t.levels + 1))

/-- The open tile of a core's slot, as the row finds or begins it. -/
def tileFor (s : State) (r k : Nat) (a : Acc) : Tile :=
  let fresh : Tile := { core := k, region := r, slot := a.slot, bank := a.bank, base := a.base, nrows := a.nrows, levels := a.levels,
                        order := a.order, counts := List.replicate a.nrows 0, closing := none }
  if a.begins then fresh else (s.seq.tiles.find? (fun t => t.is r k a.slot)).getD fresh

/-- Levels that a push reads before any write, and the level it writes (R123). -/
def pushReads (order levels count : Nat) : List Nat :=
  let run (c n : Nat) : List Nat := (List.range n).takeWhile (fun l => fld c l 1 = 1)
  if order = 0 then run count 32
  else
    let l := run (count % 2 ^ levels) levels
    l.map (· + 1) ++ (if l.length = levels && 2 ^ levels ≤ count then [0] else [])

def pushLevel (order levels count : Nat) : Nat :=
  if order = 0 then (pushReads 0 levels count).length
  else
    let n := ((List.range levels).takeWhile (fun l => fld (count % 2 ^ levels) l 1 = 1)).length
    if n = levels then 0 else n + 1

/-- Levels that a close reads. -/
def closeReads (order levels count : Nat) : List Nat :=
  if order = 0 then (List.range (levels + 1)).filter (fun l => fld count l 1 = 1)
  else ((List.range levels).filter (fun l => fld (count % 2 ^ levels) l 1 = 1)).map (· + 1) ++ (if 2 ^ levels ≤ count then [0] else [])

/-- A tile row that some push of the row reads before the row has written it. -/
def passReads (p : Pass) (t : Tile) (tileRow : Nat) : Bool :=
  let l := (tileRow - t.base) / t.nrows
  let pos := (tileRow - t.base) % t.nrows
  let c := nth t.counts pos 0
  t.base ≤ tileRow && l ≤ t.levels && pos < p.ntok &&
    (List.range p.nsup).any (fun h => (pushReads t.order t.levels (c + h)).contains l &&
      !((List.range h).any (fun j => pushLevel t.order t.levels (c + j) = l)))

/-- The tile rows that the row's pushes write. -/
def passWrites (p : Pass) (t : Tile) : List Nat :=
  (List.range p.ntok).flatMap (fun pos => (List.range p.nsup).foldl (fun l h =>
    insertOnce (t.base + pushLevel t.order t.levels (nth t.counts pos 0 + h) * t.nrows + pos) l) [])

/-! ### What holds a row -/

/-- A PASS row delivers to tile rows that a closing tile still occupies (R126); a row that delivers to others alone does not wait. -/
def drainWait (s : State) (w : Row) : Bool :=
  let a := accOf (accBits w)
  rowKind w = 1 &&
    s.seq.tiles.any (fun t => t.closing.isSome && fld (rowRset w) t.region 1 = 1 && (rectCores (passOf w).rect).contains t.core &&
      t.bank = a.bank && (passWrites (passOf w) (tileFor s t.region t.core a)).any t.covers)

/-- Nodes that a row sends to as it issues. -/
def sendsTo (s : State) (w : Row) : List (BitVec 14) :=
  let members (g : Nat) : List (BitVec 14) := (otherMembers s g).map (fun r => rankNode (rankEntry s r))
  match rowKind w with
  | 4 => ((descs w).filter (fun d => dSkind d = 2 || dDkind d = 2)).map (fun d => BitVec.ofNat 14 (dNode d))
  | 5 => members (cGroup w)
  | 6 => if fFop w = 2 then [] else
      match sget? s.job.homes (fHomes (if fFop w = 0 then w else s.job.ferryRow)) with | some t => members t.group | none => []
  | _ => []

/-- A link that the row sends over dozes or wakes. -/
def linkWait (s : State) (w : Row) : Bool :=
  (sendsTo s w).any (fun n => (nextHop s (myNode s) n none).any (fun h => (port s h.port).state = .doze))

def hostWait (s : State) (w : Row) : Bool :=
  rowKind w = 4 && !s.gw.linkUp && (descs w).any (fun d => dSkind d = 3 || dDkind d = 3)

/-- Why a data row with this place cannot issue; `held` are the held rows before it. -/
def blockCause (s : State) (w : Row) (id : Nat) (held : List HeldRow) : Option Cause :=
  if s.seq.flight.any (fun f => f.id < id && isData f.bits && conflict s w f.bits) || held.any (fun h => sharesWith s w h.bits) then
    some Cause.dataOrder
  else if rowKind w = 5 && cCop w = 4 && tagRound w = 0 && s.trust.sealing && s.reshard.active.isNone then some Cause.dataOrder
  else if !executes s w then none
  else if (setList (rowRset w)).any (fun r => (region s r).clock != .ready) then some Cause.regionWake
  else if drainWait s w then some Cause.drain
  else if hostWait s w then some Cause.host
  else if linkWait s w then some Cause.linkWake
  else none

/-- Why no row at all issues: 64 in flight, a protected event without an entry, a JOB barrier, or an EPOCH row. -/
def stopCause (s : State) : Option Cause :=
  if 64 ≤ s.seq.flight.length then some Cause.issueDepth
  else if !s.log.protWait.isEmpty then some Cause.recorder
  else if s.seq.flight.any (fun f => f.stage = .barrier) then some Cause.barrier
  else if s.seq.flight.any (fun f => f.stage = .epoch || (f.stage = .refetch && rowKind f.bits = 13)) then some Cause.dataOrder
  else none

/-! ### Issue -/

/-- The active run that issues rows. -/
def activeNow (s : State) : Option ActiveRun :=
  s.seq.run.filter (fun r => !r.asleep && r.halting.isNone && r.abandoning.isNone && r.restartAt.isNone)

/-- A row as it issues. -/
structure RowCtx where
  id : Nat
  slot : Bool
  row : Nat
  bits : Row
  issue : Nat
deriving DecidableEq, Repr

def onRun (f : ActiveRun → ActiveRun) (s : State) : State := onSeq (fun q => { q with run := q.run.map f }) s

/-- The row in flight, unless it has halted the timetable. -/
def addFlight (c : RowCtx) (stage : Stage) (flags : BitVec 8) (watch : List WatchAdd) (s : State) : State :=
  if s.seq.run.any (fun r => r.halting.isNone) then
    onSeq (fun q => { q with flight := q.flight ++
      [{ id := c.id, slot := c.slot, row := c.row, bits := c.bits, issue := c.issue, flags := flags, stage := stage, watch := watch }] }) s
  else s

/-- Ranges written are noted beside the kept copies (spec/09_memory.md R218). -/
def noteSpans (l : List Span) (s : State) : State :=
  onSeq (fun q => { q with copies := q.copies.map (fun c => { c with later := c.later ++ l }) }) s

/-- What a row writes is noted. -/
def noteWrites (w : Row) (s : State) : State := if s.seq.copies.isEmpty then s else noteSpans (rowSpans s w).2 s

/-- A row issues here, or on the other half alone. -/
def issueRow (c : RowCtx) (eff : RowCtx → State → State) (s : State) : State :=
  let s := noteWrites c.bits s
  if executes s c.bits then eff c s else addFlight c .remote 0 [] s

/-- Rows of one core or slice queue behind each other (R161). -/
def busyCause (s : State) (w : Row) : Option Cause :=
  if rowKind w = 1 then
    if s.seq.flight.any (fun f => rowKind f.bits = 1 && f.stage != .remote && (rowRset f.bits &&& rowRset w) != 0 &&
        (rectCores (passOf w).rect).any (fun c => (rectCores (passOf f.bits).rect).contains c)) then some Cause.coreBusy else none
  else if rowKind w = 2 || rowKind w = 3 then
    if s.seq.flight.any (fun f => (rowKind f.bits = 2 || rowKind f.bits = 3) && f.stage != .remote && (rowRset f.bits &&& rowRset w) != 0) then
      some Cause.sliceBusy else none
  else none

def chargeOpt (c : Option Cause) (w : Row) (dt : Nat) (s : State) : State :=
  match c with | some x => charge x (rowRset w) dt s | none => s

/-- The path row takes its place in path order; issue goes on at the next row. -/
def takePath (r : ActiveRun) (w : Row) (s : State) : RowCtx × State :=
  let i := sget s.seq.issues r.next 0
  ({ id := s.seq.nextId, slot := r.slot, row := r.next, bits := w, issue := i },
    onSeq (fun q => { q with nextId := q.nextId + 1, issues := sput q.issues r.next (i + 1),
                             run := q.run.map (fun x => { x with next := r.next + 1, gap := rowGap w, waitCause := none }) }) s)

/-- The path row waits at its place. -/
def waitHere (c : Cause) (w : Row) (dt : Nat) (s : State) : State :=
  onRun (fun r => { r with waitCause := some c }) (charge c (rowRset w) dt s)

/-- The path row of a data kind: waits, is held, or issues. -/
def pathData (r : ActiveRun) (w : Row) (dt : Nat) (eff : RowCtx → State → State) (s : State) : State :=
  match stopCause s with
  | some c => waitHere c w dt s
  | none =>
    let s := chargeOpt r.waitCause w dt s
    let t := takePath r w s
    match blockCause t.2 w t.1.id t.2.seq.held with
    | some c => onSeq (fun q => { q with held := q.held ++
        [{ id := t.1.id, row := t.1.row, bits := w, issue := t.1.issue, cause := c }] }) t.2
    | none => issueRow t.1 eff (if r.waitCause.isNone then chargeOpt (busyCause s w) w dt t.2 else t.2)

/-- Held rows of a kind, each with what holds it now. -/
def heldOf (is : Row → Bool) (s : State) : List (HeldRow × Option Cause) :=
  (s.seq.held.filter (fun h => is h.bits)).map (fun h =>
    (h, blockCause s h.bits h.id (s.seq.held.filter (fun g => g.id < h.id))))

/-- A held row that nothing holds any longer issues. -/
def releaseHeld (slot : Bool) (h : HeldRow) (dt : Nat) (eff : RowCtx → State → State) (s : State) : State :=
  let s := charge h.cause (rowRset h.bits) dt s
  let s := onSeq (fun q => { q with held := q.held.filter (fun g => g.id != h.id) }) s
  issueRow { id := h.id, slot := slot, row := h.row, bits := h.bits, issue := h.issue } eff s

/-- A row that stays held is charged what holds it. -/
def stayHeld (h : HeldRow) (c : Cause) (dt : Nat) (s : State) : State :=
  let s := charge h.cause (rowRset h.bits) dt s
  onSeq (fun q => { q with held := q.held.map (fun g => if g.id = h.id then { g with cause := c } else g) }) s

/-- Time passes for rows of a kind that wait for bytes to be fetched again (spec/09_memory.md R217, R218). -/
def chargeRefetch (is : Row → Bool) (dt : Nat) (s : State) : State :=
  if s.seq.flight.any (fun f => is f.bits && s.fab.txns.any (fun t =>
      t.flight = f.id && t.isRead && ((f.stage = .refetch && t.desc != 0) || !t.again.isEmpty))) then
    chargeModule Cause.refetch dt s
  else s

/-- A data row of a kind is considered: a held one that is free, else the path row, else a held one stays held. -/
def dataEvent (is : Row → Bool) (dt : Nat) (eff : RowCtx → State → State) (s : State) : State :=
  let s := chargeRefetch is dt s
  match activeNow s with
  | none => s
  | some r =>
    let hs := heldOf is s
    match hs.find? (fun p => p.2.isNone), stopCause s with
    | some p, none => releaseHeld r.slot p.1 dt eff s
    | _, _ =>
      let w := rowAt s r.slot r.next
      if decide (r.next < (slotOf s r.slot).rows.length) && isData w && is w then pathData r w dt eff s
      else match hs with
        | (h, c) :: _ => stayHeld h (c.getD h.cause) dt s
        | [] => s

/-! ### Control rows -/

/-- Before it passes a boundary the primary shows its log tail and, with a swap armed, its slots (spec/12_lashing.md Table 12-3). -/
def showItems (w : Row) (s : State) : State :=
  if rowKind w = 12 && s.pair.role = .primary then sendLash (.forward (.compare (mirrored s true (armedSwap s).isSome) none)) s else s

/-- The other half's message for a control row, and this half's own (spec/12_lashing.md R275). At a STEP row the secondary names the row
after the primary, whose items it has then compared. -/
def rendezvousSent (w : Row) (slot : Bool) (row : Nat) (s : State) : State :=
  if s.pair.sent = some (slot, row) || (rowKind w = 12 && s.pair.role = .secondary && s.pair.got.isEmpty) then s
  else sendLash (.rendezvous slot row) (showItems w { s with pair := { s.pair with sent := some (slot, row) } })

/-- spec/12_lashing.md R276: the halves name different rows. -/
def lockstepLost (slot : Bool) (row : Nat) (other : Bool × BitVec 14) (s : State) : State :=
  haltPeer Status.lockstepLost
    (pairEvent Code.lockstepLost (slotByte slot ++ leBytes 2 row ++ slotByte other.1 ++ leBytes 2 other.2.toNat) s)

/-- A control row executes: `wait` says what it waits for beyond R161, `eff` what it does and where issue goes on. -/
def controlEvent (is : Row → Bool) (dt : Nat) (wait : Row → State → Option Cause) (eff : RowCtx → ActiveRun → State → State) (s : State) :
    State :=
  match activeNow s with
  | none => s
  | some r =>
    let w := rowAt s r.slot r.next
    if !(decide (r.next < (slotOf s r.slot).rows.length) && is w) || !s.seq.held.isEmpty then s
    else match stopCause s with
      | some c => waitHere c w dt s
      | none =>
        let go (s : State) : State :=
          match wait w s with
          | some c => waitHere c w dt s
          | none =>
            let s := chargeOpt r.waitCause w dt s
            let s := onRun (fun x => { x with waitCause := none, gap := rowGap w }) { s with pair := { s.pair with sent := none, got := s.pair.got.drop 1 } }
            eff { id := s.seq.nextId, slot := r.slot, row := r.next, bits := w, issue := sget s.seq.issues r.next 0 } r s
        if inPair s then
          let s := rendezvousSent w r.slot r.next s
          match s.pair.got with
          | [] => waitHere Cause.barrier w dt s
          | o :: _ => if o = (r.slot, BitVec.ofNat 14 r.next) then go s else lockstepLost r.slot r.next o s
        else go s

def setNext (k : Nat) (s : State) : State := onRun (fun r => { r with next := k }) s

/-- A control row that stays in flight takes a place in path order. -/
def controlFlight (c : RowCtx) (stage : Stage) (s : State) : State :=
  addFlight c stage 0 [] (onSeq (fun q => { q with nextId := q.nextId + 1 }) s)

/-! ### The watch table -/

/-- The watch entry that a row adds to (R83, R165). A row whose target is a float format adds to none, so its saturations are counted
nowhere and its SAT_LIMIT and TENSOR do not reach the drift test (DESIGN CHOICE, log entry 97). -/
def rowWatch (w : Row) : Option Nat :=
  match rowKind w with
  | 3 => if isFloat (quantOf w 128).code then none else some (quantOf w 128).watch
  | 2 => if vOp w = 6 then some (quantOf w 640).watch else none
  | _ => none

/-- The watch entry that a row's WATCH field names, whether or not the row adds to it: QUANT, OPT, SGRAD and REBUILD rows carry the
quantiser field block (R89). -/
def namesWatch (w : Row) : Option Nat :=
  match rowKind w with
  | 3 => some (quantOf w 128).watch
  | 2 => if 4 ≤ vOp w then some (quantOf w 640).watch else none
  | _ => none

def saturate (bits n : Nat) : Nat := min n (2 ^ bits - 1)

/-- A row's total enters its entry: counts saturate, sums add in timetable order (R83, R85). -/
def addWatch (a : WatchAdd) (w : Watch) : Watch :=
  let tot (l : List F32) : F32 := (canon (l.map fr)).1
  { w with
    elements := saturate 48 (w.elements + a.elements), saturated := saturate 48 (w.saturated + a.saturated),
    nans := saturate 32 (w.nans + a.nans), flat := saturate 32 (w.flat + a.flat), rejects := saturate 16 (w.rejects + a.rejects),
    err := (fadd w.err (tot a.err)).1, energy := (fadd w.energy (tot a.energy)).1, tensor := a.tensor, limit := max w.limit a.limit }

/-- An earlier row of the entry has not contributed yet. -/
def watchHeld (s : State) (id entry : Nat) : Bool :=
  s.seq.flight.any (fun f => f.id < id && rowWatch f.bits = some entry) ||
    s.seq.held.any (fun h => h.id < id && rowWatch h.bits = some entry) ||
    s.seq.watchWait.any (fun p => p.1 < id && p.2.2.entry.toNat = entry)

/-- Contributions whose earlier rows have all contributed enter the table. -/
def flushWatch : Nat → State → State
  | 0, s => s
  | n + 1, s =>
    match s.seq.watchWait.find? (fun p => !watchHeld s p.1 p.2.2.entry.toNat) with
    | none => s
    | some p =>
      let k := p.2.2.entry.toNat
      flushWatch n (onSeq (fun q => { q with
        watchWait := q.watchWait.filter (fun x => x.1 != p.1),
        watch := sput q.watch k (addWatch p.2.2 (sget q.watch k Watch.zero)) }) s)

def settleWatch (s : State) : State := flushWatch s.seq.watchWait.length s

/-- spec/03_quantiser.md R86, one entry: its parameters are tensor, step, SATURATED, ELEMENTS, T. -/
def driftEntry (k : Nat) (s : State) : State :=
  let w := sget s.seq.watch k Watch.zero
  if w.limit = 0 || w.elements = 0 then s
  else
    let fails := decide (w.limit * w.elements < w.saturated * 16000)
    let s := onSeq (fun q => { q with watch := sput q.watch k { w with drift := fails }, calDrift := q.calDrift || fails }) s
    if fails then
      pairEvent Code.calibrationDrift (wordBytes w.tensor ++ leBytes 8 s.seq.step.toNat ++ leBytes 8 w.saturated ++
        leBytes 8 w.elements ++ leBytes 2 w.limit) s
    else s

def driftTest (s : State) : State := clearWatch ((s.seq.watch.map Prod.fst).foldl (fun s k => driftEntry k s) s)

/-! ### Completion -/

/-- Flags enter the flag register (R172). -/
def orFreg (w : Row) (flags : BitVec 8) (s : State) : State :=
  if rowFreg w = 0 then s
  else onSeq (fun q => { q with flags := sput q.flags (rowFreg w) (sget q.flags (rowFreg w) 0 ||| flags) }) s

/-- The last 1,024 completed COPY rows are kept. -/
def keepCopy (w : Row) (s : State) : State :=
  if rowKind w = 4 then
    onSeq (fun q => { q with copies := (q.copies ++ [({ descs := descs w, later := [] } : CopyRec)]).drop (q.copies.length + 1 - 1024) }) s
  else s

/-- Two halves' contributions of one row: the primary's regions first. -/
def joinWatch (s : State) (own : List WatchAdd) (other : Option WatchAdd) : List WatchAdd :=
  match own, other with
  | a :: _, some b =>
    let p := if s.pair.role = .secondary then (b, a) else (a, b)
    [{ a with elements := a.elements + b.elements, saturated := a.saturated + b.saturated, nans := a.nans + b.nans,
              flat := a.flat + b.flat, rejects := a.rejects + b.rejects, err := p.1.err ++ p.2.err, energy := p.1.energy ++ p.2.energy }]
  | [], some b => [b]
  | own, none => own

/-- A row leaves flight: flags and watch contributions take effect. -/
def finishRow (f : Flight) (other : Option PairShare) (s : State) : State :=
  let s := onSeq (fun q => { q with flight := q.flight.filter (fun g => g.id != f.id) }) s
  let s := orFreg f.bits (f.flags ||| ((other.map PairShare.flags).getD 0)) s
  let adds := joinWatch s f.watch (other.bind PairShare.watch)
  let s := onSeq (fun q => { q with watchWait := q.watchWait ++ adds.map (fun a => (f.id, false, a)) }) s
  settleHalt (settleWatch (keepCopy f.bits s))

/-- The share of a row that the other half has sent already. -/
def shareOf (s : State) (f : Flight) : Option PairShare :=
  s.pair.shares.find? (fun p => p.slot = f.slot && p.row.toNat = f.row && p.issue = f.issue)

def dropShare (p : PairShare) (s : State) : State := { s with pair := { s.pair with shares := s.pair.shares.erase p } }

/-- This half's part of a row is complete. In a pair the other half is told; a row of both halves stays until the other
half's contribution has come. -/
def completeRow (f : Flight) (s : State) : State :=
  if !inPair s || !isData f.bits then finishRow f none s
  else
    let s := sendLash (.share { slot := f.slot, row := BitVec.ofNat 14 f.row, issue := f.issue, flags := f.flags, watch := f.watch.head? }) s
    if rowHalves f.bits = 3 then
      match shareOf s f with
      | some p => finishRow f (some p) (dropShare p s)
      | none => onSeq (fun q => { q with flight := q.flight.map (fun g => if g.id = f.id then { g with stage := .remote } else g) }) s
    else finishRow f none s

/-- A message of the row waits to be sent or to be acknowledged. -/
def awaitsAck (s : State) (id : Nat) : Bool := s.fab.ports.any (fun p => (p.queue ++ p.sent).any (fun o => o.flight = some id))

/-- An earlier row of the slice of a region that the row names is in flight here (spec/06_vector_engine.md R136: rows of one region's slice
complete in timetable order). -/
def sliceBefore (s : State) (f : Flight) : Bool :=
  let slice (w : Row) : Bool := rowKind w = 2 || rowKind w = 3
  slice f.bits && s.seq.flight.any (fun g => decide (g.id < f.id) && slice g.bits && g.stage != .remote &&
    (rowRset g.bits &&& rowRset f.bits) != 0)

/-- What the other half has sent of a row that this half has done its part of. -/
def remoteComplete (f : Flight) (s : State) : State :=
  match shareOf s f with
  | some p => finishRow f (some p) (dropShare p s)
  | none => s

/-- R160: the in-flight row at a place of the issue order completes once nothing of it is outstanding. -/
def rowComplete (place : Nat) (s : State) : State :=
  match s.seq.flight[place]? with
  | some f => if f.stage = .done && !awaitsAck s f.id && !sliceBefore s f then completeRow f s else if f.stage = .remote then remoteComplete f s else s
  | none => s

def execRowComplete (place : Nat) (s : State) : Host.Outcome State Fault Refusal := event true (rowComplete place) s

end Sys2Proof.Machine
end

