-- ==== Sys2Proof/Machine/Copy.lean ====
section
/-!
DEFINITION. Sealed chunks in host memory (spec/14_trust.md R332), parity and re-fetch (spec/09_memory.md R217, R218;
spec/06_vector_engine.md R142), and the COPY row (spec/09_memory.md R199 to R208; spec/10_fabric.md R241).
-/
namespace Sys2Proof.Machine

/-! ### Chunks, spec/14_trust.md Table 14-7 -/

def chunkHead (chunk : Nat) (last : Bool) (resume : Nat) (ident : BitVec 64) : List Byte :=
  leBytes 4 chunk ++ leBytes 2 (b2n last) ++ leBytes 2 resume ++ wordBytes ident

def chunkNonce (chunk resume : Nat) : List Byte := leBytes 4 chunk ++ leBytes 2 resume ++ zeros 6

/-- A sealed chunk: header, ciphertext, tag. `prev` is the tag before it. -/
def sealChunk (key : BitVec 256) (ident : BitVec 64) (chunk : Nat) (last : Bool) (resume : Nat) (prev pt : List Byte) : List Byte :=
  let head := chunkHead chunk last resume ident
  let r := gcmSeal key (chunkNonce chunk resume) (head ++ prev) pt
  head ++ r.1 ++ r.2

/-- The plaintext of a chunk whose header and tag verify; `resume` none takes the count the header gives. -/
def openChunk (key : BitVec 256) (ident : BitVec 64) (chunk : Nat) (last : Bool) (resume : Option Nat) (prev bs : List Byte) :
    Option (List Byte) :=
  let head := bs.take 16
  let n := bs.length - 32
  let rs := resume.getD (ofLe ((head.drop 6).take 2))
  if head = chunkHead chunk last rs ident then
    gcmOpen key (chunkNonce chunk rs) (head ++ prev) ((bs.drop 16).take n) (bs.drop (16 + n))
  else none

def blobKey (s : State) (ident : BitVec 64) (tensor : BitVec 32) : BitVec 256 :=
  hkdf (wordBytes s.trust.domain) (wordBytes ident) (ascii "ez1 blob" ++ wordBytes tensor)

/-- Chunks of a run of n bytes, and bytes of chunk k. -/
def chunkCount (n : Nat) : Nat := ceilDiv n 65536
def chunkBytes (n k : Nat) : Nat := min 65536 (n - 65536 * k)

/-- Chunks k and up of a run, each linked to the one before; `prev` is the tag before chunk k. -/
def sealFrom (key : BitVec 256) (ident : BitVec 64) : Nat → Nat → List Byte → List Byte → List Byte
  | 0, _, _, _ => []
  | m + 1, k, prev, bs =>
    let c := sealChunk key ident k (m = 0) 0 prev (bs.take 65536)
    c ++ sealFrom key ident m (k + 1) (c.drop (c.length - 16)) (bs.drop 65536)

/-- A HOST run as its chunks. -/
def sealRun (s : State) (ident : BitVec 64) (tensor : BitVec 32) (bs : List Byte) : List Byte :=
  sealFrom (blobKey s ident tensor) ident (chunkCount bs.length) 0 (zeros 16) bs

/-- Chunk k of a run of n bytes that begins at host address a. -/
def openRunChunk (s : State) (tensor : BitVec 32) (a n k : Nat) : Option (List Byte) :=
  let at_ (j : Nat) : Nat := a + 65568 * j
  let ident : BitVec 64 := bytesWord 64 (readMem s 3 (at_ 0 + 8) 8)
  let prev := if k = 0 then zeros 16 else readMem s 3 (at_ k - 16) 16
  openChunk (blobKey s ident tensor) ident k (k + 1 = chunkCount n) (some 0) prev (readMem s 3 (at_ k) (chunkBytes n k + 32))

/-! ### Where an endpoint's bytes lie -/

/-- Bytes of this module, of a peer or the other half, or of a host window. -/
inductive Place where
  | mem (space key : Nat)
  | remote (lash : Bool) (node : BitVec 14) (addr : Nat)
  | host (window off : Nat)
deriving DecidableEq, Repr

/-- A LOCAL place of the other half as a message names it: above every module address (log entry 18). -/
def localAddr (r core byte : Nat) : Nat := 0x30000000000 + r * 2 ^ 30 + core * 2 ^ 22 + byte

/-- A tier address as this half holds it, or on the other half. -/
def tierPlace (s : State) (a : Nat) : Place :=
  if !inPair s then .mem 0 a else if ownHalf s a then .mem 0 (a % halfSplit) else .remote true 0 a

/-- Byte `off` of run i of an endpoint. -/
def endPlace (s : State) (d : BitVec 384) (kind a stride i off : Nat) : Place :=
  let o := i * (16 * stride) + off
  match kind with
  | 0 =>
    let ref := localRef a
    if inPair s && localHalf a != myHalf s then .remote true 0 (localAddr (localRegion a) ref.core (16 * ref.addr + o))
    else let p := placeOf s (localRegion a) ref; .mem p.1 (p.2 + o)
  | 1 => tierPlace s (fld a 0 42 + o)
  | 2 => .remote false (BitVec.ofNat 14 (dNode d)) (fld a 0 42 + o)
  | _ => .host (fld a 0 8) (fld a 16 48 + o)

def srcPlace (s : State) (d : BitVec 384) (i off : Nat) : Place := endPlace s d (dSkind d) (dSaddr d) (dSstride d) i off

/-- Destination of source byte `off` of run i. -/
def dstOff (d : BitVec 384) (off : Nat) : Nat := if dCfmt d = 0 then off else 2 * off
def dstPlace (s : State) (d : BitVec 384) (i off : Nat) : Place := endPlace s d (dDkind d) (dDaddr d) (dDstride d) i (dstOff d off)

/-- Bytes as the destination takes them: BF16 or FP16 elements become FP32, a NaN the canonical NaN (R201). -/
def converted (d : BitVec 384) (bs : List Byte) : List Byte :=
  if dCfmt d = 0 then bs
  else (readFloats (fmtCode (dSfmt d)) (bs.length / 2) bs).flatMap (fun x => wordBytes (if isNan x.1 then qnan else x.1))

/-- Run i cut where a tier endpoint passes from one half's tiers to the other's: offset and bytes. -/
def runPieces (s : State) (d : BitVec 384) (i : Nat) : List (Nat × Nat) :=
  let n := dRun d
  let at_ (kind a stride per : Nat) : List Nat :=
    let x := fld a 0 42 + i * (16 * stride)
    if inPair s && kind = 1 && x < halfSplit && halfSplit < x + per * n then [(halfSplit - x) / per] else []
  let cuts := at_ (dSkind d) (dSaddr d) (dSstride d) 1 ++ at_ (dDkind d) (dDaddr d) (dDstride d) (if dCfmt d = 0 then 1 else 2)
  match cuts with
  | [] => [(0, n)]
  | [a] => [(0, a), (a, n - a)]
  | a :: b :: _ =>
    let lo := min a b
    let hi := max a b
    [(0, lo), (lo, hi - lo), (hi, n - hi)].filter (fun p => p.2 != 0)

/-! ### Tier parity, R197, R198, R217 -/

/-- Stack of a tier unit's address within a half, in the order of GET_STATUS page 1. -/
def stackOf (a : Nat) : Nat :=
  if a < 0x6000000000 then 2 * (a / 0x1800000000) + a / 256 % 2
  else 8 + 4 * ((a - 0x6000000000) / 0x4000000000) + a / 256 % 4

def unitWritten (s : State) (u : Nat) : Bool := s.mem.tier.any (fun c => c.1 / 256 = u)

/-- Whether the first and the second read of a unit fail. -/
def unitFails (s : State) (u : Nat) : Bool × Bool :=
  match sget? s.mem.tierBad u with
  | some again => (true, again)
  | none =>
    if unitWritten s u then (false, false)
    else (Config.undefParity s.mem.era u, Config.undefParityAgain s.mem.era u)

/-- What crosses to the stack of a tier unit: the unit under the key pair of its tier (R216). -/
def stackUnit (s : State) (u : Nat) : Option (List Byte) :=
  s.mem.keys.map (fun k => xtsSeal (if u < 0x60000000 then k.near else k.far) u (readMem s 0 (256 * u) 256))

/-- A module address of this half's tiers. -/
def ownAddr (s : State) (a : Nat) : Nat := if s.pair.role = .secondary then halfSplit + a else a

/-- One unit is read, once more where its parity fails; false where the second read fails too. -/
def readUnit (u : Nat) (s : State) : Bool × State :=
  let f := unitFails s u
  if !f.1 then (true, s)
  else if f.2 then (false, s)
  else
    let a := 256 * u
    (true, record Code.parityRefetch (leBytes 8 (ownAddr s a))
      { s with mem := { s.mem with tierBad := sdel s.mem.tierBad u, refetch := addCount s.mem.refetch (stackOf a) 1 } })

/-- Units u and up: the first whose second read fails. -/
def readUnits : Nat → Nat → State → Option Nat × State
  | 0, _, s => (none, s)
  | n + 1, u, s => let r := readUnit u s; if r.1 then readUnits n (u + 1) r.2 else (some u, r.2)

/-- n tier bytes at a: the bytes before the first unit that cannot be read, that unit, and the state with its counts. -/
def readTier (a n : Nat) (s : State) : List Byte × Option Nat × State :=
  if n = 0 then ([], none, s)
  else
    let r := readUnits ((a + n - 1) / 256 - a / 256 + 1) (a / 256) s
    match r.1 with
    | none => (readMem r.2 0 a n, none, r.2)
    | some u => (readMem r.2 0 a (256 * u - a), some u, r.2)

/-! ### Halts for parity -/

/-- STAGING_PARITY and the halt (R218), with the 16-byte unit as Table 06-2 gives ADDR (log entry 77). -/
def stagingFault (row r k unit : Nat) (s : State) : State :=
  haltAt Status.parityFault row (nameCore r k (record Code.stagingParity (regionParam s r ++ coreParam r k ++ leBytes 3 unit) s))

/-- SLICE_PARITY and the halt (R142, log entry 77); a second within 24 operating hours fences the region (spec/17_modes_repair.md R401). -/
def sliceFault (row r unit : Nat) (s : State) : State :=
  let now := s.log.opSeconds.toNat
  let again := (region s r).sliceParity.any (fun t => now ≤ t + 86400)
  let s := record Code.sliceParity (regionParam s r ++ leBytes 3 unit) s
  let s := onRegion r (fun g => { g with sliceParity := g.sliceParity ++ [now] }) s
  let s := haltAt Status.parityFault row s
  if again then fenceLater r .sliceParity s else s

/-- TIER_PARITY and the halt (R217): the tensor or shard, 0 where the row names none, and the unit's address. -/
def tierFault (row : Nat) (tensor : BitVec 32) (unit : Nat) (s : State) : State :=
  haltAt Status.parityFault row (record Code.tierParity (wordBytes tensor ++ leBytes 8 (ownAddr s (256 * unit))) s)

/-- HOST_BLOB_AUTH and the halt (R207). -/
def blobFault (row : Nat) (d : BitVec 384) (off : Nat) (s : State) : State :=
  haltAt Status.blobAuth row (record Code.hostBlobAuth (wordBytes (dTensor d) ++ leBytes 6 off) s)

/-! ### Messages of a copy -/

/-- A copy message on a VC to a peer, or over the lash port to the other half, where DST equals SRC (log entry 18). HALF is the
half whose tiers hold the address (spec/12_lashing.md R288). -/
def sendCopy (vc : Fin 4) (lash : Bool) (node : BitVec 14) (op : BitVec 8) (txn : BitVec 12) (addr len : Nat) (payload : List Byte)
    (s : State) : State :=
  let m : Msg := { dst := if lash then myNode s else node, src := myNode s, half := if halfSplit ≤ addr && !lash then 1 else 0, op := op,
                   txn := txn, addr := BitVec.ofNat 42 addr, ctx := BitVec.ofNat 22 len, vc := vc, payload := payload }
  if lash then (if inPair s then enqueueLash vc none (.copy m) s else haltPeer Status.pairLost s)
  else send node vc none (.copy m) s

def onTxns (f : List Txn → List Txn) (s : State) : State := { s with fab := { s.fab with txns := f s.fab.txns } }

/-- The transaction of a flight's descriptor, made where there is none yet. -/
def openTxn (flight : Nat) (lash : Bool) (node : BitVec 14) (isRead : Bool) (d : BitVec 384) (s : State) : BitVec 12 × State :=
  match s.fab.txns.find? (fun t => t.flight = flight && t.isRead = isRead && t.desc = d && t.lash = lash) with
  | some t => (t.txn, s)
  | none =>
    let t : Txn := { txn := s.fab.nextTxn, node := node, lash := lash, flight := flight, isRead := isRead, left := 0, desc := d, data := [],
                     again := [] }
    (t.txn, { s with fab := { s.fab with txns := s.fab.txns ++ [t], nextTxn := s.fab.nextTxn + 1 } })

def addLeft (txn : BitVec 12) (n : Nat) (s : State) : State :=
  onTxns (fun l => l.map (fun t => if t.txn = txn then { t with left := t.left + n } else t)) s

/-- Cut n bytes into pieces of at most 3,072: offset and bytes. -/
def msgPieces (n : Nat) : List (Nat × Nat) := (List.range (ceilDiv n 3072)).map (fun k => (3072 * k, min 3072 (n - 3072 * k)))

/-- WRITE messages of a byte string. -/
def writeRemote (flight : Nat) (d : BitVec 384) (lash : Bool) (node : BitVec 14) (addr : Nat) (bs : List Byte) (s : State) : State :=
  let r := openTxn flight lash node false d s
  (msgPieces bs.length).foldl (fun s p =>
    addLeft r.1 1 (sendCopy 2 lash node 0x01 r.1 (addr + p.1) p.2 ((bs.drop p.1).take p.2) s)) r.2

/-- READ messages of n bytes from source byte `off` of run i; the payload is the place in the descriptor's stream (log entry 18). -/
def readRemote (flight : Nat) (d : BitVec 384) (lash : Bool) (node : BitVec 14) (addr i off n : Nat) (s : State) : State :=
  let r := openTxn flight lash node true d s
  (msgPieces n).foldl (fun s p =>
    addLeft r.1 p.2 (sendCopy 2 lash node 0x03 r.1 (addr + p.1) p.2 (leBytes 16 (i * dRun d + off + p.1)) s)) r.2

/-- Destination bytes `off` and up of run i that one half holds. -/
def landPiece (flight : Nat) (d : BitVec 384) (i off : Nat) (v : List Byte) (s : State) : State :=
  match endPlace s d (dDkind d) (dDaddr d) (dDstride d) i off with
  | .mem sp key => writeMem sp key v s
  | .remote lash node addr => writeRemote flight d lash node addr v s
  | .host _ _ => s

/-- Source bytes `off` and up of run i reach their destination, which is no HOST window; a tier destination is cut between the halves
(R202). -/
def landCopy (flight : Nat) (d : BitVec 384) (i off : Nat) (bs : List Byte) (s : State) : State :=
  let v := converted d bs
  let o := dstOff d off
  let cuts := if dDkind d = 1 then halfPieces s (fld (dDaddr d) 0 42 + i * (16 * dDstride d) + o) v.length else [(0, v.length)]
  cuts.foldl (fun s p => landPiece flight d i (o + p.1) ((v.drop p.1).take p.2) s) s

/-! ### HOST windows, R207, R208 -/

def windowAddr (s : State) (window off : Nat) : Nat := (sget s.gw.windows window (0, 0)).1.toNat + off

/-- The window is registered and holds the whole run. -/
def windowHolds (s : State) (window off n : Nat) : Bool :=
  match sget? s.gw.windows window with
  | none => false
  | some (_, size) => decide (off + n ≤ size.toNat)

/-- The first run of a descriptor's HOST endpoint that its window does not hold: window and offset. -/
def hostMiss (s : State) (d : BitVec 384) : Option (Nat × Nat) :=
  let side (kind a stride len : Nat) : Option (Nat × Nat) :=
    if kind = 3 then
      ((List.range (dNrun d)).map (fun i => (fld a 0 8, fld a 16 48 + i * (16 * stride)))).find? (fun p =>
        !windowHolds s p.1 p.2 (hostRunBytes len))
    else none
  (side (dSkind d) (dSaddr d) (dSstride d) (dRun d)).or (side (dDkind d) (dDaddr d) (dDstride d) (dDrun d))

def hostFault (row : Nat) (d : BitVec 384) (p : Nat × Nat) (s : State) : State :=
  haltAt Status.hostWindow row (record Code.hostWindow (wordBytes (dTensor d) ++ leBytes 1 p.1 ++ leBytes 6 p.2) s)

/-- One run's bytes are sealed under a fresh BLOB_ID and written into the window. -/
def writeHostRun (d : BitVec 384) (i : Nat) (bs : List Byte) (s : State) : State :=
  match dstPlace s d i 0 with
  | .host w off =>
    let r := draw s
    writeMem 3 (windowAddr s w off) (sealRun s (Config.random64 r.1) (dTensor d) (converted d bs)) r.2
  | _ => s

/-- Chunks k and up of run i from a HOST source; false where one fails. -/
def readHostRun (c : RowCtx) (d : BitVec 384) (i w off : Nat) : Nat → Nat → State → Bool × State
  | 0, _, s => (true, s)
  | m + 1, k, s =>
    match openRunChunk s (dTensor d) (windowAddr s w off) (dRun d) k with
    | none => (false, blobFault c.row d (off + 65568 * k) s)
    | some pt => readHostRun c d i w off m (k + 1) (landCopy c.id d i (65536 * k) pt s)

/-! ### One descriptor -/

/-- A piece of run i whose source lies here: read, then landed; false where it halts. -/
def copyPiece (c : RowCtx) (d : BitVec 384) (i off n : Nat) (s : State) : Bool × State :=
  match srcPlace s d i off with
  | .mem 0 key =>
    let r := readTier key n s
    let t := landCopy c.id d i off r.1 r.2.2
    (match r.2.1 with | none => (true, t) | some u => (false, tierFault c.row (dTensor d) u t))
  | .mem sp key => (true, landCopy c.id d i off (readMem s sp key n) s)
  | .remote lash node addr => (true, readRemote c.id d lash node addr i off n s)
  | .host w o => readHostRun c d i w o (chunkCount (dRun d)) 0 s

/-- Run steps until one halts. -/
def untilHalt {α : Type} (f : α → State → Bool × State) : List α → State → Bool × State
  | [], s => (true, s)
  | x :: r, s => let t := f x s; if t.1 then untilHalt f r t.2 else t

/-- Bytes of a descriptor's source stream that have come are kept in its transaction. -/
def keepData (txn : BitVec 12) (off : Nat) (bs : List Byte) (s : State) : State :=
  onTxns (fun l => l.map (fun t => if t.txn = txn then { t with data := mwrite t.data off bs } else t)) s

/-- A piece of a run that is gathered: read here and kept, or asked of the other half. -/
def gatherPiece (c : RowCtx) (d : BitVec 384) (i off n : Nat) (s : State) : Bool × State :=
  match srcPlace s d i off with
  | .mem 0 key =>
    let r := readTier key n s
    (match r.2.1 with
      | none => let t := openTxn c.id true 0 true d r.2.2; (true, keepData t.1 (i * dRun d + off) r.1 t.2)
      | some u => (false, tierFault c.row (dTensor d) u r.2.2))
  | _ => copyPiece c d i off n s

/-- A whole run towards a HOST window: gathered from here, or asked of the other half to be gathered in the transaction. -/
def gatherRun (c : RowCtx) (d : BitVec 384) (i : Nat) (s : State) : Bool × State :=
  let far := (runPieces s d i).any (fun p => match srcPlace s d i p.1 with | .remote _ _ _ => true | _ => false)
  if far then untilHalt (fun p s => gatherPiece c d i p.1 p.2 s) (runPieces s d i) s
  else match srcPlace s d i 0 with
    | .mem 0 key =>
      let r := readTier key (dRun d) s
      (match r.2.1 with | none => (true, writeHostRun d i r.1 r.2.2) | some u => (false, tierFault c.row (dTensor d) u r.2.2))
    | .mem sp key => (true, writeHostRun d i (readMem s sp key (dRun d)) s)
    | _ => (true, s)

def copyRun (c : RowCtx) (d : BitVec 384) (i : Nat) (s : State) : Bool × State :=
  if dDkind d = 3 then gatherRun c d i s
  else if dSkind d = 3 then copyPiece c d i 0 (dRun d) s
  else untilHalt (fun p s => copyPiece c d i p.1 p.2 s) (runPieces s d i) s

def copyDesc (c : RowCtx) (d : BitVec 384) (s : State) : Bool × State :=
  untilHalt (copyRun c d) (List.range (dNrun d)) s

/-! ### Staging parity, R218 -/

/-- Ranges that a row reads in staging and slice SRAM here, by region. -/
abbrev Ranges := List (Nat × Piece)

def localRanges (s : State) (w : Row) : Ranges :=
  (descs w).flatMap (fun d =>
    if dSkind d = 0 && (!inPair s || localHalf (dSaddr d) = myHalf s) then
      [(localRegion (dSaddr d), { ref := localRef (dSaddr d), off := 0, len := dRun d, stride := 16 * dSstride d, n := dNrun d })]
    else [])

/-- A 16-byte unit holds some byte of the piece, whose reference lies at byte `base` of the unit's memory. -/
def Piece.touches (p : Piece) (base unit : Nat) : Bool :=
  ({ space := 0, base := base + p.off, len := p.len, stride := p.stride, n := p.n } : Span).hitsRun 16 (16 * unit) 16

/-- The first slice unit of the ranges whose parity fails: region and unit. -/
def badSlice (s : State) (l : Ranges) : Option (Nat × Nat) :=
  if s.mem.sliceBad.isEmpty then none
  else l.findSome? (fun p =>
    if p.2.ref.core = 255 then
      (s.mem.sliceBad.find? (fun u => p.2.touches (sliceKey p.1 (16 * p.2.ref.addr)) u)).map (fun u => (p.1, u % 2 ^ 18))
    else none)

/-- The first staging unit of the ranges whose parity fails: region, core, unit within the core, and whether it fails again. -/
def badStaging (s : State) (l : Ranges) : Option (Nat × Nat × Nat × Bool) :=
  if s.mem.stagingBad.isEmpty then none
  else l.findSome? (fun p =>
    if p.2.ref.core = 255 then none
    else
      (s.mem.stagingBad.find? (fun u => p.2.touches (stagingKey (physCore s p.1 p.2.ref.core) (16 * p.2.ref.addr)) u.1)).map
        (fun u => (p.1, p.2.ref.core, u.1 % 2 ^ 14, u.2)))

/-- The run and destination offset at which a descriptor writes a unit of this half's staging. -/
def hitsUnit (s : State) (r core unit : Nat) (d : BitVec 384) : Option (Nat × Nat) :=
  let o := localRef (dDaddr d)
  if dDkind d = 0 && localRegion (dDaddr d) = r && o.core = core && (!inPair s || localHalf (dDaddr d) = myHalf s) && o.addr ≤ unit then
    let x := 16 * (unit - o.addr)
    let i := if dDstride d = 0 then 0 else min (x / (16 * dDstride d)) (dNrun d - 1)
    if x < i * (16 * dDstride d) + dDrun d then some (i, x - i * (16 * dDstride d)) else none
  else none

/-- The kept copy that wrote a unit last: its descriptor, run and offset; none where a later row has written the unit or the
copy's source bytes. -/
def keptCopy (s : State) (r core unit : Nat) : Option (BitVec 384 × Nat × Nat) :=
  let u := span 1 ((((if inPair s then myHalf s * 64 else 0) + r) * 144 + core) * 2 ^ 18 + 16 * unit) 16
  s.seq.copies.reverse.findSome? (fun k => k.descs.findSome? (fun d =>
    match hitsUnit s r core unit d with
    | some p => if bytesMeet k.later (u :: srcSpan d) then none else some (d, p.1, p.2)
    | none => none))

/-- How a stopped row goes on. -/
inductive Mend where | good | waits | halted
deriving DecidableEq, Repr

/-- One unit is copied again from the kept copy's source. -/
def recopy (c : RowCtx) (d : BitVec 384) (i off : Nat) (s : State) : Mend × State :=
  let o := if dCfmt d = 0 then off else off / 2
  let n := if dCfmt d = 0 then 16 else 8
  match srcPlace s d i o with
  | .remote lash node addr => (.waits, readRemote c.id d lash node addr i o n s)
  | .host _ _ =>
    match srcPlace s d i 0 with
    | .host w b =>
      if !windowHolds s w b (hostRunBytes (dRun d)) then (.halted, hostFault c.row d (w, b) s)
      else match openRunChunk s (dTensor d) (windowAddr s w b) (dRun d) (o / 65536) with
        | none => (.halted, blobFault c.row d (b + 65568 * (o / 65536)) s)
        | some pt => (.good, landCopy c.id d i o ((pt.drop (o % 65536)).take n) s)
    | _ => (.halted, s)
  | .mem _ _ => let r := copyPiece c d i o n s; (if r.1 then .good else .halted, r.2)

/-- Failing staging words of the ranges, one after another. -/
def mendStaging (c : RowCtx) (l : Ranges) : Nat → State → Mend × State
  | 0, s => (.good, s)
  | n + 1, s =>
    match badStaging s l with
    | none => (.good, s)
    | some (r, core, unit, again) =>
      match (if again then none else keptCopy s r core unit) with
      | none => (.halted, stagingFault c.row r core unit s)
      | some (d, i, off) =>
        let m := recopy c d i off s
        if m.1 = .good then mendStaging c l n m.2 else m

/-- A row reads SRAM ranges: where a word fails, the row stops, waits for a peer, or goes on once its bytes are good. -/
def withSram (c : RowCtx) (l : Ranges) (eff : State → State) (s : State) : State :=
  match badSlice s l with
  | some p => sliceFault c.row p.1 p.2 s
  | none =>
    let m := mendStaging c l s.mem.stagingBad.length s
    match m.1 with
    | .good => eff m.2
    | .waits => addFlight c .refetch 0 [] m.2
    | .halted => m.2

/-! ### The COPY row -/

def hasTxn (s : State) (flight : Nat) : Bool := s.fab.txns.any (fun t => t.flight = flight)

/-- A row that has halted waits for no message. -/
def dropTxns (flight : Nat) (s : State) : State := onTxns (fun l => l.filter (fun t => t.flight != flight)) s

def runHalting (s : State) : Bool := !s.seq.run.any (fun r => r.halting.isNone)

/-- R199 to R208: the windows are checked, then every run of every descriptor moves; a peer's part goes on by messages. -/
def copyEffect (c : RowCtx) (s : State) : State :=
  match (descs c.bits).findSome? (fun d => (hostMiss s d).map (fun p => (d, p))) with
  | some (d, p) => hostFault c.row d p s
  | none =>
    withSram c (localRanges s c.bits) (fun s =>
      let r := untilHalt (copyDesc c) (descs c.bits) s
      if !r.1 || runHalting r.2 then dropTxns c.id r.2
      else addFlight c (if hasTxn r.2 c.id then .peer else .done) 0 [] r.2) s

def execCopy (dt : Nat) (s : State) : Host.Outcome State Fault Refusal :=
  event true (dataEvent (fun w => rowKind w = 4) dt copyEffect) s

end Sys2Proof.Machine
end

