-- ==== Sys2Proof/Machine/Compute.lean ====
section
/-!
DEFINITION. PASS, QUANT and VECTOR rows, and the drain of closed tiles (spec/04_table_arithmetic.md R95 to R116;
spec/05_accumulators.md R117 to R134; spec/06_vector_engine.md R139 to R156; spec/03_quantiser.md; spec/07_timetable.md R165).
-/
namespace Sys2Proof.Machine

/-! ### Accumulator words -/

/-- A word of a physical core's bank whose parity fails, among those a test names by tile row. -/
def badWord (s : State) (phys bank : Nat) (reads : Nat → Bool) : Option Nat :=
  (s.mem.accBad.find? (fun key => key / 512 / 96 = phys && key / 512 / 48 % 2 = bank && reads (key / 512 % 48))).map
    (fun key => key / 512 % 48)

/-! ### Pushes -/

/-- One contribution is pushed into its word (R120, R123); the memory written and the flags. -/
def pushOne (era phys : Nat) (t : Tile) (pos n count : Nat) (f : Fr) (m : SMap F32 × BitVec 8) : SMap F32 × BitVec 8 :=
  let key (l : Nat) : Nat := accKey phys t.bank (t.base + l * t.nrows + pos) n
  let x := pushWord t.order t.levels count (fun l => sget m.1 (key l) (Config.undefWord era (key l))) f.1
  (sput m.1 (key x.1) x.2.1, m.2 ||| f.2 ||| x.2.2)

/-- Every contribution of a row on one core, in ascending super-group order for each word. -/
def passCore (p : Pass) (rd : CoreReader) (era phys : Nat) (t : Tile) (acc : SMap F32) : SMap F32 × BitVec 8 :=
  (List.range p.nsup).foldl (fun m h => (List.range p.ntok).foldl (fun m pos =>
    let vals := tokenValues p rd h pos
    (List.range 512).foldl (fun m n => pushOne era phys t pos n (nth t.counts pos 0 + h) (contribution p rd h pos vals n) m) m) m) (acc, 0)

/-! ### PASS, R105 to R120 -/

/-- Staging arrays that a PASS row reads as it issues. -/
def passRanges (w : Row) : Ranges :=
  (setList (rowRset w)).flatMap (fun r => (rectCores (passOf w).rect).flatMap (fun k =>
    (passOf w).arrays.map (fun a => (r, piece { addr := a.1, core := k } a.2))))

/-- Cores of a row. -/
def rowCores (w : Row) : List (Nat × Nat) :=
  (setList (rowRset w)).flatMap (fun r => (rectCores (passOf w).rect).map (fun k => (r, k)))

/-- Words of a bank's tile rows that have been written have good parity. -/
def goodWords (phys bank : Nat) (rows : List Nat) (bad : List Nat) : List Nat :=
  bad.filter (fun key => !(decide (key / 512 / 96 = phys) && decide (key / 512 / 48 % 2 = bank) && rows.contains (key / 512 % 48)))

/-- The row on one core: its tile begins or goes on, and closes where the row ends it. -/
def passOn (id : Nat) (w : Row) (rk : Nat × Nat) (x : BitVec 8 × State) : BitVec 8 × State :=
  let s := x.2
  let p := passOf w
  let a := accOf (accBits w)
  let t := tileFor s rk.1 rk.2 a
  let phys := physCore s rk.1 rk.2
  let rd : CoreReader := fun addr n => readMem s 1 (stagingKey phys addr) n
  let m := passCore p rd s.mem.era phys t s.mem.acc
  let t2 : Tile := { t with counts := addCounts p t.counts, closing := if a.ends then some (id, accBits w) else none }
  let rest := s.seq.tiles.filter (fun u => !u.is rk.1 rk.2 a.slot)
  (x.1 ||| m.2, onSeq (fun q => { q with tiles := rest ++ [t2] })
    { s with mem := { s.mem with acc := m.1, accBad := goodWords phys t.bank (passWrites p t) s.mem.accBad,
                                 table := sput s.mem.table phys (passTable p rd (sget s.mem.table phys CoreTable.fresh)) } })

/-- Cycles of a row's lead that the previous table-pass row on a core does not cover: the builder works while that row's lanes take its last
buffer. A previous row that is no longer in flight covers nothing (log entry 85). -/
def leadLeft (s : State) (p : Pass) (r k : Nat) : Nat :=
  let before := s.seq.flight.filter (fun f => rowKind f.bits = 1 && f.stage != .remote && fld (rowRset f.bits) r 1 = 1 &&
    (rectCores (passOf f.bits).rect).contains k)
  match before.getLast? with
  | none => leadCycles p
  | some f => leadCycles p - lastBufferCycles (passOf f.bits)

/-- Cycles that the lanes spend beyond their work: what is left of the lead (R116) on the core of the region that waits longest, and
rescale (R115). -/
def passCharges (w : Row) (s : State) : State :=
  let p := passOf w
  (setList (rowRset w)).foldl (fun s r =>
    let lead := ((rectCores p.rect).map (leadLeft s p r)).foldl max 0
    chargeRegionCycles Cause.rescale r (rescaleCycles p) (chargeRegionCycles Cause.tableBuild r lead s)) s

def passEffect (c : RowCtx) (s : State) : State :=
  withSram c (passRanges c.bits) (fun s =>
    let a := accOf (accBits c.bits)
    let bad := (rowCores c.bits).findSome? (fun rk =>
      (badWord s (physCore s rk.1 rk.2) a.bank (passReads (passOf c.bits) (tileFor s rk.1 rk.2 a))).map (fun row => (rk, row)))
    match bad with
    | some (rk, row) => accFault (some c.row) rk.1 rk.2 a.bank row a.slot s
    | none =>
      let s := passCharges c.bits s
      let x := (rowCores c.bits).foldl (fun x rk => passOn c.id c.bits rk x) (0, s)
      addFlight c (if a.ends then .drain else .done) x.1 [] x.2) s

def execPass (dt : Nat) (s : State) : Host.Outcome State Fault Refusal :=
  event true (dataEvent (fun w => rowKind w = 1) dt passEffect) s

/-! ### TILE_DRAIN, R125, R128 -/

/-- The closing tile of a core whose row ended first. -/
def nextDrain (s : State) (r k : Nat) : Option Tile :=
  (s.seq.tiles.filter (fun t => t.region = r && t.core = k && t.closing.isSome)).foldl (fun best t =>
    match best, t.closing with
    | some b, some x => if x.1 < ((b.closing.map Prod.fst).getD 0) then some t else some b
    | none, _ => some t
    | b, none => b) none

def closedReads (t : Tile) (tileRow : Nat) : Bool :=
  t.base ≤ tileRow && (tileRow - t.base) / t.nrows ≤ t.levels &&
    (closeReads t.order t.levels (nth t.counts ((tileRow - t.base) % t.nrows) 0)).contains ((tileRow - t.base) / t.nrows)

/-- Accumulator words are written. -/
def putAcc (ws : List (Nat × F32)) (s : State) : State :=
  { s with mem := { s.mem with acc := ws.foldl (fun m p => sput m p.1 p.2) s.mem.acc,
                               accBad := s.mem.accBad.filter (fun k => !(ws.map Prod.fst).contains k) } }

/-- One position: the close leaves its result in the level 0 words, an empty position's +0, and the drain path takes them from
there. -/
def drainOne (a : Acc) (phys : Nat) (t : Tile) (pos : Nat) (x : BitVec 8 × State) : BitVec 8 × State :=
  let s := x.2
  let key (l n : Nat) : Nat := accKey phys t.bank (t.base + l * t.nrows + pos) n
  let ws := (List.range 512).map (fun n => closeWord t.order t.levels (nth t.counts pos 0) (fun l => accWord s (key l n)))
  let fuse := if a.act = 3 && a.fuse ≠ 0 then
      (let st := if fmtCode a.ffmt = 8 then 2048 else 1024
       readFloats (fmtCode a.ffmt) 512 (readMem s 1 (stagingKey phys (16 * a.faddr + pos * st)) st))
    else []
  let o := drainPosition a fuse ws
  let s := putAcc (ws.mapIdx (fun n w => (key 0 n, w.1))) s
  let s := writeMem 1 (stagingKey phys (16 * a.oaddr + pos * a.outStride)) o.1 s
  (x.1 ||| o.2.2, writeMem 1 (stagingKey phys (16 * a.saddr + 32 * pos)) o.2.1 s)

/-- The tile leaves; its row is done once none of its tiles is left. -/
def dropTile (t : Tile) (id : Nat) (flags : BitVec 8) (s : State) : State :=
  onSeq (fun q =>
    let tiles := q.tiles.erase t
    let left := tiles.any (fun u => u.closing.any (fun c => c.1 = id))
    { q with tiles := tiles, flight := q.flight.map (fun f =>
        if f.id = id then { f with flags := f.flags ||| flags, stage := if left then f.stage else .done } else f) }) s

/-- Staging that the drain reads: the fused operand. -/
def drainRanges (t : Tile) (a : Acc) : Ranges := a.reads.map (fun x => (t.region, piece { addr := x.1, core := t.core } x.2))

/-- A row that a fault has stopped leaves flight with its tiles. -/
def cutRow (id : Nat) (s : State) : State :=
  settleHalt (onSeq (fun q => { q with flight := q.flight.filter (fun f => f.id != id),
                                       tiles := q.tiles.filter (fun t => !t.closing.any (fun c => c.1 = id)) }) s)

/-- The first closing tile of a core is drained, whole, or not at all where a word it reads fails (DESIGN CHOICE, log entry 86); a fault
halts, and a fused operand asked of a peer again is waited for. -/
def tileDrain (r k : Nat) (s : State) : State :=
  match nextDrain s r k with
  | none => s
  | some t =>
    let id := (t.closing.map Prod.fst).getD 0
    let a := accOf ((t.closing.map Prod.snd).getD 0)
    let row := ((s.seq.flight.find? (fun f => f.id = id)).map Flight.row).getD 0
    let phys := physCore s r k
    let ctx : RowCtx := { id := id, slot := false, row := row, bits := 0, issue := 0 }
    if hasTxn s id then s
    else
      let m := mendStaging ctx (drainRanges t a) s.mem.stagingBad.length s
      match m.1 with
      | .waits => m.2
      | .halted => cutRow id m.2
      | .good =>
        match badWord m.2 phys t.bank (closedReads t) with
        | some tr => cutRow id (accFault (some row) r k t.bank tr t.slot m.2)
        | none =>
          let x := (List.range t.nrows).foldl (fun x pos => drainOne a phys t pos x) (0, m.2)
          dropTile t id x.1 x.2

def execTileDrain (r : Fin 64) (k : Fin 144) (s : State) : Host.Outcome State Fault Refusal := event true (tileDrain r.val k.val) s

/-! ### QUANT and VECTOR rows in their regions -/

/-- A reader of region r. -/
def readerOf (s : State) (r : Nat) : Reader := fun o n => let p := placeOf s r o; readMem s p.1 p.2 n

/-- Draw words of a row in the region of rank q among its regions (spec/07_timetable.md R175; spec/02_formats.md R55, R59). -/
def drawOf (s : State) (c : RowCtx) (gen : Nat × Nat × Nat) (tensor q e : Nat) : Nat :=
  let k := drawKey s tensor
  let key := if s.seq.remapped.contains (b2n c.slot * 2 ^ 14 + c.row) then remapKey k c.slot c.row else k
  drawWord key s.seq.step (gen.1 + q * gen.2.2 + c.issue * gen.2.1 + e)

/-- Bytes are written in region r. -/
def writeRegion (r : Nat) (ws : List (OpRef × Writes)) (s : State) : State :=
  ws.foldl (fun s p => p.2.foldl (fun s x => let pl := placeOf s r p.1; writeMem pl.1 (pl.2 + x.1) x.2 s) s) s

/-- The contribution of a row that reports to a watch entry (R83, R85). -/
def watchOf (w : Row) (ts : List Tally) : List WatchAdd :=
  match rowWatch w with
  | none => []
  | some k =>
    let q := quantOf w (if rowKind w = 3 then 128 else 640)
    let t := Tally.sum ts
    [{ entry := BitVec.ofNat 8 k, elements := t.elements, saturated := t.saturated, nans := t.nans, flat := t.flat, rejects := t.rejects,
       err := ts.map (fun x => (canon (x.err.map fr)).1), energy := ts.map (fun x => (canon (x.energy.map fr)).1),
       tensor := BitVec.ofNat 32 q.tensor, limit := q.satLimit }]

/-- The results of a row in every region, then the row in flight. -/
def slicesDone (c : RowCtx) (outs : List (Nat × RowOut)) (s : State) : State :=
  let s := outs.foldl (fun s p => writeRegion p.1 p.2.writes s) s
  let ts := outs.map (fun p => p.2.tally)
  addFlight c .done (ts.foldl (fun f t => f ||| t.flags) 0) (watchOf c.bits ts) s

/-- Regions of a row with their ranks. -/
def rankedRegions (w : Row) : List (Nat × Nat) := (setList (rowRset w)).mapIdx (fun q r => (r, q))

def quantRanges (w : Row) : Ranges :=
  (setList (rowRset w)).flatMap (fun r => (r, piece (qSrc w) (qSrcBytes w)) ::
    (if qCalibrated w then [(r, piece (qCal w) (scaleBytes (qNtoken w) (qK w / (quantOf w 128).g) (quantOf w 128).zp))] else []))

/-- QUANT (R165). -/
def quantEffect (c : RowCtx) (s : State) : State :=
  let w := c.bits
  withSram c (quantRanges w) (fun s =>
    let outs := (rankedRegions w).map (fun p =>
      let rd := readerOf s p.1
      let cal := if qCalibrated w then rd (qCal w) (scaleBytes (qNtoken w) (qK w / (quantOf w 128).g) (quantOf w 128).zp) else []
      (p.1, quantRegion w (!(region s p.1).inService) (rd (qSrc w) (qSrcBytes w)) cal (drawOf s c (genOf w qGen) (quantOf w 128).tensor p.2)))
    slicesDone c outs s) s

def execQuant (dt : Nat) (s : State) : Host.Outcome State Fault Refusal :=
  event true (dataEvent (fun w => rowKind w = 3) dt quantEffect) s

def vectorRanges (s : State) (w : Row) : Ranges :=
  (setList (rowRset w)).flatMap (fun r => (vReads w (anchorCount s r w)).map (fun x => (r, x)))

/-- What a REBUILD row reads of the block that it overwrites (R154): w₁ and W2 of the live columns under LEARNED, and w₁, z_w and W2 of
anchored columns in every scheme. -/
def oldReads (w : Row) (anchors : Anchors) : List Piece :=
  if vOp w != 6 then []
  else
    let q := quantOf w 640
    let ng := vCount w
    let o := blockOffsets q ng
    let at_ (off len stride n : Nat) : Piece := { ref := vDst w 0, off := off, len := len, stride := stride, n := n }
    (if q.scheme = 1 then [at_ o.w1 (liveColumns w) 512 ng, at_ o.w2 (2 * liveColumns w) 1024 (ceilDiv ng 16)] else []) ++
    (anchors.cols.filter (fun c => decide (c < liveColumns w))).flatMap (fun c =>
      [at_ (o.w1 + c) 1 512 ng, at_ (o.w2 + 2 * c) 2 1024 (ceilDiv ng 16)] ++ (if q.zp then [at_ (o.z + c) 1 512 ng] else []))

/-- The anchor table of a row in region r; no table where it is malformed. -/
def anchorsHere (s : State) (r : Nat) (w : Row) : Anchors :=
  (anchorsOf w (readerOf s r)).getD { cols := [], ncol := 1, gpc := 1 }

def oldRanges (s : State) (w : Row) : Ranges :=
  (setList (rowRset w)).flatMap (fun r => (oldReads w (anchorsHere s r w)).map (fun x => (r, x)))

/-- ANCHOR_INVALID (spec/06_vector_engine.md R420): region, row and operand. -/
def anchorFault (row r : Nat) (w : Row) (s : State) : State :=
  haltAt Status.anchorInvalid row (record Code.anchorInvalid (regionParam s r ++ leBytes 2 row ++ leBytes 4 (vAux1 w)) s)

/-- Any VECTOR row; a malformed anchor table halts before a byte is written. -/
def vectorEffect (c : RowCtx) (s : State) : State :=
  let w := c.bits
  withSram c (vectorRanges s w) (fun s =>
    match (setList (rowRset w)).find? (fun r => (anchorsOf w (readerOf s r)).isNone) with
    | some r => anchorFault c.row r w s
    | none => withSram c (oldRanges s w) (fun s =>
      let outs := (rankedRegions w).map (fun p =>
        (p.1, vectorRegion w (!(region s p.1).inService) (anchorsHere s p.1 w) (readerOf s p.1)
          (drawOf s c (genOf w vGen) (vTensor w) p.2)))
      slicesDone c outs s) s) s

def vectorEvent (op dt : Nat) (s : State) : State := dataEvent (fun w => rowKind w = 2 && vOp w = op) dt vectorEffect s

def execVectorCombine (dt : Nat) (s : State) : Host.Outcome State Fault Refusal := event true (vectorEvent 0 dt) s
def execMerge (dt : Nat) (s : State) : Host.Outcome State Fault Refusal := event true (vectorEvent 1 dt) s
def execNorm (dt : Nat) (s : State) : Host.Outcome State Fault Refusal := event true (vectorEvent 2 dt) s
def execRoute (dt : Nat) (s : State) : Host.Outcome State Fault Refusal := event true (vectorEvent 3 dt) s
def execOpt (dt : Nat) (s : State) : Host.Outcome State Fault Refusal := event true (vectorEvent 4 dt) s
def execSgrad (dt : Nat) (s : State) : Host.Outcome State Fault Refusal := event true (vectorEvent 5 dt) s
def execRebuild (dt : Nat) (s : State) : Host.Outcome State Fault Refusal := event true (vectorEvent 6 dt) s

end Sys2Proof.Machine
end

