-- ==== Sys2Proof/Machine/Link.lean ====
section
/-!
DEFINITION. Fabric and lash ports (spec/10_fabric.md R219 to R240; spec/12_lashing.md R269, R270, R283; spec/13_commands.md
R422; spec/18_limits.md R414): bring-up, flits and replay, messages leaving and arriving, link states and link faults. Port 6
is the lash port.
-/
namespace Sys2Proof.Machine

/-- A record about a port names it. -/
def portRecord (c : RecCode) (p : Nat) (s : State) : State := record c (leBytes 1 p) s

/-! ### Messages without a route, R235 -/

/-- The node that made a message standing here. -/
def Out.maker (s : State) (o : Out) : BitVec 14 := match o.body with | .copy m => m.src | _ => myNode s

/-- NO_ROUTE at a module on the way: the message is discarded and its source is told. -/
def noRouteBack (src dst : BitVec 14) (p : Nat) (s : State) : State :=
  sendNotice src (.noRoute dst p) (record Code.noRoute (leBytes 2 dst.toNat ++ leBytes 1 p) s)

/-- A message that waits at a port that has become unavailable goes the other way, or has no route. -/
def sendOther (p : Nat) (s : State) (o : Out) : State :=
  let q := if p < 3 then p + 3 else p - 3
  if o.reversed || unavailable (port s q) then
    (if o.maker s = myNode s then noRouteHere o.dst p s else noRouteBack (o.maker s) o.dst p s)
  else onPort q (fun x => { x with queue := x.queue ++ [{ o with cls := true, reversed := true }] }) s

/-- Messages that a fabric port has not begun to send leave it. -/
def reroute (p : Nat) (s : State) : State :=
  if p = 6 then s
  else (port s p).queue.foldl (sendOther p) (onPort p (fun x => { x with queue := [] }) s)

/-! ### LINK_CTL and LASH that wait for a port -/

def portCode : PortState → Byte
  | .active => 0 | .doze => 1 | .off => 2 | .fenced => 3

/-- LINK_CTL commands on a port complete with the state reached (R422). -/
def completeLinks (p : Nat) (s : State) : State :=
  (s.gw.links.filter (fun l => l.1 = p)).foldl (fun s l => complete l.2 0x21 [portCode (port s p).state] s)
    (onGw (fun g => { g with links := g.links.filter (fun l => l.1 != p) }) s)

/-- A LASH in progress fails (spec/12_lashing.md R272): the module stays SOLO and the lash port goes OFF. -/
def failLash (status : BitVec 16) (s : State) : State :=
  match s.gw.lash with
  | none => s
  | some j => onPort 6 Port.off (refuse j.req 0x23 status (onGw (fun g => { g with lash := none }) s))

/-! ### Failures of a port, Table 10-8 -/

/-- FENCED, and the messages that wait go the other way. A fenced lash port has lost the partner (log entry 28). -/
def fencePort (p : Nat) (s : State) : State :=
  let s := portRecord Code.linkFenced p s
  let s := completeLinks p (onPort p (fun q => { q.off with state := .fenced }) s)
  if p = 6 then strand (failLash Status.lashLinkFail s) else reroute p s

/-- A member of the job is lost: the record with its position and node, and the halt; a repeated notice is ignored
(spec/11_collectives.md R245). -/
def takeLost (position : Nat) (node : BitVec 14) (s : State) : State :=
  let n : Bool × BitVec 16 × BitVec 14 := (false, BitVec.ofNat 16 position, node)
  if s.job.notices.contains n then s
  else haltPeer Status.rankLost (record Code.rankLost (leBytes 2 position ++ leBytes 2 node.toNat)
    { s with job := { s.job with notices := s.job.notices ++ [n] } })

/-- A fabric port has failed bring-up three times: where every port to a present member has, the member is lost (R245). -/
def lostNeighbour (p : Nat) (s : State) : State :=
  let nb (q : Nat) : BitVec 14 := neighbour s.fab.cfg (myNode s) q
  let gone (e : BitVec 64) : Bool := (List.range 6).all (fun q =>
    !(portEnabled s q && entryHas e (nb q)) || ((port s q).state = .fenced && 3 ≤ (port s q).fails))
  match (otherMembers s 0).find? (fun r => entryHas (rankEntry s r) (nb p) && gone (rankEntry s r)) with
  | some r =>
    let n := rankNode (rankEntry s r)
    takeLost r n (tellGroup 0 (.lost r n) s)
  | none => s

/-- A step of the bring-up has failed: the record, OFF, and bring-up once more; three in a row fence a fabric port and lose the
partner of the lash port (R239; spec/12_lashing.md R283). A STRANDED half waits for its next retry. -/
def bringFail (p : Nat) (rec : Option RecCode) (status : BitVec 16) (s : State) : State :=
  let s := match rec with | some c => portRecord c p s | none => s
  let s := onPort p (fun q => { q.off with fails := q.fails + 1 }) s
  if p = 6 then
    if s.gw.lash.isSome then failLash status s
    else if s.pair.role = .stranded then s
    else if 3 ≤ (port s p).fails then strand s else bringUp p s
  else if 3 ≤ (port s p).fails then lostNeighbour p (fencePort p s) else bringUp p (completeLinks p s)

/-- Retrain: OFF followed at once by bring-up; the fourth within 60 s fences the port. -/
def retrain (p : Nat) (c : RecCode) (s : State) : State :=
  let now := s.log.opSeconds.toNat
  let s := portRecord c p s
  let s := onPort p (fun q => { q.off with retrains := now :: q.retrains.filter (fun t => now ≤ t + 60), retrainCount := satAdd q.retrainCount 1,
                                           replaysMs := 0 }) s
  if 4 ≤ (port s p).retrains.length then fencePort p s else bringUp p s

/-- A message's tag has failed (R227): it and what came after it is discarded to be resent under new keys; a second failure
within 60 s fences the port. -/
def tagFailure (p : Nat) (s : State) : State :=
  let now := s.log.opSeconds.toNat
  let again := (port s p).tagFail.any (fun t => now ≤ t + 60)
  let s := onPort p (fun q => { q with tagFail := some now }) s
  if again then fencePort p (portRecord Code.linkAuthFail p s) else retrain p Code.linkAuthFail s

/-- The first n held messages of a kind. -/
def heldMsgs (q : Port) (fits : RxMsg → Bool) (n : Nat) : List RxMsg := (q.rxMsgs.filter fits).take n

/-- A message arrives on an ACTIVE port. Where FLIT_RECEIVE has brought it, in n link messages, they have verified and are taken out of
their buffers; where the port holds others, the row names none that came. Where no flits were given, the operand says whether it verified
(log entry 91). -/
def takeHeld (p : Nat) (tagOk : Bool) (fits : RxMsg → Bool) (n : Nat) (f : List RxMsg → State → State) (s : State) : State :=
  let q := port s p
  if q.state ≠ .active then s
  else if q.rxMsgs = [] then (if tagOk then f [] s else tagFailure p s)
  else
    let l := heldMsgs q fits n
    if l.length = n then f l (onPort p (fun q => { q with rxMsgs := l.foldl List.erase q.rxMsgs }) s) else s

/-- The same, with the buffers freed at once. -/
def takeMsg (p : Nat) (tagOk : Bool) (fits : RxMsg → Bool) (n : Nat) (f : State → State) (s : State) : State :=
  takeHeld p tagOk fits n (fun l s => f (freeMsgs p l s)) s

/-- A held message is this one. -/
def msgHeld (m : Msg) (x : RxMsg) : Bool :=
  x.buffer.toNat / 2 = m.vc.val && x.text.take (16 + m.payload.length) = msgHead m ++ m.payload

/-- A held message has this OP. -/
def opHeld (op : Nat) (x : RxMsg) : Bool := nth x.text 4 0 = BitVec.ofNat 8 op

/-- A held answer of a transaction. -/
def answerHeld (op : Nat) (txn : BitVec 12) (x : RxMsg) : Bool := opHeld op x && fld (ofLe (x.text.take 8)) 52 12 = txn.toNat

/-! ### Messages that rows wait for -/

/-- A row of this module waits for the message's delivery or for its answer. -/
def rowAwaits (s : State) (o : Out) : Bool :=
  o.flight.isSome ||
    (match o.body with
      | .copy m => m.src = myNode s && s.fab.txns.any (fun t => t.txn = m.txn)
      | .barrier _ _ _ _ _ => s.seq.flight.any (fun f => f.stage = .barrier)
      | .govern _ _ _ _ _ => s.seq.flight.any (fun f => f.stage = .govern)
      | .ready _ _ _ _ => s.seq.flight.any (fun f => f.stage = .reshard)
      | _ => false)

/-! ### Sense pins and port dies -/

def fabricSense (p : Nat) (level : Bool) (s : State) : State :=
  bringUp p (onPins (fun q => { q with fabricSenseN := BitVec.ofNat 6 (q.fabricSenseN.toNat / 2 ^ (p + 1) * 2 ^ (p + 1) +
    b2n level * 2 ^ p + q.fabricSenseN.toNat % 2 ^ p) }) s)

def execFabricSenseChange (p : Fin 6) (level : Bool) (s : State) : Host.Outcome State Fault Refusal :=
  event (bitAt s.pins.fabricSenseN p.val != level) (fabricSense p.val level) s

def execLashSenseChange (level : Bool) (s : State) : Host.Outcome State Fault Refusal :=
  event (s.pins.lashSenseN != level) (fun s => bringUp 6 (onPins (fun q => { q with lashSenseN := level }) s)) s

/-- Lane groups of the lash port that its dies still carry (spec/12_lashing.md R269). -/
def lashLanes (q : Port) : Option (BitVec 3) :=
  match q.dieOk with
  | (true, true) => some 0
  | (true, false) => some 1
  | (false, true) => some 2
  | _ => none

/-- The lash port goes on with the lanes that are left, or the partner is lost. -/
def narrowLash (s : State) : State :=
  let q := port s 6
  if q.state = .active || q.state = .doze then
    match lashLanes q with
    | some l =>
      if q.lanes = 0 || q.lanes = l then
        (if q.lanes = l then s else record Code.lashNarrow [] (onPort 6 (fun q => { q with lanes := l }) s))
      else strand (onPort 6 Port.off s)
    | none => strand (onPort 6 Port.off s)
  else s

/-- A port die fault (spec/01_module.md R19): `die` true is port die 1. -/
def portDieFault (die : Bool) (s : State) : State :=
  let s := (if die then [3, 4, 5] else [0, 1, 2]).foldl (fun s p => if (port s p).state = .fenced then s else fencePort p s) s
  narrowLash (onPort 6 (fun q => { q with dieOk := if die then (q.dieOk.1, false) else (false, q.dieOk.2) }) s)

def execPortDieFault (die : Bool) (s : State) : Host.Outcome State Fault Refusal := event s.power.rails (portDieFault die) s

/-! ### Bring-up, Table 10-5 -/

/-- Lanes to come up with from the groups that trained whole. -/
def trainedLanes (p : Nat) (q : Port) (low high : Bool) : Option (BitVec 3) :=
  let l := low && (p != 6 || q.dieOk.1)
  let h := high && (p != 6 || q.dieOk.2)
  if l && h then some 0 else if l then some 1 else if h then some 2 else none

/-- The other half of a pair trains the lash port of a half in SLEEP: it wakes (spec/12_lashing.md R277; log entry 67). -/
def wakesHalf (s : State) (p : Nat) : Bool := p = 6 && inPair s && s.power.state = .sleep

/-- Training runs, or a port whose peer slept sees it drive its lanes again. -/
def mayTrain (s : State) (p : Nat) : Bool :=
  let q := port s p
  q.hs = .train || (q.state = .off && q.hs = .idle && q.peerAsleep && wanted s p && sensed s p && s.power.rails && s.power.state != .sleep) ||
    wakesHalf s p

/-- This end's hello: fabric identity, node, and the port, or its role on the lash port (R231; spec/12_lashing.md R272). -/
def helloText (s : State) (p : Nat) : List Byte :=
  let role := match s.gw.lash with | some j => b2n !j.primary | none => b2n (s.pair.role = .secondary)
  Config.helloBytes (BitVec.ofNat 64 (bits s.fab.cfg 64 64)) (myNode s) (if p = 6 then role else p)

def trainComplete (p : Nat) (low high : Bool) (s : State) : State :=
  match trainedLanes p (port s p) low high with
  | none => if (port s p).hs = .train then bringFail p none Status.lashLinkFail s else s
  | some l =>
    let s := onPort p (fun q => sendCtl (helloText s p) { q with lanes := l, hs := .hello, transcript := [] }) s
    let s := if l = 0 then s else if p = 6 then record Code.lashNarrow [] s else portRecord Code.linkNarrow p s
    if p = 6 then onGw (fun g => { g with lash := g.lash.map (fun j => { j with bringup := true }) }) s else s

def execLinkTrainComplete (p : Fin 7) (low high : Bool) (s : State) : Host.Outcome State Fault Refusal :=
  event (mayTrain s p.val) (fun s =>
    if wakesHalf s p.val then onPower (fun x => { x with wakeReq := true }) s else trainComplete p.val low high s) s

/-- A step's messages, own and the peer's, enter the transcript. -/
def heard (p : Nat) (next : Handshake) (own peer : List Byte) (s : State) : State :=
  onPort p (fun q => { q with hs := next, transcript := q.transcript ++ [(own, peer)] }) s

/-- NONCE of the evidence that one end sends: over the step 2 messages, its own first (spec/14_trust.md R327; log entry 92). -/
def helloNonce (own peer : List Byte) : BitVec 256 := bytesWord 256 ((sha384 (own ++ peer)).take 32)

/-- The step 3 message of this end: its evidence over the hello messages, then its certificates; the signature takes a draw. -/
def evidenceText (own peer : List Byte) (s : State) : List Byte × State :=
  let r := evidence s (helloNonce own peer)
  (r.1 ++ s.identity.certificates, r.2)

/-- R231: fabric identity, neighbour and opposite port. On the lash port the hello's port field is the peer's role in a LASH, 0
primary and 1 secondary, and must be the opposite one (spec/12_lashing.md R272; log entry 28). -/
def helloOk (s : State) (p : Nat) (fabricId : BitVec 64) (node : BitVec 14) (peerPort : BitVec 3) : Bool :=
  if p = 6 then (match s.gw.lash with | some j => peerPort.toNat = b2n j.primary | none => true)
  else bits s.fab.cfg 64 64 = fabricId.toNat && node = neighbour s.fab.cfg (myNode s) p && peerPort.toNat = (p + 3) % 6

/-- The hello is good: this end's evidence goes out. -/
def sendEvidence (p : Nat) (msg : List Byte) (s : State) : State :=
  let own := helloText s p
  let e := evidenceText own msg s
  onPort p (fun q => sendCtl e.1 { q with sentStep := e.1 }) (heard p .evidence own msg e.2)

def hello (p : Nat) (fabricId : BitVec 64) (node : BitVec 14) (peerPort : BitVec 3) (msg : List Byte) (s : State) : State :=
  if helloOk s p fabricId node peerPort then sendEvidence p msg s
  else if p = 6 then bringFail 6 (some Code.pairMismatch) Status.pairMismatch s
  else bringFail p (some Code.topologyMismatch) Status.topologyMismatch s

def execLinkHello (p : Fin 7) (fabricId : BitVec 64) (node : BitVec 14) (peerPort : BitVec 3) (msg : List Byte) (s : State) :
    Host.Outcome State Fault Refusal :=
  event ((port s p.val).hs = .hello) (hello p.val fabricId node peerPort msg) s

/-- The partner that a LASH names, or the other fingerprint of the pair record. -/
def partnerFp (s : State) : Fp :=
  match s.gw.lash with
  | some j => j.partner
  | none => if s.pair.record.primaryFp = identityFp s then s.pair.record.secondaryFp else s.pair.record.primaryFp

/-- The peer's evidence answers the hello messages, is signed and certified, and comes from an enrolled module of the same owner whose
image the policy accepts (R231; spec/14_trust.md R327, R328). -/
def evidenceGood (s : State) (p : Nat) (e : PeerEvidence) : Bool :=
  let h := ((port s p).transcript.head?).getD ([], [])
  e.certOk && e.sigOk && e.enrolled && e.nonce = helloNonce h.2 h.1 && e.ownerFp = ownerFp s &&
    policyAccepts s.trust.policy e.version e.imageDigest

/-- R231 and spec/12_lashing.md R270: the record and the status of a refused peer, or none. -/
def evidenceFault (s : State) (p : Nat) (e : PeerEvidence) : Option (RecCode × BitVec 16) :=
  if p = 6 && (e.identityFp ≠ partnerFp s || e.imageDigest ≠ (runningImage s).digest || e.lowerVer ≠ lowerVer s) then
    some (Code.pairMismatch, Status.pairMismatch)
  else if evidenceGood s p e then none
  else some (Code.linkAuthFail, Status.linkAuthFail)

/-- A fingerprint compares lower as a byte string, byte 0 first. -/
def fpLower (a b : Fp) : Bool := decide (ofLe (wordBytes a).reverse < ofLe (wordBytes b).reverse)

/-- This end is the low side of the link. -/
def lowSide (s : State) (p : Nat) : Bool := fpLower (identityFp s) ((port s p).candidate.getD 0)

/-- The handshake messages so far, the low side's first within each step (spec/14_trust.md R326). -/
def handshakeText (low : Bool) (l : List (List Byte × List Byte)) : List Byte := l.flatMap (fun m => if low then m.1 ++ m.2 else m.2 ++ m.1)

/-- The peer is accepted: this end draws its ephemeral key and sends it, signed over the transcript. -/
def sendAgree (p : Nat) (s : State) : State :=
  let d := draw s
  let priv := Config.random384 d.1
  let g := identitySign (handshakeText (lowSide s p) (port s p).transcript ++ wordBytes (publicKey priv)) d.2
  let text := wordBytes (publicKey priv) ++ wordBytes g.1
  onPort p (fun q => sendCtl text { q with ephemeral := priv, sentStep := text }) g.2

def peerEvidence (p : Nat) (e : PeerEvidence) (msg : List Byte) (s : State) : State :=
  match evidenceFault s p e with
  | some f => bringFail p (some f.1) f.2 s
  | none => sendAgree p (onPort p (fun q => { q with candidate := some e.identityFp }) (heard p .agree (port s p).sentStep msg s))

def execLinkEvidence (p : Fin 7) (e : PeerEvidence) (msg : List Byte) (s : State) : Host.Outcome State Fault Refusal :=
  event ((port s p.val).hs = .evidence) (peerEvidence p.val e msg) s

/-- Direction keys of spec/14_trust.md Table 14-3: sending, receiving. -/
def linkKeys (p : Nat) (low : Bool) (x transcript : List Byte) : BitVec 256 × BitVec 256 :=
  let salt := sha384 transcript
  let lohi := hkdf x salt (ascii (if p = 6 then "ez1 lash lo-hi" else "ez1 link lo-hi"))
  let hilo := hkdf x salt (ascii (if p = 6 then "ez1 lash hi-lo" else "ez1 link hi-lo"))
  if low then (lohi, hilo) else (hilo, lohi)

/-- T_l of a port (spec/14_trust.md R326), and what a confirmation carries of it. -/
def transcriptHash (s : State) (p : Nat) : List Byte := sha384 (handshakeText (lowSide s p) (port s p).transcript)
def confirmText (s : State) (p : Nat) : List Byte := (transcriptHash s p).take 16

/-- Step 4: the direction keys, and this end's confirmation under its own. Its failure names no record. -/
def agree (p : Nat) (sigOk : Bool) (peerKey : Key) (msg : List Byte) (s : State) : State :=
  if !sigOk || !P384.onCurve peerKey then bringFail p none Status.linkAuthFail s
  else
    let s := heard p .confirm (port s p).sentStep msg s
    let k := linkKeys p (lowSide s p) (ecdhX (port s p).ephemeral peerKey) (handshakeText (lowSide s p) (port s p).transcript)
    let c := gcmSeal k.1 Config.confirmNonce [] (confirmText s p)
    onPort p (fun q => sendCtl (c.1 ++ c.2) { q with txKey := k.1, rxKey := k.2 }) s

def execLinkAgree (p : Fin 7) (sigOk : Bool) (peerKey : Key) (msg : List Byte) (s : State) : Host.Outcome State Fault Refusal :=
  event ((port s p.val).hs = .agree) (agree p.val sigOk peerKey msg) s

/-- Step 5: the peer's confirmation opens under the receiving key and holds the first 16 bytes of T_l. -/
def confirmOk (s : State) (p : Nat) (c : List Byte) : Bool :=
  gcmOpen (port s p).rxKey Config.confirmNonce [] (c.take 16) (c.drop 16) = some (confirmText s p)

def linkConfirm (p : Nat) (c : List Byte) (s : State) : State :=
  if confirmOk s p c then onPort p (fun q => sendCtl (Config.resumeBytes q.rxMseq) { q with hs := .resume }) s
  else bringFail p (some Code.linkAuthFail) Status.linkAuthFail s

def execLinkConfirm (p : Fin 7) (c : List Byte) (s : State) : Host.Outcome State Fault Refusal :=
  event ((port s p.val).hs = .confirm) (linkConfirm p.val c) s

/-- Full credits of every buffer (Table 10-4; spec/12_lashing.md R269). -/
def fullCredits (p : Nat) : SMap Nat :=
  (List.range 8).map (fun k => (k, if p = 6 then 2048 else if 6 ≤ k then 128 else 1024))

def creditKey (o : Out) : Nat := o.vc.val * 2 + b2n o.cls

/-- The payload bytes of a message's flits: ciphertext and tag under the sending key (R226). -/
def sealOut (me : BitVec 14) (q : Port) (o : Out) : List Byte :=
  let r := gcmSeal q.txKey (msgNonce o.mseq) (msgAad o.vc.val o.flits) (o.text me)
  r.1 ++ r.2

/-- A message goes out whole in DATA flits, and takes their credits. -/
def launch (me : BitVec 14) (q : Port) (o : Out) : Port :=
  let bs := sealOut me q o
  let f := o.flits
  let head (k : Nat) : Nat := 1 + o.vc.val * 2 ^ 4 + b2n o.cls * 2 ^ 6 + b2n (k = 0) * 2 ^ 7 + b2n (k + 1 = f) * 2 ^ 8
  let q := (List.range f).foldl (fun q k => replayFlit (head k) (if k + 1 = f then some o.mseq else none) (bs.drop (52 * k)) q) q
  { q with credits := sput q.credits (creditKey o) (sget q.credits (creditKey o) 0 - f) }

/-- Another peer than before: MSEQ starts anew, messages to the old peer are dropped, and rows that wait for them halt. -/
def newPeer (p : Nat) (s : State) : State :=
  let q := port s p
  if q.peer.isNone || q.peer = q.candidate then s
  else
    let waiting := q.sent.any (rowAwaits s)
    let s := onPort p (fun q => { q with txMseq := 0, rxMseq := 0, sent := [] }) s
    let s := portRecord Code.linkLost p s
    if waiting then haltPeer Status.linkLost s else s

/-- R230: the port is ACTIVE and resends what the peer does not have. SEQ counts on from the handshake (log entry 29); messages that
have come whole have verified and stay, and their buffers count as free. -/
def resume (p : Nat) (expected : BitVec 64) (s : State) : State :=
  let s := newPeer p s
  let s := onPort p (fun q =>
    let keep := q.sent.filter (fun o => expected.toNat ≤ o.mseq.toNat)
    keep.foldl (launch (myNode s)) { q with
      txMseq := if p = 6 && keep.isEmpty then expected else q.txMseq
      state := .active, hs := .idle, peer := q.candidate, sent := keep, credits := fullCredits p, freed := [],
      nak := false, peerAsleep := false, dozeOut := false, dozeIn := false, waking := false, fails := 0, replaysMs := 0,
      everActive := true, rxBytes := [], rxMsgs := q.rxMsgs.map (fun x => { x with flits := 0 }) }) s
  let s := { s with job := { s.job with early := s.job.early.map (fun e =>
    if e.port = p then { e with held := e.held.map (fun x => { x with flits := 0 }) } else e) } }
  let s := if p = 6 then { s with pair := { s.pair with compareDue := true } } else s
  completeLinks p (portRecord Code.linkUp p s)

def execLinkResume (p : Fin 7) (expected : BitVec 64) (s : State) : Host.Outcome State Fault Refusal :=
  event ((port s p.val).hs = .resume) (resume p.val expected) s

/-! ### Flits, R222 to R224 -/

/-- A NAK names the expected SEQ in bytes 8 and 9; flits are discarded until it arrives. -/
def sendNak (p : Nat) (s : State) : State :=
  onPort p (fun q => driveFlit 3 (leBytes 2 q.rxSeq.toNat) { q with nak := true, nakSent := q.nakSent + 1, wire := [] }) s

/-- Flits that an ACK covers. -/
def acked (ack : BitVec 12) (l : List TxFlit) : List TxFlit :=
  if l.any (fun f => f.seq = ack) then l.takeWhile (fun f => f.seq != ack) ++ (l.find? (fun f => f.seq = ack)).toList else []

/-- Messages whose last flit is acknowledged are delivered. -/
def takeAck (ack : BitVec 12) (q : Port) : Port :=
  let got := acked ack q.unacked
  { q with unacked := q.unacked.drop got.length, sent := q.sent.filter (fun o => !got.any (fun f => f.ends = some o.mseq)) }

/-- Neither end holds an unacknowledged flit or a ready message. -/
def Port.quiet (q : Port) : Bool := q.unacked.isEmpty && q.queue.isEmpty && q.sent.isEmpty

/-- R237: DOZE once both ends have asked for it and are quiet. -/
def tryDoze (p : Nat) (s : State) : State :=
  let q := port s p
  if q.state = .active && q.dozeIn && q.dozeOut && q.quiet then
    onPort p (fun q => { q with state := .doze, dozeIn := false, dozeOut := false }) s
  else s

/-- The message whose last flit has come opens under the receiving key with the MSEQ expected (R226). -/
def openHeld (q : Port) (buffer : BitVec 3) (bs : List Byte) : Option (List Byte) :=
  gcmOpen q.rxKey (msgNonce q.rxMseq) (msgAad (buffer.toNat / 2) (bs.length / 52)) (bs.take (bs.length - 16)) (bs.drop (bs.length - 16))

/-- A verified message is held in its buffer, or, on CONTROL, taken as it comes. -/
def holdMsg (buffer : BitVec 3) (bs text : List Byte) (q : Port) : Port :=
  let f := bs.length / 52
  let q := { q with rxBytes := [], rxMseq := q.rxMseq + 1 }
  if 6 ≤ buffer.toNat then { q with freed := sput q.freed buffer.toNat (sget q.freed buffer.toNat 0 + f) }
  else { q with rxMsgs := q.rxMsgs ++ [{ buffer := buffer, flits := f, text := text }] }

/-- Payload of a flit in order enters the message; the last flit ends it, and a tag that fails retrains the port (R227). -/
def takeData (p : Nat) (f : BitVec 512) (s : State) : State :=
  let q := port s p
  let body := wordBytes (BitVec.ofNat 416 (bits f 64 416))
  let bs := if bitAt f 7 then body else q.rxBytes ++ body
  let buf := if bitAt f 7 then BitVec.ofNat 3 (bits f 4 2 * 2 + bits f 6 1) else q.rxBuffer
  if bitAt f 8 then
    match openHeld q buf bs with
    | some text => onPort p (holdMsg buf bs text) s
    | none => tagFailure p s
  else onPort p (fun q => { q with rxBytes := bs, rxBuffer := buf }) s

/-- The acknowledgement and the credits of a flit that is not discarded. -/
def takeLink (p : Nat) (f : BitVec 512) (s : State) : State :=
  onPort p (fun q => takeAck (BitVec.ofNat 12 (bits f 24 12)) { q with
    credits := if q.state = .active then sput q.credits (bits f 36 3) (sget q.credits (bits f 36 3) 0 + bits f 40 8) else q.credits }) s

/-- A good flit. DATA and LINKCTL flits are accepted in order only, DATA on an ACTIVE port. -/
def goodFlit (p : Nat) (f : BitVec 512) (s : State) : State :=
  let ty := bits f 0 4
  if ty = 1 || ty = 4 then
    if bits f 12 12 = (port s p).rxSeq.toNat then
      let s := onPort p (fun q => { q with rxSeq := q.rxSeq + 1, nak := false }) (takeLink p f s)
      if ty = 1 && (port s p).state = .active then takeData p f s else s
    else if (port s p).nak then s else sendNak p s
  else if ty = 3 then onPort p (fun q => { q with nakSeen := some (BitVec.ofNat 12 (bits f 64 12)) }) (takeLink p f s)
  else takeLink p f s

/-- A flit of a good codeword: its CRC and its reserved fields, then what it brings. -/
def checkFlit (p : Nat) (f : BitVec 512) (s : State) : State :=
  if (crc32c ((wordBytes f).take 60)).toNat ≠ bits f 480 32 then
    sendNak p (onPort p (fun q => { q with crcFails := satAdd q.crcFails 1 }) s)
  else if 5 ≤ bits f 0 4 || bits f 9 3 ≠ 0 || bits f 39 1 ≠ 0 || bits f 48 16 ≠ 0 then retrain p Code.linkProtocol s
  else tryDoze p (goodFlit p f s)

/-- One flit of a corrected codeword, or a whole codeword of ten that could not be corrected (log entry 29). -/
def flitReceive (p : Nat) (f : BitVec 512) (corrected : Option (BitVec 4)) (s : State) : State :=
  match corrected with
  | none => sendNak p (onPort p (fun q => { q with uncorrectable := satAdd q.uncorrectable 1, crcFails := satAdd q.crcFails 10 }) s)
  | some n => checkFlit p f (onPort p (fun q => { q with corrected := satAdd q.corrected n.toNat }) s)

/-- Flits flow: the port is ACTIVE, or its handshake is past training (R229). -/
def flitsFlow (q : Port) : Bool := q.state = .active || (q.hs != .idle && q.hs != .train)

def execFlitReceive (p : Fin 7) (f : BitVec 512) (corrected : Option (BitVec 4)) (s : State) : Host.Outcome State Fault Refusal :=
  event (flitsFlow (port s p.val)) (flitReceive p.val f corrected) s

/-- Flits from the named SEQ on are sent again, each as it was. More than 64 replays in a millisecond, or one flit replayed eight
times, retrain the port (Table 10-8). -/
def nakReceive (p : Nat) (seq : BitVec 12) (newMs : Bool) (s : State) : State :=
  let s := onPort p (fun q =>
    let keep := q.unacked.takeWhile (fun f => f.seq != seq)
    let again := q.unacked.drop keep.length
    { q with unacked := keep ++ again.map (fun f => { f with resent := f.resent + 1 }), wire := again.map TxFlit.flit, nakSeen := none,
             replays := satAdd q.replays 1, replaysMs := if newMs then 1 else q.replaysMs + 1 }) s
  let q := port s p
  if 64 < q.replaysMs || q.unacked.any (fun f => 8 ≤ f.resent) then retrain p Code.linkRetrain s else s

/-- Where the NAK's flit has come as FLIT_RECEIVE, its bytes name the SEQ. -/
def execNakReceive (p : Fin 7) (seq : BitVec 12) (newMs : Bool) (s : State) : Host.Outcome State Fault Refusal :=
  event (flitsFlow (port s p.val)) (nakReceive p.val ((port s p.val).nakSeen.getD seq) newMs) s

def execNakRepeat (p : Fin 7) (s : State) : Host.Outcome State Fault Refusal :=
  event (flitsFlow (port s p.val) && (port s p.val).nak) (sendNak p.val) s

def execPeerSilence (p : Fin 7) (s : State) : Host.Outcome State Fault Refusal :=
  event ((port s p.val).state = .active) (retrain p.val Code.linkRetrain) s

/-- The row sends over a port. -/
def usesPort (s : State) (p : Nat) (w : Row) : Bool := (sendsTo s w).any (fun n => (nextHop s (myNode s) n none).any (fun h => h.port = p))

/-- This end asks for doze too where no row of the window uses the port within 6 µs (spec/07_timetable.md R178); the lash port
only in DOZE (spec/12_lashing.md R277). -/
def wantsDoze (s : State) (p : Nat) : Bool :=
  if p = 6 then s.power.state = .doze else !dueWithin s gateUnits (fun w => executes s w && usesPort s p w)

/-! ### Messages leave, R228 -/

/-- The message that a VC would send next. -/
def headOf (q : Port) (vc : Nat) : Option Out := q.queue.find? (fun o => o.vc.val = vc)

/-- The VC has a message, credits for all its flits, and room in the replay buffer. -/
def vcReady (q : Port) (vc : Nat) : Bool :=
  (headOf q vc).any (fun o => decide (o.flits ≤ sget q.credits (creditKey o) 0) && decide (q.unacked.length + o.flits ≤ 2048))

/-- CONTROL goes first; the others take turns. -/
def nextVc (q : Port) (turn : Nat) : Option Nat :=
  if vcReady q 3 then some 3 else ([1, 2, 3].map (fun k => (turn + k) % 3)).find? (fun v => vcReady q v)

/-- The stall cause of a channel. -/
def vcCause (vc : Nat) : Option Cause :=
  match vc with | 0 => some Cause.fabricCollective | 1 => some Cause.fabricFerry | 2 => some Cause.fabricCopy | _ => none

/-- What is left of a body after one of its messages. -/
def afterPart (o : Out) (l : List Out) : List Out :=
  if o.part + 1 < bodyParts o.body then l.map (fun x => if x = o then { o with part := o.part + 1 } else x) else l.erase o

/-- One message starts: its MSEQ is the next of the port. -/
def startMsg (p vc : Nat) (o : Out) (s : State) : State :=
  let s := onPort p (fun q =>
    let m := { o with mseq := q.txMseq }
    launch (myNode s) { q with queue := afterPart o q.queue, sent := q.sent ++ [m], txMseq := q.txMseq + 1, wire := [] } m) s
  if vc = 3 then s else { s with fab := { s.fab with turn := sput s.fab.turn p vc } }

/-- An ACTIVE port with nothing to send asks for doze where its window allows (R237), or sends an IDLE flit (R222). -/
def fillLink (p : Nat) (s : State) : State :=
  let q := port s p
  if q.state ≠ .active then s
  else if !q.dozeOut && q.quiet && wantsDoze s p then
    tryDoze p (onPort p (fun q => sendCtl Config.dozeBytes { q with dozeOut := true }) s)
  else onPort p (fun q => driveFlit 0 [] { q with wire := [] }) s

/-- A row of this module waits for a message of the channel that was sent before the port began to retrain (R239). -/
def awaitsRetrain (s : State) (q : Port) (vc : Nat) : Bool :=
  q.state = .off && q.hs != .idle && q.sent.any (fun o => o.vc.val = vc && o.maker s = myNode s && rowAwaits s o)

/-- The row in flight that a message serves. -/
def outFlight (s : State) (o : Out) : Option Nat :=
  o.flight.or (match o.body with
    | .copy m => (s.fab.txns.find? (fun t => t.txn = m.txn && m.src = myNode s)).map Txn.flight
    | _ => none)

/-- A wait on a channel is charged to the module and, for a collective, to the regions that its row names (spec/11_collectives.md R247). -/
def chargeVc (vc dt : Nat) (o : Option Out) (s : State) : State :=
  match vcCause vc with
  | none => s
  | some c =>
    let s := chargeModule c dt s
    if vc ≠ 0 then s
    else match s.seq.flight.find? (fun f => o.any (fun m => outFlight s m = some f.id)) with
      | none => s
      | some f => (setList (rowRset f.bits)).foldl (fun s r => chargeRegionCycles c r (cyclesOf (region s r) dt) s) s

/-- The next message of a channel starts; one of this module that waits is charged under its channel's cause. -/
def messageSend (p vc dt : Nat) (s : State) : State :=
  let q := port s p
  let waited (o : Out) : Bool := o.vc.val = vc && o.maker s = myNode s && rowAwaits s o
  match headOf q vc with
  | none => if awaitsRetrain s q vc then chargeVc vc dt (q.sent.find? waited) s else if q.queue.isEmpty then fillLink p s else s
  | some o =>
    if q.state = .active && nextVc q (sget s.fab.turn p 2) = some vc then startMsg p vc o s
    else if (q.state = .active && vcReady q vc) || q.state = .doze || o.maker s ≠ myNode s then s
    else chargeVc vc dt (some o) s

def execMessageSend (p : Fin 7) (vc : Fin 4) (dt : Nat) (s : State) : Host.Outcome State Fault Refusal :=
  event true (messageSend p.val vc.val dt) s

/-! ### Messages pass through, R234, R235 -/

/-- The port that the route of a passing message names. -/
def namedPort (s : State) (dst : BitVec 14) (arrived : Nat) : Nat :=
  let me := myNode s
  let k := ((List.range 3).find? (fun k => coord me k != coord dst k)).getD 0
  if arrived % 3 = k then (if arrived < 3 then arrived + 3 else arrived - 3)
  else if shorterPositive (dimSize s.fab.cfg k) (coord me k) (coord dst k) then k else k + 3

def forwardMsg (p : Nat) (m : Msg) (s : State) : State :=
  match nextHop s m.src m.dst (some p) with
  | some h => enqueue h m.dst m.vc none (.copy m) s
  | none => noRouteBack m.src m.dst (namedPort s m.dst p) s

/-- A message for another node, or for the other half of this pair (spec/12_lashing.md R288). -/
def messageForward (p : Nat) (m : Msg) (s : State) : State :=
  if m.dst ≠ myNode s then (if p = 6 then s else forwardMsg p m s)
  else if inPair s && m.half.toNat ≠ myHalf s then enqueueLash m.vc none (.copy m) s
  else s

def execMessageForward (p : Fin 7) (m : Msg) (tagOk : Bool) (s : State) : Host.Outcome State Fault Refusal :=
  event true (takeMsg p.val tagOk (msgHeld m) 1 (messageForward p.val m)) s

/-- The source of a message without a route: record and halt (R235). -/
def execNoRouteMessage (p : Fin 7) (dst _src : BitVec 14) (via : BitVec 8) (s : State) : Host.Outcome State Fault Refusal :=
  event true (takeMsg p.val true (fun _ => false) 0 (noRouteHere dst via.toNat)) s

/-! ### Sleep, doze and wake, R237, R238 -/

/-- The peer takes its end OFF: routes treat the port as unavailable until it is ACTIVE again. -/
def sleepNotice (p : Nat) (s : State) : State := reroute p (onPort p (fun q => { q.off with peerAsleep := true }) s)

/-- The other half of a pair enters SLEEP: so does this one, unless a run is still on its way to the boundary (spec/12_lashing.md R277). -/
def partnerSleeps (s : State) : State :=
  if inPair s && s.power.state != .sleep && !s.seq.run.any (fun r => !r.asleep) then sleepNotice 6 (enterSleep s) else sleepNotice 6 s

def execSleepNotice (p : Fin 7) (s : State) : Host.Outcome State Fault Refusal :=
  event ((port s p.val).state = .active || (port s p.val).state = .doze) (if p.val = 6 then partnerSleeps else sleepNotice p.val) s

def dozeRequest (p : Nat) (s : State) : State :=
  tryDoze p (onPort p (fun q => { q with dozeIn := true, dozeOut := q.dozeOut || wantsDoze s p }) s)

def execDozeRequest (p : Fin 7) (s : State) : Host.Outcome State Fault Refusal :=
  event ((port s p.val).state = .active) (dozeRequest p.val) s

/-- Either end has a message, or a row of the window is 2 µs away. -/
def execLinkWake (p : Fin 7) (s : State) : Host.Outcome State Fault Refusal :=
  event ((port s p.val).state = .doze && !(port s p.val).waking) (onPort p.val (fun q => { q with waking := true })) s

def execLinkWakeDone (p : Fin 7) (s : State) : Host.Outcome State Fault Refusal :=
  event ((port s p.val).state = .doze && (port s p.val).waking) (onPort p.val (fun q => { q with state := .active, waking := false })) s

/-! ### FABRIC_CONFIG, LINK_CTL, LINK_UNFENCE -/

/-- R232, R233. -/
def configOk (c : BitVec 128) : Bool :=
  bits c 0 3 ≤ 5 && bits c 3 3 ≤ 5 && bits c 6 3 ≤ 4 && bits c 9 7 = 0 && bits c 30 2 = 0 && bits c 38 26 = 0 &&
    (List.range 3).all (fun k => decide (coord (BitVec.ofNat 14 (bits c 16 14)) k < dimSize c k) &&
      decide (bitAt c (32 + k) = decide (dimSize c k ≠ 1)) && decide (bitAt c (35 + k) = decide (dimSize c k ≠ 1)))

def fabricConfig (q : Req) (c : BitVec 128) (s : State) : State :=
  checkField q 0x20 0 (configOk c) (fun s =>
    let s := { s with fab := { s.fab with cfg := c, ports := s.fab.ports.mapIdx (fun p x => if p = 6 then x else x.off) } }
    reply q 0x20 [] (bringUpAll s)) s

def execFabricConfig (q : Req) (c : BitVec 128) (s : State) : Host.Outcome State Fault Refusal :=
  command 0x20 0 q (inState s [.ready] && (List.range 6).all (fun p => (port s p).state = .off)) (fabricConfig q c) s

/-- A port goes OFF with a sleep notice and is held there. Its messages wait: the port is not unavailable (R235). -/
def linkOff (p : Nat) (hold : Bool) (s : State) : State := onPort p (fun x => { x.offNotice with offHold := hold }) s

/-- No LINK_CTL of the port is running (R316, Table 13-13). -/
def linkFree (s : State) (p : Nat) : Bool := !s.gw.links.any (fun x => x.1 = p)

/-- R422. -/
def linkCtl (q : Req) (p action : Nat) (s : State) : State :=
  let x := port s p
  let answer (s : State) : State := reply q 0x21 [portCode (port s p).state] s
  if action = 0 then answer (if x.state = .fenced then s else linkOff p true s)
  else if !portEnabled s p || x.state = .fenced || bitAt s.pins.fabricSenseN p then
    answer s
  else if action = 1 && (x.state = .active || x.state = .doze) then answer s
  else
    let s := onPort p (fun y => { y with offHold := false }) s
    let s := if action = 2 then onPort p Port.off s else s
    bringUp p (onGw (fun g => { g with links := g.links ++ [(p, q)] }) s)

def execLinkCtl (q : Req) (p action : BitVec 8) (s : State) : Host.Outcome State Fault Refusal :=
  command 0x21 0 q (inState s [.ready, .job, .halted] && linkFree s p.toNat)
    (checkField q 0x21 0 (decide (p.toNat ≤ 5)) (checkField q 0x21 1 (decide (action.toNat ≤ 2)) (linkCtl q p.toNat action.toNat))) s

/-- A fenced port is OFF again, and is brought up if enabled. -/
def linkUnfence (q : Req) (p : Nat) (s : State) : State :=
  let s := onPort p (fun x => { x with state := if x.state = .fenced then .off else x.state, fails := 0, retrains := [], tagFail := none,
                                       offHold := false }) s
  reply q 0x22 [] (bringUp p s)

def execLinkUnfence (q : Req) (p : BitVec 8) (s : State) : Host.Outcome State Fault Refusal :=
  command 0x22 0 q (inState s [.ready, .job, .halted] && linkFree s p.toNat) (checkField q 0x22 0 (decide (p.toNat ≤ 5)) (linkUnfence q p.toNat)) s

end Sys2Proof.Machine
end

