-- ==== Sys2Proof/Machine/Collect.lean ====
section
/-!
DEFINITION. COLLECT rows (spec/11_collectives.md R242 to R250) and RESHARD rounds (R254 to R257): contributions, the canonical tree
over positions, and the moves of shard blocks.
-/
namespace Sys2Proof.Machine

/-! ### Tiers of either half -/

/-- Bytes of the other half that a row has asked for, kept by module address. -/
def fetchTxn (s : State) (id : Nat) : Option Txn := s.fab.txns.find? (fun t => t.flight = id && t.isRead && t.lash && t.desc = 0)

/-- Bytes at a module address. Those of the other half are the ones that the row, or the control processor, has fetched (log entry 30). -/
def readSpace (id a n : Nat) (s : State) : List Byte × Option Nat × State :=
  (halfPieces s a n).foldl (fun x p =>
    match x.2.1 with
    | some _ => x
    | none =>
      match tierPlace x.2.2 (a + p.1) with
      | .mem _ key => let r := readTier key p.2 x.2.2; (x.1 ++ r.1, r.2.1, r.2.2)
      | _ =>
        let d := draw x.2.2
        let kept := ((fetchTxn s id).map Txn.data).getD s.fab.far
        (x.1 ++ mread (Config.undefByte 5 d.1) kept (a + p.1) p.2, none, d.2)) ([], none, s)

/-- The parts of ranges that the other half holds: address and bytes. -/
def farPieces (s : State) (l : List (Nat × Nat)) : List (Nat × Nat) :=
  l.flatMap (fun r => ((halfPieces s r.1 r.2).filter (fun p => p.2 != 0 && !ownHalf s (r.1 + p.1))).map (fun p => (r.1 + p.1, p.2)))

/-- READ messages over the lash port for what the other half holds of ranges. -/
def askFar (id : Nat) (l : List (Nat × Nat)) (s : State) : State :=
  let r := openTxn id true 0 true 0 s
  (farPieces s l).foldl (fun s p => (msgPieces p.2).foldl (fun s q =>
    addLeft r.1 q.2 (sendCopy 2 true 0 0x03 r.1 (p.1 + q.1) q.2 (leBytes 16 (p.1 + q.1)) s)) s) r.2

/-- A row has yet to ask for a range. -/
def asksFar (s : State) (id a n : Nat) : Bool := !(farPieces s [(a, n)]).isEmpty && (fetchTxn s id).isNone

/-- A row reads a module address range: what the other half holds of it is asked for first. -/
def withSpace (c : RowCtx) (a n : Nat) (eff : State → State) (s : State) : State :=
  if asksFar s c.id a n then addFlight c .refetch 0 [] (askFar c.id [(a, n)] s) else eff s

/-- No row: the place in path order of what the control processor asks of the other half, above every row's; and of copies made again for
the other half's readers. -/
def ctlFlight : Nat := 2 ^ 40
def mendFlight : Nat := 2 ^ 40 + 1

/-- Nothing of the ranges lies in the other half, or all that was asked for has come (log entry 30). -/
def farDone (fetched : Bool) (l : List (Nat × Nat)) (s : State) : Bool :=
  (farPieces s l).isEmpty || (fetched && !s.fab.txns.any (fun t => t.flight = ctlFlight && t.isRead))

/-- Bytes are written at a module address; those of the other half go to it by messages that the flight waits for. -/
def writeSpace (flight a : Nat) (bs : List Byte) (s : State) : State :=
  (halfPieces s a bs.length).foldl (fun s p =>
    let part := (bs.drop p.1).take p.2
    match tierPlace s (a + p.1) with
    | .mem sp key => writeMem sp key part s
    | .remote lash node addr => writeRemote flight 0 lash node addr part s
    | .host _ _ => s) s

/-! ### Positions of a group -/

def groupLen (s : State) (g : Nat) : Nat := (groupRanks s g).length

/-- Rank table entry of a position. -/
def posEntry (s : State) (g p : Nat) : BitVec 64 := rankEntry s (nth (groupRanks s g) p 0)

def posPresent (s : State) (g p : Nat) : Bool := rankPresent (posEntry s g p)

/-- Positions whose contribution a collective takes: present ones of a reduction, all of an ALL_GATHER, the root of a BROADCAST. -/
def suppliers (s : State) (w : Row) : List Nat :=
  let g := cGroup w
  match cCop w with
  | 1 => List.range (groupLen s g)
  | 3 => [0]
  | _ => (List.range (groupLen s g)).filter (posPresent s g)

/-- Absent positions that the row meets (R246: any of its group, whatever the operation; log entry 54). -/
def standIns (s : State) (w : Row) : List Nat := (List.range (groupLen s (cGroup w))).filter (fun p => !posPresent s (cGroup w) p)

/-- The node that speaks for a position. -/
def posNode (s : State) (g p : Nat) : BitVec 14 :=
  let e := posEntry s g p
  rankNode (if rankPresent e then e else rankEntry s (rankStandIn e))

/-- Record RANK_LOST: position and node. -/
def rankLost (row : Nat) (g p : Nat) (s : State) : State :=
  haltAt Status.rankLost row (record Code.rankLost (leBytes 2 p ++ leBytes 2 (rankNode (posEntry s g p)).toNat) s)

/-! ### The canonical tree over positions -/

/-- An absent leaf passes its sibling's value. -/
def addOpt : Option Fr → Option Fr → Option Fr
  | none, b => b
  | a, none => a
  | some a, some b => some (Fr.add a b)

/-- canon_p; +0 where every position is absent. -/
def canonP (l : List (Option Fr)) : Fr := (canonBy addOpt none l.length l).getD (fr 0)

/-! ### Contributions -/

/-- A message of an earlier step or attempt. -/
def older (s : State) (step : BitVec 48) (attempt : Nat) : Bool :=
  decide (step.toNat < s.seq.step.toNat) || (step = s.seq.step && decide (attempt < attemptNow s))

/-- In a pair the primary, or the only half that executes the row, contributes for the rank. -/
def leads (s : State) (w : Row) : Bool := rowHalves w != 3 || s.pair.role != .secondary

def setStage (id : Nat) (st : Stage) (s : State) : State :=
  onSeq (fun q => { q with flight := q.flight.map (fun f => if f.id = id then { f with stage := st } else f) }) s

/-- Collectives of this module in flight, in path order. -/
def collects (s : State) (g : Nat) : List Flight :=
  s.seq.flight.filter (fun f => f.stage = .collect && cGroup f.bits = g)

/-- The contribution of a position to a row: the first that is not an earlier row's (R249). -/
def contribOf (s : State) (f : Flight) (p : Nat) : Option CollectMsg :=
  let g := cGroup f.bits
  let before := ((collects s g).filter (fun h => h.id < f.id && (suppliers s h.bits).contains p)).length
  (s.job.contribs.filter (fun m => m.group.toNat = g && m.position = p && m.attempt = attemptNow s))[before]?

def Contribution.agrees (w : Row) (m : CollectMsg) : Bool :=
  m.tag = cTag w && m.cop.toNat = cCop w && m.fmt.toNat = cFmt w && m.count.toNat = cCount w && m.sameTable

/-- A contribution that breaks R249. -/
def mismatch (s : State) (f : Flight) : Option Nat :=
  (suppliers s f.bits).find? (fun p => (contribOf s f p).any (fun m => !Contribution.agrees f.bits m))

/-- COLLECTIVE_MISMATCH: group, tag and the sender. -/
def collectiveMismatch (f : Flight) (p : Nat) (s : State) : State :=
  let g := cGroup f.bits
  let s := record Code.collectiveMismatch (leBytes 2 g ++ wordBytes (cTag f.bits) ++ leBytes 2 (posNode s g p).toNat) s
  haltWith Status.collectiveMismatch 0 (some f.row) true s

/-! ### Results, Table 11-2 -/

/-- Elements first to first + n − 1 of a reduction. -/
def reduced (s : State) (f : Flight) (first n : Nat) : List Fr :=
  let xs := (List.range (groupLen s (cGroup f.bits))).map (fun p =>
    if posPresent s (cGroup f.bits) p then
      some (readFloats 8 n ((((contribOf s f p).map CollectMsg.data).getD []).drop (4 * first)))
    else none)
  (List.range n).map (fun e => canonP (xs.map (fun o => o.map (fun l => nth l e (fr 0)))))

/-- The bytes of DST and the flags. -/
def collectResult (s : State) (f : Flight) : List Byte × BitVec 8 :=
  let w := f.bits
  let g := cGroup w
  let m := groupLen s g
  let join (l : List Fr) : List Byte × BitVec 8 := (l.flatMap (fun x => wordBytes x.1), l.foldl (fun a x => a ||| x.2) 0)
  match cCop w with
  | 0 => join ((positionIn s g :: standsInFor s g).flatMap (fun q => reduced s f (chunkStart (cCount w) m q) (chunkLenOf (cCount w) m q)))
  | 2 => join (reduced s f 0 (cCount w))
  | _ => ((suppliers s w).flatMap (fun p => ((contribOf s f p).map CollectMsg.data).getD []), 0)

/-- The contributions of a completed collective leave. -/
def dropContribs (s : State) (f : Flight) : List CollectMsg :=
  (suppliers s f.bits).foldl (fun l p => match contribOf s f p with | some m => l.erase m | none => l) s.job.contribs

/-- DST is written; the row waits for what remains to be acknowledged as delivered. -/
def finishCollect (f : Flight) (s : State) : State :=
  let r := collectResult s f
  let s := { s with job := { s.job with contribs := dropContribs s f } }
  let s := writeSpace f.id (cDst f.bits) r.1 s
  onSeq (fun q => { q with flight := q.flight.map (fun h =>
    if h.id = f.id then { h with flags := r.2, stage := if hasTxn s f.id then .peer else .done } else h) }) s

/-- Collectives of a group that have every contribution, in path order; the first mismatch halts. -/
def settleCollect (g : Nat) (s : State) : State :=
  match (collects s g).findSome? (fun f => (mismatch s f).map (fun p => (f, p))) with
  | some (f, p) => collectiveMismatch f p s
  | none =>
    (collects s g).foldl (fun s f =>
      if (suppliers s f.bits).all (fun p => (contribOf s f p).isSome) then finishCollect f s else s) s

/-! ### Issue of a COLLECT row -/

/-- What this module supplies: position and its bytes of SRC. -/
def supplied (s : State) (w : Row) : List (Nat × Nat × Nat) :=
  let g := cGroup w
  let n := cBytes (cFmt w) (cCount w)
  let me := positionIn s g
  match cCop w with
  | 1 => (me :: standsInFor s g).mapIdx (fun i p => (p, i * n, n))
  | 3 => if me = 0 || (standsInFor s g).contains 0 then [(0, 0, n)] else []
  | _ => [(me, 0, n)]

def collectMsgOf (s : State) (w : Row) (txn : BitVec 12) (p : Nat) (data : List Byte) : CollectMsg :=
  { src := myNode s, txn := txn, group := BitVec.ofNat 12 (cGroup w), tag := cTag w, cop := BitVec.ofNat 8 (cCop w), fmt := BitVec.ofNat 8 (cFmt w),
    count := BitVec.ofNat 40 (cCount w), position := p, sameTable := true, step := s.seq.step, attempt := attemptNow s, data := data }

/-- The issued collective of this module that a contribution is for. -/
def contribWanted (s : State) (m : CollectMsg) : Bool :=
  (collects s m.group.toNat).any (fun f => (suppliers s f.bits).contains m.position && contribOf s f m.position = some m)

/-- A contribution is taken out of its buffers, and its delivery is answered (R248; log entry 51). -/
def contribTaken (p : Nat) (l : List RxMsg) (m : CollectMsg) (s : State) : State := sendCopy 0 false m.src 0x02 m.txn 0 0 [] (freeMsgs p l s)

/-- Early contributions to a collective that has issued leave their buffers. -/
def releaseEarly (g : Nat) (s : State) : State :=
  (s.job.early.filter (fun e => e.msg.group.toNat = g && contribWanted s e.msg)).foldl (fun s e =>
    contribTaken e.port e.held e.msg { s with job := { s.job with early := s.job.early.erase e } }) s

/-- A supplied part goes to a member, and waits for its delivery to be answered. -/
def sendPart (c : RowCtx) (w : Row) (p : Nat) (data : List Byte) (s : State) (rank : Nat) : State :=
  let node := rankNode (rankEntry s rank)
  let t : Txn := { txn := s.fab.nextTxn, node := node, lash := false, flight := c.id, isRead := false, left := 1, desc := 0, data := [], again := [] }
  send node 0 (some c.id) (.collect (collectMsgOf s w t.txn p data))
    { s with fab := { s.fab with txns := s.fab.txns ++ [t], nextTxn := s.fab.nextTxn + 1 } }

/-- R246: the row's data goes to every other present member, and its own contribution is held. -/
def collectEffect (c : RowCtx) (s : State) : State :=
  let w := c.bits
  let g := cGroup w
  match (standIns s w).find? (fun p => rankStandIn (posEntry s g p) = 0xFFFF) with
  | some p => rankLost c.row g p s
  | none =>
    if !leads s w then addFlight c .done 0 [] s
    else
      let parts := supplied s w
      let n := (parts.map (fun p => p.2.2)).sum
      withSpace c (cSrc w) n (fun s =>
        let r := readSpace c.id (cSrc w) n s
        match r.2.1 with
        | some u => tierFault c.row 0 u r.2.2
        | none =>
          let msgs := parts.map (fun p => collectMsgOf s w 0 p.1 ((r.1.drop p.2.1).take p.2.2))
          let s := msgs.foldl (fun s m => (otherMembers s g).foldl (sendPart c w m.position m.data) s) r.2.2
          if runHalting s then dropTxns c.id s
          else settleCollect g (releaseEarly g (addFlight c .collect 0 [] { s with job := { s.job with contribs := s.job.contribs ++ msgs } }))) s

def collectEvent (cop dt : Nat) (s : State) : State := dataEvent (fun w => rowKind w = 5 && cCop w = cop) dt collectEffect s

def execReduceScatter (dt : Nat) (s : State) : Host.Outcome State Fault Refusal := event true (collectEvent 0 dt) s
def execAllGather (dt : Nat) (s : State) : Host.Outcome State Fault Refusal := event true (collectEvent 1 dt) s
def execAllReduce (dt : Nat) (s : State) : Host.Outcome State Fault Refusal := event true (collectEvent 2 dt) s
def execBroadcast (dt : Nat) (s : State) : Host.Outcome State Fault Refusal := event true (collectEvent 3 dt) s

/-- Rows of the slots that a contribution can be for: those of its group and TAG, or of its group where none has the TAG. -/
def contribRows (s : State) (m : CollectMsg) : List Row :=
  let l := (s.seq.slotA.rows ++ s.seq.slotB.rows).filter (fun w => rowKind w = 5 && cCop w != 4 && cGroup w = m.group.toNat)
  if l.any (fun w => cTag w = m.tag) then l.filter (fun w => cTag w = m.tag) else l

/-- The secondary alone executes the rows that the contribution can be for, so the primary, which heard it for the rank, passes it on
(R243; log entry 94). -/
def contribFar (s : State) (p : Nat) (m : CollectMsg) : Bool :=
  s.pair.role = .primary && p != 6 && !(contribRows s m).isEmpty && (contribRows s m).all (fun w => rowHalves w = 2)

/-- A contribution is taken, passed to the other half, or left in its buffers for a collective not yet issued; one of an earlier step or
attempt is discarded (spec/17_modes_repair.md R402). -/
def takeContrib (p : Nat) (m : CollectMsg) (l : List RxMsg) (s : State) : State :=
  if older s m.step m.attempt then freeMsgs p l s
  else if contribFar s p m then enqueueLash 0 none (.collect m) (freeMsgs p l s)
  else
    let s := { s with job := { s.job with contribs := s.job.contribs ++ [m] } }
    if contribWanted s m then settleCollect m.group.toNat (contribTaken p l m s)
    else { s with job := { s.job with early := s.job.early ++ [{ port := p, held := l, msg := m }] } }

def execCollectMessage (p : Fin 7) (m : CollectMsg) (tagOk : Bool) (s : State) : Host.Outcome State Fault Refusal :=
  event true (takeHeld p.val tagOk (opHeld 0x10) (bodyParts (.collect m)) (takeContrib p.val m)) s

/-! ### RESHARD, R254 to R257 -/

/-- Fields of a shard header (Table 11-3). -/
def hdShard (h : Nat) : BitVec 32 := BitVec.ofNat 32 (fld h 0 32)
def hdDigest (h : Nat) : BitVec 32 := BitVec.ofNat 32 (fld h 32 32)
def hdEpoch (h : Nat) : Nat := fld h 64 64
def hdBase (h : Nat) : Nat := fld h 128 42
def hdState (h : Nat) : Nat := fld h 176 2
def hdLen (h : Nat) : Nat := fld h 192 64

/-- A header with STATE and BASE replaced. -/
def withState (h st : Nat) : Nat := h - fld h 176 2 * 2 ^ 176 + st * 2 ^ 176
def withBase (h a : Nat) : Nat := h - fld h 128 42 * 2 ^ 128 + fld a 0 42 * 2 ^ 128

/-- STATE of the headers of blocks is written, on whichever half holds them: byte 22, whose other bits are reserved (Table 11-3). -/
def putStates (st : Nat) (l : List (Nat × BitVec 32)) (s : State) : State :=
  noteSpans (l.map (fun p => span 0 p.1 32)) (l.foldl (fun s p => writeSpace ctlFlight (p.1 + 22) (leBytes 1 st) s) s)

/-- The sources of a move that can be reached: rank and block address. -/
def moveSources (s : State) (m : BitVec 384) : List (Nat × Nat) :=
  ([(mvFrom m, mvFaddr m)] ++ (if mvHasb m then [(mvBfrom m, mvBaddr m)] else [])).filter (fun p => rankPresent (rankEntry s p.1))

/-- READ messages for bytes `off` and up of a block. -/
def pullPart (vc : Fin 4) (t : Txn) (a off n : Nat) (s : State) : State :=
  (msgPieces n).foldl (fun s p =>
    addLeft t.txn p.2 (sendCopy vc t.lash t.node 0x03 t.txn (a + off + p.1) p.2 (leBytes 16 (off + p.1)) s)) s

/-- A part of a block of this rank: read here and kept, or asked of the other half. -/
def pullOwn (c : RowCtx) (m : BitVec 384) (t : Txn) (a : Nat) (x : Bool × State) (p : Nat × Nat) : Bool × State :=
  if !x.1 then x
  else match tierPlace x.2 (a + p.1) with
    | .mem _ key =>
      let r := readTier key p.2 x.2
      (match r.2.1 with
        | some u => (false, tierFault c.row (mvShard m) u r.2.2)
        | none => (true, keepData t.txn p.1 r.1 r.2.2))
    | _ => (true, pullPart 2 t a p.1 p.2 x.2)

/-- Pull one copy: READ messages over COLLECTIVE, or the block itself where this module or pair holds it, into a transaction. -/
def pullCopy (c : RowCtx) (m : BitVec 384) (x : Bool × State) (src : Nat × Nat) : Bool × State :=
  let s := x.2
  if !x.1 then x
  else
    let n := 4096 * mvPages m
    let own := decide (src.1 = s.job.myRank)
    let t : Txn := { txn := s.fab.nextTxn, node := rankNode (rankEntry s src.1), lash := own, flight := c.id, isRead := true,
                     left := 0, desc := m, data := [], again := [] }
    let s := { s with fab := { s.fab with txns := s.fab.txns ++ [t], nextTxn := t.txn + 1 } }
    if own then (halfPieces s src.2 n).foldl (pullOwn c m t src.2) (true, s) else (true, pullPart 0 t src.2 0 n s)

/-- Transactions of a move, the primary source's first. -/
def moveTxns (s : State) (id : Nat) (m : BitVec 384) : List Txn := s.fab.txns.filter (fun t => t.flight = id && t.isRead && t.desc = m)

/-- STALE_SHARD: shard, entry, recorded or expected epoch, header's epoch. -/
def staleShard (row : Nat) (shard : BitVec 32) (entry recorded epoch : Nat) (s : State) : State :=
  haltAt Status.staleShard row (record Code.staleShard (wordBytes shard ++ leBytes 2 entry ++ leBytes 8 recorded ++ leBytes 8 epoch) s)

/-- R254: which of the copies that have come is taken. -/
inductive Choice where
  | take (block : List Byte)
  | divergent (epoch : Nat) (a b : BitVec 32)
  | stale (epoch : Nat)
deriving DecidableEq, Repr

def chooseCopy (m : BitVec 384) (blocks : List (List Byte)) : Choice :=
  let head (b : List Byte) : Nat := ofLe (b.take 32)
  let judge (b : List Byte) : Choice :=
    if mvExpect m ≠ 0 && hdEpoch (head b) ≠ mvExpect m then .stale (hdEpoch (head b)) else .take b
  match blocks.filter (fun b => hdState (head b) = 1) with
  | [] => .stale ((blocks.head?.map (fun b => hdEpoch (head b))).getD 0)
  | [a] => judge a
  | a :: b :: _ =>
    if hdEpoch (head a) < hdEpoch (head b) then judge b
    else if hdEpoch (head b) < hdEpoch (head a) || hdDigest (head a) = hdDigest (head b) then judge a
    else .divergent (hdEpoch (head a)) (hdDigest (head a)) (hdDigest (head b))

/-- A block whose copies have all come is written LANDED with its new BASE, or the round halts. -/
def landMove (id row : Nat) (m : BitVec 384) (s : State) : State :=
  let ts := moveTxns s id m
  if ts.isEmpty || ts.any (fun t => t.left != 0) then s
  else
    let blocks := ts.map (fun t => mread (fun _ => 0) t.data 0 (4096 * mvPages m))
    let s := onTxns (fun l => l.filter (fun t => !(t.flight = id && t.isRead && t.desc = m))) s
    match chooseCopy m blocks with
    | .stale e => staleShard row (mvShard m) 0 (mvExpect m) e s
    | .divergent e a b =>
      haltAt Status.divergentCopies row (record Code.divergentCopies ([0] ++ wordBytes (mvShard m) ++ leBytes 8 e ++ wordBytes a ++ wordBytes b) s)
    | .take block =>
      let h := withBase (withState (ofLe (block.take 32)) 2) (mvTaddr m + 4096)
      let s := writeSpace id (mvTaddr m) (leBytes 32 h ++ block.drop 32) s
      { s with reshard := { s.reshard with landed := s.reshard.landed ++ [(mvTaddr m, mvShard m)], incoming := s.reshard.incoming.erase m } }

/-- In a pair that executes the row on both halves, each half moves the blocks of its own tiers (spec/12_lashing.md R287). -/
def ownBlock (s : State) (w : Row) (a : Nat) : Bool :=
  !inPair s || rowHalves w != 3 || (match tierPlace s a with | .mem _ _ => true | _ => false)

/-- The RESHARD row in flight. -/
def reshardFlight (s : State) : Option Flight := s.seq.flight.find? (fun f => f.stage = .reshard)

/-- Positions of the other present members of a group. -/
def otherPositions (s : State) (g : Nat) : List Nat :=
  (List.range (groupLen s g)).filter (fun p => p != positionIn s g && posPresent s g p)

/-- The first READY of a position carries another identity, round or count than the row (R249). -/
def readyDiffers (s : State) (f : Flight) (p : Nat) : Bool :=
  (s.reshard.ready.find? (fun r => r.2.2.1 = p)).any (fun r =>
    r.1 != tagRid f.bits || r.2.1.toNat != tagRound f.bits || r.2.2.2.toNat != cCount f.bits)

/-- R257, step 3. -/
def settleReshard (s : State) : State :=
  match s.reshard.active, reshardFlight s with
  | some (rid, round, _), some f =>
    match (otherPositions s (cGroup f.bits)).find? (readyDiffers s f) with
    | some p => collectiveMismatch f p s
    | none =>
      if s.reshard.prepared && (otherPositions s (cGroup f.bits)).all (fun p => s.reshard.ready.any (fun r =>
          r.1 = rid && r.2.1.toNat = round && r.2.2.1 = p)) then setStage f.id .done s
      else s
  | _, _ => s

/-- A move list that the row has read from the other half is known here from then on. -/
def keepList (id : Nat) (s : State) : State :=
  match fetchTxn s id with
  | some t => { s with fab := { s.fab with far := t.data.foldl (fun m x => mwrite m x.1 [x.2]) s.fab.far } }
  | none => s

/-- R257, step 1. -/
def startRound (c : RowCtx) (s : State) : State :=
  let w := c.bits
  let s := keepList c.id s
  let ins := (movesIn s w).filter (fun m => ownBlock s w (mvTaddr m))
  let outs := ((movesOut s w).filter (fun m => ownBlock s w (mvFaddr m))).map (fun m => (mvFaddr m, mvShard m))
  let s := { s with reshard := { s.reshard with active := some (tagRid w, tagRound w, fld (listHead s w) 96 16), landed := [], vacate := outs,
                                                incoming := ins, prepared := false } }
  let x := ins.foldl (fun x m => (moveSources x.2 m).foldl (pullCopy c m) x) (true, s)
  if !x.1 || runHalting x.2 then dropTxns c.id x.2
  else settleReshard (ins.foldl (fun s m => landMove c.id c.row m s) (addFlight c .reshard 0 [] x.2))

/-- The row reads its move list first (R255). -/
def reshardEffect (c : RowCtx) (s : State) : State := withSpace c (cSrc c.bits) (cSrcBytes c.bits) (startRound c) s

def execReshardRound (dt : Nat) (s : State) : Host.Outcome State Fault Refusal :=
  event true (dataEvent (fun w => rowKind w = 5 && cCop w = 4) dt reshardEffect) s

/-- Every block that this module moves away has been read whole, and no answer waits to be acknowledged. -/
def outgoingDone (s : State) (w : Row) : Bool :=
  (movesOut s w).all (fun m => mvTo m = s.job.myRank || !ownBlock s w (mvFaddr m) ||
    decide (4096 * mvPages m ≤ ((s.reshard.pulled.filter (fun p => mvFaddr m ≤ p.1 && p.1 < mvFaddr m + 4096 * mvPages m)).map Prod.snd).sum)) &&
  !s.fab.ports.any (fun p => (p.queue ++ p.sent).any (fun o => o.vc = 0 && (match o.body with | .copy m => m.op = 0x04 | _ => false)))

/-- NEXT of the first STEP row after a row. -/
def nextAfter (s : State) (slot : Bool) (row : Nat) : Nat :=
  let rows := (slotOf s slot).rows
  match (List.range rows.length).find? (fun k => row < k && rowKind (nth rows k 0) = 12) with
  | some k => sNext (nth rows k 0)
  | none => 0

/-- A journal entry for the round in progress, written now. -/
def journalNow (s : State) (rid : BitVec 16) (round : Nat) (st : BitVec 2) (slot : Bool) (next : Nat) : JournalEntry :=
  { rid := rid, round := BitVec.ofNat 16 round, state := st, ttdig := BitVec.ofNat 64 (bits (slotOf s slot).digest 0 64),
    next := BitVec.ofNat 14 next, slot := slot, pcycle := s.log.powerCycles, crc := 0 }

/-- A message of a row to every other present member of a group, on CONTROL. -/
def sendGroup (g : Nat) (flight : Option Nat) (b : Body) (s : State) : State :=
  (otherMembers s g).foldl (fun s r => send (rankNode (rankEntry s r)) 3 flight b s) s

/-- READY goes to the group once this rank is prepared: in a pair that executes the row on both halves the secondary tells the
primary, which speaks for both. -/
def sayReady (rid : BitVec 16) (round : Nat) (f : Flight) (s : State) : State :=
  let g := cGroup f.bits
  let me := positionIn s g
  let b := Body.ready rid (BitVec.ofNat 16 round) me (BitVec.ofNat 40 (cCount f.bits))
  if inPair s && rowHalves f.bits = 3 then
    if s.pair.role = .secondary then sendLash b s
    else if s.reshard.ready.any (fun r => r.1 = rid && r.2.1.toNat = round && r.2.2.1 = me) then sendGroup g none b s
    else s
  else sendGroup g none b s

/-- R257, step 2. -/
def prepare (s : State) : State :=
  match s.reshard.active, reshardFlight s with
  | some (rid, round, _), some f =>
    if !s.reshard.prepared && s.reshard.incoming.isEmpty && outgoingDone s f.bits && !hasTxn s f.id then
      let s := journalPut (journalNow s rid round 1 f.slot (nextAfter s f.slot f.row)) s
      let s := { s with reshard := { s.reshard with prepared := true } }
      settleReshard (sayReady rid round f s)
    else s
  | _, _ => s

def execReshardPrepared (s : State) : Host.Outcome State Fault Refusal := event true prepare s

/-- What the primary hears from a peer it passes to the secondary, whose job it is too (spec/12_lashing.md R275). -/
def echo (b : Body) (s : State) : State := if s.pair.role = .primary then sendLash b s else s

def reshardReady (rid round : BitVec 16) (position : Nat) (count : BitVec 40) (s : State) : State :=
  let s := { s with reshard := { s.reshard with ready := insertOnce (rid, round, position, count) s.reshard.ready } }
  match reshardFlight s with
  | none => echo (.ready rid round position count) s
  | some f =>
    if position = positionIn s (cGroup f.bits) then (if s.reshard.prepared then settleReshard (sayReady rid round.toNat f s) else s)
    else settleReshard (echo (.ready rid round position count) s)

def execReshardReady (rid round : BitVec 16) (position : ReadyFrom) (s : State) : Host.Outcome State Fault Refusal :=
  event s.job.started (reshardReady rid round position.position position.count) s

/-- The round commits (R257): headers, journal, record; the last round ends RESHARDING. -/
def commitRound (slot : Bool) (next : Nat) (s : State) : State :=
  match s.reshard.active with
  | none => s
  | some (rid, round, rounds) =>
    if !s.reshard.prepared then s
    else
      let s := putStates 0 s.reshard.vacate (putStates 1 s.reshard.landed s)
      let s := journalPut (journalNow s rid round 2 slot next) s
      let s := record Code.reshardCommit (wordBytes rid ++ leBytes 2 round) s
      { s with reshard := { s.reshard with
          active := if round + 1 = rounds then none else s.reshard.active, landed := [], vacate := [], incoming := [], pulled := [],
          prepared := false, ready := s.reshard.ready.filter (fun r => !(r.1 = rid && r.2.1.toNat = round)) } }

end Sys2Proof.Machine
end

