-- ==== Sys2Proof/Machine/Ferry.lean ====
section
/-!
DEFINITION. The token ferry (spec/11_collectives.md R260 to R266): DISPATCH with admission by key, RETURN and COMBINE, and the
messages that carry them. A pair is a (region, token, entry) of a sender; regions of the secondary half count from 64.
-/
namespace Sys2Proof.Machine

/-! ### Homes -/

abbrev FerryPair := BitVec 7 × BitVec 32 × BitVec 3

def homeEntry (s : State) (table expert : Nat) : BitVec 64 :=
  nth (((sget? s.job.homes table).map HomeTable.entries).getD []) expert (BitVec.ofNat 64 (0xFFFF + 0xFFFF * 2 ^ 32))

def homeGroup (s : State) (table : Nat) : Nat := ((sget? s.job.homes table).map HomeTable.group).getD 0

/-- The first (false) or second (true) home: rank and region, where one is named and present. -/
def homeOf (s : State) (table expert : Nat) (second : Bool) : Option (Nat × Nat) :=
  let e := homeEntry s table expert
  let r := if second then bits e 32 16 else bits e 0 16
  if r = 0xFFFF || !rankPresent (rankEntry s r) then none else some (r, if second then bits e 48 7 else bits e 16 7)

/-- Experts that this half homes in a wave: expert and region. -/
def myHomes (s : State) (table : Nat) (second : Bool) : List (Nat × Nat) :=
  (List.range (((sget? s.job.homes table).map HomeTable.entries).getD []).length).filterMap (fun x =>
    match homeOf s table x second with
    | some (r, reg) => if r = s.job.myRank && reg / 64 = myHalf s then some (x, reg % 64) else none
    | none => none)

/-- The node of a half of a rank. -/
def halfNode (s : State) (rank half : Nat) : BitVec 14 :=
  let e := rankEntry s rank
  if half = 1 && rankPair e then BitVec.ofNat 14 (bits e 16 14) else rankNode e

/-! ### State of a table -/

def onFerryOf (attempt table : Nat) (f : FerryState → FerryState) (s : State) : State :=
  let k := attempt * 256 + table
  { s with job := { s.job with ferryNow := sput s.job.ferryNow k (f (sget s.job.ferryNow k FerryState.start)) } }

def onFerry (table : Nat) (f : FerryState → FerryState) (s : State) : State := onFerryOf (attemptNow s) table f s

def onCount (table : Nat) (f : FerryCount → FerryCount) (s : State) : State :=
  { s with job := { s.job with ferry := sput s.job.ferry table (f (ferryCount s table)) } }

/-! ### Arrivals -/

def pairOf (m : FerryMsg) : FerryPair := (m.region, m.token, m.entry)

/-- The position with its half, as DONE messages name a sender. -/
def senderOf (position : BitVec 16) (region : BitVec 7) : BitVec 16 := position + BitVec.ofNat 16 (region.toNat / 64 * 2 ^ 15)

/-- The RETURN in flight that a pair's output is owed to, the earliest: its flight and dispatch. -/
def owedTo (s : State) (table : Nat) (pair : FerryPair) : Option (Flight × Nat) :=
  let f := ferryState s table
  f.returns.findSome? (fun r =>
    if f.owed.contains (r.2, pair) then (s.seq.flight.find? (fun x => x.id = r.1)).map (fun x => (x, r.2)) else none)

/-- A RETURN is done here once nothing is owed to it. -/
def settleReturns (table : Nat) (s : State) : State :=
  (ferryState s table).returns.foldl (fun s r =>
    if (ferryState s table).owed.any (fun o => o.1 = r.2) then s
    else setStage r.1 .done (onFerry table (fun f => { f with returns := f.returns.erase r }) s)) s

/-- An output lands in its source's region at LAND + (8t + i) strides (R264); one that no RETURN here waits for yet is held. -/
def landOutput (m : FerryMsg) (s : State) : State :=
  let t := m.table.toNat
  match owedTo s t (pairOf m) with
  | none => onFerry t (fun f => { f with outputs := f.outputs ++ [m] }) s
  | some (x, n) =>
    let p := placeOf s (m.region.toNat % 64) (fLand x.bits)
    let s := writeMem p.1 (p.2 + (8 * m.token.toNat + m.entry.toNat) * fStride x.bits) m.data s
    onFerry t (fun f => { f with owed := f.owed.erase (n, pairOf m) }) s

/-- The dispatch that a token is of: the one after those that its sender has ended. -/
def dispatchOf (f : FerryState) (m : FerryMsg) : Nat := f.dones.count (m.wave, senderOf m.position m.region) + 1

/-- A token or an output arrives; one of another attempt is held for it. -/
def deliver (m : FerryMsg) (s : State) : State :=
  let t := m.table.toNat
  if m.attempt ≠ attemptNow s then
    onFerryOf m.attempt t (fun f =>
      if m.isReturn then { f with outputs := f.outputs ++ [m] } else { f with arrivals := f.arrivals ++ [(dispatchOf f m, m)] }) s
  else if m.isReturn then settleReturns t (landOutput m s)
  else onFerry t (fun f => { f with arrivals := f.arrivals ++ [(dispatchOf f m, m)] }) s

/-- A ferry message goes to a half of a rank: this one, the other half, or a peer. -/
def ferrySend (id rank half : Nat) (b : Body) (here : State → State) (s : State) : State :=
  if rank = s.job.myRank then
    (if half = myHalf s || !inPair s then here s else enqueueLash 1 (some id) b s)
  else send (halfNode s rank half) 1 (some id) b s

/-! ### Pairs of a DISPATCH, R262, R263 -/

/-- Entry i of a token's route record in a region: expert and gate. -/
def routeEntry (s : State) (w : Row) (r token i : Nat) : Nat × F32 :=
  let p := placeOf s r (fRoutes w)
  let v := ofLe (readMem s p.1 (p.2 + 64 * token + 8 * i) 8)
  (fld v 0 16, BitVec.ofNat 32 (fld v 32 32))

/-- A token's elements. -/
def tokenBytes (s : State) (w : Row) (r token : Nat) : List Byte :=
  let p := placeOf s r (fTokens w)
  readMem s p.1 (p.2 + token * fStride w) (fmtBytes (fmtCode (fFmt w)) (fWidth w))

/-- A pair goes to a home of its expert. -/
def sendPair (id : Nat) (w : Row) (expert : Nat) (wave : Bool) (home : Nat × Nat) (pair : FerryPair) (s : State) : State :=
  let t := fHomes w
  let m : FerryMsg :=
    { table := BitVec.ofNat 8 t, isReturn := false, wave := wave, position := BitVec.ofNat 16 (positionIn s (homeGroup s t)),
      region := pair.1, token := pair.2.1, entry := pair.2.2, expert := BitVec.ofNat 16 expert, step := s.seq.step,
      attempt := attemptNow s, data := tokenBytes s w (pair.1.toNat % 64) pair.2.1.toNat }
  let s := onFerry t (fun f => { f with awaited := insertOnce (m.expert, wave) f.awaited }) s
  ferrySend id home.1 (home.2 / 64) (.ferry m) (deliver m) s

/-- A pair is dropped. -/
def dropPair (table : Nat) (pair : FerryPair) (s : State) : State :=
  let s := onFerry table (fun f => { f with dropped := f.dropped ++ [pair], owed := f.owed.erase (f.round, pair) }) s
  onCount table (fun c => { c with dropped := satAdd c.dropped 1 }) s

/-- The pair of one route entry sets out. -/
def startPair (id : Nat) (w : Row) (r token i : Nat) (s : State) : State :=
  let t := fHomes w
  let e := (routeEntry s w r token i).1
  if e = 0xFFFF then s
  else
    let pair : FerryPair := (BitVec.ofNat 7 (myHalf s * 64 + r), BitVec.ofNat 32 token, BitVec.ofNat 3 i)
    let s := onFerry t (fun f => { f with owed := f.owed ++ [(f.round, pair)] }) s
    match homeOf s t e false, homeOf s t e true with
    | some h, _ => sendPair id w e false h pair (onCount t (fun c => { c with sent := satAdd c.sent 1 }) s)
    | none, some h => sendPair id w e true h pair (onCount t (fun c => { c with sent := satAdd c.sent 1 }) s)
    | none, none => dropPair t pair s

/-- Every half of every other present member, and the other half of this rank, hears a DONE. -/
def sendDone (id : Nat) (w : Row) (wave : Bool) (s : State) : State :=
  let t := fHomes w
  let g := homeGroup s t
  let me := senderOf (BitVec.ofNat 16 (positionIn s g)) (BitVec.ofNat 7 (myHalf s * 64))
  let b := Body.ferryDone (BitVec.ofNat 8 t) wave
  let s := onFerry t (fun f => { f with dones := f.dones ++ [(wave, me)] }) s
  (groupRanks s g).foldl (fun s r =>
    let e := rankEntry s r
    if !rankPresent e then s
    else (halvesOf w).foldl (fun s h =>
      if h = 1 && !rankPair e then s else if r = s.job.myRank && h = myHalf s then s else ferrySend id r h b (fun s => s) s) s) s

/-- The senders whose DONE a wave waits for. -/
def doneSenders (s : State) (w : Row) : List (BitVec 16) :=
  let g := homeGroup s (fHomes w)
  (List.range (groupLen s g)).flatMap (fun p =>
    if !posPresent s g p then []
    else (halvesOf w).filterMap (fun h =>
      if h = 1 && !rankPair (posEntry s g p) then none else some (senderOf (BitVec.ofNat 16 p) (BitVec.ofNat 7 (h * 64)))))

/-- A wave can reach this module: it homes an expert in it, and for wave 1 the policy or an absent first home sends there. -/
def waveReaches (s : State) (w : Row) (wave : Bool) : Bool :=
  (myHomes s (fHomes w) wave).any (fun p => !wave || fPolicy w = 1 || (homeOf s (fHomes w) p.1 false).isNone)

/-- Every sender has ended the wave of the dispatch that runs. -/
def waveHeard (s : State) (w : Row) (wave : Bool) : Bool :=
  let f := ferryState s (fHomes w)
  (doneSenders s w).all (fun p => decide (f.round ≤ f.dones.count (wave, p)))

/-! ### Admission -/

/-- The key's order: position, region, token, entry (one wave at a time). -/
def keyLt (a b : FerryMsg) : Bool :=
  let k (m : FerryMsg) : Nat := ((m.position.toNat * 2 ^ 7 + m.region.toNat) * 2 ^ 32 + m.token.toNat) * 2 ^ 3 + m.entry.toNat
  decide (k a < k b)

def insertKey (m : FerryMsg) : List FerryMsg → List FerryMsg
  | [] => [m]
  | x :: r => if keyLt m x then m :: x :: r else x :: insertKey m r

/-- A slot's tag. -/
def tagBytes (m : FerryMsg) : List Byte :=
  leBytes 16 (m.position.toNat + m.region.toNat * 2 ^ 16 + b2n m.wave * 2 ^ 23 + m.token.toNat * 2 ^ 24 + m.entry.toNat * 2 ^ 56)

/-- The landing area with its tags. -/
def landingArea (w : Row) (ms : List FerryMsg) : List Byte :=
  let pad (m : FerryMsg) : List Byte := m.data.take (fStride w) ++ zeros (fStride w - m.data.length)
  ms.flatMap pad ++ zeros ((fCap w - ms.length) * fStride w) ++ ms.flatMap tagBytes ++
    (List.replicate (fCap w - ms.length) ([0xFF, 0xFF] ++ zeros 14)).flatten

/-- A reply is heard: refused pairs go to the second home or are dropped. -/
def takeReply (id : Nat) (w : Row) (a : Admission) (s : State) : State :=
  let t := a.table.toNat
  let s := onFerry t (fun f => { f with awaited := f.awaited.erase (a.expert, a.wave) }) s
  a.refused.foldl (fun s pair =>
    match (if a.wave || fPolicy w = 0 then none else homeOf s t a.expert.toNat true) with
    | some h => sendPair id w a.expert.toNat true h pair s
    | none => dropPair t pair s) s

/-- One home admits a wave: the CAP lowest keys land, and every sender hears of its pairs. -/
def admitHome (id : Nat) (w : Row) (wave : Bool) (s : State) (home : Nat × Nat) : State :=
  let t := fHomes w
  let f := ferryState s t
  let ms := ((f.arrivals.filter (fun m => m.1 = f.round && m.2.wave = wave && m.2.expert.toNat = home.1)).map Prod.snd).foldl
    (fun l m => insertKey m l) []
  let won := ms.take (fCap w)
  let lost := ms.drop (fCap w)
  let p := placeOf s home.2 (fLand w)
  let s := writeMem p.1 p.2 (landingArea w won) s
  let s := onCount t (fun c => { c with admitted := satAdd c.admitted won.length, second := if wave then satAdd c.second won.length else c.second }) s
  let senders := ms.foldl (fun l m => insertOnce (m.position.toNat, m.region.toNat / 64) l) []
  senders.foldl (fun s q =>
    let mine (m : FerryMsg) : Bool := m.position.toNat = q.1 && m.region.toNat / 64 = q.2
    let a : Admission := { table := BitVec.ofNat 8 t, wave := wave, expert := BitVec.ofNat 16 home.1,
                           refused := (lost.filter mine).map pairOf, step := s.seq.step, attempt := attemptNow s }
    ferrySend id (nth (groupRanks s (homeGroup s t)) q.1 0) q.2 (.admission a) (takeReply id w a) s) s

/-- A wave is admitted once; where it cannot reach this module its homes' landing areas are empty. -/
def admitWave (id : Nat) (w : Row) (wave : Bool) (s : State) : State :=
  let t := fHomes w
  if (waveHeard s w wave || !waveReaches s w wave) && !(ferryState s t).admitted.contains wave then
    (myHomes s t wave).foldl (admitHome id w wave) (onFerry t (fun f => { f with admitted := wave :: f.admitted }) s)
  else s

/-- The replies of wave 0 have all come: DONE of wave 1. -/
def endWave0 (id : Nat) (w : Row) (s : State) : State :=
  let f := ferryState s (fHomes w)
  if !f.sentDone && !f.awaited.any (fun a => !a.2) then
    sendDone id w true (onFerry (fHomes w) (fun f => { f with sentDone := true }) s)
  else s

/-- R263: what was of this dispatch leaves. -/
def endDispatch (id : Nat) (w : Row) (s : State) : State :=
  let f := ferryState s (fHomes w)
  if f.sentDone && f.awaited.isEmpty && f.admitted.contains false && f.admitted.contains true then
    setStage id .done (onFerry (fHomes w) (fun f =>
      { f with arrivals := f.arrivals.filter (fun m => decide (f.round < m.1)), admitted := [], sentDone := false }) s)
  else s

/-- The DISPATCH in flight on a table goes as far as what has been heard allows. -/
def settleDispatch (table : Nat) (s : State) : State :=
  match s.seq.flight.find? (fun f => f.stage = .dispatch && fHomes f.bits = table) with
  | none => s
  | some f => endDispatch f.id f.bits (admitWave f.id f.bits true (endWave0 f.id f.bits (admitWave f.id f.bits false s)))

/-! ### DISPATCH -/

/-- SRAM ranges of the sending or the landing regions. -/
def regionRanges (regions : List Nat) (l : List (OpRef × Nat)) : Ranges := regions.flatMap (fun r => l.map (fun x => (r, piece x.1 x.2)))

def dispatchEffect (c : RowCtx) (s : State) : State :=
  let w := c.bits
  let t := fHomes w
  let sending := (ferryRegions s t w).2
  withSram c (regionRanges sending (ferrySends w)) (fun s =>
    let s := { s with job := { s.job with ferryRow := w } }
    let s := onFerry t (fun f => { f with round := f.round + 1, dropped := [], awaited := [], admitted := [], sentDone := false }) s
    let s := sending.foldl (fun s r => (List.range (fCount w)).foldl (fun s k => (List.range 8).foldl (fun s i => startPair c.id w r k i s) s) s) s
    let s := sendDone c.id w false s
    if runHalting s then s else settleDispatch t (addFlight c .dispatch 0 [] s)) s

def execDispatch (dt : Nat) (s : State) : Host.Outcome State Fault Refusal :=
  event true (dataEvent (fun w => rowKind w = 6 && fFop w = 0) dt dispatchEffect) s

/-- A token or output comes; one of an earlier step or attempt is discarded. -/
def ferryMessage (m : FerryMsg) (s : State) : State :=
  if older s m.step m.attempt then s else settleDispatch m.table.toNat (deliver m s)

def execFerryMessage (p : Fin 7) (m : FerryMsg) (tagOk : Bool) (s : State) : Host.Outcome State Fault Refusal :=
  event true (takeMsg p.val tagOk (opHeld 0x20) (bodyParts (.ferry m)) (ferryMessage m)) s

def admissionReply (a : Admission) (s : State) : State :=
  if older s a.step a.attempt then s
  else match s.seq.flight.find? (fun f => f.stage = .dispatch && fHomes f.bits = a.table.toNat) with
    | some f => settleDispatch a.table.toNat (takeReply f.id f.bits a s)
    | none => s

def execAdmissionReply (a : Admission) (s : State) : Host.Outcome State Fault Refusal := event s.job.started (admissionReply a) s

/-- A sender has ended a wave of the dispatch after those that it has ended before. -/
def ferryDone (table : Nat) (wave : Bool) (position : BitVec 16) (step : BitVec 48) (attempt : Nat) (s : State) : State :=
  if older s step attempt then s
  else settleDispatch table (onFerryOf attempt table (fun f => { f with dones := f.dones ++ [(wave, position)] }) s)

def execFerryDone (table : BitVec 8) (wave : Bool) (position : BitVec 16) (step : BitVec 48) (attempt : Nat) (s : State) :
    Host.Outcome State Fault Refusal := event s.job.started (ferryDone table.toNat wave position step attempt) s

/-! ### RETURN, R264 -/

/-- An admitted slot's output goes back to its source. -/
def returnSlot (id : Nat) (w d : Row) (r slot : Nat) (s : State) : State :=
  let lp := placeOf s r (fLand d)
  let tag := ofLe (readMem s lp.1 (lp.2 + fCap d * fStride d + 16 * slot) 16)
  if fld tag 0 16 = 0xFFFF then s
  else
    let tp := placeOf s r (fTokens w)
    let t := fHomes d
    let m : FerryMsg :=
      { table := BitVec.ofNat 8 t, isReturn := true, wave := fld tag 23 1 = 1, position := BitVec.ofNat 16 (fld tag 0 16),
        region := BitVec.ofNat 7 (fld tag 16 7), token := BitVec.ofNat 32 (fld tag 24 32), entry := BitVec.ofNat 3 (fld tag 56 3), expert := 0,
        step := s.seq.step, attempt := attemptNow s,
        data := readMem s tp.1 (tp.2 + slot * fStride w) (fmtBytes (fmtCode (fFmt w)) (fWidth w)) }
    ferrySend id (nth (groupRanks s (homeGroup s t)) (fld tag 0 16) 0) (fld tag 16 7 / 64) (.ferry m) (deliver m) s

def returnEffect (c : RowCtx) (s : State) : State :=
  let w := c.bits
  let d := s.job.ferryRow
  let t := fHomes d
  let landing := (ferryRegions s t w).1
  withSram c (regionRanges landing [(fTokens w, fCap d * fStride w), (fLand d, landBytes d)]) (fun s =>
    let early := (ferryState s t).outputs
    let s := onFerry t (fun f => { f with width := fWidth w, fmt := BitVec.ofNat 8 (fFmt w), outputs := [], returns := f.returns ++ [(c.id, f.round)] }) s
    let s := addFlight c .ferryReturn 0 [] s
    let s := early.foldl (fun s m => landOutput m s) s
    let s := landing.foldl (fun s r => (List.range (fCap d)).foldl (fun s k => returnSlot c.id w d r k s) s) s
    settleReturns t s) s

def execFerryReturn (dt : Nat) (s : State) : Host.Outcome State Fault Refusal :=
  event true (dataEvent (fun w => rowKind w = 6 && fFop w = 1) dt returnEffect) s

/-! ### COMBINE, R265 -/

/-- One token of a region: its output bytes and flags. -/
def combineToken (s : State) (w : Row) (f : FerryState) (r token : Nat) : List Byte × BitVec 8 :=
  let p := placeOf s r (fLand w)
  let outs := (List.range 8).map (fun i =>
    let e := routeEntry s w r token i
    if e.1 = 0xFFFF || f.dropped.contains (BitVec.ofNat 7 (myHalf s * 64 + r), BitVec.ofNat 32 token, BitVec.ofNat 3 i) then none
    else
      let bs := readMem s p.1 (p.2 + (8 * token + i) * outStride s) (fmtBytes (fmtCode f.fmt.toNat) f.width)
      some ((readFloats (fmtCode f.fmt.toNat) (fWidth w) bs).map (fun o => Fr.mul (fr e.2) o)))
  let ys := (List.range (fWidth w)).map (fun k =>
    let y := canonP (outs.map (fun o => o.map (fun l => nth l k (fr 0))))
    let c := convert (fFmt w) none y.1
    (c.1, y.2 ||| c.2))
  (ys.flatMap Prod.fst, ys.foldl (fun a y => a ||| y.2) 0)

def combineEffect (c : RowCtx) (s : State) : State :=
  let w := c.bits
  let t := fHomes s.job.ferryRow
  let sending := (ferryRegions s t w).2
  withSram c (regionRanges sending [(fRoutes w, 64 * fCount w), (fLand w, 8 * fCount w * outStride s)]) (fun s =>
    let outs := sending.flatMap (fun r => (List.range (fCount w)).map (fun k => (r, k, combineToken s w (ferryState s t) r k)))
    let s := outs.foldl (fun s o =>
      let p := placeOf s o.1 (fTokens w)
      writeMem p.1 (p.2 + o.2.1 * fStride w) o.2.2.1 s) s
    addFlight c .done (outs.foldl (fun a o => a ||| o.2.2.2) 0) [] s) s

def execFerryCombine (dt : Nat) (s : State) : Host.Outcome State Fault Refusal :=
  event true (dataEvent (fun w => rowKind w = 6 && fFop w = 2) dt combineEffect) s

end Sys2Proof.Machine
end

