-- ==== Sys2Proof/Machine/Control.lean ====
section
/-!
DEFINITION. Control rows (spec/07_timetable.md R168 to R174; spec/03_quantiser.md R87 to R91; spec/11_collectives.md R251 to R253;
spec/13_commands.md R313) and the messages that JOB barriers and JOB governors wait for.
-/
namespace Sys2Proof.Machine

def noWait (_ : Row) (_ : State) : Option Cause := none

/-- Issue goes on at the row after a control row. -/
def pastRow (c : RowCtx) (s : State) : State := setNext (c.row + 1) s

/-- A row leaves flight as it is, with nothing to add. -/
def leaveFlight (id : Nat) (s : State) : State := settleHalt (onSeq (fun q => { q with flight := q.flight.filter (fun f => f.id != id) }) s)

def execNop (dt : Nat) (s : State) : Host.Outcome State Fault Refusal :=
  event true (controlEvent (fun w => rowKind w = 0) dt noWait (fun c _ s => pastRow c s)) s

/-! ### BRANCH and HALT, R169, R170, R174 -/

/-- A GOVERN row that names the register has not written it (R91). -/
def verdictHeld (s : State) (reg : Nat) : Bool := s.seq.flight.any (fun f => f.stage = .govern && gVerdict f.bits = reg)

/-- What a condition waits for (Table 07-7). -/
def condWait (w : Row) (s : State) : Option Cause :=
  match bCond w with
  | 1 | 2 => if verdictHeld s (bArg0 w) then some Cause.verdictWait else none
  | 3 | 4 => if s.seq.flight.any (fun f => rowFreg f.bits = bArg0 w) then some Cause.flagWait else none
  | _ => none

def flagsOf (s : State) (reg : Nat) : BitVec 8 := sget s.seq.flags reg 0

/-- The condition holds. -/
def condHolds (s : State) (w : Row) : Bool :=
  match bCond w with
  | 0 => true
  | 1 => verdictOf s (bArg0 w) = bArg1 w
  | 2 => verdictOf s (bArg0 w) != bArg1 w
  | 3 => flagsOf s (bArg0 w) &&& BitVec.ofNat 8 (bArg1 w) != 0
  | 4 => flagsOf s (bArg0 w) &&& BitVec.ofNat 8 (bArg1 w) = 0
  | 5 => (sget s.seq.watch (bArg0 w) Watch.zero).drift
  | 6 => !(sget s.seq.watch (bArg0 w) Watch.zero).drift
  | 7 => s.seq.step.toNat % bMod w = bRem w
  | 8 => s.job.relaxed
  | _ => false

/-- CLR clears the flag register right after the test (R172). -/
def afterTest (w : Row) (s : State) : State :=
  if bClr w then onSeq (fun q => { q with flags := sdel q.flags (bArg0 w) }) s else s

def branchEffect (c : RowCtx) (s : State) : State :=
  setNext (if condHolds s c.bits then bTarget c.bits else c.row + 1) (afterTest c.bits s)

def execBranch (dt : Nat) (s : State) : Host.Outcome State Fault Refusal :=
  event true (controlEvent (fun w => rowKind w = 8) dt condWait (fun c _ s => branchEffect c s)) s

/-- TIMETABLE_HALT: slot, row, LAYER, CODE (R174). -/
def timetableHalt (slot : Bool) (row layer : Nat) (code : BitVec 16) (s : State) : State :=
  pairEvent Code.timetableHalt (slotByte slot ++ leBytes 2 row ++ leBytes 2 layer ++ wordBytes code) s

def haltEffect (c : RowCtx) (s : State) : State :=
  if condHolds s c.bits then
    haltWith Status.haltedByRow (bCode c.bits) (some c.row) false
      (timetableHalt c.slot c.row (rowLayer c.bits) (bCode c.bits) (afterTest c.bits s))
  else pastRow c (afterTest c.bits s)

def execHalt (dt : Nat) (s : State) : Host.Outcome State Fault Refusal :=
  event true (controlEvent (fun w => rowKind w = 15) dt condWait (fun c _ s => haltEffect c s)) s

/-! ### LOOP and ENDLOOP, R171 -/

def loopEffect (c : RowCtx) (s : State) : State :=
  pastRow c (onSeq (fun q => { q with loops := sput q.loops (lReg c.bits) (lCount c.bits) }) s)

def execLoop (dt : Nat) (s : State) : Host.Outcome State Fault Refusal :=
  event true (controlEvent (fun w => rowKind w = 9) dt noWait (fun c _ s => loopEffect c s)) s

def endloopEffect (c : RowCtx) (s : State) : State :=
  let n := sget s.seq.loops (lReg c.bits) 0 - 1
  if n = 0 then pastRow c (onSeq (fun q => { q with loops := sdel q.loops (lReg c.bits) }) s)
  else setNext (lMate c.bits + 1) (onSeq (fun q => { q with loops := sput q.loops (lReg c.bits) n }) s)

def execEndloop (dt : Nat) (s : State) : Host.Outcome State Fault Refusal :=
  event true (controlEvent (fun w => rowKind w = 10) dt noWait (fun c _ s => endloopEffect c s)) s

/-! ### BARRIER, R173 -/

/-- Every earlier row has completed. -/
def barrierWait (_ : Row) (s : State) : Option Cause := if s.seq.flight.isEmpty then none else some Cause.barrier

/-- The arrivals a JOB barrier waits for: one of every other present member. -/
def barrierNeeds (s : State) (w : Row) : List (BitVec 12 × BitVec 32 × Nat × Nat) :=
  (otherPositions s (barGroup w)).map (fun p => (BitVec.ofNat 12 (barGroup w), barTag w, p, attemptNow s))

/-- The JOB barrier in flight completes once every arrival has come; each barrier takes its own. -/
def settleBarrier (s : State) : State :=
  match s.seq.flight.find? (fun f => f.stage = .barrier) with
  | none => s
  | some f =>
    if (barrierNeeds s f.bits).all (fun a => s.job.arrivals.contains a) then
      leaveFlight f.id { s with job := { s.job with arrivals := (barrierNeeds s f.bits).foldl (fun l a => l.erase a) s.job.arrivals } }
    else s

/-- A commit barrier of the slot's lowering issues (spec/17_modes_repair.md R398). -/
def noteCommit (c : RowCtx) (s : State) : State :=
  if (slotOf s c.slot).lowered.any (fun l => l.barriers.contains c.row) then onRun (fun r => { r with committed := true }) s else s

def barrierEffect (c : RowCtx) (s : State) : State :=
  let w := c.bits
  let s := pastRow c (noteCommit c s)
  if !barJob w then s
  else
    let s := controlFlight c .barrier s
    let g := barGroup w
    let b := Body.barrier (BitVec.ofNat 12 g) (barTag w) (positionIn s g) s.seq.step (attemptNow s)
    settleBarrier (if s.pair.role = .secondary then s else sendGroup g none b s)

def execBarrier (dt : Nat) (s : State) : Host.Outcome State Fault Refusal :=
  event true (controlEvent (fun w => rowKind w = 11) dt barrierWait (fun c _ s => barrierEffect c s)) s

/-- A member has reached its barrier. -/
def barrierArrival (g : BitVec 12) (tag : BitVec 32) (position : Nat) (step : BitVec 48) (attempt : Nat) (s : State) : State :=
  if older s step attempt then s
  else settleBarrier (echo (.barrier g tag position step attempt) { s with job := { s.job with arrivals := s.job.arrivals ++ [(g, tag, position, attempt)] } })

def execBarrierArrival (g : BitVec 12) (tag : BitVec 32) (position : Nat) (step : BitVec 48) (attempt : Nat) (s : State) :
    Host.Outcome State Fault Refusal := event s.job.started (barrierArrival g tag position step attempt) s

/-- TIMEOUT milliseconds have passed (R173): GROUP, TAG and the members heard from. -/
def barrierTimeout (g : BitVec 12) (tag : BitVec 32) (s : State) : State :=
  match s.seq.flight.find? (fun f => f.stage = .barrier && barGroup f.bits = g.toNat && barTag f.bits = tag) with
  | none => s
  | some f =>
    let heard := ((barrierNeeds s f.bits).filter (fun a => s.job.arrivals.contains a)).length
    let s := pairEvent Code.barrierTimeout (leBytes 2 g.toNat ++ wordBytes tag ++ leBytes 8 heard) s
    haltAt Status.barrierTimeout f.row (onSeq (fun q => { q with flight := q.flight.filter (fun h => h.id != f.id) }) s)

def execBarrierTimeout (g : BitVec 12) (tag : BitVec 32) (s : State) : Host.Outcome State Fault Refusal :=
  event true (barrierTimeout g tag) s

/-! ### GOVERN, R87 to R90 -/

def governWait (w : Row) (s : State) : Option Cause :=
  if s.seq.flight.any (fun f => namesWatch f.bits = some (gWatch w)) || s.seq.watchWait.any (fun p => p.2.2.entry.toNat = gWatch w) then
    some Cause.watchWait
  else if verdictHeld s (gVerdict w) then some Cause.verdictWait
  else none

/-- The verdict that the two sums give; 0 is A4 and 1 is A8. -/
def newVerdict (w : Row) (old : Nat) (err en : F32) : Nat :=
  if flt (fmul (gThi w) en).1 err then 1 else if flt err (fmul (gTlo w) en).1 then 0 else old

def setVerdict (k v : Nat) (s : State) : State :=
  onSeq (fun q => { q with a4 := if v = 0 then insertOnce k q.a4 else q.a4.filter (fun x => x != k) }) s

/-- The function of R89 with the sums it uses. PRECISION_CHANGE: register, old, new, step, err, en. -/
def govern (w : Row) (err en : F32) (s : State) : State :=
  let k := gVerdict w
  let h := sget s.seq.hold k 0
  if h ≠ 0 then onSeq (fun q => { q with hold := sput q.hold k (h - 1) }) s
  else
    let old := verdictOf s k
    let new := newVerdict w old err en
    if new = old then s
    else
      let s := onSeq (fun q => { q with hold := sput q.hold k (gHold w) }) (setVerdict k new s)
      pairEvent Code.precisionChange ([BitVec.ofNat 8 k, BitVec.ofNat 8 old, BitVec.ofNat 8 new] ++ leBytes 8 s.seq.step.toNat ++
        wordBytes err ++ wordBytes en) s

/-- The sums of a rank for the earliest JOB governor in flight: the first of this attempt, since every rank issues its governors in
path order. -/
def sumOf (s : State) (p : Nat) : Option (F32 × F32) :=
  (s.job.sums.find? (fun x => x.1 = attemptNow s && x.2.1 = p)).map (fun x => x.2.2)

/-- Present ranks. -/
def presentRanks (s : State) : List Nat := (List.range s.job.ranks).filter (fun r => rankPresent (rankEntry s r))

/-- The sums of a completed row leave. -/
def dropSums (s : State) : List (Nat × Nat × F32 × F32) :=
  (presentRanks s).foldl (fun l p => l.eraseP (fun x => x.1 = attemptNow s && x.2.1 = p)) s.job.sums

/-- R90: the sums of every present rank, in the canonical tree over the job's ranks. -/
def finishGovern (f : Flight) (s : State) : State :=
  let tree (g : F32 × F32 → F32) : F32 :=
    (canonP ((List.range s.job.ranks).map (fun p => if rankPresent (rankEntry s p) then (sumOf s p).map (fun x => fr (g x)) else none))).1
  leaveFlight f.id (govern f.bits (tree Prod.fst) (tree Prod.snd) { s with job := { s.job with sums := dropSums s } })

/-- JOB governors, in path order, that every present rank has contributed to. -/
def settleGovernors : Nat → State → State
  | 0, s => s
  | n + 1, s =>
    match s.seq.flight.find? (fun f => f.stage = .govern) with
    | none => s
    | some f => if (presentRanks s).all (fun p => (sumOf s p).isSome) then settleGovernors n (finishGovern f s) else s

def settleGovern (s : State) : State := settleGovernors s.seq.flight.length s

def governEffect (c : RowCtx) (s : State) : State :=
  let w := c.bits
  let e := sget s.seq.watch (gWatch w) Watch.zero
  let s := pastRow c s
  if !gJob w then govern w e.err e.energy s
  else
    let me := s.job.myRank
    let s := controlFlight c .govern { s with job := { s.job with sums := s.job.sums ++ [(attemptNow s, me, e.err, e.energy)] } }
    let b := Body.govern me e.err e.energy s.seq.step (attemptNow s)
    settleGovern (if s.pair.role = .secondary then s else sendGroup 0 none b s)

def execGovern (dt : Nat) (s : State) : Host.Outcome State Fault Refusal :=
  event true (controlEvent (fun w => rowKind w = 7) dt governWait (fun c _ s => governEffect c s)) s

def governSum (position : Nat) (err en : F32) (step : BitVec 48) (attempt : Nat) (s : State) : State :=
  if older s step attempt then s
  else settleGovern (echo (.govern position err en step attempt)
    { s with job := { s.job with sums := s.job.sums ++ [(attempt, position, err, en)] } })

def execGovernSum (position : Nat) (err en : F32) (step : BitVec 48) (attempt : Nat) (s : State) :
    Host.Outcome State Fault Refusal := event s.job.started (governSum position err en step attempt) s

/-! ### NOTIFY, spec/13_commands.md R313 -/

/-- VALUE, slot and row, two zero bytes, and the step number. -/
def notifyText (s : State) (c : RowCtx) : List Byte :=
  wordBytes (nValue c.bits) ++ leBytes 2 (b2n c.slot + c.row * 2) ++ zeros 2 ++ leBytes 8 s.seq.step.toNat

/-- The entry is held for the ring; the secondary of a pair posts none (spec/12_lashing.md R274). -/
def notifyEffect (c : RowCtx) (r : ActiveRun) (s : State) : State :=
  let s := pastRow c s
  if s.pair.role = .secondary then s
  else controlFlight c .notify (hold { tag := 0xFFFF, kind := 1, status := Status.ok, raddr := BitVec.ofNat 64 r.req.sid.toNat,
                                       reply := notifyText s c } s)

def execNotify (dt : Nat) (s : State) : Host.Outcome State Fault Refusal :=
  event true (controlEvent (fun w => rowKind w = 14) dt noWait (fun c r s => notifyEffect c r s)) s

/-! ### EPOCH, R251 to R253 -/

/-- The half of a pair that holds the header (every half of no pair). -/
def holdsHeader (s : State) (w : Row) : Bool := match tierPlace s (eAddr w) with | .mem _ _ => true | _ => false

/-- What an EPOCH row reads: its header, and for ADVANCE the arrays that the header names. -/
def epochReads (w : Row) (s : State) : List Span :=
  span 0 (eAddr w) 32 ::
    (if eOp w = 2 then
      (let h := ofLe (listBytes s (eAddr w) 32)
       [span 0 (hdBase h) (hdLen h)])
     else [])

/-- It waits for the rows in flight that write what it reads. -/
def epochWait (w : Row) (s : State) : Option Cause :=
  if s.seq.flight.any (fun f => isData f.bits && spansMeet (rowSpans s f.bits).2 (epochReads w s)) then some Cause.dataOrder else none

/-- The ledger entry, and the other half's copy of it. -/
def noteLedger (c : RowCtx) (shard digest : BitVec 32) (epoch : Nat) (s : State) : State :=
  let s := if eOp c.bits = 0 then
      onSeq (fun q => { q with ledger := sput q.ledger (eEntry c.bits) { shard := shard, digest := digest, epoch := BitVec.ofNat 64 epoch } }) s
    else s
  pastRow c (sendLash (.forward (.ledger c.slot (BitVec.ofNat 14 c.row) shard digest (BitVec.ofNat 64 epoch))) s)

/-- The header of an ADVANCE with the digest of the bytes read. -/
def advanceHeader (c : RowCtx) (h : Nat) (s : State) : State :=
  let r := readSpace c.id (hdBase h) (hdLen h) s
  match r.2.1 with
  | some u => tierFault c.row (eShard c.bits) u r.2.2
  | none =>
    let d := crc32c r.1
    let h2 := fld h 0 32 + d.toNat * 2 ^ 32 + (hdEpoch h + 1) * 2 ^ 64 + h / 2 ^ 128 * 2 ^ 128
    noteLedger c (hdShard h) d (hdEpoch h + 1)
      (noteSpans [span 0 (eAddr c.bits) 32] (writeSpace c.id (eAddr c.bits) (leBytes 32 h2) r.2.2))

/-- ADVANCE: EPOCH + 1 and the digest of LEN bytes at BASE; the row takes a place in path order where it must ask the other half for
some of them. -/
def advance (c : RowCtx) (h : Nat) (s : State) : State :=
  if hdEpoch h + 1 = 2 ^ 64 then staleShard c.row (eShard c.bits) (eEntry c.bits) 0 (hdEpoch h) s
  else if asksFar s c.id (hdBase h) (hdLen h) then
    onSeq (fun q => { q with nextId := q.nextId + 1 }) (withSpace c (hdBase h) (hdLen h) (advanceHeader c h) s)
  else advanceHeader c h s

/-- CHECK: the header against the entry. -/
def checkEntry (c : RowCtx) (h : Nat) (s : State) : State :=
  match sget? s.seq.ledger (eEntry c.bits) with
  | some e =>
    if e.shard = hdShard h && e.digest = hdDigest h && e.epoch.toNat = hdEpoch h then noteLedger c e.shard e.digest (hdEpoch h) s
    else staleShard c.row (eShard c.bits) (eEntry c.bits) e.epoch.toNat (hdEpoch h) s
  | none => staleShard c.row (eShard c.bits) (eEntry c.bits) 0 (hdEpoch h) s

/-- R252 on the half that holds the header; the other half waits for what it found. -/
def epochEffect (c : RowCtx) (s : State) : State :=
  let w := c.bits
  if !holdsHeader s w then controlFlight c .epoch s
  else
    let r := readSpace c.id (eAddr w) 32 s
    match r.2.1 with
    | some u => tierFault c.row (eShard w) u r.2.2
    | none =>
      let h := ofLe r.1
      if hdShard h ≠ eShard w || hdState h ≠ 1 then staleShard c.row (eShard w) (eEntry w) 0 (hdEpoch h) r.2.2
      else match eOp w with
        | 0 => noteLedger c (hdShard h) (hdDigest h) (hdEpoch h) r.2.2
        | 1 => checkEntry c h r.2.2
        | _ => advance c h r.2.2

/-- What the other half found for the EPOCH row that waits here. -/
def takeLedger (slot : Bool) (row : BitVec 14) (shard digest : BitVec 32) (epoch : BitVec 64) (s : State) : State :=
  match s.seq.flight.find? (fun f => f.stage = .epoch && f.slot = slot && f.row = row.toNat) with
  | none => s
  | some f =>
    let s := if eOp f.bits = 0 then
        onSeq (fun q => { q with ledger := sput q.ledger (eEntry f.bits) { shard := shard, digest := digest, epoch := epoch } }) s
      else s
    leaveFlight f.id (setNext (f.row + 1) s)

def epochEvent (op dt : Nat) (s : State) : State :=
  controlEvent (fun w => rowKind w = 13 && eOp w = op) dt epochWait (fun c _ s => epochEffect c s) s

def execEpochRecord (dt : Nat) (s : State) : Host.Outcome State Fault Refusal := event true (epochEvent 0 dt) s
def execEpochCheck (dt : Nat) (s : State) : Host.Outcome State Fault Refusal := event true (epochEvent 1 dt) s
def execEpochAdvance (dt : Nat) (s : State) : Host.Outcome State Fault Refusal := event true (epochEvent 2 dt) s

/-! ### STEP, Table 07-9 -/

/-- Steps 2 and 3: the drift test; flag registers clear, loop registers idle, the ledger invalid. -/
def stepRegisters (s : State) : State :=
  onSeq (fun q => { q with flags := [], loops := [], ledger := [], issues := [] }) (driftTest s)

/-- Step 6: the RESHARD commit, image activation, DEBUG-OPEN of a pair, then sleep. -/
def stepPending (slot : Bool) (next : Nat) (s : State) : State :=
  let s := serveActivate (serveDebug (commitRound slot next s))
  if s.power.sleepReq && !s.gw.warmPending then completePower (enterSleep (onRun (fun r => { r with asleep := true }) s)) else s

/-- A swap at step 7: the armed slot becomes ACTIVE and the other LOADED. -/
def swapTo (b : Bool) (s : State) : State :=
  let s := onSlot b (fun sl => { sl with state := .active }) (onSlot (!b) (fun sl => { sl with state := .loaded }) s)
  onSeq (fun q => { q with slotGen := q.slotGen + 1 }) s

/-- Entry verdicts are saved as a step begins (spec/17_modes_repair.md R399). -/
def saveEntry (s : State) : State := onSeq (fun q => { q with entryVerdict := some (q.a4, q.hold) }) s

/-- The next step begins at a row. -/
def beginStep (slot : Bool) (row : Nat) (s : State) : State :=
  let s := if attemptNow s = 0 then s
    else { s with job := { s.job with ferryNow := s.job.ferryNow.filter (fun p => p.1 < 256) } }
  saveEntry (onRun (fun r => { r with slot := slot, next := row, stepEntry := row, attempt := 0, committed := false, waitCause := none }) s)

/-- The run ends at this boundary: END, STOP BOUNDARY, or the step budget is spent. -/
def runEnds (w : Row) (r : ActiveRun) : Bool := sEnd w || r.stopAt || r.budget = 1

/-- The boundary: steps 2 to 7 of Table 07-9. A run that ends completes RUN with OK. -/
def stepEffect (c : RowCtx) (r : ActiveRun) (s : State) : State :=
  let w := c.bits
  let s := sliverMaps (stepRegisters s)
  let s := onSeq (fun q => { q with step := q.step + 1 }) s
  let target := match armedSwap s with | some t => if sSwapOk w then t else (c.slot, sNext w) | none => (c.slot, sNext w)
  if runEnds w r then
    let s := stepPending c.slot (sNext w) s
    let s := { s with gw := { s.gw with runstate := .job } }
    closeRun r c.slot c.row Status.ok 0 s
  else
    let s := stepPending target.1 target.2 s
    let s := onRun (fun x => { x with budget := x.budget - 1 }) s
    let s := beginStep target.1 target.2 (if target.1 = c.slot then s else swapTo target.1 s)
    returnRegions (servePendingFences s)

def execStepRow (dt : Nat) (s : State) : Host.Outcome State Fault Refusal :=
  event true (controlEvent (fun w => rowKind w = 12) dt barrierWait (fun c r s => stepEffect c r s)) s

end Sys2Proof.Machine
end

