-- ==== Sys2Proof/Machine/Fabric.lean ====
section
/-!
DEFINITION. Copy messages at both ends (spec/10_fabric.md R241; spec/09_memory.md R204, R217; spec/12_lashing.md R288): WRITE and
READ of this half's bytes, and WRITE_DONE and READ_DATA, which complete a copy's part.
-/
namespace Sys2Proof.Machine

/-! ### Bytes that a message names -/

/-- The place of a LOCAL address of this half, as `localAddr` spells it. -/
def localPlace (s : State) (x : Nat) : Nat × Nat :=
  let r := x / 2 ^ 30 % 64
  let core := x / 2 ^ 22 % 256
  if core = 255 then (2, sliceKey r (x % 2 ^ 22)) else (1, stagingKey (physCore s r core) (x % 2 ^ 18))

/-- Where n bytes that a message names stand here; none where the address does not exist on this half. -/
def messagePlace (s : State) (p a n : Nat) : Option (Nat × Nat) :=
  if 0x30000000000 ≤ a then (if p = 6 then some (localPlace s (a - 0x30000000000)) else none)
  else match tierPlace s a with
    | .mem sp key => if key + n ≤ halfSplit then some (sp, key) else none
    | _ => none

/-- A message for the other half of this pair crosses the lash port. -/
def crosses (s : State) (p : Nat) (m : Msg) : Bool := p != 6 && inPair s && decide (m.half.toNat ≠ myHalf s)

/-- The answer goes back the way the message came: over the lash port where the other half made it (log entry 18). -/
def answer (p : Nat) (m : Msg) (op : BitVec 8) (addr ctx : Nat) (payload : List Byte) (s : State) : State :=
  sendCopy m.vc (p = 6 && m.src = m.dst) m.src op m.txn addr ctx payload s

/-! ### WRITE and READ -/

/-- A WRITE is answered by WRITE_DONE; one that names no byte of this half is discarded. -/
def writeHere (p : Nat) (m : Msg) (s : State) : State :=
  if crosses s p m then messageForward p m s
  else match messagePlace s p m.addr.toNat m.payload.length with
    | some pl => answer p m 0x02 0 0 [] (writeMem pl.1 pl.2 m.payload s)
    | none => s

def execWriteMsg (p : Fin 7) (m : Msg) (tagOk : Bool) (s : State) : Host.Outcome State Fault Refusal :=
  event true (takeMsg p.val tagOk (msgHeld m) 1 (writeHere p.val m)) s

/-- One unit is read for a peer: a second read, which a READ marked so makes, may succeed where the first fails (R217). -/
def giveUnit (again : Bool) (u : Nat) (s : State) : Bool × State :=
  let f := unitFails s u
  if !f.1 then (true, s)
  else if again && !f.2 then
    (true, { s with mem := { s.mem with tierBad := sdel s.mem.tierBad u, refetch := addCount s.mem.refetch (stackOf (256 * u)) 1 } })
  else (false, s)

/-- Units u and up: the first that cannot be given. -/
def giveUnits (again : Bool) : Nat → Nat → State → Option Nat × State
  | 0, _, s => (none, s)
  | n + 1, u, s => let r := giveUnit again u s; if r.1 then giveUnits again n (u + 1) r.2 else (some u, r.2)

/-- How many of n tier bytes at a can be given. -/
def giveTier (again : Bool) (a n : Nat) (s : State) : Nat × State :=
  if n = 0 then (0, s)
  else
    let r := giveUnits again ((a + n - 1) / 256 - a / 256 + 1) (a / 256) s
    (match r.1 with | none => n | some u => 256 * u - a, r.2)

/-- READ_DATA: bytes from a place of the reader's stream on, and how many after them cannot be read, which a second message says (CTX bit
21, its payload the number; log entry 18). -/
def giveBytes (p : Nat) (m : Msg) (place : Nat) (bs : List Byte) (bad : Nat) (s : State) : State :=
  let s := if bs.isEmpty then s else answer p m 0x04 (place % 2 ^ 42) (place / 2 ^ 42 % 2 ^ 21) bs s
  let k := place + bs.length
  if bad = 0 then s else answer p m 0x04 (k % 2 ^ 42) (k / 2 ^ 42 % 2 ^ 21 + 2 ^ 21) (leBytes 16 bad) s

/-- Bytes of tiers: those read for a RESHARD round are noted. -/
def giveFromTier (p : Nat) (m : Msg) (again : Bool) (place key n : Nat) (s : State) : State :=
  let r := giveTier again key n s
  let s := if m.vc = 0 then { r.2 with reshard := { r.2.reshard with pulled := r.2.reshard.pulled ++ [(m.addr.toNat, r.1)] } } else r.2
  giveBytes p m place (readMem s 0 key r.1) (n - r.1) s

/-- The first staging unit of n bytes at a key whose parity fails: region, core, unit, and whether it fails again. -/
def farStaging (s : State) (addr key n : Nat) : Option (Nat × Nat × Nat × Bool) :=
  (s.mem.stagingBad.find? (fun u => touches 16 key n u.1)).map (fun u => (addr / 2 ^ 30 % 64, addr / 2 ^ 22 % 256, u.1 % 2 ^ 14, u.2))

/-- Staging bytes that the other half asks for: words that fail are copied again where they can be (R218), else the reader is told. -/
def giveStaging (p : Nat) (m : Msg) (place key n : Nat) : Nat → State → State
  | 0, s => giveBytes p m place (readMem s 1 key n) 0 s
  | k + 1, s =>
    match farStaging s m.addr.toNat key n with
    | none => giveBytes p m place (readMem s 1 key n) 0 s
    | some (r, core, unit, again) =>
      match (if again then none else keptCopy s r core unit) with
      | none => giveBytes p m place [] n (nameCore r core s)
      | some (d, i, off) =>
        let c : RowCtx := { id := mendFlight, slot := false, row := (s.seq.run.map (stopRow s)).getD 0, bits := 0, issue := 0 }
        let x := recopy c d i off s
        match x.1 with
        | .good => giveStaging p m place key n k x.2
        | .waits => { x.2 with fab := { x.2.fab with asked := x.2.fab.asked ++ [(p, m)] } }
        | .halted => giveBytes p m place [] n x.2

/-- The bytes a READ asks for: its length is in CTX, its place in the reader's stream in the payload, with bit 127 in a second read (log
entry 18). -/
def readHere (p : Nat) (m : Msg) (s : State) : State :=
  if crosses s p m then messageForward p m s
  else
    let n := m.ctx.toNat
    let place := ofLe m.payload % 2 ^ 127
    match messagePlace s p m.addr.toNat n with
    | none => s
    | some (0, key) => giveFromTier p m (decide (2 ^ 127 ≤ ofLe m.payload)) place key n s
    | some (1, key) => giveStaging p m place key n s.mem.stagingBad.length s
    | some (sp, key) =>
      if sp = 2 && s.mem.sliceBad.any (touches 16 key n) then giveBytes p m place [] n s else giveBytes p m place (readMem s sp key n) 0 s

def execReadMsg (p : Fin 7) (m : Msg) (tagOk : Bool) (s : State) : Host.Outcome State Fault Refusal :=
  event true (takeMsg p.val tagOk (msgHeld m) 1 (readHere p.val m)) s

/-! ### Completion of a copy's part -/

/-- The effect of a data row by its kind. -/
def dataEffect (w : Row) : RowCtx → State → State :=
  match rowKind w with
  | 1 => passEffect
  | 2 => vectorEffect
  | 3 => quantEffect
  | 4 => copyEffect
  | 5 => if cCop w = 4 then reshardEffect else collectEffect
  | 13 => epochEffect
  | _ => if fFop w = 0 then dispatchEffect else if fFop w = 1 then returnEffect else combineEffect

/-- A row that a staging word stopped goes on: its effect, though a halt may have begun meanwhile (spec/07_timetable.md R174: every
issued row completes). -/
def resumeRow (f : Flight) (s : State) : State :=
  let was := s.seq.run.bind ActiveRun.halting
  let c : RowCtx := { id := f.id, slot := f.slot, row := f.row, bits := f.bits, issue := f.issue }
  let s := dataEffect f.bits c (onRun (fun r => { r with halting := none }) s)
  settleHalt (onSeq (fun q => { q with flight := q.flight.eraseP (fun g => g.id = f.id) })
    (onRun (fun r => { r with halting := was.or r.halting }) s))

/-- Bytes fetched for a row leave once it has gone on. -/
def dropFetch (id : Nat) (s : State) : State := onTxns (fun l => l.filter (fun t => !(t.flight = id && t.isRead && t.desc = 0))) s

/-- No message of the row is outstanding any longer. -/
def settleTxns (id : Nat) (s : State) : State :=
  if s.fab.txns.any (fun t => t.flight = id && t.left != 0) then s
  else match s.seq.flight.find? (fun f => f.id = id) with
    | none => s
    | some f => if f.stage = .peer then setStage id .done s else if f.stage = .refetch then dropFetch id (resumeRow f s) else s

def dropTxn (t : Txn) (s : State) : State := onTxns (fun l => l.erase t) s

/-- R241: a peer write is complete when every WRITE_DONE has come. -/
def writeDone (p : Nat) (txn : BitVec 12) (s : State) : State :=
  match s.fab.txns.find? (fun t => t.txn = txn && !t.isRead && t.lash = decide (p = 6)) with
  | none => s
  | some t =>
    let s := onTxns (fun l => l.map (fun x => if x = t then { x with left := x.left - 1 } else x)) s
    if t.left ≤ 1 then settleTxns t.flight (dropTxn { t with left := t.left - 1 } s) else s

def execWriteDone (p : Fin 7) (_src : BitVec 14) (txn : BitVec 12) (s : State) : Host.Outcome State Fault Refusal :=
  event true (takeMsg p.val true (answerHeld 2 txn) 1 (writeDone p.val txn)) s

/-- The runs of a HOST destination whose bytes have come. -/
def writeGathered (t : Txn) (s : State) : State :=
  let n := dRun t.desc
  (List.range (dNrun t.desc)).foldl (fun s i =>
    if (t.data.filter (fun c => i * n ≤ c.1 && c.1 < (i + 1) * n)).length = n then
      writeHostRun t.desc i (mread (fun _ => 0) t.data (i * n) n) s
    else s) s

/-- Bytes of a read reach their destination, or are kept until the block or run is whole. -/
def landRead (t : Txn) (offset : Nat) (data : List Byte) (f : Flight) (s : State) : State :=
  if f.stage = .reshard then landMove f.id f.row t.desc (keepData t.txn offset data s)
  else if t.desc = 0 then keepData t.txn offset data s
  else
    let n := max (dRun t.desc) 1
    if dDkind t.desc = 3 then keepData t.txn offset data s else landCopy t.flight t.desc (offset / n) (offset % n) data s

/-- READ messages that waited for bytes copied again are answered. -/
def serveAsked (s : State) : State :=
  if hasTxn s mendFlight then s
  else s.fab.asked.foldl (fun s x => readHere x.1 x.2 s) { s with fab := { s.fab with asked := [] } }

/-- Bytes that no row waits for: the control processor's, or those of a copy made again. -/
def landCtl (t : Txn) (offset : Nat) (data : List Byte) (s : State) : State :=
  let s := if t.desc = 0 then { s with fab := { s.fab with far := mwrite s.fab.far offset data } }
    else landCopy t.flight t.desc (offset / max (dRun t.desc) 1) (offset % max (dRun t.desc) 1) data s
  if t.left ≤ data.length then serveAsked (dropTxn { t with left := t.left - data.length } s) else s

/-- What a place of a transaction's stream is at its source, and the tensor or shard. -/
def readAddr (s : State) (t : Txn) (f : Option Flight) (offset : Nat) : Nat × BitVec 32 :=
  if t.desc = 0 then (offset, ((f.map (fun f => if rowKind f.bits = 13 then eShard f.bits else 0)).getD 0))
  else if f.any (fun f => f.stage = .reshard) then
    ((if t.node = rankNode (rankEntry s (mvFrom t.desc)) then mvFaddr t.desc else mvBaddr t.desc) + offset, mvShard t.desc)
  else match srcPlace s t.desc (offset / max (dRun t.desc) 1) (offset % max (dRun t.desc) 1) with
    | .remote _ _ a => (a, dTensor t.desc)
    | _ => (0, dTensor t.desc)

/-- The record of source bytes that cannot be had: TIER_PARITY, or for SRAM of the other half STAGING_PARITY or SLICE_PARITY, which name its
region (log entry 52). -/
def farFault (s : State) (a : Nat) (tensor : BitVec 32) : State :=
  let region : List Byte := [BitVec.ofNat 8 ((a - 0x30000000000) / 2 ^ 30 % 64 + (if s.pair.role = .secondary then 0 else 64))]
  let core := (a - 0x30000000000) / 2 ^ 22 % 256
  if a < 0x30000000000 then record Code.tierParity (wordBytes tensor ++ leBytes 8 (a / 256 * 256)) s
  else if core = 255 then record Code.sliceParity (region ++ leBytes 3 (a % 2 ^ 22 / 16)) s
  else record Code.stagingParity (region ++ coreParam ((a - 0x30000000000) / 2 ^ 30 % 64) core ++ leBytes 3 (a % 2 ^ 18 / 16)) s

/-- The row that waits for bytes that cannot be had stops, and the run halts with PARITY_FAULT (R217, R218). -/
def readFault (t : Txn) (f : Option Flight) (a bad : Nat) (tensor : BitVec 32) (s : State) : State :=
  let s := farFault s a tensor
  match f with
  | some f => haltAt Status.parityFault f.row (onSeq (fun q => { q with flight := q.flight.filter (fun g => g.id != f.id) }) (dropTxns f.id s))
  | none =>
    if t.flight = mendFlight then
      s.fab.asked.foldl (fun s x => giveBytes x.1 x.2 (ofLe x.2.payload % 2 ^ 127) [] x.2.ctx.toNat s)
        (dropTxns mendFlight { s with fab := { s.fab with asked := [] } })
    else onTxns (fun l => (l.map (fun x => if x = t then { x with left := x.left - bad } else x)).filter (fun x => x.isRead = false || x.left != 0)) s

/-- A READ for bytes at a place of a transaction's stream, once more or a second time. -/
def readMore (t : Txn) (vc : Fin 4) (a place n : Nat) (s : State) : State :=
  if n = 0 then s else sendCopy vc t.lash t.node 0x03 t.txn a n (leBytes 16 place) s

/-- Bytes of a read cannot be read at their source: nothing of their unit is written, and the unit is read once more; what lies behind it
is asked for again (R217). A unit that fails again, or SRAM, ends the row. -/
def readBad (t : Txn) (f : Option Flight) (offset bad : Nat) (s : State) : State :=
  let x := readAddr s t f offset
  if t.again.contains offset || 0x30000000000 ≤ x.1 then readFault t f x.1 bad x.2 s
  else
    let n := min bad (256 - x.1 % 256)
    let vc : Fin 4 := if f.any (fun f => f.stage = .reshard) && !t.lash then 0 else 2
    let s := onTxns (fun l => l.map (fun y => if y = t then { y with again := offset :: y.again } else y)) s
    readMore t vc (x.1 + n) (offset + n) (bad - n) (readMore t vc x.1 (offset + 2 ^ 127) n s)

/-- Bytes that came at the second read: PARITY_REFETCH names their address. -/
def readAgain (t : Txn) (f : Option Flight) (offset : Nat) (s : State) : State :=
  if t.again.contains offset then record Code.parityRefetch (leBytes 8 ((readAddr s t f offset).1 / 256 * 256)) s else s

/-- R241: a peer read is complete when its last READ_DATA has come. -/
def readData (p : Nat) (txn : BitVec 12) (offset : Nat) (data : List Byte) (s : State) : State :=
  match s.fab.txns.find? (fun t => t.txn = txn && t.isRead && t.lash = decide (p = 6)) with
  | none => s
  | some t =>
    match s.seq.flight.find? (fun f => f.id = t.flight) with
    | none =>
      if t.flight < ctlFlight then dropTxn t s
      else landCtl t offset data (readAgain t none offset (onTxns (fun l => l.map (fun x => if x = t then { t with left := t.left - data.length } else x)) s))
    | some f =>
      let s := readAgain t (some f) offset s
      let t2 : Txn := { t with left := t.left - data.length, again := t.again.erase offset }
      let s := landRead t2 offset data f (onTxns (fun l => l.map (fun x => if x = t then t2 else x)) s)
      if t2.left ≠ 0 || f.stage = .reshard then s
      else match s.fab.txns.find? (fun x => x.txn = txn && x.isRead && x.lash = t.lash) with
        | none => s
        | some x =>
          settleTxns t.flight (if x.desc = 0 then s else dropTxn x (if dDkind x.desc = 3 then writeGathered x s else s))

/-- A READ_DATA that gives bytes, or says how many cannot be read. -/
def takeReadData (p : Nat) (txn : BitVec 12) (offset : Nat) (data : ReadPart) (s : State) : State :=
  if data.bad = 0 then readData p txn offset data.bytes s
  else match s.fab.txns.find? (fun t => t.txn = txn && t.isRead && t.lash = decide (p = 6)) with
    | none => s
    | some t => readBad t (s.seq.flight.find? (fun f => f.id = t.flight)) offset data.bad s

def execReadData (p : Fin 7) (_src : BitVec 14) (txn : BitVec 12) (offset : Nat) (data : ReadPart) (s : State) :
    Host.Outcome State Fault Refusal := event true (takeMsg p.val true (answerHeld 4 txn) 1 (takeReadData p.val txn offset data)) s

end Sys2Proof.Machine
end

