-- ==== Sys2Proof/Machine/Lowering.lean ====
section
/-!
DEFINITION. Plans and their lowering (spec/08_xekoade.md R184 to R195; spec/09_memory.md R209 to R214): the checks of a plan, the capability
snapshot's fields, the arrays and allocations of tensors, footprint, placement, and what the rows of a lowering must keep. The rows
themselves are a free choice (`Config.lowering`, log entry 8) that is accepted only where it keeps all of it.
-/
namespace Sys2Proof.Machine

/-! ### Plans, R184, R185, R193 -/

/-- Kinds of the sections from a byte on, with their record counts; none where one breaks R184. -/
def planSections (b : List Byte) : Nat → Nat → Option (List (Nat × Nat))
  | 0, _ => some []
  | n + 1, pos =>
    let h := ofLe ((b.drop pos).take 16)
    let len := fld h 64 64
    if pos + 16 ≤ b.length && fld h 8 24 = 0 && 16 ≤ len && pos + len ≤ b.length then
      (planSections b n (up16 (pos + len))).map (fun l => (fld h 0 8, fld h 32 32) :: l)
    else none

def planHead (p : Plan) : Nat := ofLe (p.bytes.take 32)

def planRanks (p : Plan) : Nat := fld (planHead p) 128 16
def planPaired (p : Plan) : Bool := fld (planHead p) 144 1 = 1
def planRelaxed (p : Plan) : Bool := fld (planHead p) 48 2 = 1
def planMinor (p : Plan) : Nat := fld (planHead p) 40 8

/-- The header's fields are legal. -/
def planHeadOk (p : Plan) : Bool :=
  let h := planHead p
  decide (32 ≤ p.bytes.length) && fld h 0 32 = 0x4F4B4558 && fld h 48 2 ≤ 1 && fld h 51 13 = 0 && fld h 64 32 = p.bytes.length &&
    decide (1 ≤ fld h 96 16) && fld h 112 16 = 0 && 1 ≤ planRanks p && planRanks p ≤ 16384 && fld h 145 111 = 0

/-- Each section kind is known and at most once; TENSORS, PASSAGES and STEP are there. -/
def planKindsOk (l : List (Nat × Nat)) : Bool :=
  let ks := l.map Prod.fst
  noRepeat ks && ks.all (fun k => 1 ≤ k && k ≤ 8) && [1, 2, 6].all (fun k => ks.contains k)

/-- R242: group 0 is not defined, no rank twice in a group, and every rank is one of the job. -/
def groupDefOk (ranks : Nat) (g : GroupDef) : Bool :=
  g.group != 0 && noRepeat (g.ranks.map BitVec.toNat) && g.ranks.all (fun r => decide (r.toNat < ranks))

/-- Homes that a table names: rank and region. -/
def homesOf (h : HomeDef) : List (Nat × Nat) :=
  h.entries.map (fun e => (bits e 0 16, bits e 16 7)) ++
    (h.entries.filter (fun e => bits e 32 16 != 0xFFFF)).map (fun e => (bits e 32 16, bits e 48 7))

/-- R260: at most 8,192 experts, and no region of a rank twice. -/
def homeDefOk (h : HomeDef) : Bool :=
  h.entries.length ≤ 8192 && noRepeat ((homesOf h).map (fun p => p.1 * 128 + p.2)) &&
    h.entries.all (fun e => bits e 23 9 = 0 && bits e 55 9 = 0)

/-- Columns and reduction length of a shape: the product of the leading dimensions, and the last. -/
def columnsOf (dims : List Nat) : Nat := dims.dropLast.foldl (fun a b => a * b) 1
def reductionOf (dims : List Nat) : Nat := dims.getLast?.getD 1

/-- R77: at most 64 anchored columns, ascending, each a column of the tensor. -/
def anchorsOk (t : PlanTensor) : Bool :=
  let l := t.anchors.map BitVec.toNat
  decide (l.length ≤ 64) && (l.zip (l.drop 1)).all (fun p => decide (p.1 < p.2)) && l.all (fun c => decide (c < columnsOf t.dims))

def tensorOf (p : Plan) (i : BitVec 32) : Option PlanTensor := p.tensors.find? (fun t => t.ident = i)

def definesTensor (p : Plan) (i : BitVec 32) : Bool := (tensorOf p i).isSome

/-- Group 0 is every rank; the others are those of RANKS. -/
def definesGroup (p : Plan) (g : BitVec 12) : Bool := g = 0 || p.groups.any (fun d => d.group = g)

/-- Identities that STEP may name. -/
def planRecords (p : Plan) : List (BitVec 32) :=
  p.passages.map Passage.ident ++ p.copies.map PlanCopy.ident ++ p.collectives.map PlanCollective.ident ++ p.governors.map PlanGovernor.ident

/-- Section kind and index of the first record that breaks a rule. -/
def firstBad {α : Type} (kind : Nat) (l : List α) (ok : α → Bool) : Option (Nat × Nat) := (l.findIdx? (fun x => !ok x)).map (fun i => (kind, i))

/-- R77 and R185: a bad anchor table, or an identity that no record defines. -/
def brokenRecord (p : Plan) : Option (Nat × Nat) :=
  [firstBad 1 p.tensors anchorsOk,
   firstBad 2 p.passages (fun x => (x.operands ++ x.results).all (definesTensor p)),
   firstBad 3 p.copies (fun c => definesTensor p c.src && definesTensor p c.dst),
   firstBad 4 p.collectives (fun c => definesTensor p c.tensor && definesGroup p c.group),
   firstBad 6 p.step (fun x => x.all (fun i => (planRecords p).contains i)),
   firstBad 8 p.homes (fun h => definesGroup p h.group)].findSome? id

/-- Status and DETAIL of a plan that is refused as it stands. -/
def planFault (p : Plan) : Option (BitVec 16 × BitVec 64) :=
  let bad : Option (BitVec 16 × BitVec 64) := some (Status.badField, fieldDetail 0x31 1)
  if !planHeadOk p then bad
  else match planSections p.bytes (fld (planHead p) 96 16) 32 with
    | none => bad
    | some l =>
      if fld (planHead p) 32 8 ≠ 1 || 3 ≤ planMinor p then some (Status.planVersion, 0)
      else if !planKindsOk l || planMinor p < p.newest then bad
      else (brokenRecord p).map (fun r => (Status.badField, BitVec.ofNat 64 (r.2 + r.1 * 2 ^ 32)))

/-! ### The snapshot, Table 08-4 -/

def snapPaired (d : BitVec 1024) : Bool := bits d 40 2 = 1 || bits d 40 2 = 2
def snapVersion (d : BitVec 1024) : BitVec 16 := BitVec.ofNat 16 (bits d 48 16)
/-- Regions in service: this half's, then the other's. -/
def snapServes (d : BitVec 1024) (half r : Nat) : Bool := bits d (64 + 64 * half + r) 1 = 1
def snapStaging (d : BitVec 1024) : Nat := bits d 208 16 * 1024
def snapFormat (d : BitVec 1024) (c : Nat) : Bool := c < 32 && bits d (384 + c) 1 = 1
def snapGroup (d : BitVec 1024) (c : Nat) : Bool := c < 5 && bits d (416 + c) 1 = 1
def snapBlock (d : BitVec 1024) (c : Nat) : Bool := c < 4 && bits d (421 + c) 1 = 1
def snapTopk (d : BitVec 1024) : Nat := bits d 425 4
def snapHomed (d : BitVec 1024) : Nat := bits d 429 8
def snapRows (d : BitVec 1024) : Nat := bits d 464 16

/-! ### Arrays and allocations, R209, R210 -/

def up4k (n : Nat) : Nat := ceilDiv n 4096 * 4096

/-- Bytes of each array of a shape, in the order of Table 09-5. Tensors without groups have the one array of their elements. -/
def arrayBytes (t : PlanTensor) (dims : List Nat) : List Nat :=
  let c := fmtCode t.format
  let n := columnsOf dims
  let k := reductionOf dims
  let g := groupSize t.gsize
  let groups := ceilDiv k g
  let supers := ceilDiv groups 16
  let cols := ceilDiv n 512 * 512
  let zp (x : Nat) : List Nat := if t.zp then [x] else []
  if isW c || isB c || isT c then
    let str := if isT c then (if g = 48 then 10 else 20) else g / 8
    [cols * groups * planeCount c * str] ++ (if isB c then [cols * supers * planeCount c * 2] else []) ++ [cols * groups] ++
      zp (cols * groups) ++ [cols * supers * 2]
  else if c ≤ 5 then
    [n * up16 (fmtBytes c k), n * up16 groups] ++ zp (n * up16 groups) ++ [n * up16 (2 * supers)]
  else [n * up16 (fmtBytes c k)]

/-- The arrays of a tensor's largest shard, in whole pages (which rank a module takes is known at JOB_START only: log entry 90). -/
def tensorArrays (t : PlanTensor) : List Nat :=
  let whole := arrayBytes t t.dims
  let l := if t.shards.isEmpty then [whole] else t.shards.map (arrayBytes t)
  (List.range whole.length).map (fun i => up4k ((l.map (fun x => nth x i 0)).foldl max 0))

/-- What the footprint needs of a tensor: its level and allocation, the bytes that a step reads of it and that the step's copies move to
or from it, and the half of a pair whose regions read it. -/
structure TensorUse where
  ident : BitVec 32
  level : Nat
  alloc : Nat
  reads : Nat
  copied : Nat
  half : Nat
deriving DecidableEq, Repr, Inhabited

/-- Bytes of n elements of a tensor. -/
def elementBytes (t : PlanTensor) (n : Nat) : Nat :=
  let c := fmtCode t.format
  if isT c then ceilDiv (n * 5) 24 else ceilDiv (n * (if isW c || isB c then planeCount c else fmtBits c)) 8

/-- The copies of a step, once for each time that STEP names them. -/
def stepCopies (p : Plan) : List PlanCopy := (p.step.filterMap id).filterMap (fun i => p.copies.find? (fun c => c.ident = i))
def stepPassages (p : Plan) : List Passage := (p.step.filterMap id).filterMap (fun i => p.passages.find? (fun x => x.ident = i))

/-- Bytes that the step reads of a tensor: its copies' ranges, and the whole of it for each passage that names it (log entry 90). -/
def readBytes (p : Plan) (t : PlanTensor) : Nat :=
  (((stepCopies p).filter (fun c => c.src = t.ident)).map (fun c => elementBytes t c.count)).sum +
    ((stepPassages p).filter (fun x => x.operands.contains t.ident)).length * (tensorArrays t).sum

/-- Bytes that the plan's copies move to or from a tensor in one step (R212). -/
def copiedBytes (p : Plan) (t : PlanTensor) : Nat :=
  (((stepCopies p).filter (fun c => c.src = t.ident)).map (fun c => elementBytes t c.count)).sum +
    (((stepCopies p).filter (fun c => c.dst = t.ident)).map (fun c => elementBytes t c.count)).sum

/-- Bytes that the rows' copies bring from a tensor to LOCAL endpoints of a tile die; dies 4 to 7 are the other half's. -/
def dieReads (rows : List Row) (t : PlanTensor) (die : Nat) : Nat :=
  ((List.range rows.length).map (fun k =>
    let w := nth rows k 0
    if rowKind w = 4 then
      (((descs w).filter (fun d => dSkind d = 1 && dDkind d = 0 && dTensor d = t.ident &&
        localHalf (dDaddr d) * 4 + localRegion (dDaddr d) / 16 = die)).map (fun d => dRun d * dNrun d)).sum * issueCount rows k
    else 0)).sum

/-- The tile die whose regions read the most of a tensor's bytes; a tie goes to the lower (R211). -/
def homeDie (rows : List Row) (t : PlanTensor) : Nat :=
  (List.range 8).foldl (fun b d => if dieReads rows t b < dieReads rows t d then d else b) 0

def tensorUse (p : Plan) (rows : List Row) (t : PlanTensor) : TensorUse :=
  { ident := t.ident, level := t.level, alloc := (tensorArrays t).sum, reads := readBytes p t, copied := copiedBytes p t,
    half := homeDie rows t / 4 }

/-! ### Footprint, spec/09_memory.md R210 to R214 -/

def nearBytes : Nat := 0x6000000000
def farBytes : Nat := 0x10000000000

/-- Demand of a level. -/
def demandOf (l : List TensorUse) (far : Bool) : Nat :=
  ((l.filter (fun t => if far then t.level = 2 || t.level = 3 else t.level = 1)).map TensorUse.alloc).sum

/-- Added cycles a step of a spilled tensor (R212). -/
def spillCycles (t : TensorUse) : Nat := ceilDiv (t.copied * 14620) 38400000

/-- a goes before b in a spill: fewer bytes read per byte of allocation, then the higher identity. -/
def spillBefore (a b : TensorUse) : Bool :=
  let x := a.reads * b.alloc
  let y := b.reads * a.alloc
  decide (x < y) || (x = y && decide (b.ident.toNat < a.ident.toNat))

/-- a goes before b in a raise: more bytes read per byte, then the lower identity (R213). -/
def raiseBefore (a b : TensorUse) : Bool :=
  let x := a.reads * b.alloc
  let y := b.reads * a.alloc
  decide (y < x) || (x = y && decide (a.ident.toNat < b.ident.toNat))

def insertBy (before : TensorUse → TensorUse → Bool) (t : TensorUse) : List TensorUse → List TensorUse
  | [] => [t]
  | u :: r => if before t u then t :: u :: r else u :: insertBy before t r

/-- Tensors moved, in order, until the tier they leave fits; and the least allocation passed over. -/
structure Moved where
  left : Nat
  got : Nat
  moved : List TensorUse
  passed : Option Nat
deriving DecidableEq, Repr

def Moved.start (left got : Nat) : Moved := { left := left, got := got, moved := [], passed := none }

def moveTensors (capFrom capTo : Nat) (l : List TensorUse) (m : Moved) : Moved :=
  l.foldl (fun m t =>
    if m.left ≤ capFrom then m
    else if capTo < m.got + t.alloc then { m with passed := some (min t.alloc (m.passed.getD t.alloc)) }
    else { m with left := m.left - t.alloc, got := m.got + t.alloc, moved := m.moved ++ [t] }) m

/-- What CHECK_PLAN reports. -/
structure Footprint where
  near : Nat
  far : Nat
  nearShort : Nat
  farShort : Nat
  /-- The plan does not fit, and no arrangement of whole tensors makes it fit. -/
  tooLarge : Bool
  spilled : List TensorUse
  raised : List TensorUse
deriving DecidableEq, Repr

/-- The shortfall of the receiving tier; where no tensor was passed over the spec states none (log entry 32). -/
def shortfall (cap near far : Nat) (m : Moved) : Nat :=
  match m.passed with
  | some a => a - (cap - m.got)
  | none => (Config.shortfall near far).toNat

/-- The footprint on one module, or on one half of a pair. -/
def footprintOf (l : List TensorUse) : Footprint :=
  let near := demandOf l false
  let far := demandOf l true
  if nearBytes + farBytes < near + far then
    { near := near, far := far, nearShort := near - nearBytes, farShort := far + (near - nearBytes) - farBytes, tooLarge := true,
      spilled := [], raised := [] }
  else if nearBytes < near then
    let m := moveTensors nearBytes farBytes ((l.filter (fun t => t.level = 1)).foldr (insertBy spillBefore) [])
      (Moved.start near far)
    let stuck := decide (nearBytes < m.left)
    { near := near, far := far, nearShort := 0, farShort := if stuck then shortfall farBytes near far m else 0, tooLarge := stuck,
      spilled := m.moved, raised := [] }
  else if farBytes < far then
    let m := moveTensors farBytes nearBytes ((l.filter (fun t => t.level = 2)).foldr (insertBy raiseBefore) [])
      (Moved.start far near)
    let stuck := decide (farBytes < m.left)
    { near := near, far := far, nearShort := if stuck then shortfall nearBytes near far m else 0, farShort := 0, tooLarge := stuck,
      spilled := [], raised := m.moved }
  else { near := near, far := far, nearShort := 0, farShort := 0, tooLarge := false, spilled := [], raised := [] }

/-- What the lowering of a version may give for a plan. -/
def loweringOf (p : Plan) (d : BitVec 1024) : Option Config.Lowering := Config.lowering (snapVersion d) p.bytes d

/-- The rows of the candidate, by which tensors have readers. -/
def candidateRows (p : Plan) (d : BitVec 1024) : List Row := ((loweringOf p d).map Config.Lowering.rows).getD []

/-- The footprint against a snapshot: in a pair each half's capacities apply to the tensors that its regions read. -/
def footprint (p : Plan) (d : BitVec 1024) : Footprint :=
  let l := p.tensors.map (tensorUse p (candidateRows p d))
  if snapPaired d then
    let a := footprintOf (l.filter (fun t => t.half = 0))
    let b := footprintOf (l.filter (fun t => t.half != 0))
    { near := a.near + b.near, far := a.far + b.far, nearShort := a.nearShort + b.nearShort, farShort := a.farShort + b.farShort,
      tooLarge := a.tooLarge || b.tooLarge, spilled := a.spilled ++ b.spilled, raised := a.raised ++ b.raised }
  else footprintOf l

/-- Table 09-6. -/
def Footprint.bytes (f : Footprint) : List Byte :=
  let ok := !f.tooLarge
  let sp := if ok then f.spilled else []
  let rs := if ok then f.raised else []
  leBytes 8 f.near ++ leBytes 8 f.far ++ leBytes 8 f.nearShort ++ leBytes 8 f.farShort ++ leBytes 2 sp.length ++ leBytes 2 rs.length ++
    zeros 4 ++ leBytes 8 (sp.map spillCycles).sum ++
    sp.flatMap (fun t => wordBytes t.ident ++ zeros 4 ++ leBytes 8 (spillCycles t)) ++
    rs.flatMap (fun t => wordBytes t.ident ++ zeros 12)

/-! ### Placement, R211 to R213 -/

def quarterBytes : Nat := 0x1800000000

/-- n bytes from quarter q of a half on, ascending, wrapping from 3 to 0: the parts, and the bytes used of each quarter. -/
def fillNear (base : Nat) : Nat → Nat → Nat → List Nat → List (Nat × Nat) × List Nat
  | 0, _, _, used => ([], used)
  | k + 1, q, n, used =>
    let u := nth used q 0
    let m := min n (quarterBytes - u)
    let r := fillNear base k ((q + 1) % 4) (n - m) (used.set q (u + m))
    ((if m = 0 then [] else [(base + q * quarterBytes + u, m)]) ++ r.1, r.2)

/-- Bytes used of the quarters and of the far tier of one half. -/
structure Filled where
  near : List Nat
  far : Nat
deriving DecidableEq, Repr

/-- The arrays of a tensor one after another: the parts of each. -/
def placeArrays (base q : Nat) (near : Bool) : List Nat → Filled → List (List (Nat × Nat)) × Filled
  | [], u => ([], u)
  | n :: l, u =>
    if near then
      let r := fillNear base 4 q n u.near
      let x := placeArrays base q near l { u with near := r.2 }
      (r.1 :: x.1, x.2)
    else
      let x := placeArrays base q near l { u with far := u.far + n }
      ([(base + nearBytes + u.far, n)] :: x.1, x.2)

/-- A tensor lies in the near tier after spills and raises. -/
def liesNear (f : Footprint) (t : PlanTensor) : Bool :=
  (t.level = 1 && !f.spilled.any (fun u => u.ident = t.ident)) || f.raised.any (fun u => u.ident = t.ident)

/-- The parts of each array of each L1 and L2 tensor of one half, in the order of TENSORS (log entry 90). -/
def placeHalf (rows : List Row) (f : Footprint) (half : Nat) : List PlanTensor → Filled → List (BitVec 32 × List (List (Nat × Nat)))
  | [], _ => []
  | t :: l, u =>
    if (t.level = 1 || t.level = 2) && homeDie rows t / 4 = half then
      let r := placeArrays (half * 0x16000000000) (homeDie rows t % 4) (liesNear f t) (tensorArrays t) u
      (t.ident, r.1) :: placeHalf rows f half l r.2
    else placeHalf rows f half l u

def placement (p : Plan) (d : BitVec 1024) (rows : List Row) : List (BitVec 32 × List (List (Nat × Nat))) :=
  let start : Filled := { near := [0, 0, 0, 0], far := 0 }
  let f := footprint p d
  placeHalf rows f 0 p.tensors start ++ (if snapPaired d then placeHalf rows f 1 p.tensors start else [])

def inParts (l : List (Nat × Nat)) (a : Nat) : Bool := l.any (fun x => x.1 ≤ a && a < x.1 + x.2)

/-- The runs of a TIER endpoint lie in one array of one of the tensors. -/
def inOneArray (pl : List (BitVec 32 × List (List (Nat × Nat)))) (ts : List (BitVec 32)) (first last : Nat) : Bool :=
  pl.any (fun x => ts.contains x.1 && x.2.any (fun a => inParts a first && inParts a last))

/-! ### What each row serves, R109, R186 -/

inductive PlanRecord where
  | passage (x : Passage)
  | copy (x : PlanCopy)
  | collective (x : PlanCollective)
  | governor (x : PlanGovernor)
deriving DecidableEq, Repr

def recordOf (p : Plan) (i : BitVec 32) : Option PlanRecord :=
  (((p.passages.find? (fun x => x.ident = i)).map PlanRecord.passage).or ((p.copies.find? (fun x => x.ident = i)).map PlanRecord.copy)).or
    (((p.collectives.find? (fun x => x.ident = i)).map PlanRecord.collective).or
      ((p.governors.find? (fun x => x.ident = i)).map PlanRecord.governor))

/-- Tensors that a record names. -/
def PlanRecord.tensors : PlanRecord → List (BitVec 32)
  | .passage x => x.operands ++ x.results
  | .copy x => [x.src, x.dst]
  | .collective x => [x.tensor]
  | .governor _ => []

/-- The plane side and the table side of a PRODUCT: its first operands with formats of those sides (log entry 90). -/
def planeOperand (p : Plan) (x : Passage) : Option PlanTensor :=
  (x.operands.filterMap (tensorOf p)).find? (fun t => 0x10 ≤ fmtCode t.format)
def tableOperand (p : Plan) (x : Passage) : Option PlanTensor :=
  (x.operands.filterMap (tensorOf p)).find? (fun t => fmtCode t.format ≤ 5)

/-- Endpoint kind of a level (Table 08-3). -/
def levelKind (level : Nat) : Nat := match level with | 0 => 0 | 3 => 2 | 4 => 3 | _ => 1

/-- A PASS row of a PRODUCT: the passage's shifts (R109), formats, group size and order. -/
def passServes (p : Plan) (x : Passage) (w : Row) : Bool :=
  let b := passOf w
  x.kind = .product && (b.kw, b.ka) = x.shifts.getD (0, 0) && (accOf (accBits w)).order = x.order &&
    (planeOperand p x).all (fun t => b.pcode = fmtCode t.format && b.gsize = t.gsize && b.pzp = t.zp) &&
    (tableOperand p x).all (fun t => b.tfmt = fmtCode t.format && b.gsize = t.gsize && b.tzp = t.zp)

/-- A QUANT row of a QUANTISE passage, or of a fused or vector one: its result's identity, format and scales, and its watch entry. -/
def quantServes (p : Plan) (x : Passage) (w : Row) : Bool :=
  let q := quantOf w 128
  q.watch = x.watch && (x.results.filterMap (tensorOf p)).any (fun t => q.tensor = t.ident.toNat && q.code = fmtCode t.format &&
    q.gsize = t.gsize && q.zp = t.zp && (5 < q.code || q.scheme = t.scheme))

/-- A VECTOR row: the passage's own operation on its own tensor, or the COMBINE or MERGE of a PRODUCT that was split. -/
def vectorServes (x : Passage) (w : Row) : Bool :=
  match x.kind with
  | .vector op k =>
    vOp w = op && (op != 3 || vNpart w + 1 = k) && (vTensor w = 0 || x.results.any (fun i => i.toNat = vTensor w)) &&
      (op < 4 || (quantOf w 640).watch = x.watch)
  | .product => vOp w ≤ 1
  | .quantise => false

/-- A row does what its record says. COPY rows move what any record names; a COPIES record's endpoints are those of its levels. -/
def rowServes (p : Plan) (w : Row) (x : PlanRecord) : Bool :=
  match rowKind w, x with
  | 1, .passage y => passServes p y w
  | 2, .passage y => vectorServes y w
  | 3, .passage y => quantServes p y w
  | 4, .copy y => (descs w).all (fun d => dSkind d = levelKind y.srcLevel && dDkind d = levelKind y.dstLevel && dCfmt d = y.conv)
  | 4, .passage _ => true
  | 4, .collective _ => true
  | 5, .collective y => cCop w = y.op && cGroup w = y.group.toNat && (y.op = 4 || cFmt w = y.format)
  | 6, .collective y => fFop w + 5 = y.op && fFmt w = y.format && (fFop w != 0 || (fCap w = y.cap && fPolicy w = y.policy))
  | 7, .governor y => gWatch w = y.watch && gVerdict w = y.verdict && gJob w = y.job && gHold w = y.hold && gTlo w = y.tLo && gThi w = y.tHi
  | _, _ => false

/-- Every data row and GOVERN row serves a record. -/
def needsRecord (w : Row) : Bool := isData w || rowKind w = 7

/-- The rows do what the plan says, and every record of STEP is served by some row. -/
def servesPlan (p : Plan) (rows : List Row) (served : List (Option (BitVec 32))) : Bool :=
  (rows.zip served).all (fun r => match r.2.bind (recordOf p) with
    | some x => rowServes p r.1 x
    | none => !needsRecord r.1) &&
    (p.step.filterMap id).all (fun i => served.contains (some i))

/-- The TIER runs of COPY rows lie in the arrays of the tensors that they name, where the placement has them (R209 to R213). -/
def copiesPlaced (p : Plan) (d : BitVec 1024) (rows : List Row) (served : List (Option (BitVec 32))) : Bool :=
  let pl := placement p d rows
  (rows.zip served).all (fun r => rowKind r.1 != 4 || (descs r.1).all (fun c =>
    let ts := dTensor c :: ((r.2.bind (recordOf p)).map PlanRecord.tensors).getD []
    (dSkind c != 1 || inOneArray pl ts (dSaddr c) (runsEnd c (dSaddr c) (dRun c) (dSstride c) - 1)) &&
      (dDkind c != 1 || inOneArray pl ts (dDaddr c) (runsEnd c (dDaddr c) (dDrun c) (dDstride c) - 1))))

/-! ### The numeric promise, R194, R195 -/

/-- Groups of a PRODUCT's reduction, by its plane side. -/
def productGroups (p : Plan) (x : Passage) : Nat :=
  match planeOperand p x with | some t => ceilDiv (reductionOf t.dims) (groupSize t.gsize) | none => 0

/-- Cover units of a PRODUCT: those of each whole super-group, and of the short one. -/
def productUnits (p : Plan) (x : Passage) : Nat :=
  let g := productGroups p x
  g / 16 * ceilDiv 16 x.cover + ceilDiv (g % 16) x.cover

/-- Groups lo to hi − 1 of a super-group are one cover unit of c groups; the last of a short super-group holds what remains. -/
def unitOk (c groups lo hi : Nat) : Bool := lo % c = 0 && (hi = lo + c || (hi < lo + c && groups % 16 != 0 && hi = groups % 16))

/-- A PASS row covers exactly one cover unit in each super-group. -/
def coverOk (c groups : Nat) (b : Pass) : Bool :=
  decide (0 < c) && (List.range b.nsup).all (fun i =>
    unitOk c groups (if i = 0 then b.gfirst else 0) (min 16 (b.gfirst + b.ngroup - 16 * i)))

/-- A part of a reduction of n partials that R132 allows: 2^k partials, or the last part's remainder. -/
def partOk (k n count : Nat) : Bool := count = 0 || count = 2 ^ k || count = n % 2 ^ k

/-- Partials of the tiles that a row ends, position by position. -/
def closingCounts (w : Row) (tiles : List OpenTile) : List Nat :=
  if (accOf (accBits w)).ends then
    (passCores w).flatMap (fun core => ((tileAfter (passOf w) (accOf (accBits w)) (passDesc w) tiles core).map OpenTile.counts).getD [])
  else []

/-- A row on a path: the tiles after it; none where it closes a part of the passage that R132 does not allow. -/
def splitRow (served : List (Option (BitVec 32))) (i : BitVec 32) (k n : Nat) (row : Nat) (w : Row) (tiles : List OpenTile) :
    Option (List OpenTile) :=
  if rowKind w != 1 then some tiles
  else if nth served row none = some i && !(closingCounts w tiles).all (partOk k n) then none
  else pathPass w tiles

/-- Some power of two divides the reduction into parts that R132 allows, on every path. -/
def splitOk (p : Plan) (rows : List Row) (served : List (Option (BitVec 32))) (x : Passage) : Bool :=
  (List.range 33).any (fun k => (flowAll (splitRow served x.ident k (productUnits p x)) rows []).isNone)

def isPow2 (n : Nat) : Bool := n != 0 && n = 2 ^ Nat.log2 n

/-- Quantisation is spread over regions only in runs whose element count is a power of two. -/
def spreadOk (w : Row) : Bool := decide ((setList (rowRset w)).length ≤ 1) || isPow2 (qNtoken w * qK w)

/-- A passage's rows keep R195. -/
def promiseOk (p : Plan) (rows : List Row) (served : List (Option (BitVec 32))) (x : Passage) : Bool :=
  let mine := (rows.zip served).filter (fun r => r.2 = some x.ident)
  mine.all (fun r => match rowKind r.1 with
    | 1 => coverOk x.cover (productGroups p x) (passOf r.1)
    | 2 => vOp r.1 != 0 || vOrder r.1 = 0
    | 3 => spreadOk r.1
    | _ => true) &&
    (x.kind != .product || splitOk p rows served x)

/-- The first passage in TREE order whose rows break R195 under STRICT. -/
def promiseFault (p : Plan) (rows : List Row) (served : List (Option (BitVec 32))) : Option Nat :=
  if planRelaxed p then none else p.passages.findIdx? (fun x => x.order = 0 && !promiseOk p rows served x)

/-! ### Lowering, R189, R190, R192 -/

/-- Experts that the plan homes on a rank. -/
def homedOn (p : Plan) (rank : Nat) : Nat := ((p.homes.flatMap homesOf).filter (fun h => h.1 = rank)).length

/-- Reason 0x01: section kind and index of the record whose formats, sizes, router k or homing count the snapshot does not have. -/
def beyondSnapshot (p : Plan) (d : BitVec 1024) : Option (Nat × Nat) :=
  [firstBad 1 p.tensors (fun t => snapFormat d (fmtCode t.format) && snapGroup d t.gsize && t.rotation.all (fun r => snapBlock d r.2)),
   firstBad 2 p.passages (fun x => match x.kind with | .vector 3 k => decide (k ≤ snapTopk d) | _ => true),
   firstBad 3 p.copies (fun c => c.conv = 0 || snapFormat d (fmtCode c.conv)),
   firstBad 4 p.collectives (fun c => c.format = 0 || snapFormat d (fmtCode c.format)),
   firstBad 8 p.homes (fun h => (homesOf h).all (fun r => decide (homedOn p r.1 ≤ snapHomed d)))].findSome? id

/-- Staging bytes of the operands of one cover unit: 512 columns and one token. -/
def unitBytes (p : Plan) (x : Passage) : Nat :=
  match planeOperand p x, tableOperand p x with
  | some a, some b =>
    (({ passOf 0 with tside := fmtCode b.format, pside := fmtCode a.format, gsize := a.gsize, tzp := b.zp, pzp := a.zp, ngroup := x.cover,
                      ntok := 1 } : Pass).arrays.map (fun y => up16 y.2)).sum
  | _, _ => 0

/-- Reason 0x04. -/
def unitTooLarge (p : Plan) (d : BitVec 1024) : Option Nat :=
  p.passages.findIdx? (fun x => x.kind = .product && decide (snapStaging d < unitBytes p x))

/-- What a candidate comes to. One that does not do what the plan says is none that the hardware gives: its reason is free. -/
def accepted (p : Plan) (d : BitVec 1024) (c : Option Config.Lowering) : (List Row × List Nat) ⊕ (Nat × Nat × Nat) :=
  let f := Config.lowerReason (snapVersion d) p.bytes d
  let free : Nat × Nat × Nat := (f.1.toNat, f.2.1.toNat, f.2.2.toNat)
  match c with
  | none => .inr free
  | some c =>
    if snapRows d < c.rows.length then .inr (0, 6, 2)
    else if c.rows = [] || c.served.length != c.rows.length || !servesPlan p c.rows c.served || !copiesPlaced p d c.rows c.served then .inr free
    else match promiseFault p c.rows c.served with
      | some i => .inr (i, 2, 3)
      | none => .inl (c.rows, c.barriers)

/-- What lowering a plan against a snapshot gives: the rows with their commit barriers, or record, section and reason (R192). -/
def lowerPlan (p : Plan) (d : BitVec 1024) : (List Row × List Nat) ⊕ (Nat × Nat × Nat) :=
  if planPaired p != snapPaired d || planRanks p ≠ p.rankTable.length then .inr (0, 7, 5)
  else match beyondSnapshot p d with
    | some r => .inr (r.2, r.1, 1)
    | none =>
      match unitTooLarge p d with
      | some i => .inr (i, 2, 4)
      | none => accepted p d (loweringOf p d)

end Sys2Proof.Machine
end

