-- ==== Sys2Proof/Machine/Load.lean ====
section
/-!
DEFINITION. Timetable slots: CHECK_PLAN, LOWER, TT_LOAD, TT_ARM, TT_DISCARD and their completions (spec/07_timetable.md R179 to
R181; spec/08_xekoade.md R189 to R192; spec/09_memory.md R214).
-/
namespace Sys2Proof.Machine

/-! ### Slots -/

/-- A load or lowering into the slot is in progress (spec/13_commands.md Table 13-13). -/
def slotBusy (s : State) (b : Bool) : Bool := loweringInto s b || (if b then s.gw.loadB.isSome else s.gw.loadA.isSome)

def slotIs (s : State) (b : Bool) (l : List SlotState) : Bool := l.contains (slotOf s b).state

/-- EMPTY or LOADED, and nothing writes it. -/
def slotFree (s : State) (b : Bool) : Bool := slotIs s b [.empty, .loaded] && !slotBusy s b

/-- A condition on the slot that a parameter names; a number above 1 is left to check 8. -/
def onNamed (slot : BitVec 8) (f : Bool → Bool) : Bool := if slot.toNat ≤ 1 then f (slot = 1) else true

def bumpGen (s : State) : State := onSeq (fun q => { q with slotGen := q.slotGen + 1 }) s

/-- GENERATOR_REMAP and the counter for each row whose key is replaced (spec/02_formats.md R59). -/
def noteRemaps (b : Bool) (rows : List Nat) (s : State) : State :=
  rows.foldl (fun s k => pairEvent Code.generatorRemap (slotByte b ++ leBytes 2 k)
    (onSeq (fun q => { q with remap := q.remap + 1, remapped := q.remapped ++ [b2n b * 2 ^ 14 + k] }) s)) s

/-- The slot holds rows that have passed the checks. -/
def fillSlot (b : Bool) (rows : List Row) (lowered : Option Lowered) (remaps : List Nat) (s : State) : State :=
  let s := onSlot b (fun _ => { state := .loaded, rows := rows, digest := slotDigest rows, entry := 0, lowered := lowered }) s
  let s := onSeq (fun q => { q with remapped := q.remapped.filter (fun x => x / 2 ^ 14 != b2n b) }) s
  noteRemaps b remaps (bumpGen s)

/-- The record of a refused load (spec/02_formats.md R58). -/
def overlapRecord (b : Bool) (e : LoadFault) (s : State) : State :=
  if e.1 = Status.generatorOverlap then pairEvent Code.generatorOverlap (slotByte b ++ leBytes 2 e.2.1 ++ leBytes 2 e.2.2) s else s

/-- Refuse a load, naming slot and rows. -/
def refuseLoad (q : Req) (op : Nat) (b : Bool) (e : LoadFault) (s : State) : State :=
  completeAs q (BitVec.ofNat 8 op) e.1 (rowDetail b e.2.1 e.2.2) [] (overlapRecord b e s)

/-! ### CHECK_PLAN and LOWER -/

/-- The plan's source can be read, and an inline plan is legal. -/
def sourceOk (q : Req) (op : Nat) (p : Plan) (src : PlanSource) (f : State → State) (s : State) : State :=
  match src with
  | .inline =>
    (match planFault p with
     | some e => completeAs q (BitVec.ofNat 8 op) e.1 e.2 [] s
     | none => f s)
  | .blob w o n => checkField q op 1 (windowHolds s w.toNat o.toNat n.toNat) f s

/-- The lowering group is taken, against the descriptor as it is now. -/
def startLowering (q : Req) (slot : Option Bool) (p : Plan) (src : PlanSource) (s : State) : State :=
  onGw (fun g => { g with lowering := some (
    match src with
    | .inline => { req := q, slot := slot, plan := p, snapshot := descriptor s, window := none, offset := 0, length := 0, fetched := false }
    | .blob w o n => { req := q, slot := slot, plan := p, snapshot := descriptor s, window := some w, offset := o, length := n, fetched := false }) }) s

def execCheckPlan (q : Req) (p : Plan) (src : PlanSource) (s : State) : Host.Outcome State Fault Refusal :=
  command 0x30 0 q (inState s [.ready, .job, .halted] && s.gw.lowering.isNone) (sourceOk q 0x30 p src (startLowering q none p src)) s

def execLower (q : Req) (slot : BitVec 8) (p : Plan) (src : PlanSource) (s : State) : Host.Outcome State Fault Refusal :=
  command 0x31 0 q (s.gw.lowering.isNone && onNamed slot (slotFree s))
    (checkField q 0x31 0 (decide (slot.toNat ≤ 1)) (sourceOk q 0x31 p src (startLowering q (some (slot = 1)) p src))) s

/-- Plaintext bytes of a blob that takes n bytes of its window (spec/09_memory.md R207). -/
def blobText (n : Nat) : Nat := n - 32 * ceilDiv n 65568

/-- The chunks of a plan blob from chunk k on: its bytes, or the chunk that fails. Its key names tensor 0 (log entry 31). -/
def readBlob (s : State) (a n : Nat) : Nat → Nat → Nat ⊕ List Byte
  | 0, _ => .inr []
  | m + 1, k =>
    match openRunChunk s 0 a n k, readBlob s a n m (k + 1) with
    | none, _ => .inl k
    | some _, .inl e => .inl e
    | some pt, .inr r => .inr (pt ++ r)

/-- The plan that a job reads: the one that came with the command where the blob holds its bytes, else what the bytes say. -/
def planIn (j : LowerJob) (b : List Byte) : Plan := if b = j.plan.bytes then j.plan else Config.readPlan b

/-- A plan that came as a blob is read and checked; HOST_BLOB_AUTH names no tensor (log entry 31). -/
def withPlan (j : LowerJob) (op : Nat) (f : Plan → State → State) (s : State) : State :=
  match j.window with
  | none => f j.plan s
  | some w =>
    let n := blobText j.length.toNat
    match readBlob s (windowAddr s w.toNat j.offset.toNat) n (chunkCount n) 0 with
    | .inl k => refuse j.req (BitVec.ofNat 8 op) Status.blobAuth
        (record Code.hostBlobAuth (zeros 4 ++ leBytes 6 (j.offset.toNat + 65568 * k)) s)
    | .inr b =>
      match planFault (planIn j b) with
      | some e => completeAs j.req (BitVec.ofNat 8 op) e.1 e.2 [] s
      | none => f (planIn j b) s

/-- R214: the demands, or PLAN_TOO_LARGE with the shortfalls. -/
def checkPlanDone (j : LowerJob) (s : State) : State :=
  let s := onGw (fun g => { g with lowering := none }) s
  withPlan j 0x30 (fun p s =>
    let f := footprint p j.snapshot
    completeAs j.req 0x30 (if f.tooLarge then Status.planTooLarge else Status.ok) 0 f.bytes s) s

def execCheckPlanDone (s : State) : Host.Outcome State Fault Refusal :=
  match s.gw.lowering with
  | some j => event j.slot.isNone (checkPlanDone j) s
  | none => .next s

/-- The determinism in force (spec/02_formats.md R58, R59). -/
def relaxedFor (s : State) (p : Plan) : Bool :=
  if s.job.started then s.job.relaxed else planRelaxed p || decide (1024 < planRanks p * (if planPaired p then 2 else 1))

/-- R189. -/
def lowerReply (s : State) (p : Plan) (d : BitVec 1024) (rows : List Row) : List Byte :=
  wordBytes (slotDigest rows) ++ sha384 p.bytes ++ sha384 (wordBytes d) ++ leBytes 4 rows.length ++ wordBytes (snapVersion d) ++
    [BitVec.ofNat 8 (b2n (relaxedFor s p))]

/-- Both halves of a pair hold the slot (spec/12_lashing.md R287). -/
def tellLoad (b : Bool) (rows : List Row) (lowered : Option Lowered) (s : State) : State :=
  sendLash (.forward (.load b rows (lowered.map (fun l => (l.plan, l.snapshot, l.barriers))))) s

/-- What the rows that a lowering gave, or its reason, come to (R189, R191, R192): rows that fail a load check leave the slot EMPTY. The
regions in service are the snapshot's. -/
def endLowering (j : LowerJob) (b : Bool) (p : Plan) (result : (List Row × List Nat) ⊕ (Nat × Nat × Nat)) (s : State) : State :=
  match result with
  | .inr n => completeAs j.req 0x31 Status.notLowerable (BitVec.ofNat 64 (n.1 + n.2.1 * 2 ^ 32 + n.2.2 * 2 ^ 40)) [] s
  | .inl r =>
    match checkRowsIn (snapServes j.snapshot) s r.1 with
    | .error e => refuseLoad j.req 0x31 b e (onSlot b (fun _ => Slot.empty) s)
    | .ok remaps =>
      let l : Lowered := { plan := p, snapshot := j.snapshot, barriers := r.2 }
      complete j.req 0x31 (lowerReply s p j.snapshot r.1) (tellLoad b r.1 (some l) (fillSlot b r.1 (some l) remaps s))

/-- The move lists that the other half holds come first (R255; log entry 30). A lowering ends (R189, R192, R214): a plan refused leaves the
slot as it was. -/
def lowerDone (j : LowerJob) (b : Bool) (s : State) : State :=
  let s := onGw (fun g => { g with lowering := none }) s
  withPlan j 0x31 (fun p s =>
    let r := lowerPlan p j.snapshot
    let l := match r with | .inl x => moveLists x.1 | .inr _ => []
    if (footprint p j.snapshot).tooLarge then refuse j.req 0x31 Status.planTooLarge s
    else if farDone j.fetched l s then endLowering j b p r s
    else onGw (fun g => { g with lowering := some { j with fetched := true } }) (if j.fetched then s else askFar ctlFlight l s)) s

def execLowerDone (s : State) : Host.Outcome State Fault Refusal :=
  match s.gw.lowering with
  | some j => (match j.slot with | some b => event true (lowerDone j b) s | none => .next s)
  | none => .next s

/-! ### TT_LOAD -/

/-- The write begins: the slot is EMPTY (R179). -/
def ttLoad (q : Req) (b : Bool) (rows : List Row) (s : State) : State :=
  let j : LoadJob := { req := q, rows := rows, fetched := false }
  onGw (fun g => if b then { g with loadB := some j } else { g with loadA := some j }) (onSlot b (fun _ => Slot.empty) s)

def execTtLoad (q : Req) (slot : BitVec 8) (n : BitVec 32) (rows : List Row) (s : State) : Host.Outcome State Fault Refusal :=
  command 0x32 0 q (onNamed slot (slotFree s))
    (checkField q 0x32 0 (decide (slot.toNat ≤ 1)) (checkField q 0x32 1 (1 ≤ n.toNat && n.toNat ≤ 16384 && rows.length = n.toNat)
      (ttLoad q (slot = 1) rows))) s

/-- R180: LOADED with its digest, or EMPTY. -/
def ttLoadDone (b : Bool) (j : LoadJob) (s : State) : State :=
  let s := onGw (fun g => if b then { g with loadB := none } else { g with loadA := none }) s
  match checkRows s j.rows with
  | .error e => refuseLoad j.req 0x32 b e s
  | .ok remaps =>
    complete j.req 0x32 (wordBytes (slotDigest j.rows) ++ leBytes 4 j.rows.length) (tellLoad b j.rows none (fillSlot b j.rows none remaps s))

/-- The load ends once the move lists that the other half holds have come (R255; log entry 30). -/
def ttLoadStep (b : Bool) (j : LoadJob) (s : State) : State :=
  let l := moveLists j.rows
  if farDone j.fetched l s then ttLoadDone b j s
  else if j.fetched then s
  else
    let k := some { j with fetched := true }
    onGw (fun g => if b then { g with loadB := k } else { g with loadA := k }) (askFar ctlFlight l s)

def execTtLoadDone (slot : Bool) (s : State) : Host.Outcome State Fault Refusal :=
  match (if slot then s.gw.loadB else s.gw.loadA) with
  | some j => event true (ttLoadStep slot j) s
  | none => .next s

/-! ### TT_ARM and TT_DISCARD -/

/-- The region check of R164 on a slot. -/
def regionCheck (q : Req) (op : Nat) (b : Bool) (f : State → State) (s : State) : State :=
  match fencedRow s (slotOf s b).rows with
  | some k => completeAs q (BitVec.ofNat 8 op) Status.regionFenced (rowDetail b k 0) [] s
  | none => f s

/-- ENTRY is an entry row of the slot (R180). -/
def entryOk (s : State) (b : Bool) (entry : BitVec 32) : Bool := (entryRows (slotOf s b).rows).contains entry.toNat

/-- A slot becomes ARMED. -/
def armSlot (b : Bool) (entry : Nat) (s : State) : State := bumpGen (onSlot b (fun x => { x with state := .armed, entry := entry }) s)

/-- TT_ARM takes effect. -/
def armNow (q : Req) (b : Bool) (entry : BitVec 32) (s : State) : State :=
  complete q 0x33 [] (sendLash (.forward (.arm b entry.toNat)) (armSlot b entry.toNat s))

/-- The primary of a pair compares slot digests first (spec/12_lashing.md Table 12-3). -/
def ttArm (q : Req) (b : Bool) (entry : BitVec 32) (s : State) : State :=
  checkField q 0x33 1 (entryOk s b entry) (regionCheck q 0x33 b (fun s =>
    if s.pair.role = .primary then compareFirst (.arm q b entry) s else armNow q b entry s)) s

/-- A slot that TT_ARM and RUN may name. -/
def armable (s : State) (b : Bool) : Bool := slotIs s b [.loaded] && !slotBusy s b

def execTtArm (q : Req) (slot : BitVec 8) (entry : BitVec 32) (s : State) : Host.Outcome State Fault Refusal :=
  command 0x33 0 q (inState s [.running] && onNamed slot (armable s))
    (checkField q 0x33 0 (decide (slot.toNat ≤ 1)) (ttArm q (slot = 1) entry)) s

/-- LOADED becomes EMPTY and ARMED becomes LOADED. -/
def discardSlot (b : Bool) (s : State) : State :=
  bumpGen (onSlot b (fun x => if x.state = .armed then { x with state := .loaded } else Slot.empty) s)

def ttDiscard (q : Req) (b : Bool) (s : State) : State :=
  complete q 0x34 [] (sendLash (.forward (.discard b)) (discardSlot b s))

def execTtDiscard (q : Req) (slot : BitVec 8) (s : State) : Host.Outcome State Fault Refusal :=
  command 0x34 0 q (onNamed slot (fun b => slotIs s b [.loaded, .armed] && !slotBusy s b))
    (checkField q 0x34 0 (decide (slot.toNat ≤ 1)) (ttDiscard q (slot = 1))) s

end Sys2Proof.Machine
end

