-- ==== Sys2Proof/Machine/Job.lean ====
section
/-!
DEFINITION. Jobs and runs: JOB_START with the exchange of claim lists, RUN, STOP, JOB_END, RANK_ABSENT, the notices of other
members and RESHARD_RESUME (spec/13_commands.md R308 to R310; spec/11_collectives.md R242 to R245, R258 to R260; spec/02_formats.md
R57 to R59; spec/17_modes_repair.md R398, R399, R402).
-/
namespace Sys2Proof.Machine

/-! ### The tables of a job, R242, R260, R308 -/

/-- No run, JOB_START or RESHARD_RESUME is in progress (spec/13_commands.md Table 13-13). -/
def runGroupFree (s : State) : Bool := s.seq.run.isNone && s.gw.join.isNone && s.gw.resume.isNone

/-- The plan slot that SOURCE names. -/
def sourceSlot (p : JobParams) : Option Bool := match p.source.toNat with | 1 => some false | 2 => some true | _ => none

/-- A slot that SOURCE names was written by LOWER. -/
def sourceLowered (s : State) (p : JobParams) : Bool :=
  match sourceSlot p with
  | some b => slotIs s b [.loaded, .armed] && (slotOf s b).lowered.isSome
  | none => true

/-- The parameters with the tables of the plan where SOURCE names one. -/
def resolved (s : State) (p : JobParams) : JobParams :=
  match (sourceSlot p).bind (fun b => (slotOf s b).lowered) with
  | some l => { p with ranks := BitVec.ofNat 16 l.plan.rankTable.length, rankTable := l.plan.rankTable, groups := l.plan.groups,
                       homes := l.plan.homes }
  | none => p

/-- The fixed fields are in range. -/
def jobFieldsOk (p : JobParams) : Bool :=
  p.determinism.toNat ≤ 1 && p.source.toNat ≤ 2 && 1 ≤ p.timeout.toNat && p.reserved = 0 &&
    (if p.source = 0 then 1 ≤ p.ranks.toNat && p.ranks.toNat ≤ 16384 && p.rankTable.length = p.ranks.toNat &&
        p.groups.length = p.nGroup.toNat && p.homes.length = p.nHome.toNat
     else p.ranks = 0 && p.nGroup = 0 && p.nHome = 0)

/-- The first field out of range, by its place in Table 13-12 (log entry 17: arrays whose number does not fit count at their number). -/
def badJobField (p : JobParams) : Nat :=
  let native := p.source = 0
  let ok : List (Nat × Bool) := [(1, p.determinism.toNat ≤ 1), (2, p.source.toNat ≤ 2), (3, 1 ≤ p.timeout.toNat),
    (4, if native then 1 ≤ p.ranks.toNat && p.ranks.toNat ≤ 16384 && p.rankTable.length = p.ranks.toNat else p.ranks = 0),
    (6, if native then p.groups.length = p.nGroup.toNat else p.nGroup = 0), (7, if native then p.homes.length = p.nHome.toNat else p.nHome = 0)]
  ((ok.find? (fun x => !x.2)).map Prod.fst).getD 8

/-- The tables pass R242 and R260. -/
def tablesOk (p : JobParams) : Bool :=
  p.myRank.toNat < p.ranks.toNat && p.rankTable.all (fun e => bits e 30 2 = 0 && bits e 48 16 = 0) &&
    p.groups.all (groupDefOk p.ranks.toNat) && p.homes.all homeDefOk

/-- R58: modules of the job, a pair counted as two. -/
def domainOf (l : List (BitVec 64)) : Nat := (l.map (fun e => if rankPair e then 2 else 1)).sum

/-- R59: RELAXED as asked, or forced by the domain. -/
def relaxedJob (p : JobParams) : Bool := p.determinism = 1 || decide (1024 < domainOf p.rankTable)

/-- The job that the parameters describe. -/
def jobOf (p : JobParams) : Job :=
  { Job.none with
    started := true, relaxed := relaxedJob p, seed := p.seed, ranks := p.ranks.toNat, myRank := p.myRank.toNat,
    rankTable := p.rankTable, domain := domainOf p.rankTable,
    groups := p.groups.foldl (fun m g => sput m g.group.toNat (g.ranks.map BitVec.toNat)) [],
    homes := p.homes.foldl (fun m h => sput m h.table.toNat { group := h.group.toNat, entries := h.entries }) [] }

/-! ### Claim lists, R57, R58 -/

/-- Slots that JOB_START checks. -/
def loadedSlots (s : State) : List Bool := [false, true].filter (fun b => slotIs s b [.loaded])

/-- The windows that a drawing row claims on each half that executes it, one for each issue and region. -/
def rowClaims (s : State) (b : Bool) (rows : List Row) (k : Nat) : List Claim :=
  (halvesOf (nth rows k 0)).flatMap (fun h => (claimSpans rows k).flatMap (fun sp => (List.range sp.n).map (fun i =>
    { node := halfNode s s.job.myRank h, half := h = 1, tensor := BitVec.ofNat 32 sp.space, first := sp.base + i * sp.stride,
      last := sp.base + i * sp.stride + sp.len - 1, slot := b, row := BitVec.ofNat 14 k })))

def ownClaims (s : State) : List Claim :=
  (loadedSlots s).flatMap (fun b => (drawingRows (slotOf s b).rows).flatMap (rowClaims s b (slotOf s b).rows))

/-- Two claims have the same key and their block windows intersect (R57). -/
def claimsOverlap (a b : Claim) : Bool :=
  a.node = b.node && a.half = b.half && a.tensor = b.tensor && a.first / 4 ≤ b.last / 4 && b.first / 4 ≤ a.last / 4

/-- The own claim and the member's claim that overlap. -/
def claimPair (own others : List Claim) : Option (Claim × Claim) :=
  own.findSome? (fun a => (others.find? (claimsOverlap a)).map (fun b => (a, b)))

/-- A member's claim list: heard, or the start is refused under STRICT (R58; R59 leaves overlaps between modules unchecked). -/
def takeClaims (rank : Nat) (l : List Claim) (s : State) : State :=
  match s.gw.join with
  | none => onGw (fun g => { g with claimsHeld := sput g.claimsHeld rank l }) s
  | some j =>
    match (if relaxedJob j.params then none else claimPair j.claims l) with
    | some p => refuseLoad j.req 0x35 p.1.slot (Status.generatorOverlap, p.1.row.toNat, p.2.row.toNat) (onGw (fun g => { g with join := none }) s)
    | none => onGw (fun g => { g with join := some { j with heard := insertOnce rank j.heard } }) s

def execClaimList (position : Nat) (claims : List Claim) (s : State) : Host.Outcome State Fault Refusal :=
  event s.power.rails (takeClaims position claims) s

/-! ### JOB_START, R308 -/

/-- The state with the job in place, as its checks see it. -/
def asJob (p : JobParams) (s : State) : State := { s with job := jobOf p }

/-- The first LOADED slot that fails a move check (log entry 44), a group check or a claim check: slot, and the fault. -/
def jobFault (t : State) : Option (Bool × LoadFault) :=
  ((loadedSlots t).findSome? (fun b => (reshardFault t (slotOf t b).rows).map (fun k => (b, Status.badField, k, 0)))).or (((loadedSlots t).findSome? (fun b => (groupFault t (slotOf t b).rows).map (fun k => (b, Status.badField, k, 0)))).or
    ((loadedSlots t).findSome? (fun b =>
      match claimCheck t.job.relaxed (slotOf t b).rows with
      | .error e => some (b, Status.generatorOverlap, e.1, e.2)
      | .ok _ => none)))

/-- Rows of the LOADED slots whose key RELAXED replaces. -/
def jobRemaps (t : State) : List Nat :=
  (loadedSlots t).flatMap (fun b =>
    match claimCheck t.job.relaxed (slotOf t b).rows with
    | .ok l => l.map (fun k => b2n b * 2 ^ 14 + k)
    | .error _ => [])

/-- The claim lists go to every other present member, and those heard already are taken. -/
def startJoin (q : Req) (p : JobParams) (s : State) : State :=
  let t := asJob p s
  let c := ownClaims t
  let sent := sendAll 0 (.claims c) t
  let j : JoinJob := { req := q, params := p, heard := [], claims := c, remapped := jobRemaps t }
  let early := s.gw.claimsHeld
  let s := onGw (fun g => { g with join := some j, claimsHeld := [] }) { sent with job := s.job }
  early.foldl (fun s x => if s.gw.join.isSome then takeClaims x.1 x.2 s else s) s

def jobStart (q : Req) (p : JobParams) (s : State) : State :=
  if !jobFieldsOk p then refuseField q 0x35 (badJobField p) s
  else if !sourceLowered s p then refuse q 0x35 Status.wrongState s
  else
    let r := resolved s p
    if !tablesOk r then refuseField q 0x35 (if r.myRank.toNat < r.ranks.toNat then 9 else 5) s
    else match jobFault (asJob r s) with
      | some e => refuseLoad q 0x35 e.1 e.2 s
      | none => startJoin q r s

def execJobStart (q : Req) (params : JobParams) (s : State) : Host.Outcome State Fault Refusal :=
  command 0x35 0 q (inState s [.ready] && runGroupFree s) (jobStart q params) s

/-- The job is started: step 0, verdicts A8 (spec/03_quantiser.md R88), ledgers and counters clear, watch entries but for their DRIFT bits,
which change only at a drift test (R83). -/
def installJob (p : JobParams) (remapped : List Nat) (s : State) : State :=
  let s := loseAcc { s with
    job := jobOf p
    reshard := s.reshard.ended
    seq := { s.seq with step := 0, a4 := [], hold := [], entryVerdict := none, watch := (clearWatch s).seq.watch, watchWait := [], calDrift := false, flags := [],
                        loops := [], issues := [], ledger := [], remapped := [], stallR := [], stallM := [], haltCause := 0, haltSlot := false,
                        haltRow := 0, haltEntry := none, tiles := [] }
    gw := { s.gw with runstate := .job, join := none } }
  let s := [false, true].foldl (fun s b =>
    noteRemaps b ((remapped.filter (fun x => x / 2 ^ 14 = b2n b)).map (fun x => x % 2 ^ 14)) s) s
  if 1024 < domainOf p.rankTable then pairEvent Code.determinismRelaxed [] s else s

/-- Every other present member has been heard. -/
def allHeard (s : State) (j : JoinJob) : Bool := (otherMembers (asJob j.params s) 0).all (fun r => j.heard.contains r)

def jobJoined (j : JoinJob) (s : State) : State :=
  let s := sendLash (.forward (.job j.params j.remapped)) (installJob j.params j.remapped s)
  complete j.req 0x35 ([BitVec.ofNat 8 (b2n s.job.relaxed)] ++ leBytes 2 j.heard.length ++ leBytes 4 s.job.domain) s

def execJobStartJoined (s : State) : Host.Outcome State Fault Refusal :=
  match s.gw.join with
  | some j => event (allHeard s j) (jobJoined j) s
  | none => .next s

def execJoinTimeout (s : State) : Host.Outcome State Fault Refusal :=
  match s.gw.join with
  | some j => event true (fun s => refuse j.req 0x35 Status.joinTimeout (onGw (fun g => { g with join := none }) s)) s
  | none => .next s

/-! ### RUN, R309 -/

/-- The state of the step returns to its start before a run from HALTED; verdicts where the run repeats that step (R399). -/
def beforeRun (b : Bool) (entry : Nat) (s : State) : State :=
  if s.gw.runstate = .halted then restoreStep (decide (s.seq.haltEntry = some (b, entry))) s else s

/-- The run begins at an entry row of a slot. -/
def beginRun (q : Req) (b : Bool) (entry steps : Nat) (boost : Bool) (s : State) : State :=
  let s := saveEntry (beforeRun b entry s)
  let run : ActiveRun := { slot := b, next := entry, entry := entry, stepEntry := entry, gap := 0, budget := steps, boost := boost, req := q,
                           stopAt := false, halting := none, attempt := 0, asleep := false, committed := false, abandoning := none,
                           restartAt := none, waitCause := none }
  let s := onSlot b (fun x => { x with state := .active }) s
  let s := onSeq (fun x => { x with run := some run, held := [], flight := [], issues := [] })
    { s with job := { s.job with notices := [] }, pair := { s.pair with sent := none, got := [], shares := [] } }
  settleBoost (wakeDoze (onGw (fun g => { g with runstate := .running }) s))

/-- Failing cores are replaced as the run starts (R400). A region without a spare left goes on the slipway before a row issues, and the run
lowers again or halts, as at a fence during the run (spec/01_module.md R12, R402). -/
def startSpares (s : State) : State := servePendingFences (serveSpares s)

/-- RUN takes effect. -/
def runNow (q : Req) (b : Bool) (entry : BitVec 32) (steps : BitVec 64) (boost : BitVec 8) (s : State) : State :=
  startSpares (beginRun q b entry.toNat steps.toNat (boost = 1) (sendLash (.forward (.run b entry.toNat steps (boost = 1))) s))

/-- The region check of R164; a RUN that it refuses has no effect (R301). The primary of a pair compares slot digests first (R280). -/
def runCommand (q : Req) (b : Bool) (entry : BitVec 32) (steps : BitVec 64) (boost : BitVec 8) (s : State) : State :=
  checkField q 0x36 1 (entryOk s b entry) (checkField q 0x36 3 (decide (boost.toNat ≤ 1)) (fun s =>
    regionCheck q 0x36 b (fun s =>
      if s.pair.role = .primary then compareFirst (.run q b entry steps boost) s else runNow q b entry steps boost s) s)) s

def execRun (q : Req) (slot : BitVec 8) (entry : BitVec 32) (steps : BitVec 64) (boost : BitVec 8) (s : State) :
    Host.Outcome State Fault Refusal :=
  command 0x36 0 q (inState s [.job, .halted] && runGroupFree s && !s.thermal.tripped &&
      onNamed slot (armable s))
    (checkField q 0x36 0 (decide (slot.toNat ≤ 1)) (runCommand q (slot = 1) entry steps boost)) s

/-! ### STOP and JOB_END, R310 -/

/-- The halt of STOP NOW, with its record. -/
def stopNow (s : State) : State :=
  match s.seq.run with
  | none => s
  | some r =>
    let k := stopRow s r
    halt Status.stopped (timetableHalt r.slot k (rowLayer (rowAt s r.slot k)) 0 s)

/-- The run ends at the next boundary; one that sleeps at a boundary ends there. -/
def stopBoundary (s : State) : State :=
  match s.seq.run with
  | none => s
  | some r =>
    if r.asleep then closeRun r r.slot r.next Status.ok 0 (onGw (fun g => { g with runstate := .job }) s)
    else onRun (fun r => { r with stopAt := true }) s

def stopRun (now : Bool) (s : State) : State := if now then stopNow s else stopBoundary s

def execStop (q : Req) (mode : BitVec 8) (s : State) : Host.Outcome State Fault Refusal :=
  command 0x37 0 q (inState s [.running] && s.gw.powerCmd.isNone && s.gw.stopCmd.isNone)
    (checkField q 0x37 0 (decide (mode.toNat ≤ 1)) (fun s =>
      stopRun (mode = 1) (sendLash (.forward (.stop (mode = 1))) (onGw (fun g => { g with stopCmd := some q }) s)))) s

/-- The job ends; its tables go, and a RESHARD in progress with it. -/
def endJob (s : State) : State :=
  onGw (fun g => { g with runstate := .ready })
    (let s := dropEarly (fun _ => true) s; { s with job := Job.none, reshard := s.reshard.ended })

def execJobEnd (q : Req) (s : State) : Host.Outcome State Fault Refusal :=
  command 0x38 0 q (inState s [.job, .halted] && runGroupFree s)
    (fun s => reply q 0x38 [] (sendLash (.forward .jobEnd) (endJob s))) s

/-! ### RANK_ABSENT, R244 -/

/-- A rank is marked absent with its stand-in. -/
def markAbsent (rank standIn : Nat) (s : State) : State :=
  let e := rankEntry s rank
  let e2 : BitVec 64 := BitVec.ofNat 64 (e.toNat - bits e 14 1 * 2 ^ 14 - bits e 32 16 * 2 ^ 32 + standIn * 2 ^ 32)
  { s with job := { s.job with rankTable := modifyAt s.job.rankTable rank (fun _ => e2) } }

/-- STAND_IN is none, or a present rank other than RANK. -/
def standInOk (s : State) (rank standIn : Nat) : Bool :=
  standIn = 0xFFFF || (standIn != rank && decide (standIn < s.job.ranks) && rankPresent (rankEntry s standIn))

/-- The first LOADED or ARMED slot whose group checks fail. -/
def absentFault (s : State) : Option (Bool × Nat) :=
  ([false, true].filter (fun b => slotIs s b [.loaded, .armed])).findSome? (fun b =>
    (groupFault s (slotOf s b).rows).map (fun k => (b, k)))

def rankAbsent (q : Req) (rank standIn : Nat) (s : State) : State :=
  checkField q 0x39 0 (rank != s.job.myRank && decide (rank < s.job.ranks)) (checkField q 0x39 1 (standInOk s rank standIn) (fun s =>
    match absentFault (markAbsent rank standIn s) with
    | some p => completeAs q 0x39 Status.badField (rowDetail p.1 p.2 0) [] s
    | none => reply q 0x39 [] (sendLash (.forward (.rankAbsent rank standIn)) (markAbsent rank standIn s)))) s

def execRankAbsent (q : Req) (rank standIn : BitVec 16) (s : State) : Host.Outcome State Fault Refusal :=
  command 0x39 0 q (inState s [.job, .halted] && runGroupFree s) (rankAbsent q rank.toNat standIn.toNat) s

/-! ### Notices, R245, spec/17_modes_repair.md R402 -/

def execLostNotice (position : BitVec 16) (node : BitVec 14) (s : State) : Host.Outcome State Fault Refusal :=
  event s.job.started (fun s => takeLost position.toNat node (echo (.lost position.toNat node) s)) s

/-- The other module of a round that halts with DIVERGENT_COPIES writes the record too (spec/11_collectives.md R254): the module whose copy of
a block that has two the sender was to take. The digest of the other copy is free (log entry 93). -/
def noteDivergent (rank : Nat) (s : State) : State :=
  match reshardFlight s with
  | none => s
  | some f =>
    match (movesOf s f.bits).find? (fun m => mvHasb m && mvTo m = rank && (mvFrom m = s.job.myRank || mvBfrom m = s.job.myRank)) with
    | none => s
    | some m =>
      let h := ofLe (listBytes s (if mvFrom m = s.job.myRank then mvFaddr m else mvBaddr m) 32)
      let d := draw s
      let other := Config.freeWord 12 d.1
      let pair := if mvFrom m = s.job.myRank then (hdDigest h, other) else (other, hdDigest h)
      record Code.divergentCopies ([0] ++ wordBytes (mvShard m) ++ leBytes 8 (hdEpoch h) ++ wordBytes pair.1 ++ wordBytes pair.2) d.2

/-- PEER_HALTED with the sender's rank, node and status. A notice of the own rank is the other half's: both halt together. -/
def takeHalted (rank : BitVec 16) (node : BitVec 14) (status : BitVec 16) (s : State) : State :=
  let n : Bool × BitVec 16 × BitVec 14 := (true, rank, node)
  if rank.toNat = s.job.myRank then (if inPair s then haltPeer status s else s)
  else if s.job.notices.contains n then s
  else
    let s := { s with job := { s.job with notices := s.job.notices ++ [n] } }
    let s := if status = Status.divergentCopies then noteDivergent rank.toNat s else s
    haltPeer Status.peerHalted (record Code.peerHalted (wordBytes rank ++ leBytes 2 node.toNat ++ wordBytes status)
      (echo (.halted rank.toNat node status) s))

def execHaltedNotice (rank : BitVec 16) (node : BitVec 14) (status : BitVec 16) (s : State) : Host.Outcome State Fault Refusal :=
  event s.job.started (takeHalted rank node status) s

/-- The step starts again once its issued rows have settled; a module that is itself lowering again starts in its new slot. -/
def takeRestart (attempt : Nat) (s : State) : State :=
  let s := setAttempt attempt (cutWaits s)
  match s.seq.run with
  | none => s
  | some r =>
    if r.halting.isSome || r.abandoning.isSome then settleHalt s
    else settleHalt (onSeq (fun q => { q with held := [], run := some { r with restartAt := some (r.slot, r.stepEntry) } }) s)

def execRestartNotice (step : BitVec 48) (attempt : Nat) (s : State) : Host.Outcome State Fault Refusal :=
  event (s.seq.run.isSome && decide (step = s.seq.step) && decide (attemptNow s < attempt))
    (fun s => takeRestart attempt (echo (.restart step attempt) s)) s

/-! ### RESHARD_RESUME, R258, R259 -/

/-- The last entry of an identity whose round committed. -/
def lastCommit (s : State) (rid : BitVec 16) : Option JournalEntry :=
  let l := [s.reshard.journalA, s.reshard.journalB].filter (fun e => journalCrcOk e && e.rid = rid && e.state = 2)
  match l with
  | [] => none
  | [a] => some a
  | a :: b :: _ => some (if a.round.toNat < b.round.toNat then b else a)

/-- A slot whose digest begins with TTDIG. -/
def slotOfDigest (s : State) (e : JournalEntry) : Option Bool :=
  ([e.slot, !e.slot]).find? (fun b => slotIs s b [.loaded, .armed] && bits (slotOf s b).digest 0 64 = e.ttdig.toNat)

/-- Where the run is to continue: slot and row. -/
def resumePlace (s : State) (rid : BitVec 16) : Option (Bool × Nat) :=
  match lastCommit s rid with
  | some e => (slotOfDigest s e).map (fun b => (b, e.next.toNat))
  | none => some (s.seq.haltEntry.getD (s.seq.haltSlot, 0))

/-- The slot of the last journal entry is still held, and the journal is not VOID. -/
def resumable (s : State) (rid : BitVec 16) : Bool :=
  let e := journalOf s rid
  s.reshard.active.any (fun a => a.1 = rid) && e.state != 3 && (e.state = 0 || (slotOfDigest s e).isSome) && (resumePlace s rid).isSome

/-- The journal state of this rank: in a pair the later of the two halves'. -/
def rankJournal (s : State) (rid : BitVec 16) : JournalEntry :=
  let own := journalOf s rid
  match sget? s.reshard.journals s.job.myRank with
  | some e => if e.rid = rid && journalRank own < journalRank e then e else own
  | none => own

/-- The round that the reshard is in. -/
def roundNow (s : State) : Nat := (s.reshard.active.map (fun a => a.2.1)).getD 0

/-- Some member, or the other half, holds COMMITTED for the round. -/
def committedSomewhere (s : State) (rid : BitVec 16) : Bool :=
  (journalOf s rid :: s.reshard.journals.map Prod.snd).any (fun e => e.rid = rid && e.state = 2 && e.round.toNat = roundNow s)

/-- LANDED headers become VACANT, and RESHARD_ROLLBACK is written. -/
def rollBack (rid : BitVec 16) (s : State) : State :=
  let s := putStates 0 s.reshard.landed s
  let s := record Code.reshardRollback (wordBytes rid ++ leBytes 2 (roundNow s)) s
  { s with reshard := { s.reshard with landed := [], vacate := [], incoming := [], pulled := [], prepared := false, ready := [] } }

/-- R259 on this half: a round held COMMITTED stands, one held PREPARED commits with the others or is rolled back. -/
def resolveRound (rid : BitVec 16) (commit : Bool) (s : State) : State :=
  let own := journalOf s rid
  let s := { s with reshard := { s.reshard with journals := [] } }
  if own.state = 2 && own.round.toNat = roundNow s then s
  else if commit && own.state = 1 && own.round.toNat = roundNow s then commitRound ((slotOfDigest s own).getD own.slot) own.next.toNat s
  else rollBack rid s

/-- The round is resolved: outcome, NEXT and slot. -/
def finishResume (j : ResumeJob) (s : State) : State :=
  let commit := committedSomewhere s j.rid
  let s := sendLash (.forward (.resume j.rid (some commit))) (resolveRound j.rid commit (onGw (fun g => { g with resume := none }) s))
  let at_ := (resumePlace s j.rid).getD (s.seq.haltSlot, 0)
  complete j.req 0x3A ([BitVec.ofNat 8 (b2n commit)] ++ leBytes 2 at_.2 ++ slotByte at_.1) s

/-- Ranks whose journal states a resume waits for: the other present members and, in a pair, the other half. -/
def journalNeeds (s : State) : List Nat := otherMembers s 0 ++ (if inPair s then [s.job.myRank] else [])

def settleResume (s : State) : State :=
  match s.gw.resume with
  | none => s
  | some j =>
    if (journalNeeds s).all (fun r => (sget? s.reshard.journals r).any (fun e => e.rid = j.rid)) then finishResume j s else s

/-- The rank's state under its identity, whether or not it has an entry. -/
def withRid (rid : BitVec 16) (e : JournalEntry) : JournalEntry := let e := { e with rid := rid }; { e with crc := crc32c (journalBody e) }

def startResume (q : Req) (rid : BitVec 16) (s : State) : State :=
  let s := onGw (fun g => { g with resume := some { req := q, rid := rid } }) s
  if inPair s then sendLash (.forward (.resume rid none)) s
  else settleResume (sendAll 0 (.journal (withRid rid (rankJournal s rid))) s)

def execReshardResume (q : Req) (rid : BitVec 16) (s : State) : Host.Outcome State Fault Refusal :=
  command 0x3A 0 q (inState s [.halted] && runGroupFree s && resumable s rid) (startResume q rid) s

/-- A member that has left RESHARDING answers with what its journal holds. -/
def answerJournal (position : Nat) (rid : BitVec 16) (s : State) : State :=
  if s.gw.resume.isNone && s.reshard.active.isNone && (journalOf s rid).state != 0 && position != s.job.myRank then
    send (rankNode (rankEntry s position)) 3 none (.journal (journalOf s rid)) s
  else s

def journalExchange (position : Nat) (e : JournalEntry) (s : State) : State :=
  let s := { s with reshard := { s.reshard with journals := sput s.reshard.journals position e } }
  let s := if position = s.job.myRank && s.gw.resume.isSome then sendAll 0 (.journal (withRid e.rid (rankJournal s e.rid))) s else s
  settleResume (answerJournal position e.rid s)

def execJournalExchange (position : Nat) (e : JournalEntry) (s : State) : Host.Outcome State Fault Refusal :=
  event s.job.started (journalExchange position e) s

end Sys2Proof.Machine
end

