-- ==== Sys2Proof/Machine/Regions.lean ====
section
/-!
DEFINITION. Regions: waking and gating (spec/07_timetable.md R178; spec/16_power.md R377, R378), REGION_CTL, retests on the slipway
and the degraded restart (spec/17_modes_repair.md R400 to R403; spec/07_timetable.md R164).
-/
namespace Sys2Proof.Machine

/-! ### Waking and gating, R178 -/

/-- Regions can be clocked. -/
def regionsUp (s : State) : Bool := s.power.rails && !s.thermal.tripped && (s.power.state = .run || s.power.state = .boost)

/-- The first row that names the region is 2 µs away or less, or a retest needs it. -/
def wakes (s : State) (r : Nat) : Bool :=
  (region s r).clock = .gated && regionsUp s && ((region s r).retest || ((region s r).inService && inWindow s r wakeUnits))

def execRegionWakeStart (r : Fin 64) (s : State) : Host.Outcome State Fault Refusal :=
  event (wakes s r.val) (onRegion r.val (fun g => { g with clock := .waking })) s

/-- The region is clocked: at its last step, within its target, the floor beside a faster neighbour (R377) and twice the step of a slower
one (R376). -/
def regionReady (r : Nat) (s : State) : State :=
  let step := max (min (min (region s r).clkStep (regionTarget s r)) (stepCeil s r)) (stepFloor s r)
  onRegion r (fun g => { g with clock := .ready, clkStep := step }) s

def execRegionReady (r : Fin 64) (s : State) : Host.Outcome State Fault Refusal :=
  event ((region s r.val).clock = .waking && regionsUp s) (regionReady r.val) s

/-- Nothing uses the region: no issued row that names it, no copy of its SRAM by the other half, no drain, no retest, and no row within 6 µs in the window. -/
def idle (s : State) (r : Nat) : Bool :=
  !s.seq.flight.any (fun f => rowUses f.bits (myHalf s) r) && !s.seq.tiles.any (fun t => t.closing.isSome && t.region = r) &&
    !(region s r).retest && !inWindow s r gateUnits

def execRegionGate (r : Fin 64) (s : State) : Host.Outcome State Fault Refusal :=
  event ((region s r.val).clock = .ready && idle s r.val) (fun s => settleDoze (onRegion r.val (fun g => { g with clock := .gated }) s)) s

/-! ### REGION_CTL, R401, R403 -/

/-- A region in service, by its pair number. -/
def serves (s : State) (r : Nat) : Bool :=
  if r < 64 then (region s r).inService else fld s.pair.peerRegions.toNat (r - 64) 1 = 1

/-- A region that REGION_CTL FENCE fenced, not under retest. -/
def ctlFenced (s : State) (r : Nat) : Bool :=
  if r < 64 then decide ((region s r).mode = .slipway .command) && !(region s r).retest else s.pair.ctlFenced.contains (r - 64)

/-- FENCE asks for a region in service, RETURN for one that REGION_CTL fenced. -/
def regionAccepts (s : State) (r action : Nat) : Bool :=
  if regionCount s ≤ r || 1 < action then true else if action = 0 then serves s r else ctlFenced s r

/-- FENCE waits for the step boundary of an active run; RETURN starts a retest. -/
def regionAct (r : Nat) (fence : Bool) (s : State) : State :=
  if fence then settleDoze (fenceLater r .command s)
  else onRegion r (fun g => { g with mode := .slipway .regionReset, retest := true, clock := .waking }) (wakeDoze s)

/-- A region of the other half. -/
def regionActFar (r : Nat) (fence : Bool) (s : State) : State :=
  let l := s.pair.ctlFenced.filter (fun x => x != r)
  sendLash (.forward (.regionCtl r fence)) { s with pair := { s.pair with ctlFenced := if fence then r :: l else l } }

def regionCtl (q : Req) (r action : Nat) (s : State) : State :=
  checkField q 0x62 0 (decide (r < regionCount s)) (checkField q 0x62 1 (decide (action ≤ 1)) (fun s =>
    reply q 0x62 [] (if r < 64 then regionAct r (action = 0) s else regionActFar (r - 64) (action = 0) s))) s

def execRegionCtl (q : Req) (r action : BitVec 8) (s : State) : Host.Outcome State Fault Refusal :=
  command 0x62 0 q (regionAccepts s r.toNat action.toNat) (regionCtl q r.toNat action.toNat) s

/-! ### Lowering again, R402, R403 -/

/-- The entry row of another lowering of the plan that begins what an entry row of this one begins: the one of the same ordinal. -/
def mapEntry (src dst : List Row) (entry : Nat) : Nat :=
  let entries (rows : List Row) : List Nat := (List.range rows.length).filter (fun k => (entryRows rows).contains k)
  nth (entries dst) ((entries src).findIdx (fun k => k = entry)) 0

/-- The plan of a slot lowered against a descriptor, which also says which regions the load checks see in service. -/
def lowerAgain (t : State) (l : Lowered) (d : BitVec 1024) : Option (List Row × Lowered × List Nat) :=
  match lowerPlan l.plan d with
  | .inr _ => none
  | .inl r =>
    match checkRowsIn (snapServes d) t r.1 with
    | .error _ => none
    | .ok remaps => some (r.1, { plan := l.plan, snapshot := d, barriers := r.2 }, remaps)

/-- The slot holds a lowering of the plan against the descriptor. -/
def holdsLowering (s : State) (b : Bool) (l : Lowered) (d : BitVec 1024) : Bool :=
  slotIs s b [.loaded] && (slotOf s b).lowered.any (fun m => m.plan = l.plan && m.snapshot = d)

/-- A slot is armed by the EZ-1 itself: at the row that NEXT of the running step names, in both halves of a pair. -/
def armOwn (src b : Bool) (next : Nat) (s : State) : State :=
  let e := mapEntry (slotOf s src).rows (slotOf s b).rows (nextAfter s src next)
  sendLash (.forward (.arm b e)) (armSlot b e s)

/-- A region has passed its retest (R403): the timetable that uses it is armed, lowered again first where the other slot does not
hold it. `t` is the state with the region in service. A slot that the owner has armed is left to swap first. -/
def armReturned (t s : State) : State :=
  match s.seq.run with
  | none => s
  | some run =>
    match (slotOf s run.slot).lowered with
    | none => s
    | some l =>
      let d := descriptor t
      let o := !run.slot
      if s.pair.role = .secondary || l.snapshot = d || slotIs s o [.armed] || slotBusy s o || s.gw.lowering.isSome then s
      else if holdsLowering s o l d then armOwn run.slot o run.next s
      else match lowerAgain t l d with
        | none => s
        | some x => armOwn run.slot o run.next (tellLoad o x.1 (some x.2.1) (fillSlot o x.1 (some x.2.1) x.2.2 s))

/-! ### Retests, R400, R403 -/

/-- SELFTEST_FAIL: the region stays fenced, and its failing cores are replaced at the next boundary. -/
def retestFail (r : Nat) (failed : List Nat) (sliceOk : Bool) (s : State) : State :=
  let place := if sliceOk then coreParam r (failed.headD 0) else sliceParam r
  let s := onRegion r (fun g => { g with mode := .fenced .selftest, retest := false, clock := .gated,
                                         failing := failed.foldl (fun l k => insertOnce k l) g.failing }) s
  record Code.selftestFail (regionParam s r ++ place) s

/-- The region goes back into service: at once, or at the next boundary of an active run. -/
def retestPass (r : Nat) (s : State) : State :=
  let s := onRegion r (fun g => { g with retest := false }) s
  if s.seq.run.isNone then returnRegions s
  else armReturned (onRegion r (fun g => { g with mode := .service }) s) s

/-- A POWER TARGET DOZE that waited for the last retest completes. -/
def afterRetest (s : State) : State :=
  if (s.gw.powerCmd.any (fun p => p.2 = 1) || (s.pair.role = .secondary && s.power.dozeTarget)) && !retesting s then completePower (enterDoze s)
  else s

def retestComplete (r : Nat) (failed : List Nat) (sliceOk : Bool) (s : State) : State :=
  afterRetest (if failed.isEmpty && sliceOk then retestPass r s else retestFail r failed sliceOk s)

def execRetestComplete (r : Fin 64) (failed : List (Fin 144)) (sliceOk : Bool) (s : State) : Host.Outcome State Fault Refusal :=
  event ((region s r.val).retest && (region s r.val).clock = .ready) (retestComplete r.val (failed.map (fun k => k.val)) sliceOk) s

/-! ### The degraded restart, R402 -/

/-- The step abandoned by a fence cannot restart: the run halts with REGION_FENCED. -/
def abandonHalt (s : State) : State :=
  match s.seq.run.bind ActiveRun.abandoning with
  | some h => haltWith h.cause h.code (some h.row) false s
  | none => s

/-- The step starts again at a row of the newly lowered slot. -/
def restartIn (b : Bool) (entry attempt : Nat) (s : State) : State :=
  restartNow b entry (setAttempt attempt (swapTo b s))

/-- An ARMED slot is discarded to LOADED before it is written. -/
def disarm (b : Bool) (s : State) : State :=
  if slotIs s b [.armed] then sendLash (.forward (.discard b)) (discardSlot b s) else s

/-- What the lowering into the other slot comes to: RESTART to every member, and the step begins again; or the halt. -/
def endDegraded (run : ActiveRun) (result : Option (List Row × Lowered × List Nat)) (s : State) : State :=
  let o := !run.slot
  match result with
  | none => abandonHalt s
  | some x =>
    let e := mapEntry (slotOf s run.slot).rows x.1 run.stepEntry
    let n := run.attempt + 1
    let s := tellLoad o x.1 (some x.2.1) (fillSlot o x.1 (some x.2.1) x.2.2 s)
    let s := sendAll 0 (.restart s.seq.step n) (sendLash (.forward (.restart o e n)) s)
    restartIn o e n s

/-- The lowering into the other slot ends. -/
def degradedRestart (run : ActiveRun) (s : State) : State :=
  let s := disarm (!run.slot) s
  endDegraded run ((slotOf s run.slot).lowered.bind (fun l => lowerAgain s l (descriptor s))) s

/-- A fence has abandoned the step, every issued row has completed, and no other lowering is in the way. -/
def mayLowerAgain (s : State) : Bool :=
  s.seq.run.any (fun r => r.abandoning.isSome && r.halting.isNone && !slotBusy s (!r.slot)) && s.seq.flight.isEmpty &&
    s.gw.lowering.isNone && s.pair.role != .secondary

/-- Spares ran out at a run's last boundary (spec/01_module.md R12): the timetable is lowered again into the other slot, unless that is
ARMED or being loaded. -/
def relowerIdle (b : Bool) (s : State) : State :=
  let o := !b
  let s := onSeq (fun q => { q with relower := none }) s
  if s.pair.role = .secondary || slotIs s o [.armed] || slotBusy s o || s.gw.lowering.isSome then s
  else match (slotOf s b).lowered.bind (fun l => lowerAgain s l (descriptor s)) with
    | none => s
    | some x => tellLoad o x.1 (some x.2.1) (fillSlot o x.1 (some x.2.1) x.2.2 s)

def execDegradedRestart (s : State) : Host.Outcome State Fault Refusal :=
  match s.seq.run, s.seq.relower with
  | some r, _ => event (mayLowerAgain s) (degradedRestart r) s
  | none, some b => event true (relowerIdle b) s
  | none, none => .next s

end Sys2Proof.Machine
end

