-- ==== Sys2Proof/Machine/Seal.lean ====
section
/-!
DEFINITION. Seals (spec/14_trust.md R334 to R339): SEAL, SEAL_RESUME and UNSEAL, their chunks, checkpoints and manifest.
-/
namespace Sys2Proof.Machine

/-! ### Ranges, R334 -/

def rangeAddr (r : BitVec 128) : Nat := bits r 0 42
def rangeLen (r : BitVec 128) : Nat := bits r 64 64

/-- Plaintext bytes of a seal, its chunks, and where its manifest begins. -/
def rangesBytes (l : List (BitVec 128)) : Nat := (l.map rangeLen).sum
def sealChunks (l : List (BitVec 128)) : Nat := chunkCount (rangesBytes l)
def manifestOffset (l : List (BitVec 128)) : Nat := 64 + rangesBytes l + 32 * sealChunks l

/-- Bytes of a manifest: body, range list, GMAC tag, signature. -/
def manifestBytes (n : Nat) : Nat := 256 + 16 * n + 16 + 96

/-- Bytes of the whole output (R335). -/
def sealBytes (l : List (BitVec 128)) : Nat := manifestOffset l + manifestBytes l.length

def noOverlap : List (BitVec 128) → Bool
  | [] => true
  | r :: l => l.all (fun x => !rangesMeet (rangeAddr r) (rangeLen r) (rangeAddr x) (rangeLen x)) && noOverlap l

/-- The range lies in the space of this module, half or pair. -/
def rangeExists (s : State) (r : BitVec 128) : Bool := decide (rangeAddr r + rangeLen r ≤ spaceEnd s)

def rangesOk (s : State) (l : List (BitVec 128)) : Bool :=
  1 ≤ l.length && l.length ≤ 255 && noOverlap l &&
    l.all (fun r => bits r 42 22 = 0 && rangeAddr r % 256 = 0 && rangeLen r % 256 = 0 && rangeExists s r)

/-- The parts of the ranges that n bytes from byte `off` of their concatenation fill: address and bytes. -/
def rangePieces : List (BitVec 128) → Nat → Nat → List (Nat × Nat)
  | [], _, _ => []
  | r :: l, off, n =>
    if rangeLen r ≤ off then rangePieces l (off - rangeLen r) n
    else
      let m := min n (rangeLen r - off)
      (rangeAddr r + off, m) :: (if m < n then rangePieces l 0 (n - m) else [])

/-- No row: the place in path order under which a seal reads and writes module addresses. -/
def noFlight : Nat := 2 ^ 64

/-- Bytes of a list of pieces, or the unit that cannot be read. -/
def readPieces : List (Nat × Nat) → State → List Byte × Option Nat × State
  | [], s => ([], none, s)
  | p :: l, s =>
    let r := readSpace noFlight p.1 p.2 s
    match r.2.1 with
    | some u => (r.1, some u, r.2.2)
    | none => let t := readPieces l r.2.2; (r.1 ++ t.1, t.2.1, t.2.2)

/-- A byte string is written over a list of pieces. -/
def writePieces : List (Nat × Nat) → List Byte → State → State
  | [], _, s => s
  | p :: l, bs, s => writePieces l (bs.drop p.2) (writeSpace noFlight p.1 (bs.take p.2) s)

/-! ### The seal key and the output, R326, R335 -/

def sealKey (s : State) (ident nonce : BitVec 64) : BitVec 256 :=
  hkdf (wordBytes s.trust.domain) (wordBytes ident ++ wordBytes nonce) (ascii "ez1 seal")

/-- The 64-byte head. -/
def sealHead (ident nonce : BitVec 64) (l : List (BitVec 128)) : List Byte :=
  leBytes 8 0x4C414553 ++ wordBytes ident ++ wordBytes nonce ++ leBytes 8 (sealChunks l) ++ leBytes 32 (manifestOffset l)

/-- Table 14-8 and the range list. -/
def manifestBody (s : State) (j : SealJob) : List Byte :=
  leBytes 4 0x53464E4D ++ [1, BitVec.ofNat 8 j.ranges.length, 0, 0] ++ wordBytes j.sealId ++ wordBytes j.sealNonce ++ wordBytes (identityFp s) ++
    wordBytes (ownerFp s) ++ leBytes 8 (sealChunks j.ranges) ++ leBytes 8 (rangesBytes j.ranges) ++ wordBytes j.tag ++ wordBytes j.step ++
    wordBytes s.log.opSeconds ++ zeros 3 ++ wordBytes s.log.powerCycles ++ leBytes 148 s.pair.role.code ++ j.ranges.flatMap wordBytes

/-- GMAC under the seal key with CHUNK 0xFFFF_FFFF and RESUME 0xFFFF. -/
def manifestTag (s : State) (ident nonce : BitVec 64) (body : List Byte) : List Byte :=
  (gcmSeal (sealKey s ident nonce) (chunkNonce 0xFFFFFFFF 0xFFFF) body []).2

/-- The whole manifest, with the identity key's signature. -/
def manifest (j : SealJob) (s : State) : List Byte × State :=
  let body := manifestBody s j
  let m := body ++ manifestTag s j.sealId j.sealNonce body
  let r := identitySign m s
  (m ++ wordBytes r.1, r.2)

def writeWindow (j : SealJob) (off : Nat) (bs : List Byte) (s : State) : State :=
  writeMem 3 (windowAddr s j.window.toNat (j.offset.toNat + off)) bs s

def onSeal (j : Option SealJob) (s : State) : State := onGw (fun g => { g with seals := j }) s

/-- The opcode under which the command completes. -/
def sealOp (j : SealJob) : BitVec 8 := match j.kind with | .seal => 0x40 | .resume => 0x41 | .unseal => 0x42

/-- The seal stream ends: SEALING and its checkpoint go. -/
def endSeal (s : State) : State :=
  onSeal none { s with trust := { s.trust with sealing := false, checkpoint := none } }

/-! ### SEAL and SEAL_RESUME, R334, R338 -/

/-- The stream starts at a chunk: the checkpoint before it is what SEAL_RESUME would go back to. -/
def startSeal (j : SealJob) (s : State) : State :=
  onSeal (some j) { s with trust := { s.trust with sealing := true, checkpoint := some { job := j, chunk := j.chunk, tag := j.tag } } }

def sealTiers (q : Req) (ident : BitVec 64) (window : BitVec 32) (offset : BitVec 64) (l : List (BitVec 128)) (s : State) : State :=
  checkField q 0x40 3 (rangesOk s l) (checkField q 0x40 1 (window.toNat ≤ 255 && windowHolds s window.toNat offset.toNat (sealBytes l))
    (fun s =>
      let d := draw s
      let nonce := Config.random64 d.1
      let j : SealJob := { req := q, kind := .seal, sealId := ident, sealNonce := nonce, window := BitVec.ofNat 8 window.toNat, offset := offset,
                           ranges := l, chunk := 0, resume := 0, tag := 0, step := BitVec.ofNat 64 s.seq.step.toNat, fetched := false }
      writeWindow j 0 (sealHead ident nonce l) (startSeal j d.2))) s

def execSealTiers (q : Req) (sealId : BitVec 64) (window : BitVec 32) (offset : BitVec 64) (ranges : List (BitVec 128)) (s : State) :
    Host.Outcome State Fault Refusal :=
  command 0x40 0 q (inState s [.job, .running, .halted] && maintNone s && s.gw.seals.isNone) (sealTiers q sealId window offset ranges) s

/-- The job that a checkpoint goes on with: RESUME rises by one. -/
def resumeJob (q : Req) (c : Checkpoint) : SealJob :=
  { c.job with req := q, kind := .resume, chunk := c.chunk, tag := c.tag, resume := c.job.resume + 1 }

def sealResume (q : Req) (c : Checkpoint) (s : State) : State :=
  checkField q 0x41 0 (windowHolds s c.job.window.toNat c.job.offset.toNat (sealBytes c.job.ranges)) (startSeal (resumeJob q c)) s

/-- The seal that SEAL_RESUME names has a checkpoint. -/
def checkpointOf (s : State) (ident : BitVec 64) : Option Checkpoint := s.trust.checkpoint.filter (fun c => c.job.sealId = ident)

def execSealResume (q : Req) (sealId : BitVec 64) (s : State) : Host.Outcome State Fault Refusal :=
  command 0x41 0 q (inState s [.job, .halted] && maintNone s && s.gw.seals.isNone && (checkpointOf s sealId).isSome)
    (fun s => match checkpointOf s sealId with | some c => sealResume q c s | none => s) s

/-- One chunk is read, sealed and written; false where a tier unit cannot be read. -/
def writeChunk (j : SealJob) (s : State) : Option Nat × SealJob × State :=
  let n := rangesBytes j.ranges
  let r := readPieces (rangePieces j.ranges (65536 * j.chunk) (chunkBytes n j.chunk)) s
  match r.2.1 with
  | some u => (some u, j, r.2.2)
  | none =>
    let c := sealChunk (sealKey s j.sealId j.sealNonce) j.sealNonce j.chunk (j.chunk + 1 = sealChunks j.ranges) j.resume.toNat (wordBytes j.tag) r.1
    (none, { j with chunk := j.chunk + 1, tag := bytesWord 128 (c.drop (c.length - 16)) },
      writeWindow j (64 + 65568 * j.chunk) c r.2.2)

def writeChunks : Nat → SealJob → State → Option Nat × SealJob × State
  | 0, j, s => (none, j, s)
  | n + 1, j, s =>
    let r := writeChunk j s
    if r.1.isSome then r else writeChunks n r.2.1 r.2.2

/-- A tier unit that cannot be read (spec/09_memory.md R217): TIER_PARITY, and the seal ends without a manifest. -/
def sealParity (j : SealJob) (unit : Nat) (s : State) : State :=
  refuse j.req (sealOp j) Status.parityFault
    (endSeal (record Code.tierParity (wordBytes (0 : BitVec 32) ++ leBytes 8 (ownAddr s (256 * unit))) s))

/-- Chunks up to the next multiple of 256, or the last. -/
def chunksNow (j : SealJob) : Nat := min (256 - j.chunk % 256) (sealChunks j.ranges - j.chunk)

/-- Chunks up to the next multiple of 256, or the last, are written and confirmed: the checkpoint. -/
def sealCheckpoint (j : SealJob) (s : State) : State :=
  let r := writeChunks (chunksNow j) { j with fetched := false } s
  match r.1 with
  | some u => sealParity j u r.2.2
  | none => startSeal r.2.1 r.2.2

/-- What the other half holds of those chunks comes first, by READ messages over the lash port (log entry 30). -/
def sealStep (j : SealJob) (s : State) : State :=
  let l := rangePieces j.ranges (65536 * j.chunk) (min (65536 * chunksNow j) (rangesBytes j.ranges - 65536 * j.chunk))
  if farDone j.fetched l s then sealCheckpoint j s
  else onSeal (some { j with fetched := true }) (if j.fetched then s else askFar ctlFlight l s)

/-- A seal, and not an unseal, is being written. -/
def sealingJob (s : State) : Option SealJob := s.gw.seals.filter (fun j => j.kind ≠ .unseal)

def execSealCheckpoint (s : State) : Host.Outcome State Fault Refusal :=
  match sealingJob s with
  | some j => event (s.gw.linkUp && j.chunk < sealChunks j.ranges) (sealStep j) s
  | none => .next s

/-- The manifest, record SEAL_DONE, and the reply: SHA-384 of the manifest and the bytes written. -/
def sealComplete (j : SealJob) (s : State) : State :=
  let m := manifest j s
  let s := writeWindow j (manifestOffset j.ranges) m.1 m.2
  complete j.req (sealOp j) (sha384 m.1 ++ leBytes 8 (sealBytes j.ranges)) (record Code.sealDone [] (endSeal s))

def execSealComplete (s : State) : Host.Outcome State Fault Refusal :=
  match sealingJob s with
  | some j => event (s.gw.linkUp && sealChunks j.ranges ≤ j.chunk) (sealComplete j) s
  | none => .next s

/-! ### UNSEAL, R336, R339 -/

/-- A seal as it stands in a window: its head, manifest and what they say. -/
structure FoundSeal where
  head : Nat
  body : List Byte
  tag : List Byte
  whole : List Byte
deriving DecidableEq, Repr

def fsIdent (f : FoundSeal) : BitVec 64 := BitVec.ofNat 64 (fld (ofLe f.body) 64 64)
def fsNonce (f : FoundSeal) : BitVec 64 := BitVec.ofNat 64 (fld (ofLe f.body) 128 64)
def fsOwner (f : FoundSeal) : Fp := BitVec.ofNat 128 (fld (ofLe f.body) 320 128)
def fsLastTag (f : FoundSeal) : BitVec 128 := BitVec.ofNat 128 (fld (ofLe f.body) 576 128)
def fsRanges (f : FoundSeal) : List (BitVec 128) :=
  (List.range (fld (ofLe f.body) 40 8)).map (fun i => bytesWord 128 ((f.body.drop (256 + 16 * i)).take 16))

/-- The head at OFFSET and the manifest that it points at, where the window holds both. -/
def findSeal (s : State) (window off : Nat) : Option FoundSeal :=
  let rd (at_ n : Nat) : List Byte := readMem s 3 (windowAddr s window at_) n
  let head := ofLe (rd off 64)
  let at_ := off + fld head 256 64
  if !windowHolds s window at_ 256 then none
  else
    let n := fld (ofLe (rd at_ 256)) 40 8
    if !windowHolds s window at_ (manifestBytes n) then none
    else
      let whole := rd at_ (manifestBytes n)
      some { head := head, body := whole.take (256 + 16 * n), tag := (whole.drop (256 + 16 * n)).take 16, whole := whole }

/-- R336 but for the chunks: manifest and head agree, the tag verifies under this module's DOMAIN, and the owner is this one. -/
def sealValid (s : State) (f : FoundSeal) : Bool :=
  let m := ofLe f.body
  let l := fsRanges f
  fld m 0 32 = 0x53464E4D && fld m 32 8 = 1 && 1 ≤ l.length && fld m 448 32 = sealChunks l && fld m 512 64 = rangesBytes l &&
    f.head = ofLe (sealHead (fsIdent f) (fsNonce f) l) && decide (fsOwner f = ownerFp s) &&
    decide (f.tag = manifestTag s (fsIdent f) (fsNonce f) f.body)

/-- UNSEAL fails: BLOB_AUTH, UNSEAL_FAIL, and the ranges written. -/
def unsealFail (q : Req) (digest : List Byte) (written : List (BitVec 128)) (s : State) : State :=
  completeAs q 0x42 Status.blobAuth 0 (digest ++ leBytes 8 written.length ++ written.flatMap wordBytes) (record Code.unsealFail [] s)

def unsealTiers (q : Req) (window : BitVec 32) (offset : BitVec 64) (s : State) : State :=
  checkField q 0x42 0 (window.toNat ≤ 255 && windowHolds s window.toNat offset.toNat 64) (fun s =>
    match findSeal s window.toNat offset.toNat with
    | none => unsealFail q (zeros 48) [] s
    | some f =>
      if !sealValid s f then unsealFail q (sha384 f.whole) [] s
      else if !(fsRanges f).all (rangeExists s) then refuseField q 0x42 1 s
      else onSeal (some { req := q, kind := .unseal, sealId := fsIdent f, sealNonce := fsNonce f, window := BitVec.ofNat 8 window.toNat,
                          offset := offset, ranges := fsRanges f, chunk := 0, resume := 0, tag := fsLastTag f,
                          step := BitVec.ofNat 64 (fld (ofLe f.body) 704 64), fetched := false }) s) s

def execUnsealTiers (q : Req) (window : BitVec 32) (offset : BitVec 64) (s : State) : Host.Outcome State Fault Refusal :=
  command 0x42 0 q (inState s [.ready, .job, .halted] && maintNone s && s.gw.seals.isNone) (unsealTiers q window offset) s

/-- Chunk k of the stream in the window. -/
def chunkAt (s : State) (j : SealJob) (k : Nat) : List Byte :=
  readMem s 3 (windowAddr s j.window.toNat (j.offset.toNat + 64 + 65568 * k)) (chunkBytes (rangesBytes j.ranges) k + 32)

/-- Chunks k and up are opened and written, each after its tag; the index of the first that fails, and the last tag. -/
def openChunks (j : SealJob) : Nat → Nat → List Byte → State → Option Nat × List Byte × State
  | 0, _, prev, s => (none, prev, s)
  | n + 1, k, prev, s =>
    let c := chunkAt s j k
    match openChunk (sealKey s j.sealId j.sealNonce) j.sealNonce k (k + 1 = sealChunks j.ranges) none prev c with
    | none => (some k, prev, s)
    | some pt =>
      openChunks j n (k + 1) (c.drop (c.length - 16))
        (writePieces (rangePieces j.ranges (65536 * k) (chunkBytes (rangesBytes j.ranges) k)) pt s)

/-- Ranges written whole by the first n bytes of the stream. -/
def rangesWithin : List (BitVec 128) → Nat → List (BitVec 128)
  | [], _ => []
  | r :: l, n => if rangeLen r ≤ n then r :: rangesWithin l (n - rangeLen r) else []

/-- The manifest of the seal being unsealed. -/
def unsealDigest (s : State) (j : SealJob) : List Byte :=
  sha384 (readMem s 3 (windowAddr s j.window.toNat (j.offset.toNat + manifestOffset j.ranges)) (manifestBytes j.ranges.length))

def unsealComplete (j : SealJob) (s : State) : State :=
  let digest := unsealDigest s j
  let r := openChunks j (sealChunks j.ranges) 0 (zeros 16) s
  let s := onSeal none r.2.2
  match r.1, decide (r.2.1 = wordBytes j.tag) || sealChunks j.ranges = 0 with
  | none, true =>
    complete j.req 0x42 (digest ++ leBytes 8 j.ranges.length ++ j.ranges.flatMap wordBytes) (record Code.unsealDone [] s)
  | some k, _ => unsealFail j.req digest (rangesWithin j.ranges (65536 * k)) (dropRanges j.ranges s)
  | none, false => unsealFail j.req digest j.ranges (dropRanges j.ranges s)

def execUnsealComplete (s : State) : Host.Outcome State Fault Refusal :=
  match s.gw.seals with
  | some j => event (s.gw.linkUp && decide (j.kind = .unseal)) (unsealComplete j) s
  | none => .next s

end Sys2Proof.Machine
end

