-- ==== Sys2Proof/Machine/Image.lean ====
section
/-!
DEFINITION. Control firmware images (spec/14_trust.md R340 to R343; spec/13_commands.md R318): IMAGE_STAGE, IMAGE_ACTIVATE, their
completions and the start check of the new firmware.
-/
namespace Sys2Proof.Machine

/-! ### Images, Table 14-9 -/

def imgVersion (b : List Byte) : BitVec 32 := bytesWord 32 ((b.drop 4).take 4)
def imgLevel (b : List Byte) : BitVec 6 := BitVec.ofNat 6 (ofLe ((b.drop 8).take 1))
def imgBody (b : List Byte) : List Byte := b.drop 256

/-- A header field of 96 bytes. -/
def imgSig (b : List Byte) (at_ : Nat) : Key := bytesWord 768 ((b.drop at_).take 96)

/-- The image's digest is SHA-384 of its header bytes 0 to 63 (Table 14-4). -/
def imgDigest (b : List Byte) : Digest := sha384Word (b.take 64)

/-- MAGIC, the reserved bits and LENGTH are right, and HOLTOD_SIG and BODY_DIGEST verify. -/
def imgGenuine (holtodKey : Key) (b : List Byte) : Bool :=
  let h := ofLe (b.take 64)
  256 ≤ b.length && fld h 0 32 = 0x45474D49 && fld h 70 26 = 0 && fld h 96 32 = (imgBody b).length &&
    decide ((b.take 64).drop 16 = sha384 (imgBody b)) && ecdsaVerify holtodKey (b.take 64) (imgSig b 64)

/-- The owner's policy takes a header: the countersignature, and VERSION not below MIN_VERSION. -/
def policyTakes (s : State) (header : List Byte) : Bool :=
  (!policyCountersign s.trust.policy || ecdsaVerify s.trust.ownerKey (header.take 64) (imgSig header 160)) &&
    decide (policyMinVersion s.trust.policy ≤ (imgVersion header).toNat)

/-- R341: the status of a refusal, or none. -/
def imgFault (s : State) (b : List Byte) : Option (BitVec 16) :=
  if !imgGenuine s.identity.holtodKey b || !policyTakes s b then some Status.badImage
  else if (imgLevel b).toNat < s.trust.rollback.toNat || (imgVersion b).toNat < (runningImage s).version.toNat then some Status.rollback
  else none

def imgOf (b : List Byte) : Image :=
  { valid := true, version := imgVersion b, level := imgLevel b, digest := imgDigest b, header := b.take 256 }

/-! ### IMAGE_STAGE, R341 -/

def onImage (j : Option ImageJob) (s : State) : State := onGw (fun g => { g with image := j }) s

/-- The area is being written: what it held is gone. -/
def startStage (q : Req) (window : Option (BitVec 8)) (b : List Byte) (s : State) : State :=
  let s := { s with trust := { s.trust with unconfirmed := none } }
  onImage (some { req := q, activate := false, image := b, window := window, started := true }) (setOtherImage Image.invalid s)

def imageStage (q : Req) (window : BitVec 32) (offset length : BitVec 64) (s : State) : State :=
  checkField q 0x50 0 (window.toNat ≤ 255 && windowHolds s window.toNat offset.toNat length.toNat) (fun s =>
    let b := readMem s 3 (windowAddr s window.toNat offset.toNat) length.toNat
    startStage q (some (BitVec.ofNat 8 window.toNat)) b (sendLash (.forward (.imageStage b)) s)) s

def execImageStage (q : Req) (window : BitVec 32) (offset length : BitVec 64) (s : State) : Host.Outcome State Fault Refusal :=
  command 0x50 0 q (maintNone s && s.gw.image.isNone) (imageStage q window offset length) s

/-- A command of the other half's gangway completes there. -/
def finish (q : Req) (op : BitVec 8) (status : BitVec 16) (payload : List Byte) (s : State) : State :=
  if q = farReq then s else completeAs q op status 0 payload s

def stageComplete (j : ImageJob) (s : State) : State :=
  let s := onImage none s
  match imgFault s j.image with
  | some st => finish j.req 0x50 st [] (record Code.imageReject [] s)
  | none =>
    let i := imgOf j.image
    let s := setOtherImage i { s with trust := { s.trust with imageStaged := true, unconfirmed := some !s.trust.running } }
    let s := if s.pair.role = .secondary then sendLash (.forward (.imageStaged i.digest)) s else s
    finish j.req 0x50 Status.ok (wordBytes i.version ++ wordBytes i.digest ++ [BitVec.ofNat 8 (maintCode s)]) s

def execImageStageComplete (s : State) : Host.Outcome State Fault Refusal :=
  match s.gw.image with
  | some j => event (!j.activate) (stageComplete j) s
  | none => .next s

/-! ### IMAGE_ACTIVATE, R343, R318 -/

/-- Both halves of a pair hold the same staged image. -/
def stagedAlike (s : State) : Bool := !inPair s || decide (s.pair.peerImage = some (otherImage s).digest)

/-- At once without an active run, else at the next step boundary. -/
def startActivate (q : Req) (s : State) : State :=
  let j : ImageJob := { req := q, activate := true, image := [], window := none, started := false }
  if s.seq.run.any (fun r => !r.asleep) then onGw (fun g => { g with image := some j }) s else beginActivate j s

def execImageActivate (q : Req) (s : State) : Host.Outcome State Fault Refusal :=
  command 0x51 0 q (s.trust.imageStaged && s.gw.image.isNone && s.gw.seals.isNone && stagedAlike s)
    (fun s => startActivate q (sendLash (.forward .imageActivate) s)) s

/-- The activation is over: the hold of R318 ends and IMAGE-STAGED is left. -/
def endActivate (s : State) : State :=
  onGw (fun g => { g with image := none, hold := false })
    { s with trust := { s.trust with imageStaged := false }, pair := { s.pair with peerImage := none } }

/-- The running image is confirmed: the fuses are blown up to LEVEL, and IMAGE_ACTIVATED is written. -/
def confirm (s : State) : State :=
  let l := (runningImage s).level
  record Code.imageActivated [] { s with trust := { s.trust with
    unconfirmed := none, flagged := s.trust.running, rollback := if s.trust.rollback.toNat < l.toNat then l else s.trust.rollback } }

/-- The new firmware runs and is confirmed. -/
def activated (q : Req) (s : State) : State :=
  let s := confirm (endActivate { s with trust := { s.trust with running := !s.trust.running } })
  finish q 0x51 Status.ok (wordBytes (runningImage s).version) s

/-- The earlier image is flagged active again and runs. -/
def reverted (q : Req) (s : State) : State :=
  finish q 0x51 Status.badImage [] (record Code.imageRevert []
    (endActivate { s with trust := { s.trust with flagged := s.trust.running } }))

/-- An image that a start has chosen before it was confirmed is checked too (spec/17_modes_repair.md Table 17-5): confirmed, or the
earlier image runs again. -/
def bootCheck (ok : Bool) (s : State) : State :=
  if ok then confirm s
  else record Code.imageRevert [] { s with trust := { s.trust with running := !s.trust.running, flagged := !s.trust.running } }

/-- The policy refuses the staged image at its activation: the area is invalid. -/
def activateReject (q : Req) (s : State) : State :=
  finish q 0x51 Status.badImage [] (record Code.imageReject []
    (endActivate (setOtherImage Image.invalid { s with trust := { s.trust with unconfirmed := none, flagged := s.trust.running } })))

def firmwareStartCheck (ok : Bool) (q : Req) (s : State) : State :=
  if !policyTakes s (otherImage s).header then activateReject q s else if ok then activated q s else reverted q s

def execFirmwareStartCheck (ok : Bool) (s : State) : Host.Outcome State Fault Refusal :=
  match s.gw.image with
  | some j => event (j.activate && j.started) (firmwareStartCheck ok j.req) s
  | none => event (decide (s.trust.unconfirmed = some s.trust.running)) (bootCheck ok) s

end Sys2Proof.Machine
end

