-- ==== Sys2Proof/Machine/Pair.lean ====
section
/-!
DEFINITION. Lashed pairs (spec/12_lashing.md R271 to R288): LASH and UNLASH, forming and rejoining, the comparison of mirrored items,
rendezvous and contributions, and what one half passes to the other.
-/
namespace Sys2Proof.Machine

def onPair (f : Pair → Pair) (s : State) : State := { s with pair := f s.pair }

/-! ### LASH, R271, R272 -/

/-- R271. -/
def mayLash (s : State) : Bool :=
  s.trust.lifecycle = .enrolled && s.pair.role = .solo && !s.job.started && s.gw.join.isNone &&
    [false, true].all (fun b => slotIs s b [.empty, .loaded]) && maintNone s && (s.trust.debug).isNone && s.gw.image.isNone

/-- No bridge is sensed, or the lash port is FENCED. -/
def lashDown (s : State) : Bool := s.pins.lashSenseN || (port s 6).state = .fenced

def lash (q : Req) (partner : Fp) (role : BitVec 8) (s : State) : State :=
  checkField q 0x23 1 (decide (role.toNat ≤ 1)) (check q 0x23 (!lashDown s) Status.lashLinkFail (fun s =>
    bringUp 6 (onGw (fun g => { g with lash := some { req := q, partner := partner, primary := role = 0, bringup := false, found := none } }) s))) s

def execLash (q : Req) (partner : Fp) (role : BitVec 8) (s : State) : Host.Outcome State Fault Refusal :=
  command 0x23 0 q (mayLash s) (lash q partner role) s

/-- 60 s without a bring-up with the named partner. -/
def execLashExpiry (s : State) : Host.Outcome State Fault Refusal :=
  match s.gw.lash with
  | some j => event (!j.bringup) (failLash Status.lashTimeout) s
  | none => .next s

/-- First 8 bytes of SHA-384 over the transcript of steps 2 to 4. -/
def keyIdentity (s : State) : BitVec 64 := bytesWord 64 ((transcriptHash s 6).take 8)

/-- R272, steps 4 and 5: the record with the greater EPOCH plus one, both slots EMPTY, key epoch 1, PAIRING, PAIR_LASHED. The secondary holds no
session (spec/13_commands.md R302). -/
def formPair (j : LashJob) (epoch regions : BitVec 64) (s : State) : State :=
  let a := if j.primary then identityFp s else j.partner
  let b := if j.primary then j.partner else identityFp s
  let e := max s.pair.record.epoch.toNat epoch.toNat + 1
  let r : PairRecord := { epoch := BitVec.ofNat 64 e, primaryFp := a, secondaryFp := b, ownerFp := ownerFp s, lashed := true }
  let s := onPair (fun p => { p with
    role := if j.primary then .primary else .secondary, record := r, recordOk := true, keyEpoch := 1, keyId := keyIdentity s, events := 0,
    tail := 0, peerRegions := regions, ctlFenced := [], diverged := false, sent := none, got := [], shares := [], peerImage := none, wait := [] }) s
  let s := onSeq (fun q => { q with slotA := Slot.empty, slotB := Slot.empty, slotGen := 0, remapped := [] }) s
  let s := onGw (fun g => { g with lash := none }) (pairEvent Code.pairLashed [] s)
  let s := complete j.req 0x23 [BitVec.ofNat 8 s.pair.role.code] s
  if s.pair.role = .secondary then endSessions s else s

def execPairFormed (s : State) : Host.Outcome State Fault Refusal :=
  match s.gw.lash with
  | some j =>
    (match j.found with
     | some f => event ((port s 6).state = .active) (formPair j f.1 f.2) s
     | none => .next s)
  | none => .next s

/-! ### Comparison of mirrored items, R278 to R282 -/

/-- What a comparison comes to. -/
inductive Verdict where | keep | give | take | diverge | lost
deriving DecidableEq, Repr

/-- R280 to R282: whose copies pass their CRC, the epochs, and whether the copies agree. -/
def judge (ok : Bool × Bool) (own other : Nat) (same : Bool) : Verdict :=
  match ok with
  | (false, false) => .lost
  | (true, false) => .give
  | (false, true) => .take
  | (true, true) => if other < own then .give else if own < other then .take else if same then .keep else .diverge

/-- Bytes of a pair record under its CRC (Table 12-4). -/
def recordBytes (r : PairRecord) : List Byte :=
  wordBytes r.epoch ++ wordBytes r.primaryFp ++ wordBytes r.secondaryFp ++ wordBytes r.ownerFp ++ leBytes 4 (b2n r.lashed)

/-- Bytes of a slot's digest item: state, N and digest. -/
def slotItemBytes (i : SlotItem) : List Byte := leBytes 1 i.state.toNat ++ leBytes 4 i.rows.length ++ wordBytes i.digest

/-- A mirrored item: its number in the order of Table 12-3, the copies' epochs and contents, and what the comparison comes to. -/
structure Mirror where
  item : Nat
  own : Nat
  other : Nat
  ownBytes : List Byte
  otherBytes : List Byte
  verdict : Verdict
deriving DecidableEq, Repr

def mirror (item own other : Nat) (ok : Bool × Bool) (a b : List Byte) : Mirror :=
  { item := item, own := own, other := other, ownBytes := a, otherBytes := b, verdict := judge ok own other (a = b) }

/-- This half's items, in the form in which the partner presents its own. -/
def ownItems (s : State) : PartnerItems :=
  { record := s.pair.record, recordOk := (s.pair.recordOk, s.pair.recordOk), keyEpoch := s.pair.keyEpoch, keyId := s.pair.keyId, keyOk := (true, true),
    events := s.pair.events, tail := s.pair.tail, tailOk := (true, true), slotGen := s.seq.slotGen, slotA := s.seq.slotA.item,
    slotB := s.seq.slotB.item, slotsOk := (true, true), regions := regionsWord s, stranded := s.pair.role = .stranded }

/-- The four items of Table 12-3: this half's, the partner's. -/
def mirrors (a i : PartnerItems) : List Mirror :=
  [mirror 1 a.record.epoch.toNat i.record.epoch.toNat (a.recordOk.1 && i.recordOk.1, i.recordOk.2) (recordBytes a.record) (recordBytes i.record),
   mirror 2 a.keyEpoch.toNat i.keyEpoch.toNat i.keyOk (wordBytes a.keyId) (wordBytes i.keyId),
   mirror 3 a.events.toNat i.events.toNat i.tailOk (wordBytes a.tail) (wordBytes i.tail),
   mirror 4 a.slotGen.toNat i.slotGen.toNat i.slotsOk (slotItemBytes a.slotA ++ slotItemBytes a.slotB) (slotItemBytes i.slotA ++ slotItemBytes i.slotB)]

/-- A slot's contents as they come over the lash port: taken once the checks of R180 pass, else EMPTY. -/
def takeSlot (b : Bool) (i : SlotItem) (s : State) : State :=
  let st : SlotState := match i.state.toNat with | 1 => .loaded | 2 => .armed | 3 => .active | _ => .empty
  let ok := match checkRows s i.rows with | .ok _ => true | .error _ => false
  if st = .empty || !ok || i.digest ≠ slotDigest i.rows then onSlot b (fun _ => Slot.empty) s
  else onSlot b (fun x => { state := st, rows := i.rows, digest := i.digest, entry := x.entry, lowered := none }) s

/-- The partner's copy is written over this half's. -/
def takeItem (i : PartnerItems) (item : Nat) (s : State) : State :=
  match item with
  | 1 => onPair (fun p => { p with record := i.record, recordOk := true }) s
  | 2 => onPair (fun p => { p with keyEpoch := i.keyEpoch, keyId := i.keyId }) s
  | 3 => onPair (fun p => { p with events := i.events, tail := i.tail }) s
  | _ => takeSlot true i.slotB (takeSlot false i.slotA (onSeq (fun q => { q with slotGen := i.slotGen }) s))

/-- R281: both halves halt, and each writes DIVERGENT_COPIES: item, epoch, CRC of both copies. -/
def diverge (m : Mirror) (s : State) : State :=
  haltPeer Status.divergentCopies (record Code.divergentCopies ([BitVec.ofNat 8 m.item] ++ leBytes 8 m.own ++ wordBytes (crc32c m.ownBytes) ++
    wordBytes (crc32c m.otherBytes)) (onPair (fun p => { p with diverged := true }) s))

/-- R282: both copies of the pair record fail their CRC. -/
def recordLost (s : State) : State :=
  strand (haltPeer Status.pairRecordLost (record Code.pairRecordLost [] s))

/-- The role that the pair record gives this half. -/
def roleOf (s : State) : Role := if s.pair.record.primaryFp = identityFp s then .primary else .secondary

/-- The winning copies are written over the losing ones; MIRROR_REPAIR names the item and both epochs. -/
def repair (i : PartnerItems) (ms : List Mirror) (s : State) : State :=
  ms.foldl (fun s m => match m.verdict with
    | .take => pairEvent Code.mirrorRepair ([BitVec.ofNat 8 m.item] ++ leBytes 8 m.own ++ leBytes 8 m.other) (takeItem i m.item s)
    | .give => pairEvent Code.mirrorRepair ([BitVec.ofNat 8 m.item] ++ leBytes 8 m.own ++ leBytes 8 m.other) s
    | _ => s) s

/-- The pair goes on, or rejoins (R285): the key epoch rises with the agreement. -/
def agreeItems (i : PartnerItems) (ms : List Mirror) (s : State) : State :=
  let rejoin := s.pair.role = .stranded || i.stranded
  let s := if ms.any (fun m => m.item = 1 && m.verdict = .take) then takeItem i 1 s else s
  let s := onPair (fun p => { p with role := roleOf s }) s
  let s := repair i ms s
  let s := onPair (fun p => { p with keyEpoch := p.keyEpoch + 1, keyId := keyIdentity s, peerRegions := i.regions }) s
  if rejoin then
    pairEvent Code.pairRejoined [] (onPair (fun p => { p with record := { p.record with epoch := p.record.epoch + 1 } }) s)
  else s

/-- R280 to R282, R285: a partner that has unlashed leaves a STRANDED half as it is. -/
def compareItems (i : PartnerItems) (s : State) : State :=
  let ms := mirrors (ownItems s) i
  if i.recordOk.2 && !i.record.lashed then
    onPort 6 Port.off (record Code.pairMismatch [] (strand s))
  else if ms.any (fun m => m.item = 1 && m.verdict = .lost) then recordLost s
  else match ms.find? (fun m => m.verdict = .diverge || m.verdict = .lost) with
    | some m => diverge m s
    | none => agreeItems i ms s

/-! ### Comparison in a run, and before TT_ARM and RUN, R276, R280 -/

/-- Items with those that a comparison shows in their places. -/
def showing (i : PartnerItems) (m : Mirrored) : PartnerItems :=
  let i := match m.tail with | some t => { i with events := t.1, tail := t.2 } | none => i
  match m.slots with | some x => { i with slotGen := x.1, slotA := x.2.1, slotB := x.2.2 } | none => i

/-- The log tail and the slot digests that were compared agree, are repaired, or diverge. -/
def settleItems (mine other : Mirrored) (s : State) : State :=
  let i := showing (ownItems s) other
  let ms := (mirrors (showing (ownItems s) mine) i).filter (fun m => 3 ≤ m.item)
  match ms.find? (fun m => m.verdict = .diverge) with
  | some m => diverge m s
  | none => repair i ms s

/-- TT_ARM or RUN after the comparison: what it asks of the slot is asked again (log entry 67). -/
def afterCompare (w : PairWait) (s : State) : State :=
  let op := w.opcode
  if s.pair.diverged then refuse w.req (BitVec.ofNat 8 op) Status.divergentCopies s
  else match w with
    | .arm q b e =>
      check q op (inState s [.running] && armable s b) Status.wrongState
        (checkField q op 1 (entryOk s b e) (regionCheck q op b (armNow q b e))) s
    | .run q b e n boost =>
      check q op (inState s [.job, .halted] && s.seq.run.isNone && !s.thermal.tripped && armable s b) Status.wrongState
        (checkField q op 1 (entryOk s b e) (regionCheck q op b (runNow q b e n boost))) s
    | .read _ _ _ => s

def dropWait (s : State) : State := onPair (fun p => { p with wait := p.wait.drop 1 }) s

/-- The primary has what the secondary compared its items with: a comparison of slots alone was made for the command that waits longest. -/
def endCompare (mine other : Mirrored) (s : State) : State :=
  let s := settleItems mine other s
  match mine.tail, s.pair.wait with
  | none, w :: _ => afterCompare w (dropWait s)
  | _, _ => s

/-- The other half shows items: they are compared with this half's, which it is shown in answer. -/
def takeCompare (other : Mirrored) (echo : Option Mirrored) (s : State) : State :=
  match echo with
  | some mine => endCompare mine other s
  | none =>
    let mine := mirrored s other.tail.isSome other.slots.isSome
    settleItems mine other (sendLash (.forward (.compare mine (some other))) s)

/-- What the other half has read comes to the command that waits for it. -/
def takeReading (data : List Byte) (s : State) : State :=
  match s.pair.wait with
  | .read q op own :: _ => reply q op (own ++ data) (dropWait s)
  | _ => s

/-- The primary reads this half's memories: accumulators, staging, or a region scan. -/
def giveDebug (target r core bank first length : Nat) (s : State) : State :=
  let p := scanned target r core bank first length (wakeDoze s)
  sendLash (.forward (.reading p.1)) p.2

/-- A bring-up during LASH: what the partner shows is kept for the mirror step. -/
def lashFound (j : LashJob) (i : PartnerItems) (s : State) : State :=
  onGw (fun g => { g with lash := some { j with found := some (i.record.epoch, i.regions) } }) s

def lashBringup (i : PartnerItems) (s : State) : State :=
  let s := onPair (fun p => { p with compareDue := false }) s
  match s.gw.lash with
  | some j => lashFound j i s
  | none => if s.pair.role = .solo then s else compareItems i s

def execLashBringupComplete (i : PartnerItems) (s : State) : Host.Outcome State Fault Refusal :=
  event (s.pair.compareDue && decide ((port s 6).state = .active)) (lashBringup i) s

/-- R284: every 100 ms. -/
def execStrandedRetry (s : State) : Host.Outcome State Fault Refusal := event (decide (s.pair.role = .stranded)) (bringUp 6) s

/-! ### UNLASH, R286 -/

/-- PAIR_UNLASHED is a pair event (R278) that each half writes as the lash goes: the secondary's carries SECONDARY too. -/
def unlashRecord (s : State) : State :=
  let flags : BitVec 8 := match s.pair.role with | .primary => 1 | .secondary => 5 | _ => 0
  { s with log := s.log.push (s.log.stamp Code.pairUnlashed flags []) }

/-- What UNLASH does on each half that it reaches. -/
def unlashHalf (s : State) : State :=
  let s := onSeq (fun q => { q with slotA := Slot.empty, slotB := Slot.empty, slotGen := q.slotGen + 1, remapped := [] }) s
  let s := onPort 6 (fun p => { p.off with peer := none, candidate := none, queue := [], sent := [] }) s
  let s := unlashRecord s
  let s := onPair (fun p => { p with
    role := .solo, record := { p.record with epoch := p.record.epoch + 1, lashed := false }, recordOk := true, keyId := 0, peerRegions := 0,
    ctlFenced := [], diverged := false, compareDue := false, sent := none, got := [], shares := [], peerImage := none, wait := [] }) s
  endSessions s

/-- The UNLASH message goes out before the port does, where the port is up. -/
def sendUnlash (s : State) : State :=
  if lashUp s then
    onPort 6 (fun p => launch (myNode s) { p with txMseq := p.txMseq + 1, wire := [] }
      { dst := myNode s, vc := 3, cls := false, reversed := false, part := 0, mseq := p.txMseq, flight := none, body := .forward .unlash }) s
  else s

/-- The reply is sealed before the sessions close. -/
def unlashNow (q : Req) (s : State) : State := unlashHalf (reply q 0x24 [] (sendUnlash s))

def unlash (q : Req) (token : Option (BitVec 1536)) (s : State) : State :=
  if s.pair.role = .secondary then
    match token with
    | some t => withToken q 0x24 4 true t (unlashNow q) s
    | none => refuseField q 0x24 0 s
  else unlashNow q s

/-- Conditions of R286. -/
def mayUnlash (s : State) : Bool :=
  s.pair.role != .solo && s.seq.run.isNone && maintNone s && (s.trust.debug).isNone

def execUnlash (q : Req) (token : Option (BitVec 1536)) (s : State) : Host.Outcome State Fault Refusal :=
  command 0x24 0 q (mayUnlash s) (unlash q token) s

/-! ### Lockstep, R275, R276 -/

/-- The other half's rendezvous: kept, or LOCKSTEP_LOST where this half has named another row. -/
def rendezvous (slot : Bool) (row : BitVec 14) (s : State) : State :=
  let first := s.pair.got.isEmpty
  let s := onPair (fun p => { p with got := p.got ++ [(slot, row)] }) s
  match s.pair.sent with
  | some m => if first && m != (slot, row.toNat) then lockstepLost m.1 m.2 (slot, row) s else s
  | none => s

def execPairRendezvous (slot : Bool) (row : BitVec 14) (s : State) : Host.Outcome State Fault Refusal :=
  event (inPair s && s.seq.run.isSome) (rendezvous slot row) s

/-- The other half has done its part of a row: the row ends where this half has done its own. -/
def takeShare (p : PairShare) (s : State) : State :=
  match s.seq.flight.find? (fun f => f.stage = .remote && f.slot = p.slot && f.row = p.row.toNat && f.issue = p.issue) with
  | some f => finishRow f (some p) s
  | none => onPair (fun x => { x with shares := x.shares ++ [p] }) s

def execPairContribution (p : PairShare) (s : State) : Host.Outcome State Fault Refusal :=
  event (inPair s && s.seq.run.isSome) (takeShare p) s

/-- R277: the partner's warm reset resets this half too. -/
def execPartnerWarmReset (s : State) : Host.Outcome State Fault Refusal :=
  event (inPair s && s.power.rails) (fun s => warmReset (warmPosts s)) s

/-! ### What one half passes to the other, R277, R286, R287 -/

/-- A power request of the primary. -/
def farPower (target : Nat) (boostEn : Bool) (s : State) : State :=
  let s := onPower (fun p => { p with boostEn := boostEn }) s
  match target with
  | 0 => onPower (fun p => { p with dozeTarget := false, wakeReq := p.wakeReq || p.state = .sleep, state := if p.state = .doze then .run else p.state }) s
  | 1 => let s := onPower (fun p => { p with dozeTarget := true }) s; if retesting s || s.power.state = .sleep then s else enterDoze s
  | _ => if s.seq.run.any (fun r => !r.asleep) then onPower (fun p => { p with sleepReq := true }) s else enterSleep s

/-- A slot written by the other half: the keys are replaced by this half's own count. -/
def farLoad (b : Bool) (rows : List Row) (l : Option (Plan × BitVec 1024 × List Nat)) (s : State) : State :=
  let remaps := if s.job.started then (match claimCheck s.job.relaxed rows with | .ok r => r | .error _ => []) else []
  fillSlot b rows (l.map (fun x => { plan := x.1, snapshot := x.2.1, barriers := x.2.2 })) remaps s

/-- The degraded lowering restarts the step in a slot. -/
def farRestart (b : Bool) (entry attempt : Nat) (s : State) : State :=
  let s := swapTo b (setAttempt attempt (cutWaits s))
  settleHalt (onSeq (fun q => { q with held := [], run := q.run.map (fun r => { r with slot := b, abandoning := none, restartAt := some (b, entry) }) }) s)

/-- REGIONS of the other half; a fence there cuts this half's step too (spec/07_timetable.md R164), and a return arms the timetable
that uses the region (spec/17_modes_repair.md R403). -/
def farRegions (word : BitVec 64) (fenced : Bool) (s : State) : State :=
  let s := onPair (fun p => { p with peerRegions := word }) s
  match s.seq.run with
  | none => s
  | some run =>
    if !fenced then armReturned s s
    else if run.halting.isSome || run.abandoning.isSome then s
    else if mayRestart s run then
      onSeq (fun q => { q with held := [], run := some { run with abandoning := some { cause := Status.regionFenced, slot := run.slot,
                                                                                       row := stopRow s run, code := 0 } } }) s
    else halt Status.regionFenced s

/-- A pair event of the primary enters this half's queue; its CRC is the log tail (spec/15_recorder.md R359). -/
def farRecord (r : RecordBody) (s : State) : State :=
  let c : RecCode := (recInfo r.source r.code).getD { source := r.source, code := r.code, severity := 0, prot := false }
  onPair (fun p => { p with tail := r.crc, events := p.events + 1 }) { s with log := s.log.push (s.log.stamp c 5 r.params) }

/-- RESHARD_RESUME of the primary: this half's journal state, or the round's outcome. -/
def farResume (rid : BitVec 16) (commit : Option Bool) (s : State) : State :=
  match commit with
  | none => sendLash (.journal (withRid rid (journalOf s rid))) s
  | some c => resolveRound rid c s

def farDebug (expiry : BitVec 32) (fp : Fp) (s : State) : State :=
  if s.seq.run.isSome then { s with trust := { s.trust with debugWait := some (expiry, 0, fp, none) } } else enterDebug expiry 0 fp none s

def forwarded (f : PairFwd) (s : State) : State :=
  match f with
  | .unlash => unlashHalf s
  | .power target boostEn => farPower target.toNat boostEn s
  | .boost boostEn => settleBoost (onPower (fun p => { p with boostEn := boostEn }) s)
  | .compare own echo => takeCompare own echo s
  | .askState select first count => sendLash (.forward (.reading (stateUnits s select first count))) s
  | .askDebug target region core bank first length => giveDebug target region core bank first length s
  | .reading data => takeReading data s
  | .load b rows l => farLoad b rows l s
  | .arm b entry => armSlot b entry s
  | .discard b => discardSlot b s
  | .job params remapped => installJob params remapped s
  | .jobEnd => endJob s
  | .rankAbsent rank standIn => markAbsent rank standIn s
  | .run b entry steps boost => startSpares (beginRun farReq b entry steps.toNat boost s)
  | .stop now => stopRun now s
  | .resume rid commit => farResume rid commit s
  | .restart b entry attempt => farRestart b entry attempt s
  | .regionCtl r fence => regionAct r fence s
  | .regionReset r => resetRegion r (wakeDoze s)
  | .ledger b row shard digest epoch => takeLedger b row shard digest epoch s
  | .debugOpen expiry fp => farDebug expiry fp s
  | .debugClose cause => endDebug cause s
  | .imageStage image => startStage farReq none image s
  | .imageStaged d => onPair (fun p => { p with peerImage := some d }) s
  | .imageActivate => startActivate farReq s
  | .record r => farRecord r s
  | .regions word fenced => farRegions word fenced s

def execPairForward (f : PairFwd) (s : State) : Host.Outcome State Fault Refusal := event (inPair s && s.power.rails) (forwarded f) s

end Sys2Proof.Machine
end

