-- ==== Sys2Proof/Machine/Dispatch.lean ====
section
/-!
DEFINITION. One arm for each command: its meaning, or a rejection by name.
-/
namespace Sys2Proof.Machine

def exec (i : Instr) (s : State) : Host.Outcome State Fault Refusal :=
  match i with
  | .identify q => Sys2Proof.Machine.execIdentify q s
  | .getStatus q page => Sys2Proof.Machine.execGetStatus q page s
  | .attest q nonce => Sys2Proof.Machine.execAttest q nonce s
  | .openSession q owner ephemeral signature => Sys2Proof.Machine.execOpenSession q owner ephemeral signature s
  | .logRead q area first count => Sys2Proof.Machine.execLogRead q area first count s
  | .closeSession q sid => Sys2Proof.Machine.execCloseSession q sid s
  | .readState q select first count => Sys2Proof.Machine.execReadState q select first count s
  | .enrol q owner domain policy => Sys2Proof.Machine.execEnrol q owner domain policy s
  | .retire q token => Sys2Proof.Machine.execRetire q token s
  | .logMark q hostTime note => Sys2Proof.Machine.execLogMark q hostTime note s
  | .logClear q token => Sys2Proof.Machine.execLogClear q token s
  | .policySet q policy => Sys2Proof.Machine.execPolicySet q policy s
  | .fabricConfig q config => Sys2Proof.Machine.execFabricConfig q config s
  | .linkCtl q port action => Sys2Proof.Machine.execLinkCtl q port action s
  | .linkUnfence q port => Sys2Proof.Machine.execLinkUnfence q port s
  | .lash q partner role => Sys2Proof.Machine.execLash q partner role s
  | .unlash q token => Sys2Proof.Machine.execUnlash q token s
  | .checkPlan q plan source => Sys2Proof.Machine.execCheckPlan q plan source s
  | .lower q slot plan source => Sys2Proof.Machine.execLower q slot plan source s
  | .ttLoad q slot n rows => Sys2Proof.Machine.execTtLoad q slot n rows s
  | .ttArm q slot entry => Sys2Proof.Machine.execTtArm q slot entry s
  | .ttDiscard q slot => Sys2Proof.Machine.execTtDiscard q slot s
  | .jobStart q params => Sys2Proof.Machine.execJobStart q params s
  | .run q slot entry steps boost => Sys2Proof.Machine.execRun q slot entry steps boost s
  | .stop q mode => Sys2Proof.Machine.execStop q mode s
  | .jobEnd q => Sys2Proof.Machine.execJobEnd q s
  | .rankAbsent q rank standIn => Sys2Proof.Machine.execRankAbsent q rank standIn s
  | .reshardResume q rid => Sys2Proof.Machine.execReshardResume q rid s
  | .windowReg q window base size => Sys2Proof.Machine.execWindowReg q window base size s
  | .sealTiers q sealId window offset ranges => Sys2Proof.Machine.execSealTiers q sealId window offset ranges s
  | .sealResume q sealId => Sys2Proof.Machine.execSealResume q sealId s
  | .unsealTiers q window offset => Sys2Proof.Machine.execUnsealTiers q window offset s
  | .imageStage q window offset length => Sys2Proof.Machine.execImageStage q window offset length s
  | .imageActivate q => Sys2Proof.Machine.execImageActivate q s
  | .power q target boostEn => Sys2Proof.Machine.execPower q target boostEn s
  | .reset q kind region => Sys2Proof.Machine.execReset q kind region s
  | .regionCtl q region action => Sys2Proof.Machine.execRegionCtl q region action s
  | .debugOpen q token => Sys2Proof.Machine.execDebugOpen q token s
  | .debugClose q => Sys2Proof.Machine.execDebugClose q s
  | .debugRead q target region core bank first length => Sys2Proof.Machine.execDebugRead q target region core bank first length s
  | .enableWrite value => Sys2Proof.Machine.execEnableWrite value s
  | .irqEnWrite value => Sys2Proof.Machine.execIrqEnWrite value s
  | .gwErrClear mask => Sys2Proof.Machine.execGwErrClear mask s
  | .sqTailWrite value => Sys2Proof.Machine.execSqTailWrite value s
  | .cqHeadWrite value => Sys2Proof.Machine.execCqHeadWrite value s
  | .ringConfigWrite offset wide value => Sys2Proof.Machine.execRingConfigWrite offset wide value s
  | .registerWrite offset value => Sys2Proof.Machine.execRegisterWrite offset value s
  | .submissionFetch entryOk headOk restOk => Sys2Proof.Machine.execSubmissionFetch entryOk headOk restOk s
  | .completionPost replyOk entryOk => Sys2Proof.Machine.execCompletionPost replyOk entryOk s
  | .lowerDone => Sys2Proof.Machine.execLowerDone s
  | .checkPlanDone => Sys2Proof.Machine.execCheckPlanDone s
  | .ttLoadDone slot => Sys2Proof.Machine.execTtLoadDone slot s
  | .jobStartJoined => Sys2Proof.Machine.execJobStartJoined s
  | .joinTimeout => Sys2Proof.Machine.execJoinTimeout s
  | .sealCheckpoint => Sys2Proof.Machine.execSealCheckpoint s
  | .sealComplete => Sys2Proof.Machine.execSealComplete s
  | .unsealComplete => Sys2Proof.Machine.execUnsealComplete s
  | .imageStageComplete => Sys2Proof.Machine.execImageStageComplete s
  | .firmwareStartCheck ok => Sys2Proof.Machine.execFirmwareStartCheck ok s
  | .lashExpiry => Sys2Proof.Machine.execLashExpiry s
  | .pairFormed => Sys2Proof.Machine.execPairFormed s
  | .nop dt => Sys2Proof.Machine.execNop dt s
  | .pass dt => Sys2Proof.Machine.execPass dt s
  | .quant dt => Sys2Proof.Machine.execQuant dt s
  | .copy dt => Sys2Proof.Machine.execCopy dt s
  | .vectorCombine dt => Sys2Proof.Machine.execVectorCombine dt s
  | .merge dt => Sys2Proof.Machine.execMerge dt s
  | .norm dt => Sys2Proof.Machine.execNorm dt s
  | .route dt => Sys2Proof.Machine.execRoute dt s
  | .opt dt => Sys2Proof.Machine.execOpt dt s
  | .sgrad dt => Sys2Proof.Machine.execSgrad dt s
  | .rebuild dt => Sys2Proof.Machine.execRebuild dt s
  | .reduceScatter dt => Sys2Proof.Machine.execReduceScatter dt s
  | .allGather dt => Sys2Proof.Machine.execAllGather dt s
  | .allReduce dt => Sys2Proof.Machine.execAllReduce dt s
  | .broadcast dt => Sys2Proof.Machine.execBroadcast dt s
  | .reshardRound dt => Sys2Proof.Machine.execReshardRound dt s
  | .reshardPrepared => Sys2Proof.Machine.execReshardPrepared s
  | .dispatch dt => Sys2Proof.Machine.execDispatch dt s
  | .ferryReturn dt => Sys2Proof.Machine.execFerryReturn dt s
  | .ferryCombine dt => Sys2Proof.Machine.execFerryCombine dt s
  | .govern dt => Sys2Proof.Machine.execGovern dt s
  | .branch dt => Sys2Proof.Machine.execBranch dt s
  | .loop dt => Sys2Proof.Machine.execLoop dt s
  | .endloop dt => Sys2Proof.Machine.execEndloop dt s
  | .barrier dt => Sys2Proof.Machine.execBarrier dt s
  | .barrierTimeout group tag => Sys2Proof.Machine.execBarrierTimeout group tag s
  | .stepRow dt => Sys2Proof.Machine.execStepRow dt s
  | .epochRecord dt => Sys2Proof.Machine.execEpochRecord dt s
  | .epochCheck dt => Sys2Proof.Machine.execEpochCheck dt s
  | .epochAdvance dt => Sys2Proof.Machine.execEpochAdvance dt s
  | .notify dt => Sys2Proof.Machine.execNotify dt s
  | .halt dt => Sys2Proof.Machine.execHalt dt s
  | .rowComplete place => Sys2Proof.Machine.execRowComplete place s
  | .tileDrain region core => Sys2Proof.Machine.execTileDrain region core s
  | .regionWakeStart region => Sys2Proof.Machine.execRegionWakeStart region s
  | .regionReady region => Sys2Proof.Machine.execRegionReady region s
  | .regionGate region => Sys2Proof.Machine.execRegionGate region s
  | .degradedRestart => Sys2Proof.Machine.execDegradedRestart s
  | .retestComplete region failed sliceOk => Sys2Proof.Machine.execRetestComplete region failed sliceOk s
  | .portDieFault die => Sys2Proof.Machine.execPortDieFault die s
  | .fabricSenseChange port level => Sys2Proof.Machine.execFabricSenseChange port level s
  | .lashSenseChange level => Sys2Proof.Machine.execLashSenseChange level s
  | .linkTrainComplete port lowOk highOk => Sys2Proof.Machine.execLinkTrainComplete port lowOk highOk s
  | .linkHello port fabricId node peerPort msg => Sys2Proof.Machine.execLinkHello port fabricId node peerPort msg s
  | .linkEvidence port evidence msg => Sys2Proof.Machine.execLinkEvidence port evidence msg s
  | .linkAgree port sigOk peerKey msg => Sys2Proof.Machine.execLinkAgree port sigOk peerKey msg s
  | .linkConfirm port confirmation => Sys2Proof.Machine.execLinkConfirm port confirmation s
  | .linkResume port expected => Sys2Proof.Machine.execLinkResume port expected s
  | .flitReceive port flit corrected => Sys2Proof.Machine.execFlitReceive port flit corrected s
  | .nakReceive port seq newMs => Sys2Proof.Machine.execNakReceive port seq newMs s
  | .nakRepeat port => Sys2Proof.Machine.execNakRepeat port s
  | .peerSilence port => Sys2Proof.Machine.execPeerSilence port s
  | .messageSend port vc dt => Sys2Proof.Machine.execMessageSend port vc dt s
  | .messageForward port msg tagOk => Sys2Proof.Machine.execMessageForward port msg tagOk s
  | .writeMsg port msg tagOk => Sys2Proof.Machine.execWriteMsg port msg tagOk s
  | .writeDone port src txn => Sys2Proof.Machine.execWriteDone port src txn s
  | .readMsg port msg tagOk => Sys2Proof.Machine.execReadMsg port msg tagOk s
  | .readData port src txn offset data => Sys2Proof.Machine.execReadData port src txn offset data s
  | .collectMessage port msg tagOk => Sys2Proof.Machine.execCollectMessage port msg tagOk s
  | .ferryMessage port msg tagOk => Sys2Proof.Machine.execFerryMessage port msg tagOk s
  | .admissionReply reply => Sys2Proof.Machine.execAdmissionReply reply s
  | .ferryDone table wave position step attempt => Sys2Proof.Machine.execFerryDone table wave position step attempt s
  | .barrierArrival group tag position step attempt => Sys2Proof.Machine.execBarrierArrival group tag position step attempt s
  | .governSum position err energy step attempt => Sys2Proof.Machine.execGovernSum position err energy step attempt s
  | .claimList position claims => Sys2Proof.Machine.execClaimList position claims s
  | .reshardReady rid round position => Sys2Proof.Machine.execReshardReady rid round position s
  | .journalExchange position entry => Sys2Proof.Machine.execJournalExchange position entry s
  | .lostNotice position node => Sys2Proof.Machine.execLostNotice position node s
  | .haltedNotice rank node status => Sys2Proof.Machine.execHaltedNotice rank node status s
  | .restartNotice step attempt => Sys2Proof.Machine.execRestartNotice step attempt s
  | .sleepNotice port => Sys2Proof.Machine.execSleepNotice port s
  | .dozeRequest port => Sys2Proof.Machine.execDozeRequest port s
  | .linkWake port => Sys2Proof.Machine.execLinkWake port s
  | .pairRendezvous slot row => Sys2Proof.Machine.execPairRendezvous slot row s
  | .pairContribution share => Sys2Proof.Machine.execPairContribution share s
  | .partnerWarmReset => Sys2Proof.Machine.execPartnerWarmReset s
  | .lashBringupComplete items => Sys2Proof.Machine.execLashBringupComplete items s
  | .strandedRetry => Sys2Proof.Machine.execStrandedRetry s
  | .auxGood islandOk cellMv slotId ownerPresentN => Sys2Proof.Machine.execAuxGood islandOk cellMv slotId ownerPresentN s
  | .auxLost => Sys2Proof.Machine.execAuxLost s
  | .mainEnAssert => Sys2Proof.Machine.execMainEnAssert s
  | .mainEnDeassert => Sys2Proof.Machine.execMainEnDeassert s
  | .mainRange mv lasted => Sys2Proof.Machine.execMainRange mv lasted s
  | .railFault rail phase mv => Sys2Proof.Machine.execRailFault rail phase mv s
  | .pllLossOfLock region => Sys2Proof.Machine.execPllLossOfLock region s
  | .linkRefclkFault => Sys2Proof.Machine.execLinkRefclkFault s
  | .pcieRefclkLoss => Sys2Proof.Machine.execPcieRefclkLoss s
  | .perstNFall fullStrap => Sys2Proof.Machine.execPerstNFall fullStrap s
  | .pcieLinkUp => Sys2Proof.Machine.execPcieLinkUp s
  | .warmResetEffect => Sys2Proof.Machine.execWarmResetEffect s
  | .controlRestartDone => Sys2Proof.Machine.execControlRestartDone s
  | .memoryTrained failed => Sys2Proof.Machine.execMemoryTrained failed s
  | .selftestDone cores spares slices => Sys2Proof.Machine.execSelftestDone cores spares slices s
  | .idleSleep => Sys2Proof.Machine.execIdleSleep s
  | .sleepWakeDone => Sys2Proof.Machine.execSleepWakeDone s
  | .temperatureSample regions others => Sys2Proof.Machine.execTemperatureSample regions others s
  | .powerCapTick inputW => Sys2Proof.Machine.execPowerCapTick inputW s
  | .thermalCreditUpdate inputW => Sys2Proof.Machine.execThermalCreditUpdate inputW s
  | .valveLoopTick => Sys2Proof.Machine.execValveLoopTick s
  | .flowUpdate edges => Sys2Proof.Machine.execFlowUpdate edges s
  | .coolantConditionTest reading => Sys2Proof.Machine.execCoolantConditionTest reading s
  | .tamperTrip sensors => Sys2Proof.Machine.execTamperTrip sensors s
  | .cellLow mv => Sys2Proof.Machine.execCellLow mv s
  | .ownerPresentRise => Sys2Proof.Machine.execOwnerPresentRise s
  | .operatingSecond => Sys2Proof.Machine.execOperatingSecond s
  | .counterCopy => Sys2Proof.Machine.execCounterCopy s
  | .debugExpiry => Sys2Proof.Machine.execDebugExpiry s
  | .recordWrite => Sys2Proof.Machine.execRecordWrite s
  | .logMarkQueued => Sys2Proof.Machine.execLogMarkQueued s
  | .logSelect area first pecOk => Sys2Proof.Machine.execLogSelect area first pecOk s
  | .logNext pecOk => Sys2Proof.Machine.execLogNext pecOk s
  | .logBounds pecOk => Sys2Proof.Machine.execLogBounds pecOk s
  | .thermalRead pecOk => Sys2Proof.Machine.execThermalRead pecOk s
  | .coolantSet target dutyMin reserved pecOk => Sys2Proof.Machine.execCoolantSet target dutyMin reserved pecOk s
  | .alertResponse => Sys2Proof.Machine.execAlertResponse s
  | .noRouteMessage port dst src viaPort => Sys2Proof.Machine.execNoRouteMessage port dst src viaPort s
  | .linkWakeDone port => Sys2Proof.Machine.execLinkWakeDone port s
  | .mainHoldRelease => Sys2Proof.Machine.execMainHoldRelease s
  | .pairForward fwd => Sys2Proof.Machine.execPairForward fwd s

end Sys2Proof.Machine
end

