-- ==== Sys2Proof/Safety.lean ====
section
/-!
DEFINITION. What a safe run is, and the terms in which the statements speak: every step answers a next state, and the state
keeps its canonical form.
-/
namespace Sys2Proof
open Machine

/-- The outcome is a next state. -/
def Completes (o : Host.Outcome State Fault Refusal) : Prop := ∃ t, o = .next t

/-- A ring's base is a multiple of 4,096 and its size a power of two from 16 to 4,096 (spec/13_commands.md Table 13-1). -/
def LegalRing (base : BitVec 64) (size : BitVec 32) : Prop := 4096 ∣ base.toNat ∧ ∃ k, 4 ≤ k ∧ k ≤ 12 ∧ size.toNat = 2 ^ k

/-- A gangway command starts: nothing makes it wait, and checks 3, 6 and 7 of spec/13_commands.md Table 13-7 pass; `own` is the
condition on states of the command's own row. A sealed body's head is well formed. -/
def Starts (op page : Nat) (q : Req) (own : Bool) (s : State) : Prop :=
  waits q s = false ∧ gate op page q own s = none ∧ (nextAccepted s).all Accepted.formOk = true

/-- The command has started and has its completion waiting, and nothing else has changed. -/
def answered (q : Req) (op : BitVec 8) (status : BitVec 16) (detail : BitVec 64) (payload : List Byte) (s : State) : State :=
  hold (completionOf s q op status detail payload) (start q s)

/-- Memories, timetable, job, reshard and regions are as before. -/
def SameData (s t : State) : Prop :=
  t.mem = s.mem ∧ t.seq = s.seq ∧ t.job = s.job ∧ t.reshard = s.reshard ∧ t.regions = s.regions ∧ t.badSpares = s.badSpares

/-- Identity, pins, power, thermal state, links, the pair and the queue of commands are as before. -/
def SameModule (s t : State) : Prop :=
  t.identity = s.identity ∧ t.pins = s.pins ∧ t.power = s.power ∧ t.thermal = s.thermal ∧ t.fab = s.fab ∧ t.pair = s.pair ∧ t.pending = s.pending

/-- Messages that stand in the receive buffers of an ACTIVE port are taken out (`l`), those that `fits` names being as many as the message
needs; or none has come through a flit of the model, and the command alone brings a message that verifies. -/
def Taken (p n : Nat) (fits : RxMsg → Bool) (s : State) (l : List RxMsg) (u : State) : Prop :=
  (port s p).state = .active ∧
    (((port s p).rxMsgs = [] ∧ l = [] ∧ u = s) ∨
      ((port s p).rxMsgs ≠ [] ∧ l = heldMsgs (port s p) fits n ∧ l.length = n ∧
        u = onPort p (fun q => { q with rxMsgs := l.foldl List.erase q.rxMsgs }) s))

/-! ### The sequencer at a row -/

/-- The sequencer of a module outside a pair stands at row w: it is the active run's next row, no earlier row is in flight or held,
and nothing is waited for (spec/07_timetable.md R160, R161). -/
structure AtRow (s : State) (r : ActiveRun) (w : Row) : Prop where
  run : s.seq.run = some r
  issuing : r.asleep = false ∧ r.halting = none ∧ r.abandoning = none ∧ r.restartAt = none ∧ r.waitCause = none
  place : r.next < (slotOf s r.slot).rows.length
  row : rowAt s r.slot r.next = w
  free : s.seq.held = [] ∧ s.seq.flight = [] ∧ s.log.protWait = [] ∧ s.seq.copies = []
  alone : inPair s = false ∧ s.pair.sent = none ∧ s.pair.got = []

/-- Nothing that a data row needs is asleep or busy: its regions are clocked, no closing tile occupies its rows, and its host
window and links are up. -/
structure Unblocked (s : State) (w : Row) : Prop where
  here : executes s w = true
  clocked : ∀ k ∈ setList (rowRset w), (region s k).clock = .ready
  drained : drainWait s w = false
  hosts : hostWait s w = false
  links : linkWait s w = false
  unsealed : s.trust.sealing = false

/-- The path row has taken its place in path order, and issue goes on at the row after it. -/
def pastIssue (r : ActiveRun) (s : State) : State :=
  { s with seq := { s.seq with nextId := s.seq.nextId + 1, issues := sput s.seq.issues r.next (sget s.seq.issues r.next 0 + 1),
                               run := some { r with next := r.next + 1, gap := rowGap (rowAt s r.slot r.next), waitCause := none } } }

/-- The row as it issues. -/
def issuing (r : ActiveRun) (w : Row) (s : State) : RowCtx :=
  { id := s.seq.nextId, slot := r.slot, row := r.next, bits := w, issue := sget s.seq.issues r.next 0 }

/-- The row in flight. -/
def inFlight (c : RowCtx) (stage : Stage) (flags : BitVec 8) (watch : List WatchAdd) : Flight :=
  { id := c.id, slot := c.slot, row := c.row, bits := c.bits, issue := c.issue, flags := flags, stage := stage, watch := watch }

/-- Issue goes on at row k, and nothing else has changed. -/
def goesOnAt (r : ActiveRun) (k : Nat) (s : State) : State := 
  { s with seq := { s.seq with run := some { r with next := k, gap := rowGap (rowAt s r.slot r.next) } } }

/-- Every tier unit of n bytes at a has been written and reads well. -/
def TierGood (s : State) (a n : Nat) : Prop := ∀ u, a / 256 ≤ u → u ≤ (a + n - 1) / 256 → unitFails s u = (false, false)

end Sys2Proof
end

