-- ==== Sys2Proof/Certificates/Slice0/Obligations.lean ====
section
/-!
DEFINITION. The statements for the provers. Each says what the spec's rule, named in its docstring, says of a command or of
the machine. `.next { s with … }` says the command's whole effect: every part of the state that is not named is as before.
-/
open Sys2Proof Sys2Proof.Machine

/-! ### The queue, the start and the canonical form -/

/-- The command at the front of the queue is the one a step runs, on the queue's rest. Log entry 1 says that a step on an
empty queue idles. -/
def Obligations.StepRunsFrontCommand : Prop :=
  (∀ (c : Instr) (s : State), step { s with pending := c :: s.pending } = exec c s) ∧
  (∀ s : State, s.pending = [] → step s = .next s)

/-! ### BAR0 and the rings, spec/13_commands.md R289 to R301 -/

/-- R292: when ENABLE changes from 0 to 1 both rings are checked; if both are legal the four indices are 0 and PHASE is 1, and
if either is illegal ENABLE stays 0 and the matching error bits are set. Clearing ENABLE stops fetching and changes nothing
else; writing 1 again changes nothing. -/
def Sys2Proof.Claims.EnableChecksBothRings : Prop :=
  ∀ s : State, s.gw.linkUp = true →
    (s.gw.enable = false → LegalRing s.gw.sqBase s.gw.sqSize → LegalRing s.gw.cqBase s.gw.cqSize →
      exec (.enableWrite true) s = .next { s with gw := { s.gw with
        enable := true, sqHead := 0, cqTail := 0, sqTail := 0, cqHead := 0, phase := true } }) ∧
    (s.gw.enable = false → ¬ LegalRing s.gw.sqBase s.gw.sqSize → LegalRing s.gw.cqBase s.gw.cqSize →
      exec (.enableWrite true) s = .next { s with gw := { s.gw with err := s.gw.err ||| 1 } }) ∧
    (s.gw.enable = false → LegalRing s.gw.sqBase s.gw.sqSize → ¬ LegalRing s.gw.cqBase s.gw.cqSize →
      exec (.enableWrite true) s = .next { s with gw := { s.gw with err := s.gw.err ||| 2 } }) ∧
    (s.gw.enable = false → ¬ LegalRing s.gw.sqBase s.gw.sqSize → ¬ LegalRing s.gw.cqBase s.gw.cqSize →
      exec (.enableWrite true) s = .next { s with gw := { s.gw with err := s.gw.err ||| 1 ||| 2 } }) ∧
    exec (.enableWrite false) s = .next { s with gw := { s.gw with enable := false } } ∧
    (s.gw.enable = true → exec (.enableWrite true) s = .next s)

/-- R292: a ring base or size written while ENABLE is 1 is ignored and sets CFG_LOCKED; while ENABLE is 0 it is written, whole
or by halves. -/
def Sys2Proof.Claims.RingConfigurationOnlyWhileDisabled : Prop :=
  ∀ (s : State) (v : BitVec 64), s.gw.linkUp = true →
    (s.gw.enable = true → ∀ (offset : BitVec 16) (wide : Bool),
      exec (.ringConfigWrite offset wide v) s = .next { s with gw := { s.gw with err := s.gw.err ||| 0x10 } }) ∧
    (s.gw.enable = false →
      exec (.ringConfigWrite 0x20 true v) s = .next { s with gw := { s.gw with sqBase := v } } ∧
      exec (.ringConfigWrite 0x40 true v) s = .next { s with gw := { s.gw with cqBase := v } } ∧
      exec (.ringConfigWrite 0x28 false v) s = .next { s with gw := { s.gw with sqSize := v.setWidth 32 } } ∧
      exec (.ringConfigWrite 0x48 false v) s = .next { s with gw := { s.gw with cqSize := v.setWidth 32 } } ∧
      (∃ b : BitVec 64, exec (.ringConfigWrite 0x20 false v) s = .next { s with gw := { s.gw with sqBase := b } } ∧
        b.extractLsb' 0 32 = v.extractLsb' 0 32 ∧ b.extractLsb' 32 32 = s.gw.sqBase.extractLsb' 32 32) ∧
      (∃ b : BitVec 64, exec (.ringConfigWrite 0x24 false v) s = .next { s with gw := { s.gw with sqBase := b } } ∧
        b.extractLsb' 32 32 = v.extractLsb' 0 32 ∧ b.extractLsb' 0 32 = s.gw.sqBase.extractLsb' 0 32))

/-- R293, R294, Table 13-2: a doorbell write at or above the ring size is ignored and sets DOORBELL, and one below it is the
new index; IRQ_EN takes the value written; a one written to a GW_ERR bit clears it. -/
def Sys2Proof.Claims.DoorbellsAndControlBits : Prop :=
  ∀ (s : State) (v : BitVec 32), s.gw.linkUp = true →
    (v < s.gw.sqSize → exec (.sqTailWrite v) s = .next { s with gw := { s.gw with sqTail := v } }) ∧
    (¬ v < s.gw.sqSize → exec (.sqTailWrite v) s = .next { s with gw := { s.gw with err := s.gw.err ||| 4 } }) ∧
    (v < s.gw.cqSize → exec (.cqHeadWrite v) s = .next { s with gw := { s.gw with cqHead := v } }) ∧
    (¬ v < s.gw.cqSize → exec (.cqHeadWrite v) s = .next { s with gw := { s.gw with err := s.gw.err ||| 4 } }) ∧
    (∀ b, exec (.irqEnWrite b) s = .next { s with gw := { s.gw with irqEn := b } }) ∧
    exec (.gwErrClear v) s = .next { s with gw := { s.gw with err := s.gw.err &&& ~~~ v.setWidth 5 } }

/-- R291: a write to a reserved offset or to a register that takes none changes nothing, a write to the MSI-X table is what its bytes
then read as, a 64-bit write is one of both words, and GW_ERR is reached by either form. An access that is not aligned reaches
nothing, which is the model's choice (log entry 95). -/
def Sys2Proof.Claims.OtherRegistersIgnoreWrites : Prop :=
  ∀ (s : State) (offset : BitVec 16) (v : BitVec 64), s.gw.linkUp = true →
    (offset.toNat ∉ [0x0C, 0x10, 0x20, 0x24, 0x28, 0x2C, 0x40, 0x44, 0x48, 0x4C] →
      (offset.toNat < 0x1000 ∨ 0x1020 ≤ offset.toNat) → exec (.registerWrite offset ⟨false, v⟩) s = .next s) ∧
    ((0x50 ≤ offset.toNat ∧ offset.toNat < 0x1000) ∨ 0x1020 ≤ offset.toNat → exec (.registerWrite offset ⟨true, v⟩) s = .next s) ∧
    (offset.toNat % 4 ≠ 0 → ∀ wide, exec (.registerWrite offset ⟨wide, v⟩) s = .next s) ∧
    (0x1000 ≤ offset.toNat → offset.toNat < 0x1020 → offset.toNat % 8 = 0 →
      ∃ m, exec (.registerWrite offset ⟨true, v⟩) s = .next { s with gw := { s.gw with msix := m } } ∧
        (∀ d, mread d m offset.toNat 8 = leBytes 8 v.toNat) ∧
        ∀ d a, (a < offset.toNat ∨ offset.toNat + 8 ≤ a) → mread d m a 1 = mread d s.gw.msix a 1) ∧
    (0x1000 ≤ offset.toNat → offset.toNat < 0x1020 → offset.toNat % 4 = 0 →
      ∃ m, exec (.registerWrite offset ⟨false, v⟩) s = .next { s with gw := { s.gw with msix := m } } ∧
        (∀ d, mread d m offset.toNat 4 = leBytes 4 v.toNat) ∧
        ∀ d a, (a < offset.toNat ∨ offset.toNat + 4 ≤ a) → mread d m a 1 = mread d s.gw.msix a 1) ∧
    exec (.registerWrite 0x0C ⟨false, v⟩) s = exec (.gwErrClear (v.setWidth 32)) s ∧
    exec (.registerWrite 0x08 ⟨true, v⟩) s = exec (.gwErrClear (v.extractLsb' 32 32)) s ∧
    exec (.registerWrite 0x2C ⟨false, v⟩) s = exec (.sqTailWrite (v.setWidth 32)) s ∧
    exec (.registerWrite 0x4C ⟨false, v⟩) s = exec (.cqHeadWrite (v.setWidth 32)) s

/-- R290, R291, Table 13-1: while the link is up BAR0 reads as the registers: the two identity words, GW_STATUS as GET_STATUS
shows it, the ring registers, and 0 at reserved offsets; while it is down no read is answered. -/
def Sys2Proof.Claims.RegisterReadsShowTheirRegisters : Prop :=
  ∀ s : State,
    (s.gw.linkUp = false → ∀ o w, bar0Read s o w = none) ∧
    (s.gw.linkUp = true →
      bar0Read s 0x00 true = some (leBytes 4 0x474E4147 ++ leBytes 4 0x00010000) ∧
      bar0Read s 0x08 false = some (leBytes 4 (gwStatus s).toNat) ∧
      bar0Read s 0x20 true = some (leBytes 8 s.gw.sqBase.toNat) ∧
      bar0Read s 0x40 true = some (leBytes 8 s.gw.cqBase.toNat) ∧
      bar0Read s 0x28 true = some (leBytes 4 s.gw.sqSize.toNat ++ leBytes 4 s.gw.sqTail.toNat) ∧
      bar0Read s 0x30 false = some (leBytes 4 s.gw.sqHead.toNat) ∧
      bar0Read s 0x50 false = some (leBytes 4 s.gw.cqTail.toNat) ∧
      (∀ o, 0x54 ≤ o → o < 0x1000 → bar0Read s o false = some (zeros 4)) ∧
      ∀ o, 0x1020 ≤ o → bar0Read s o false = some (zeros 4))

/-- R290: a register access while the link is down reaches nothing. -/
def Sys2Proof.Claims.LinkDownAnswersNoRequest : Prop :=
  ∀ s : State, s.gw.linkUp = false → ∀ c : Instr,
    ((∃ v, c = .enableWrite v) ∨ (∃ v, c = .irqEnWrite v) ∨ (∃ m, c = .gwErrClear m) ∨ (∃ v, c = .sqTailWrite v) ∨
      (∃ v, c = .cqHeadWrite v) ∨ (∃ o w v, c = .ringConfigWrite o w v) ∨ (∃ o v, c = .registerWrite o v)) →
    exec c s = .next s

/-- R293, R296, R301 (checks 1 and 3): a fetch whose entry cannot be read clears ENABLE and sets HOST_ACCESS. Otherwise
SQ_HEAD advances by one round the ring and the command counts as outstanding. An entry whose TAG is 0xFFFF or with a reserved
field nonzero is refused with BAD_HEADER and reads no packet (R315: the refusal completes in its turn); a CLEAR packet that passes checks 1 to 6 is accepted, and nothing
else changes. -/
def Sys2Proof.Claims.SubmissionFetchChecksTheEntry : Prop :=
  ∀ s : State, s.gw.linkUp = true → s.gw.enable = true → s.gw.sqHead ≠ s.gw.sqTail → s.gw.outstanding < 256 →
    (∀ b c, exec (.submissionFetch false b c) s = .next { s with gw := { s.gw with enable := false, err := s.gw.err ||| 8 } }) ∧
    ∀ e : Nat, e = ofLe (readMem s 3 (s.gw.sqBase.toNat + 64 * s.gw.sqHead.toNat) 64) →
    ∀ g : Gangway, g = { s.gw with sqHead := BitVec.ofNat 32 ((s.gw.sqHead.toNat + 1) % max s.gw.sqSize.toNat 1),
                                   outstanding := s.gw.outstanding + 1 } →
    ∀ tag : BitVec 16, tag = BitVec.ofNat 16 (fld e 0 16) →
      ((tag = 0xFFFF ∨ fld e 16 16 ≠ 0 ∨ fld e 224 288 ≠ 0) → ∀ b c,
        exec (.submissionFetch true b c) s = .next { s with gw := { g with accepted := g.accepted ++
          [{ req := { tag := tag, isSealed := false, sid := 0, seq := 0, raddr := 0, rcap := 0 }, opcode := 0, params := [],
             formOk := true, closed := false,
             refused := some { tag := tag, kind := 0, status := Status.badHeader, raddr := 0, reply := [] } }] } }) ∧
      (tag ≠ 0xFFFF → fld e 16 16 = 0 → fld e 224 288 = 0 →
        ∀ head : List Byte, head = readMem s 3 (fld e 64 64) 32 → headOk head (fld e 32 32) = true →
        ∀ op : Nat, op = fld (ofLe head) 48 8 → fld (ofLe head) 32 2 = 0 → 1 ≤ op → op ≤ 5 →
        ∀ body : List Byte, body = readMem s 3 (fld e 64 64 + 32) (fld (ofLe head) 64 32 - 32) →
          64 + replyBound op (ofLe (body.take 1)) ≤ (BitVec.ofNat 32 (fld e 192 32)).toNat →
          exec (.submissionFetch true true true) s = .next { s with gw := { g with accepted := g.accepted ++
            [{ req := { tag := tag, isSealed := false, sid := BitVec.ofNat 3 (fld (ofLe head) 40 3),
                        seq := BitVec.ofNat 64 (fld (ofLe head) 128 64), raddr := BitVec.ofNat 64 (fld e 128 64),
                        rcap := BitVec.ofNat 32 (fld e 192 32) }, opcode := BitVec.ofNat 8 op, params := body,
               formOk := true, closed := false, refused := none }] } })

/-- R294, R295: a completion with its reply is posted where the ring has room: the reply at RADDR, the entry at CQ_TAIL with
the present PHASE, CQ_TAIL advanced (and PHASE inverted at the end of the ring), and vector 0 if IRQ_EN is set. Where the ring
has no room nothing is posted. R315: refusals of checks 1 to 6 have joined the completions in their turn. R296: where the entry cannot be written, ENABLE is cleared and the entry is held. -/
def Sys2Proof.Claims.CompletionPostWritesReplyThenEntry : Prop :=
  ∀ (s : State) (g : Gangway) (c : Completion) (rest : List Completion), g = (if shortRuns s then s else passRefused s).gw →
    g.held = c :: rest → s.gw.linkUp = true → s.gw.enable = true → s.log.protWait = [] →
    (cqRoom s = false → ∀ b d, exec (.completionPost b d) s = .next s) ∧
    (cqRoom s = true → s.pair.role ≠ .secondary → c.kind = 0 → c.reply ≠ [] →
      (∃ t, exec (.completionPost true true) s = .next t ∧
        t.mem.host = mwrite (mwrite s.mem.host c.raddr.toNat c.reply) (s.gw.cqBase.toNat + 64 * s.gw.cqTail.toNat)
          (entryHead c s.gw.phase c.status c.reply.length ++ zeros 48) ∧
        t.gw = { g with
          cqTail := if s.gw.cqTail.toNat + 1 = s.gw.cqSize.toNat then 0 else s.gw.cqTail + 1,
          phase := if s.gw.cqTail.toNat + 1 = s.gw.cqSize.toNat then !s.gw.phase else s.gw.phase,
          held := rest, outstanding := s.gw.outstanding - 1, vec0 := if s.gw.irqEn then s.gw.vec0 + 1 else s.gw.vec0 } ∧
        t = { s with gw := t.gw, mem := { s.mem with host := t.mem.host } }) ∧
      (∃ t, exec (.completionPost true false) s = .next t ∧
        t.gw = { g with enable := false, err := s.gw.err ||| 8 }))

/-- R292: while ENABLE is 0 no entry is fetched and no completion is posted: both are held, in order, until the next enable. -/
def Sys2Proof.Claims.DisabledRingsHoldStill : Prop :=
  ∀ s : State, s.gw.enable = false →
    (∀ a b c, exec (.submissionFetch a b c) s = .next s) ∧
    (s.log.protWait = [] → ∀ a b, exec (.completionPost a b) s = .next s)

/-! ### Identity, sessions, lifecycle and policy, spec/13_commands.md R301 to R304, spec/14_trust.md -/

/-- IDENTIFY, GET_STATUS and LOG_READ in the CLEAR form are answered in every lifecycle, role, RUNSTATE and power state once the
island is up: the reply is the whole effect. A page above 2, an area above 1 or a count of 0 or above 4,096 is BAD_FIELD. -/
def Sys2Proof.Claims.ClearReadsAreAnsweredInEveryState : Prop :=
  ∀ (s : State) (q : Req), waits q s = false → q.isSealed = false → (nextAccepted s).all Accepted.formOk = true →
    (64 + 8192 ≤ q.rcap.toNat →
      exec (.identify q) s = .next (answered q 0x01 Status.ok 0 (identifyPayload s) s)) ∧
    (128 ≤ q.rcap.toNat → exec (.getStatus q 0) s = .next (answered q 0x02 Status.ok 0 (page0 s) s)) ∧
    (64 + 384 ≤ q.rcap.toNat → exec (.getStatus q 1) s = .next (answered q 0x02 Status.ok 0 (page1 s) s)) ∧
    (64 + 280 ≤ q.rcap.toNat → exec (.getStatus q 2) s = .next (answered q 0x02 Status.ok 0 (page2 s) s)) ∧
    (∀ page : BitVec 32, 2 < page.toNat → 128 ≤ q.rcap.toNat →
      exec (.getStatus q page) s = .next (answered q 0x02 Status.badField (fieldDetail 0x02 0) [] s)) ∧
    (∀ (a : BitVec 8) (first : BitVec 64) (count : BitVec 32), 64 + 262144 ≤ q.rcap.toNat →
      (a.toNat ≤ 1 → 1 ≤ count.toNat → count.toNat ≤ 4096 →
        exec (.logRead q a first count) s = .next (answered q 0x05 Status.ok 0
          ((((if a = 1 then s.log.prot else s.log.ring).filter (fun r => first.toNat ≤ r.seq.toNat)).take count.toNat).flatMap
            Rec.bytes) s)) ∧
      (1 < a.toNat → exec (.logRead q a first count) s = .next (answered q 0x05 Status.badField (fieldDetail 0x05 0) [] s)) ∧
      (a.toNat ≤ 1 → (count.toNat = 0 ∨ 4096 < count.toNat) →
        exec (.logRead q a first count) s = .next (answered q 0x05 Status.badField (fieldDetail 0x05 2) [] s)))

/-- ATTEST replies with the evidence of Table 14-4, the identity key's signature over it and the certificates; it takes one
random draw and changes nothing else. -/
def Sys2Proof.Claims.AttestSignsTheEvidence : Prop :=
  ∀ (s : State) (q : Req) (nonce : BitVec 256), Starts 0x03 0 q true s →
    ∃ t, exec (.attest q nonce) s = .next t ∧ t.free = s.free + 1 ∧
      t.gw.held = (start q s).gw.held ++ [completionOf s q 0x03 Status.ok 0 (evidenceBody s nonce ++
        wordBytes (ecdsaSign s.identity.priv (Config.random384 s.free) (evidenceBody s nonce)) ++ s.identity.certificates)] ∧
      t.trust = s.trust ∧ t.log = s.log ∧ SameData s t ∧ SameModule s t

/-- R302, R303: an OPEN_SESSION that passes its checks opens the lowest free session number, provisional exactly in BLANK and
ERASED, where it is bound to the key presented; with OWNER_PRESENT_N high it is OWNER_ABSENT there. With four sessions open a
fifth is SESSION_LIMIT, and while a mesh, light sensor or lid switch stays tripped it is WRONG_STATE (R346). -/
def Sys2Proof.Claims.OpenSessionOpensOneOfFour : Prop :=
  ∀ (s : State) (q : Req) (owner ephemeral signature : Key), Starts 0x04 0 q true s →
    (s.trust.tamperNow &&& 0x0F ≠ 0 →
      exec (.openSession q owner ephemeral signature) s = .next (answered q 0x04 Status.wrongState 0 [] s)) ∧
    (s.trust.tamperNow &&& 0x0F = 0 → s.trust.lifecycle ≠ .enrolled → s.pins.ownerPresentN = true →
      exec (.openSession q owner ephemeral signature) s = .next (answered q 0x04 Status.ownerAbsent 0 [] s)) ∧
    ∀ key : Key, s.trust.tamperNow &&& 0x0F = 0 → P384.onCurve ephemeral = true →
      ((s.trust.lifecycle = .enrolled ∧ key = s.trust.ownerKey ∧ owner.toNat = (ownerFp s).toNat) ∨
        (s.trust.lifecycle ≠ .enrolled ∧ s.pins.ownerPresentN = false ∧ key = owner)) →
      ecdsaVerify key (ascii "ez1 open" ++ (wordBytes owner ++ wordBytes ephemeral) ++ wordBytes (identityFp s)) signature = true →
      (∀ sid : BitVec 3, 1 ≤ sid.toNat → sid.toNat ≤ 4 → session? s sid = none →
        (∀ i : BitVec 3, 1 ≤ i.toNat → i.toNat < sid.toNat → session? s i ≠ none) →
        ∃ t ses, exec (.openSession q owner ephemeral signature) s = .next t ∧
          t.gw.sessions = s.gw.sessions ++ [ses] ∧ ses.sid = sid ∧ ses.owner = key ∧
          (ses.provisional = true ↔ s.trust.lifecycle ≠ .enrolled) ∧ ses.seq = 0 ∧ ses.nseq = 0 ∧
          t.trust = s.trust ∧ t.log = s.log ∧ SameData s t ∧ SameModule s t) ∧
      ((∀ i : BitVec 3, 1 ≤ i.toNat → i.toNat ≤ 4 → session? s i ≠ none) →
        exec (.openSession q owner ephemeral signature) s = .next (answered q 0x04 Status.sessionLimit 0 [] s))

/-- CLOSE_SESSION closes the session named, or its own for SID 0, and no other; DEBUG-OPEN ends if that session opened it. What that
session's commands still run, and its notifications not yet posted, belong to no session after it, whoever opens that number next (R302,
R299: log entry 24). -/
def Sys2Proof.Claims.CloseSessionClosesOneSession : Prop :=
  ∀ (s : State) (q : Req) (sid : BitVec 8) (target : BitVec 3), Starts 0x06 0 q true s → sid.toNat ≤ 4 →
    target = (if sid = 0 then q.sid else sid.setWidth 3) → session? s target ≠ none →
    s.trust.debugWait = none → s.log.markWait = [] →
    ∃ t, exec (.closeSession q sid) s = .next t ∧
      t.gw.sessions = s.gw.sessions.filter (fun x => x.sid != target) ∧
      (∀ e, s.trust.debug = some (e, target) → t.trust = { s.trust with debug := none, debugWait := none } ∧
        t.log = s.log.push (s.log.stamp Code.debugClose 0 [2])) ∧
      ((∀ e, s.trust.debug ≠ some (e, target)) → t.trust = s.trust ∧ t.log = s.log) ∧
      t.gw.held = ((start q s).gw.held ++ [completionOf s q 0x06 Status.ok 0 []]).map (Completion.orphan target) ∧
      t.gw.lowering = s.gw.lowering.map (fun j => { j with req := orphanReq target j.req }) ∧
      t.seq = { s.seq with run := s.seq.run.map (fun r => { r with req := orphanReq target r.req }) } ∧
      t.mem = s.mem ∧ t.job = s.job ∧ t.reshard = s.reshard ∧ t.regions = s.regions ∧ t.identity = s.identity ∧ t.pins = s.pins ∧
      t.power = s.power ∧ t.thermal = s.thermal ∧ t.pending = s.pending ∧ (s.pair.role ≠ .primary → t.fab = s.fab)

/-- R320, R323: ENROL in a provisional session bound to the key, with the policy signed under it and OWNER_PRESENT_N low, is the
transition to ENROLLED: owner key, domain and policy are held, the session becomes ordinary, and record ENROLLED carries the
owner fingerprint, which the reply returns. With another key it is BAD_FIELD, and with OWNER_PRESENT_N high OWNER_ABSENT. -/
def Sys2Proof.Claims.EnrolBindsTheOwner : Prop :=
  ∀ (s : State) (q : Req) (owner : Key) (domain : BitVec 256) (policy : BitVec 4096) (ses : Session),
    Starts 0x10 0 q true s → session? s q.sid = some ses →
    (ses.owner ≠ owner →
      exec (.enrol q owner domain policy) s = .next (answered q 0x10 Status.badField (fieldDetail 0x10 0) [] s)) ∧
    (ses.owner = owner → policyFormOk policy = true → policySigned policy owner = true → s.pins.ownerPresentN = true →
      exec (.enrol q owner domain policy) s = .next (answered q 0x10 Status.ownerAbsent 0 [] s)) ∧
    (ses.owner = owner → policyFormOk policy = true → policySigned policy owner = true → s.pins.ownerPresentN = false →
      ∃ t, exec (.enrol q owner domain policy) s = .next t ∧
        t.trust = { s.trust with wrapKey := Config.random256 s.free, ownerKey := owner, domain := domain, policy := policy,
                                 lifecycle := .enrolled } ∧
        t.gw.sessions = s.gw.sessions.map (fun x => if x.sid = q.sid then { x with provisional := false } else x) ∧
        t.log = s.log.push (s.log.stamp Code.enrolled 0 (wordBytes (fingerprint owner))) ∧ t.gw.held.length = (start q s).gw.held.length + 1 ∧ SameData s t ∧ SameModule s t)

/-- R321: RETIRE with a good token erases the binding, blows the fuse and performs a cold reset: sessions, job, slots and tier
contents are gone, and no completion is left to be posted. -/
def Sys2Proof.Claims.RetireErasesTheBinding : Prop :=
  ∀ (s : State) (q : Req) (token : BitVec 1536),
    Starts 0x11 0 q (inState s [.ready] && decide (s.pair.role = .solo) && maintNone s) s → tokenCheck 1 false token s = none →
    ∃ t, exec (.retire q token) s = .next t ∧ t.trust.lifecycle = .retired ∧ t.trust.ownerKey = 0 ∧ t.trust.domain = 0 ∧
      t.trust.policy = 0 ∧ t.fab.cfg = 0 ∧ t.gw.sessions = [] ∧ t.gw.held = [] ∧ t.gw.runstate = .starting ∧
      t.job = Job.none ∧ t.seq = Seq.reset ∧ t.mem.tier = [] ∧ t.mem.keys = none ∧ t.mem.host = s.mem.host ∧ t.trust.wrapKey = 0 ∧
      t.power.startup = 2 ∧ t.trust.rollback = s.trust.rollback ∧ t.pins = s.pins ∧ t.pending = s.pending

/-- R328: POLICY_SET takes a signed block of a higher version and records it; a version not above the present one is
STALE_TOKEN. -/
def Sys2Proof.Claims.PolicySetNeedsAHigherVersion : Prop :=
  ∀ (s : State) (q : Req) (policy : BitVec 4096), Starts 0x14 0 q (inState s [.ready]) s → policyFormOk policy = true →
    policySigned policy s.trust.ownerKey = true →
    (policyVersion policy ≤ policyVersion s.trust.policy →
      exec (.policySet q policy) s = .next (answered q 0x14 Status.staleToken 0 [] s)) ∧
    (policyVersion s.trust.policy < policyVersion policy →
      ∃ t, exec (.policySet q policy) s = .next t ∧ t.trust = { s.trust with policy := policy } ∧
        t.log = s.log.push (s.log.stamp Code.policySet 0 []) ∧ t.gw.sessions = s.gw.sessions ∧ SameData s t ∧ SameModule s t)

/-- R303: within a provisional session every command but ENROL and CLOSE_SESSION is refused with WRONG_STATE, where its reply fits and
no LASH is pending. -/
def Sys2Proof.Claims.ProvisionalSessionsAcceptEnrolOnly : Prop :=
  ∀ (s : State) (q : Req) (op page : Nat) (own : Bool) (ses : Session), q.isSealed = true → session? s q.sid = some ses →
    (nextAccepted s).any Accepted.closed = false → ses.provisional = true → op ≠ 0x10 → op ≠ 0x06 → 64 + replyBound op page ≤ q.rcap.toNat →
    gate op page q own s = some Status.wrongState

/-! ### The log, the sideband and the counters, spec/15_recorder.md -/

/-- R353: LOG_MARK with an ordinary entry free queues one record, HOST_TIME then NOTE as given, and the reply carries the SEQUENCE
it will take; with none free it waits, and a waiting mark is queued once an entry frees. -/
def Sys2Proof.Claims.LogMarkIsNeverLost : Prop :=
  ∀ (s : State) (q : Req) (hostTime : BitVec 64) (note : BitVec 192), s.log.loss = 0 →
    (Starts 0x12 0 q true s → s.log.ordinary < 240 →
      exec (.logMark q hostTime note) s = .next { answered q 0x12 Status.ok 0
          (leBytes 8 (s.log.nextSeq.toNat + s.log.queue.length)) s with
        log := { s.log with queue := s.log.queue ++
          [s.log.stamp Code.logMark 0 (wordBytes hostTime ++ wordBytes note)] } }) ∧
    (Starts 0x12 0 q true s → 240 ≤ s.log.ordinary →
      exec (.logMark q hostTime note) s = .next { start q s with
        log := { s.log with markWait := s.log.markWait ++ [(q, hostTime, note)] } }) ∧
    (∀ rest, s.pins.aux = true → s.log.markWait = (q, hostTime, note) :: rest → s.log.ordinary < 240 →
      exec .logMarkQueued s = .next { Machine.hold (completionOf s q 0x12 Status.ok 0
          (leBytes 8 (s.log.nextSeq.toNat + s.log.queue.length))) s with
        log := { s.log with queue := s.log.queue ++
          [s.log.stamp Code.logMark 0 (wordBytes hostTime ++ wordBytes note)], markWait := rest } })

/-- R362: LOG_CLEAR with a good token removes exactly the ring records below UPTO, never a protected one, and writes CLEARED with
the range and the count, which the reply carries too. -/
def Obligations.LogClearRemovesTheRingBelowUpto : Prop :=
  ∀ (s : State) (q : Req) (token : BitVec 1536), Starts 0x13 0 q (inState s [.ready, .job]) s → tokenCheck 2 false token s = none →
    ∃ t gone range, exec (.logClear q token) s = .next t ∧
      gone = s.log.ring.filter (fun r => r.seq.toNat < (tokenArg token).toNat) ∧
      range = wordBytes ((gone.head?.map Rec.seq).getD 0) ++ wordBytes ((gone.getLast?.map Rec.seq).getD 0) ++
        leBytes 8 gone.length ∧
      t.log = ({ s.log with ring := s.log.ring.filter (fun r => (tokenArg token).toNat ≤ r.seq.toNat) } : Recorder).push
        (s.log.stamp Code.cleared 0 (range ++ leBytes 8 (tokenOwner token).toNat)) ∧
      t.log.prot = s.log.prot ∧
      t.gw.held = (start q s).gw.held ++ [completionOf s q 0x13 Status.ok 0 range] ∧ t.trust = s.trust ∧ SameData s t ∧ SameModule s t

/-- R356, R354, R355: the record at the head of the queue takes the next SEQUENCE and goes to the protected region if its code is
protected, else to the ring, over the oldest entry of a full area; SEQUENCE rises by one; a record of severity ERROR or above
asserts SMB_ALERT_N (R413). -/
def Sys2Proof.Claims.RecordWriteTakesTheNextSequence : Prop :=
  ∀ (s : State) (h : Rec) (rest : List Rec), s.pins.aux = true → s.log.queue = h :: rest →
    ∃ t r, exec .recordWrite s = .next t ∧ r = { h with seq := s.log.nextSeq } ∧ t.log.nextSeq = s.log.nextSeq + 1 ∧
      (h.isProt = true → t.log.ring = s.log.ring ∧ t.log.prot = (s.log.prot ++ [r]).drop (s.log.prot.length + 1 - 8192)) ∧
      (h.isProt = false → t.log.prot = s.log.prot ∧ t.log.ring = (s.log.ring ++ [r]).drop (s.log.ring.length + 1 - 1048576)) ∧
      (s.log.loss = 0 → s.log.protWait = [] → t.log.queue = rest) ∧
      t.pins = { s.pins with smbAlertN := if 3 ≤ r.severity.toNat then false else s.pins.smbAlertN } ∧
      (s.pair.role ≠ .primary → t.pair = s.pair ∧ t.fab = s.fab) ∧
      t.mem = s.mem ∧ t.seq = s.seq ∧ t.trust = s.trust ∧ t.gw = s.gw ∧ t.regions = s.regions

/-- R361: LOG_SELECT sets the sideband pointer, LOG_NEXT returns the next record at or above it and moves past it, and LOG_BOUNDS
returns the four numbers and releases SMB_ALERT_N (R413); a transaction with a bad PEC, or without AUX, changes nothing. -/
def Sys2Proof.Claims.SidebandReadsTheLog : Prop :=
  ∀ (s : State) (a : BitVec 8) (first : BitVec 64),
    (s.pins.aux = true → a.toNat ≤ 1 → exec (.logSelect a first true) s = .next { s with
      log := { s.log with sbArea := decide (a = 1), sbPtr := first }, gw := { s.gw with smb := some [] } }) ∧
    (s.pins.aux = true → ∀ r rest,
      (if s.log.sbArea then s.log.prot else s.log.ring).filter (fun r => s.log.sbPtr.toNat ≤ r.seq.toNat) = r :: rest →
      exec (.logNext true) s = .next { s with
        log := { s.log with sbPtr := r.seq + 1 }, gw := { s.gw with smb := some r.bytes } }) ∧
    (s.pins.aux = true → (if s.log.sbArea then s.log.prot else s.log.ring).filter (fun r => s.log.sbPtr.toNat ≤ r.seq.toNat) = [] →
      exec (.logNext true) s = .next { s with gw := { s.gw with smb := some [] } }) ∧
    (s.pins.aux = true → exec (.logBounds true) s = .next { s with
      pins := { s.pins with smbAlertN := true },
      gw := { s.gw with smb := some (wordBytes ((s.log.ring.head?.map Rec.seq).getD s.log.nextSeq) ++
        wordBytes ((s.log.prot.head?.map Rec.seq).getD s.log.nextSeq) ++ wordBytes s.log.nextSeq ++ wordBytes s.log.loss) } }) ∧
    ((s.pins.aux = false ∨ 1 < a.toNat) → exec (.logSelect a first true) s = .next s) ∧
    exec (.logSelect a first false) s = .next s ∧ exec (.logNext false) s = .next s ∧ exec (.logBounds false) s = .next s

/-- Table 16-9, Table 16-10, R413: THERMAL_READ returns its 32 bytes, COOLANT_SET takes values in range and ignores others (in STANDBY
the duty follows DUTY_MIN, R386), and the alert response answers with 0x58 + SLOT_ID. -/
def Sys2Proof.Claims.SidebandThermalCommands : Prop :=
  ∀ (s : State) (target : BitVec 16) (dutyMin reserved : BitVec 8), s.pins.aux = true →
    exec (.thermalRead true) s = .next { s with gw := { s.gw with smb := some (thermalBytes s) } } ∧
    exec .alertResponse s = .next { s with gw := { s.gw with smb := some [BitVec.ofNat 8 (0x58 + s.pins.slotId.toNat)] } } ∧
    (30 * 16 ≤ target.toNat → target.toNat ≤ 60 * 16 → 10 ≤ dutyMin.toNat → dutyMin.toNat ≤ 100 →
      exec (.coolantSet target dutyMin 0 true) s = .next { s with
        thermal := { s.thermal with
          outletTarget := target, dutyMin := dutyMin
          duty := if s.power.state = .standby then restDuty { s.thermal with dutyMin := dutyMin } else s.thermal.duty },
        gw := { s.gw with smb := some [] } }) ∧
    ((target.toNat < 30 * 16 ∨ 60 * 16 < target.toNat ∨ dutyMin.toNat < 10 ∨ 100 < dutyMin.toNat) →
      exec (.coolantSet target dutyMin reserved true) s = .next s) ∧
    exec (.thermalRead false) s = .next s ∧ exec (.coolantSet target dutyMin reserved false) s = .next s

/-- R352: OP_SECONDS counts seconds while AUX is good, and the copy to secure flash holds both counters. -/
def Sys2Proof.Claims.OperatingCounters : Prop :=
  ∀ s : State, s.pins.aux = true →
    exec .operatingSecond s = .next { s with log := { s.log with opSeconds := s.log.opSeconds + 1 } } ∧
    exec .counterCopy s = .next { s with log := { s.log with flashOp := s.log.opSeconds, flashCycles := s.log.powerCycles } }

/-- R344: DEBUG_OPEN with a good token opens debug access until its expiry, with record DEBUG_OPEN carrying EXPIRY and OWNER_FP;
DEBUG_CLOSE and the expiry end it, each with record DEBUG_CLOSE and its cause. On the primary of a pair with an active run it
waits for the step boundary. -/
def Obligations.DebugAccessOpensAndCloses : Prop :=
  ∀ (s : State) (q : Req),
    (∀ (token : BitVec 1536) (r : ActiveRun), s.pair.role = .primary → s.seq.run = some r →
      Starts 0x70 0 q ((s.trust.debug).isNone && s.trust.debugWait.isNone && policyDebug s.trust.policy) s →
      tokenCheck 3 true token s = none →
      ∃ t, exec (.debugOpen q token) s = .next t ∧
        t.trust = { s.trust with debugWait := some (tokenExpiry token, q.sid, tokenOwner token, some q) } ∧ t.log = s.log ∧
        t.gw.held = (start q s).gw.held ∧ SameData s t) ∧
    (s.pair.role = .solo →
    (∀ token : BitVec 1536,
      Starts 0x70 0 q ((s.trust.debug).isNone && s.trust.debugWait.isNone && policyDebug s.trust.policy) s →
      tokenCheck 3 false token s = none →
      ∃ t, exec (.debugOpen q token) s = .next t ∧
        t.trust = { s.trust with debug := some (tokenExpiry token, q.sid), debugWait := none } ∧
        t.log = s.log.push (s.log.stamp Code.debugOpen 0 (wordBytes (tokenExpiry token) ++ wordBytes (tokenOwner token))) ∧
        t.gw.sessions = s.gw.sessions ∧ SameData s t ∧ SameModule s t) ∧
    (Starts 0x71 0 q (s.trust.debug).isSome s →
      ∃ t, exec (.debugClose q) s = .next t ∧ t.trust = { s.trust with debug := none, debugWait := none } ∧
        t.log = s.log.push (s.log.stamp Code.debugClose 0 [0]) ∧
        t.gw.held = (start q s).gw.held ++ [completionOf s q 0x71 Status.ok 0 [0]] ∧ SameData s t ∧ SameModule s t) ∧
    (∀ e sid, s.trust.debug = some (e, sid) →
      (e.toNat * 3600 ≤ s.log.opSeconds.toNat →
        ∃ t, exec .debugExpiry s = .next t ∧ t.trust = { s.trust with debug := none, debugWait := none } ∧
          t.log = s.log.push (s.log.stamp Code.debugClose 0 [1]) ∧ t.gw.sessions = s.gw.sessions ∧
          t.gw.held = s.gw.held ∧ SameData s t ∧ SameModule s t) ∧
      (s.log.opSeconds.toNat < e.toNat * 3600 → exec .debugExpiry s = .next s)))

/-- DEBUG_READ only reads: the words of the accumulator bank or of the staging are the reply; a region scan gives each word at its place,
which is the module's own (log entry 22), and takes a draw; a region of the other half is asked of it, and the reply waits; a DEBUG_READ
of a region wakes a dozing module (spec/13_commands.md R304); an operand out of range is BAD_FIELD. -/
def Sys2Proof.Claims.DebugReadOnlyReads : Prop :=
  ∀ (s : State) (q : Req) (target r core bank : BitVec 8) (first length : BitVec 32), Starts 0x72 0 q (s.trust.debug).isSome s →
    (s.gw.runstate ≠ .running → r.toNat < 64 → core.toNat < 144 → bank.toNat ≤ 1 → length.toNat ≤ 65536 → ∀ words : List Byte,
      ((target = 0 ∧ first.toNat + length.toNat ≤ 24576 ∧ words = (List.range length.toNat).flatMap (fun k => wordBytes (accWord s
          (((physCore s r.toNat core.toNat * 2 + bank.toNat) * 48) * 512 + (first.toNat + k))))) ∨
        (target = 1 ∧ first.toNat + length.toNat ≤ 65536 ∧
          words = readMem s 1 (stagingKey (physCore s r.toNat core.toNat) (4 * first.toNat)) (4 * length.toNat)) ∨
        (target = 2 ∧ first.toNat + length.toNat ≤ 2 ^ 32 ∧ words = (List.range length.toNat).flatMap (fun k => wordBytes (
          scanWord s r.toNat (physCore s r.toNat core.toNat) (Config.freeWord s.free k) (Config.scanPlace (first.toNat + k)))))) →
      (s.power.state ≠ .doze → exec (.debugRead q target r core bank first length) s =
        .next { answered q 0x72 Status.ok 0 words s with free := s.free + 1 }) ∧
      (s.power.state = .doze → ∃ t, exec (.debugRead q target r core bank first length) s = .next t ∧ t.power.state = .run ∧
        t.gw.held = (start q s).gw.held ++ [completionOf s q 0x72 Status.ok 0 words] ∧ SameData s t)) ∧
    (inPair s = true → target.toNat ≤ 2 → 64 ≤ r.toNat → r.toNat < 128 → core.toNat < 144 → bank.toNat ≤ 1 → length.toNat ≤ 65536 →
      first.toNat + length.toNat ≤ 24576 →
      ∃ t, exec (.debugRead q target r core bank first length) s = .next t ∧ t.pair = { s.pair with wait := s.pair.wait ++ [.read q 0x72 []] } ∧
        t.gw.held = (start q s).gw.held ∧ SameData s t ∧ t.trust = s.trust ∧ t.log = s.log) ∧
    ((2 < target.toNat ∨ (if inPair s then 128 else 64) ≤ r.toNat ∨ 144 ≤ core.toNat ∨ 1 < bank.toNat ∨ 65536 < length.toNat) →
      exec (.debugRead q target r core bank first length) s = .next
        (answered q 0x72 Status.badField (fieldDetail 0x72 0) [] s))

/-- Table 13-10: READ_STATE replies with the units selected and changes nothing; of a pair's selections by region the units from 64 on are
asked of the other half, and the reply waits for them; a selection above 8 or a span past its units is
BAD_FIELD. -/
def Sys2Proof.Claims.ReadStateReturnsTheUnits : Prop :=
  ∀ (s : State) (q : Req) (sel : BitVec 8) (first count : BitVec 32), Starts 0x08 0 q (inState s [.job, .running, .halted]) s →
    (∀ n w, selection s sel.toNat = some (n, w) → first.toNat + count.toNat ≤ n →
      (sel ≠ 1 ∧ sel ≠ 7 ∨ first.toNat + count.toNat ≤ 64) →
      exec (.readState q sel first count) s = .next (answered q 0x08 Status.ok 0
        ((List.range count.toNat).flatMap (fun i => stateUnit s sel.toNat (first.toNat + i))) s)) ∧
    (∀ n w, selection s sel.toNat = some (n, w) → n < first.toNat + count.toNat →
      exec (.readState q sel first count) s = .next (answered q 0x08 Status.badField (fieldDetail 0x08 1) [] s)) ∧
    (∀ n w, selection s sel.toNat = some (n, w) → first.toNat + count.toNat ≤ n → (sel = 1 ∨ sel = 7) →
      64 < first.toNat + count.toNat →
      ∃ t, exec (.readState q sel first count) s = .next t ∧ t.pair = { s.pair with wait := s.pair.wait ++ [.read q 0x08
          ((List.range (min count.toNat (64 - first.toNat))).flatMap (fun i => stateUnit s sel.toNat (first.toNat + i)))] } ∧
        t.gw.held = (start q s).gw.held ∧ SameData s t ∧ t.trust = s.trust ∧ t.log = s.log) ∧
    (8 < sel.toNat → exec (.readState q sel first count) s = .next (answered q 0x08 Status.badField (fieldDetail 0x08 0) [] s))

/-- R208: WINDOW_REG registers a host window, or removes it for SIZE 0; a number above 255 and a base that is no multiple of 4,096
are BAD_FIELD. -/
def Obligations.WindowRegRegistersOneWindow : Prop :=
  ∀ (s : State) (q : Req) (window : BitVec 32) (base size : BitVec 64),
    Starts 0x3B 0 q (inState s [.ready, .job, .halted] && !(windowsInUse s).any (fun w => w.toNat = window.toNat)) s →
    (window.toNat ≤ 255 → 4096 ∣ base.toNat →
      ∃ ws, exec (.windowReg q window base size) s = .next
          { answered q 0x3B Status.ok 0 [] s with gw := { (answered q 0x3B Status.ok 0 [] s).gw with windows := ws } } ∧
        (∀ k, k ≠ window.toNat → sget? ws k = sget? s.gw.windows k) ∧
        (size ≠ 0 → sget? ws window.toNat = some (base, size)) ∧
        (size = 0 → sget? ws window.toNat = none)) ∧
    (255 < window.toNat → exec (.windowReg q window base size) s = .next
      (answered q 0x3B Status.badField (fieldDetail 0x3B 0) [] s)) ∧
    (window.toNat ≤ 255 → ¬ 4096 ∣ base.toNat → exec (.windowReg q window base size) s = .next
      (answered q 0x3B Status.badField (fieldDetail 0x3B 1) [] s))

/-! ### Supplies, clocks and resets, spec/16_power.md R364 to R374, spec/17_modes_repair.md R392 to R397 -/

/-- R365: the island boots at AUX good: SLOT_ID is sampled, POWER_CYCLES counts, the COOLANT_SET fields return to their reset
values and memories, timetable and regions are as they were. Where the island's state fails its check, sensor 7 trips: the binding
is gone, an ENROLLED module is ERASED and TAMPER_COUNT counts (R346). -/
def Sys2Proof.Claims.AuxGoodBootsTheIsland : Prop :=
  ∀ (s : State) (ok : Bool) (cell : BitVec 16) (slotId : BitVec 3) (owner : Bool), s.pins.aux = false →
    ∃ t, exec (.auxGood ok cell slotId owner) s = .next t ∧
      t.pins = { s.pins with aux := true, slotId := slotId, ownerPresentN := owner, thermTripN := true } ∧
      t.power.startup = 1 ∧ t.power.railFaults = 0 ∧
      (t.power.lockout = .none ↔ (s.power.lockout = .none ∨ s.power.lockout = .untilAux)) ∧
      (t.power.lockout ≠ .none → t.power.lockout = .untilDeassert) ∧
      t.thermal.outletTarget = 0x370 ∧ t.thermal.dutyMin = 25 ∧ t.trust.cellMv = cell ∧
      (t.trust.cellLow = true ↔ cell.toNat < 2600) ∧
      (ok = true → t.log.powerCycles = s.log.powerCycles + 1 ∧ t.log.opSeconds = s.log.opSeconds ∧ t.mem = s.mem ∧ t.seq = s.seq ∧
        t.regions = s.regions ∧ t.trust.ownerKey = s.trust.ownerKey ∧ t.gw.sessions = s.gw.sessions) ∧
      (ok = false → t.log.powerCycles = s.log.flashCycles + 1 ∧ t.trust.ownerKey = 0 ∧ t.trust.domain = 0 ∧ t.trust.policy = 0 ∧
        t.trust.tamperCount = s.trust.tamperCount + 1 ∧ t.trust.tamperLatch = 0 ∧
        (s.trust.lifecycle = .enrolled → t.trust.lifecycle = .erased) ∧
        (s.trust.lifecycle ≠ .enrolled → t.trust.lifecycle = s.trust.lifecycle))

/-- R371: when AUX is lost the module is in STANDBY with its volatile contents gone, after the emergency sequence and with its lockout of
R370 where MAIN was up; committed records and the binding are kept. -/
def Sys2Proof.Claims.AuxLostKeepsOnlyTheIsland : Prop :=
  ∀ s : State, s.pins.aux = true →
    ∃ t, exec .auxLost s = .next t ∧ t.pins = { s.pins with aux := false, thermTripN := true, smbAlertN := true } ∧
      t.power.state = .standby ∧ t.power.rails = false ∧ t.power.startup = 0 ∧
      (s.power.rails = true → t.power.lockout = lockDeassert s.power.lockout) ∧
      (s.power.rails = false → t.power.lockout = s.power.lockout) ∧
      t.power.auxOrder = (s.power.auxOrder || s.power.rails) ∧ t.mem.tier = [] ∧ t.mem.staging = [] ∧ t.mem.slice = [] ∧
      t.mem.keys = none ∧ t.mem.host = s.mem.host ∧ t.seq = Seq.reset ∧ t.job = Job.none ∧ t.gw.sessions = [] ∧
      t.log.ring = s.log.ring ∧ t.log.prot = s.log.prot ∧ t.log.nextSeq = s.log.nextSeq ∧
      t.trust.ownerKey = s.trust.ownerKey ∧ t.trust.lifecycle = s.trust.lifecycle ∧ t.fab.cfg = s.fab.cfg

/-- R365, R368: MAIN_EN brings the rails up where AUX has been ready and no lockout holds; asserted too early it is held, and acts
when AUX is ready. R369: its deassertion takes the module to STANDBY and ends the lockout of R370 that waits for it. -/
def Obligations.MainEnBringsRailsUpAndDown : Prop :=
  ∀ s : State, s.pins.aux = true →
    (s.pins.mainEn = false → s.power.auxReady = true → s.power.lockout = .none → s.power.rails = false →
      ∃ t, exec .mainEnAssert s = .next t ∧ t.pins.mainEn = true ∧ t.power.rails = true ∧ t.power.state = .run ∧
        t.power.startup = 2 ∧ t.power.boostEn = true ∧ t.thermal.duty = 1000 ∧ t.thermal.loopOn = true ∧ t.mem = s.mem ∧
        t.seq = s.seq ∧ t.regions = s.regions ∧ t.gw.sessions = s.gw.sessions) ∧
    (s.pins.mainEn = false → s.power.auxReady = false → s.power.lockout = .none →
      exec .mainEnAssert s = .next { s with pins := { s.pins with mainEn := true }, power := { s.power with mainHold := true } }) ∧
    (s.pins.mainEn = false → s.power.lockout ≠ .none →
      exec .mainEnAssert s = .next { s with pins := { s.pins with mainEn := true } }) ∧
    (s.power.auxReady = false → s.power.mainHold = true → s.pins.mainEn = true → s.power.lockout = .none → s.power.rails = false →
      ∃ t, exec .mainHoldRelease s = .next t ∧ t.power.auxReady = true ∧ t.power.rails = true ∧ t.power.startup = 2) ∧
    (s.power.auxReady = false → s.power.mainHold = false →
      exec .mainHoldRelease s = .next { s with power := { s.power with auxReady := true } }) ∧
    (s.pins.mainEn = true → s.power.rails = true →
      ∃ t, exec .mainEnDeassert s = .next t ∧ t.pins.mainEn = false ∧ t.power.rails = false ∧ t.power.state = .standby ∧
        t.power.lockout = (if s.power.lockout = .untilAux ∨ s.power.lockout = .untilBoth then .untilAux else .none) ∧ t.mem.tier = [] ∧ t.mem.keys = none ∧
        t.seq = Seq.reset ∧ t.job = Job.none ∧ t.gw.sessions = [] ∧ t.trust.ownerKey = s.trust.ownerKey ∧ t.log = { s.log with markWait := [] })

/-- R366, R370, R374: MAIN below 36 V or above 55 V for the band's time, a rail fault and a lost link reference each run the
emergency down sequence, after which MAIN_EN is ignored until it has been deasserted, and after the third rail fault until AUX is
removed. MAIN in range changes only its reading. -/
def Sys2Proof.Claims.SupplyFaultsRunTheEmergencyDown : Prop :=
  ∀ s : State, s.pins.aux = true → s.power.rails = true →
    (∀ mv, (mv < 36000 ∨ 55000 < mv) → ∃ t, exec (.mainRange mv true) s = .next t ∧ t.power.rails = false ∧
      t.power.state = .standby ∧ t.power.lockout ≠ .none ∧ t.mem.tier = [] ∧ t.mem.keys = none ∧ t.thermal.mainMv = mv) ∧
    (∀ mv, 38000 ≤ mv → mv ≤ 50000 → ∀ lasted, exec (.mainRange mv lasted) s = .next
      { s with thermal := { s.thermal with mainMv := mv, mainBand := 0 } }) ∧
    (∀ rail phase mv, ∃ t, exec (.railFault rail phase mv) s = .next t ∧ t.power.rails = false ∧ t.power.state = .standby ∧
      t.power.railFaults = s.power.railFaults + 1 ∧ t.mem.tier = [] ∧ t.mem.keys = none ∧
      (t.power.lockout = .untilBoth ↔ (2 ≤ s.power.railFaults ∨ s.power.lockout = .untilAux ∨ s.power.lockout = .untilBoth)) ∧
      (t.power.lockout = .untilBoth ∨ t.power.lockout = .untilDeassert)) ∧
    (∃ t, exec .linkRefclkFault s = .next t ∧ t.power.rails = false ∧ t.power.state = .standby ∧ t.power.lockout ≠ .none ∧
      t.mem.tier = [] ∧ t.mem.keys = none)

/-- R374: a region whose PLL loses lock goes on the slipway with cause PLL and is tested again, with record CLOCK_FAULT; no other
region changes. -/
def Sys2Proof.Claims.PllLossFencesTheRegion : Prop :=
  ∀ (s : State) (r : Fin 64), s.regions.length = 64 → s.pair.role = .solo → s.seq.run = none → (region s r).clock = .ready →
    (region s r).inService = true →
    ∃ t, exec (.pllLossOfLock r) s = .next t ∧ (region t r).mode = .slipway .pll ∧ (region t r).retest = true ∧
      (region t r).clock = .waking ∧ (∀ k, k ≠ r.val → region t k = region s k) ∧
      t.log = (s.log.push (s.log.stamp Code.clockFault 0 (regionParam s r))).push
        (s.log.stamp Code.regionFence 0 (regionParam s r ++ fencePlace s)) ∧
      t.mem = s.mem ∧ t.seq = s.seq ∧ t.fab = s.fab ∧ t.trust = s.trust

/-- R374: without the PCI Express reference the link is down and nothing else changes; R290: it comes up again with PERST_N high. -/
def Sys2Proof.Claims.PcieLinkGoesDownAndUp : Prop :=
  ∀ s : State,
    (s.pins.pcieRef = true → exec .pcieRefclkLoss s = .next
      { s with pins := { s.pins with pcieRef := false }, gw := { s.gw with linkUp := false } }) ∧
    (s.power.rails = true → s.gw.linkUp = false → exec .pcieLinkUp s = .next
      { s with pins := { s.pins with perstN := true, pcieRef := true }, gw := { s.gw with linkUp := true } })

/-- spec/18_limits.md R411, R290: PERST_N driven low resets the endpoint's registers; with FULL_STRAP clear a warm reset is to
follow a module in service, with it set a cold reset happens, and without MAIN there is nothing else to reset. -/
def Obligations.PerstResetsByTheFullStrap : Prop :=
  ∀ s : State, s.pins.perstN = true →
    ∀ g : Gangway, g = { s.gw with linkUp := false, err := 0, enable := false, irqEn := false, sqBase := 0, sqSize := 0,
                                   sqTail := 0, sqHead := 0, cqBase := 0, cqSize := 0, cqHead := 0, cqTail := 0,
                                   phase := true, msix := [] } →
    (∀ strap, s.power.rails = false → exec (.perstNFall strap) s = .next
      { s with pins := { s.pins with perstN := false, fullStrap := strap }, gw := g }) ∧
    (s.power.rails = true → s.power.startup = 6 → exec (.perstNFall false) s = .next
      { s with pins := { s.pins with perstN := false, fullStrap := false }, gw := { g with warmPending := true, held := [] } }) ∧
    (s.power.rails = true → s.power.startup ≠ 6 → exec (.perstNFall false) s = .next
      { s with pins := { s.pins with perstN := false, fullStrap := false }, gw := { g with held := [], accepted := [], outstanding := 0 } }) ∧
    (s.power.rails = true → ∃ t, exec (.perstNFall true) s = .next t ∧ t.mem.tier = [] ∧ t.mem.keys = none ∧
      t.seq = Seq.reset ∧ t.job = Job.none ∧ t.gw.sessions = [] ∧ t.gw.held = [] ∧ t.gw.runstate = .starting ∧
      t.power.startup = 2 ∧ t.power.rails = true ∧ t.trust.ownerKey = s.trust.ownerKey ∧
      t.trust.lifecycle = s.trust.lifecycle ∧ t.log.ring = s.log.ring)

/-- spec/17_modes_repair.md Table 17-3, Warm: sessions, the run and the accumulators end; an ACTIVE slot becomes LOADED, ARMED and
LOADED slots stay, and the tiers, the job tables, the step number, the regions and the binding are kept. R319: with the link up,
ENABLE is cleared. -/
def Sys2Proof.Claims.WarmResetKeepsTiersSlotsAndJob : Prop :=
  ∀ s : State, s.gw.warmPending = true → s.power.rails = true → s.pair.role = .solo → s.gw.loadA = none → s.gw.loadB = none →
    s.gw.lowering = none → s.gw.join = none → s.gw.seals = none → s.gw.image = none → s.gw.linkUp = false →
    ∃ t, exec .warmResetEffect s = .next t ∧ t.gw.runstate = .starting ∧ t.gw.sessions = [] ∧ t.gw.warmPending = false ∧
      t.seq.run = none ∧ t.seq.slotA = (if s.seq.slotA.state = .active then { s.seq.slotA with state := .loaded } else s.seq.slotA) ∧
      t.seq.slotB = (if s.seq.slotB.state = .active then { s.seq.slotB with state := .loaded } else s.seq.slotB) ∧
      t.seq.step = s.seq.step ∧ t.seq.flags = [] ∧ t.seq.loops = [] ∧ t.seq.ledger = [] ∧ t.seq.a4 = [] ∧
      t.seq.haltCause = (if s.job.started then Status.warmReset else s.seq.haltCause) ∧
      t.mem = { s.mem with acc := [], accBad := [], era := s.mem.era + 1 } ∧ t.job.started = s.job.started ∧
      t.job.rankTable = s.job.rankTable ∧ t.job.seed = s.job.seed ∧ t.regions = s.regions ∧ t.trust.debug = none ∧
      t.trust.ownerKey = s.trust.ownerKey ∧ t.power.startup = 7

/-- Table 17-4 and R392: after a warm reset the module is HALTED if a job was started, else READY; trained memory has a key pair for each tier from
the random source (spec/09_memory.md R216), and a stack that fails leaves STARTING for good (R396). -/
def Sys2Proof.Claims.StartUpStepsEnd : Prop :=
  ∀ s : State,
    (s.power.startup = 7 → ∃ t, exec .controlRestartDone s = .next t ∧ t.power.startup = 6 ∧
      t.gw.runstate = (if s.job.started then .halted else .ready) ∧ t.seq = s.seq ∧ t.mem = s.mem ∧ t.trust = s.trust) ∧
    (s.power.startup = 2 → exec (.memoryTrained none) s = .next
      { s with mem := { s.mem with keys := some { near := (Config.random256 s.free, Config.random256 (s.free + 1)),
                                                   far := (Config.random256 (s.free + 2), Config.random256 (s.free + 3)) } },
                 power := { s.power with startup := 3 }, free := s.free + 4 }) ∧
    (s.power.startup = 2 → ∀ k : Fin 24, exec (.memoryTrained (some k)) s = .next
      { s with log := s.log.push (s.log.stamp Code.selftestFail 0 [0xFF, 0xFF, 0xFF, BitVec.ofNat 8 k.val]),
               power := { s.power with startup := 9 } })

/-- R395: self-test ends in READY; a region with a failed slice is fenced, and with no failed core every other region is in
service with its own cores. -/
def Sys2Proof.Claims.SelftestPutsRegionsInService : Prop :=
  ∀ (s : State) (cores : List (Fin 64 × Fin 144)) (spares : List (Fin 16 × Fin 24)) (slices : List (Fin 64)),
    s.power.startup = 3 → s.regions.length = 64 →
    ∃ t, exec (.selftestDone cores spares slices) s = .next t ∧ t.gw.runstate = .ready ∧ t.power.startup = 6 ∧
      t.badSpares = spares.map (fun p => p.1.val * 24 + p.2.val) ∧
      (∀ r : Fin 64, r ∈ slices → (region t r).mode = .fenced .selftest) ∧
      (cores = [] → ∀ r : Fin 64, r ∉ slices →
        (region t r).mode = .service ∧ (region t r).sliver = (region s r).sliver ∧ (region t r).clock = .ready) ∧
      t.mem = s.mem ∧ t.seq = s.seq ∧ t.trust = s.trust

/-! ### Power states and RESET, spec/13_commands.md R311, R312, spec/16_power.md R378 to R380 -/

/-- R379: SLEEP loses staging, slice SRAM and accumulators, keeps the tiers, gates every region and takes every port OFF. A POWER
command completes with the state reached (R311); R380: an idle module sleeps of itself, and
only TARGET RUN wakes it (that a DOZE request of a sleeping module stays outstanding is the model's reading, log entry 82). -/
def Obligations.SleepAndWake : Prop :=
  ∀ s : State, s.pair.role = .solo →
    (∀ (q : Req) (boost : BitVec 8), Starts 0x60 0 q (powerAccepts 2 s) s → boost.toNat ≤ 1 → s.seq.run = none →
      ∃ t, exec (.power q 2 boost) s = .next t ∧ t.power.state = .sleep ∧ t.power.boostEn = decide (boost = 1) ∧
        t.gw.held = (start q s).gw.held ++ [completionOf s q 0x60 Status.ok 0 [1]] ∧ t.mem.tier = s.mem.tier ∧ t.mem.staging = [] ∧
        t.mem.slice = [] ∧ t.mem.acc = [] ∧ (∀ g ∈ t.regions, g.clock = .gated) ∧
        (∀ p ∈ t.fab.ports, p.state = .off ∨ p.state = .fenced) ∧ t.seq = s.seq ∧ t.job = s.job ∧ t.trust = s.trust) ∧
    (∀ (q : Req) (boost : BitVec 8) (r : ActiveRun), Starts 0x60 0 q (powerAccepts 2 s) s → boost.toNat ≤ 1 →
      s.seq.run = some r → r.asleep = false →
      ∃ t, exec (.power q 2 boost) s = .next t ∧ t.power = { s.power with boostEn := decide (boost = 1), sleepReq := true } ∧
        t.gw.powerCmd = some (q, 2) ∧ t.gw.held = (start q s).gw.held ∧ t.mem = s.mem ∧ t.seq = s.seq) ∧
    (∀ (q : Req) (boost : BitVec 8), Starts 0x60 0 q (powerAccepts 1 s) s → boost.toNat ≤ 1 → retesting s = false →
      s.power.state ≠ .sleep → ∃ t, exec (.power q 1 boost) s = .next t ∧ t.power.state = .doze ∧ (∀ g ∈ t.regions, g.clock = .gated) ∧
        t.gw.held = (start q s).gw.held ++ [completionOf s q 0x60 Status.ok 0 [2]] ∧ t.mem = s.mem ∧ t.seq = s.seq) ∧
    (∀ (q : Req) (boost : BitVec 8), Starts 0x60 0 q (powerAccepts 0 s) s → boost.toNat ≤ 1 → s.power.state = .doze →
      ∃ t, exec (.power q 0 boost) s = .next t ∧ t.power.state = .run ∧ t.power.boostEn = decide (boost = 1) ∧
        t.gw.held = (start q s).gw.held ++ [completionOf s q 0x60 Status.ok 0 [3]] ∧ SameData s t) ∧
    (∀ (q : Req) (boost : BitVec 8), Starts 0x60 0 q (powerAccepts 0 s) s → boost.toNat ≤ 1 → s.power.state = .sleep →
      ∃ t, exec (.power q 0 boost) s = .next t ∧ t.power.wakeReq = true ∧ t.power.state = .sleep ∧
        t.gw.powerCmd = some (q, 0) ∧ t.gw.held = (start q s).gw.held ∧ SameData s t) ∧
    (∀ (q : Req) (boost : BitVec 8), Starts 0x60 0 q (powerAccepts 1 s) s → boost.toNat ≤ 1 → s.power.state = .sleep →
      ∃ t, exec (.power q 1 boost) s = .next t ∧ t.power.state = .sleep ∧ t.gw.powerCmd = some (q, 1) ∧ t.gw.held = (start q s).gw.held ∧
        SameData s t) ∧
    (s.gw.runstate = .ready → (s.power.state = .doze ∨ s.power.state = .run) → s.gw.seals = none → s.gw.powerCmd = none →
      ∃ t, exec .idleSleep s = .next t ∧ t.power.state = .sleep ∧ t.mem.tier = s.mem.tier ∧ t.mem.staging = [] ∧
        (∀ g ∈ t.regions, g.clock = .gated) ∧ t.seq = s.seq ∧ t.gw.held = s.gw.held) ∧
    (s.power.state = .sleep → s.power.wakeReq = true →
      ∃ t, exec .sleepWakeDone s = .next t ∧ t.power.state = .run ∧ t.power.wakeReq = false ∧
        t.seq.run = s.seq.run.map (fun r => { r with asleep := false }) ∧ t.gw.powerCmd = none ∧ t.mem = s.mem)

/-- R312: RESET with KIND WARM is completed and then followed by the warm reset; KIND REGION loses that region's contents and
puts it on the slipway for its self-test; a KIND above 1 is BAD_FIELD. -/
def Sys2Proof.Claims.ResetWarmOrOneRegion : Prop :=
  ∀ (s : State) (q : Req), s.pair.role = .solo →
    (Starts 0x61 0 q (resetAccepts 0 0 s) s → exec (.reset q 0 0) s = .next
      { answered q 0x61 Status.ok 0 [] s with gw := { (answered q 0x61 Status.ok 0 [] s).gw with warmPending := true } }) ∧
    (∀ r : BitVec 8, r.toNat < 64 → s.regions.length = 64 → Starts 0x61 0 q (resetAccepts 1 r.toNat s) s →
      ∃ t, exec (.reset q 1 r) s = .next t ∧ (region t r.toNat).mode = .slipway .regionReset ∧ (region t r.toNat).retest = true ∧
        (∀ k, k ≠ r.toNat → region t k = region s k) ∧ (∀ c ∈ t.mem.slice, c.1 / 2 ^ 22 ≠ r.toNat) ∧
        t.mem.tier = s.mem.tier ∧ t.mem.host = s.mem.host ∧ t.seq = s.seq ∧ t.trust = s.trust ∧
        t.gw.held = (start q s).gw.held ++ [completionOf s q 0x61 Status.ok 0 []]) ∧
    (∀ k r : BitVec 8, 1 < k.toNat → Starts 0x61 0 q (resetAccepts k.toNat r.toNat s) s →
      exec (.reset q k r) s = .next (answered q 0x61 Status.badField (fieldDetail 0x61 0) [] s))

/-! ### Temperature, power cap, credit and coolant, spec/16_power.md R376 to R387 -/

/-- R384: a sample sets the regions' temperatures and TJ_MAX; at 115 °C the trip gates every region, asserts THERM_TRIP_N, forces the
duty to 100 % and writes THERMAL_TRIP; at 125 °C with the trip in force the emergency down sequence runs; from 105 °C every clocked
region is held at 300 MHz at most, until below 100 °C. -/
def Sys2Proof.Claims.TemperatureLimits : Prop :=
  ∀ (s : State) (regions : List Int) (others : Int), s.power.rails = true → regions.length = 64 → s.regions.length = 64 →
    ∃ t, exec (.temperatureSample regions others) s = .next t ∧
      (regions.foldl max others < 2000 ∨ s.thermal.tripped = false →
        t.thermal.tj = regions.foldl max others ∧ ∀ r, r < 64 → (region t r).temp = nth regions r 0) ∧
      (s.thermal.tripped = true → 2000 ≤ regions.foldl max others → t.power.rails = false ∧ t.power.state = .standby) ∧
      (s.thermal.tripped = false → 1840 ≤ regions.foldl max others → t.thermal.tripped = true ∧ t.thermal.duty = 1000 ∧
        t.pins.thermTripN = false ∧ t.pins.smbAlertN = false ∧ (∀ g ∈ t.regions, g.clock = .gated)) ∧
      (s.thermal.tripped = false → 1680 ≤ regions.foldl max others → regions.foldl max others < 1840 → t.thermal.hot = true) ∧
      (s.thermal.tripped = false → regions.foldl max others < 1600 → t.thermal.hot = false ∧ t.thermal.tripped = false)

/-- R381, R366: the cap is 1,900 W with credit granted, else 1,500 W, and less where MAIN is low; above it no clocked region speeds
up, between 95 % of it and it no clock changes, and the memories and the timetable are as before. -/
def Sys2Proof.Claims.PowerCapStepsClocks : Prop :=
  ∀ (s : State) (watts : Nat), s.power.rails = true → s.power.state = .run → boostNow s = false →
    ∃ t, exec (.powerCapTick watts) s = .next t ∧ t.thermal.inputW = watts ∧
      t.thermal.capW = (let c := if creditGranted s then 1900 else 1500
        if s.thermal.mainMv ≠ 0 ∧ s.thermal.mainMv < 38000 then min c (50 * s.thermal.mainMv / 1000) else c) ∧
      (t.thermal.capW < watts → ∀ r, (region t r).clkStep ≤ (region s r).clkStep) ∧
      (watts ≤ t.thermal.capW → t.thermal.capW * 95 < watts * 100 → t.regions = s.regions) ∧
      t.power = s.power ∧ t.mem = s.mem ∧ t.seq = s.seq ∧ t.gw = s.gw

/-- R382, R383: credit is granted when it is at least 2 s or unlimited, and withdrawn when it is under 0.5 s. -/
def Sys2Proof.Claims.ThermalCreditHysteresis : Prop :=
  ∀ (s : State) (watts : Nat), s.power.rails = true →
    ∃ t, exec (.thermalCreditUpdate watts) s = .next t ∧ t.thermal.inputW = watts ∧
      (t.thermal.creditMs = none → t.thermal.granted = true) ∧
      (∀ ms, t.thermal.creditMs = some ms → 2000 ≤ ms → t.thermal.granted = true) ∧
      (∀ ms, t.thermal.creditMs = some ms → ms < 500 → t.thermal.granted = false) ∧
      (∀ ms, t.thermal.creditMs = some ms → 500 ≤ ms → ms < 2000 → t.thermal.granted = s.thermal.granted) ∧
      t.mem = s.mem ∧ t.seq = s.seq ∧ t.trust = s.trust ∧ t.thermal.duty = s.thermal.duty

/-- R386: while a condition forces it the duty is 100 %; else it is from DUTY_MIN to 100 %, and an outlet warmer than the target by
more than the loop can hold gives 100 %. -/
def Sys2Proof.Claims.ValveDutyStaysInRange : Prop :=
  ∀ s : State, s.thermal.loopOn = true → s.power.state ≠ .standby →
    (dutyForced s = true → exec .valveLoopTick s = .next { s with thermal := { s.thermal with duty := 1000 } }) ∧
    (dutyForced s = false → s.thermal.dutyMin.toNat ≤ 100 →
      ∃ d i, exec .valveLoopTick s = .next { s with thermal := { s.thermal with duty := d, integ := i } } ∧
        s.thermal.dutyMin.toNat * 10 ≤ d ∧ d ≤ 1000 ∧
        (∀ e : Int, e = s.thermal.outlet - s.thermal.outletTarget.toNat → 32000 < 81 * e + s.thermal.integ → d = 1000))

/-- R385, R387: the flow is 100 mL/min for each pulse of the last second; a coolant test takes the readings, and with a failed
sensor, or one outside −20 to 120 °C, the duty is 100 % and credit is withheld. -/
def Sys2Proof.Claims.CoolantReadings : Prop :=
  ∀ s : State, s.pins.aux = true →
    (∀ edges, exec (.flowUpdate edges) s = .next { s with thermal := { s.thermal with
      tach := (edges :: s.thermal.tach).take 20, flow := 100 * (((edges :: s.thermal.tach).take 20).take 10).sum } }) ∧
    (∀ reading : CoolantReading, ∃ t, exec (.coolantConditionTest reading) s = .next t ∧ t.thermal.inlet = reading.inlet ∧
      t.thermal.outlet = reading.outlet ∧ (reading.sensorBad = true ∨ reading.inlet < -320 ∨ 1920 < reading.inlet ∨ reading.outlet < -320 ∨
        1920 < reading.outlet → t.thermal.duty = 1000 ∧ creditGranted t = false) ∧
      t.mem = s.mem ∧ t.seq = s.seq ∧ t.trust = s.trust)

/-! ### Tamper, cell and owner presence, spec/14_trust.md R345 to R347 -/

/-- R346: a trip erases the binding, the memory keys and every volatile thing; with AUX good an ENROLLED module is ERASED, the trip is
recorded and counted, and without AUX its sensor bits stay latched. Every outstanding SEALED command completes with
SESSION_CLOSED in the clear (log entry 76: the rings stay). Log entry 25: sensors that return report 0. -/
def Sys2Proof.Claims.TamperErasesEverything : Prop :=
  ∀ (s : State) (sensors : BitVec 8),
    (sensors ≠ 0 → ∃ t, exec (.tamperTrip sensors) s = .next t ∧ t.trust.ownerKey = 0 ∧ t.trust.domain = 0 ∧ t.trust.policy = 0 ∧
      t.fab.cfg = 0 ∧ t.pair.record = PairRecord.zero ∧ t.mem.keys = none ∧ t.mem.tier = [] ∧ t.gw.sessions = [] ∧
      t.job = Job.none ∧ t.seq = Seq.reset ∧ t.trust.debug = none ∧ t.trust.tamperNow = sensors ∧
      (s.pins.aux = true → t.trust.tamperCount = s.trust.tamperCount + 1 ∧ t.trust.tamperLatch = 0 ∧
        t.trust.lifecycle = (if s.trust.lifecycle = .enrolled then .erased else s.trust.lifecycle)) ∧
      (s.pins.aux = false → t.trust.tamperLatch = s.trust.tamperLatch ||| sensors ∧
        t.trust.tamperCount = s.trust.tamperCount ∧ t.trust.lifecycle = s.trust.lifecycle) ∧
      t.log.ring = s.log.ring ∧ t.log.prot = s.log.prot ∧
      (∀ q ∈ running s, q.isSealed = true → ∃ c ∈ t.gw.held, c.tag = q.tag ∧ c.status = Status.sessionClosed ∧ c.reply = [])) ∧
    exec (.tamperTrip 0) s = .next { s with trust := { s.trust with tamperNow := 0 } }

/-- R347: below 2.6 V CELL_LOW is set, with one record for each crossing. -/
def Sys2Proof.Claims.CellLowOncePerCrossing : Prop :=
  ∀ (s : State) (mv : BitVec 16), s.pins.aux = true →
    ∃ t, exec (.cellLow mv) s = .next t ∧ t.trust.cellMv = mv ∧ (t.trust.cellLow = true ↔ mv.toNat < 2600) ∧
      (mv.toNat < 2600 → s.trust.cellLow = false → t.log = s.log.push (s.log.stamp Code.cellLow 0 [])) ∧
      ((2600 ≤ mv.toNat ∨ s.trust.cellLow = true) → t.log = s.log) ∧ SameData s t ∧ SameModule s t

/-- R303: when OWNER_PRESENT_N rises every provisional session closes, and no other does. -/
def Sys2Proof.Claims.OwnerPresentRiseClosesProvisional : Prop :=
  ∀ s : State, s.pins.ownerPresentN = false → s.gw.sessions.Pairwise (fun a b => a.sid ≠ b.sid) →
    ∃ t, exec .ownerPresentRise s = .next t ∧ t.pins = { s.pins with ownerPresentN := true } ∧
      t.gw.sessions = s.gw.sessions.filter (fun x => !x.provisional) ∧ t.mem = s.mem ∧ t.seq = s.seq ∧ t.fab = s.fab ∧
      t.power = s.power

/-! ### Fabric and lash ports, spec/10_fabric.md R222 to R241 -/

/-- R229 to R231, Table 10-5: training, hello, evidence, key agreement, confirmation and resume of a port follow one another, each
changing that port alone; resume makes it ACTIVE, keeps the messages that the peer does not have and writes LINK_UP. A step that is
not the next one changes nothing. spec/14_trust.md R326, R327: this end's evidence is made over the hello messages, its ephemeral key
and each signature take a draw (log entry 11), the keys come from the transcript, and the confirmation must open under them. -/
def Sys2Proof.Claims.LinkBringUpRunsItsSteps : Prop :=
  ∀ (s : State) (p : Fin 7) (q : Port) (msg : List Byte), q = port s p.val → p.val < s.fab.ports.length → p.val ≠ 6 → s.gw.links = [] →
    (q.hs = .train → exec (.linkTrainComplete p true true) s =
      .next (onPort p.val (fun x => sendCtl (helloText s p.val) { x with lanes := 0, hs := .hello, transcript := [] }) s)) ∧
    (∀ fabricId node peerPort, q.hs = .hello → fabricId = s.fab.cfg.extractLsb' 64 64 → node = neighbour s.fab.cfg (myNode s) p.val →
      peerPort.toNat = (p.val + 3) % 6 → ∀ e : List Byte, e = evidenceBody s (helloNonce (helloText s p.val) msg) →
      ∃ t, exec (.linkHello p fabricId node peerPort msg) s = .next t ∧ (port t p.val).hs = .evidence ∧
        (port t p.val).transcript = q.transcript ++ [(helloText s p.val, msg)] ∧
        (port t p.val).sentStep = e ++ wordBytes (ecdsaSign s.identity.priv (Config.random384 s.free) e) ++ s.identity.certificates ∧
        t = { onPort p.val (fun _ => port t p.val) s with free := s.free + 1 }) ∧
    (∀ fabricId node peerPort, q.hs = .hello → (fabricId ≠ s.fab.cfg.extractLsb' 64 64 ∨ node ≠ neighbour s.fab.cfg (myNode s) p.val ∨
      peerPort.toNat ≠ (p.val + 3) % 6) → q.fails < 2 → q.state = .off →
      ∃ t, exec (.linkHello p fabricId node peerPort msg) s = .next t ∧ (port t p.val).state = .off ∧ (port t p.val).fails = q.fails + 1 ∧
        t.log = s.log.push (s.log.stamp Code.topologyMismatch 0 [BitVec.ofNat 8 p.val]) ∧
        t = { onPort p.val (fun _ => port t p.val) s with log := t.log }) ∧
    (∀ (e : PeerEvidence) (own peer : List Byte), q.hs = .evidence → q.transcript = [(own, peer)] → e.nonce = helloNonce peer own →
      e.certOk = true → e.sigOk = true → e.enrolled = true → e.ownerFp = ownerFp s →
      policyAccepts s.trust.policy e.version e.imageDigest = true →
      ∃ t, exec (.linkEvidence p e msg) s = .next t ∧ (port t p.val).hs = .agree ∧ (port t p.val).candidate = some e.identityFp ∧
        (port t p.val).transcript = [(own, peer), (q.sentStep, msg)] ∧ (port t p.val).ephemeral = Config.random384 s.free ∧
        t = { onPort p.val (fun _ => port t p.val) s with free := s.free + 2 }) ∧
    (∀ (e : PeerEvidence) (own peer : List Byte), q.hs = .evidence → q.transcript = [(own, peer)] → e.nonce ≠ helloNonce peer own →
      q.fails < 2 → q.state = .off →
      ∃ t, exec (.linkEvidence p e msg) s = .next t ∧ (port t p.val).fails = q.fails + 1 ∧
        t.log = s.log.push (s.log.stamp Code.linkAuthFail 0 [BitVec.ofNat 8 p.val])) ∧
    (∀ peerKey, q.hs = .agree → P384.onCurve peerKey = true →
      ∃ t, exec (.linkAgree p true peerKey msg) s = .next t ∧ (port t p.val).hs = .confirm ∧
        (port t p.val).transcript = q.transcript ++ [(q.sentStep, msg)] ∧
        ((port t p.val).txKey, (port t p.val).rxKey) = linkKeys p.val (fpLower (identityFp s) (q.candidate.getD 0))
          (ecdhX q.ephemeral peerKey) (handshakeText (fpLower (identityFp s) (q.candidate.getD 0)) (q.transcript ++ [(q.sentStep, msg)])) ∧
        t = onPort p.val (fun _ => port t p.val) s) ∧
    (∀ c, q.hs = .confirm → confirmOk s p.val c = true → exec (.linkConfirm p c) s =
      .next (onPort p.val (fun x => sendCtl (Config.resumeBytes x.rxMseq) { x with hs := .resume }) s)) ∧
    (∀ expected : BitVec 64, q.hs = .resume → (q.peer = none ∨ q.peer = q.candidate) →
      ∃ t, exec (.linkResume p expected) s = .next t ∧ (port t p.val).state = .active ∧ (port t p.val).hs = .idle ∧
        (port t p.val).peer = q.candidate ∧ (port t p.val).sent = q.sent.filter (fun o => expected.toNat ≤ o.mseq.toNat) ∧
        (port t p.val).txMseq = q.txMseq ∧ (port t p.val).rxMseq = q.rxMseq ∧ (port t p.val).queue = q.queue ∧
        (port t p.val).rxMsgs.length = q.rxMsgs.length ∧
        t.log = s.log.push (s.log.stamp Code.linkUp 0 [BitVec.ofNat 8 p.val]) ∧
        t = { onPort p.val (fun _ => port t p.val) s with log := t.log, job := { s.job with early := t.job.early } }) ∧
    (q.hs = .idle → (∀ a b c, exec (.linkHello p a b c msg) s = .next s) ∧ (∀ e, exec (.linkEvidence p e msg) s = .next s) ∧
      (∀ a b, exec (.linkAgree p a b msg) s = .next s) ∧ (∀ b, exec (.linkConfirm p b) s = .next s) ∧
      (∀ e, exec (.linkResume p e) s = .next s))

/-- R239: a handshake message whose confirmation fails takes the port OFF with LINK_AUTH_FAIL; the third failure in a row fences it,
with LINK_FENCED after it. -/
def Sys2Proof.Claims.ThreeFailedBringUpsFenceThePort : Prop :=
  ∀ (s : State) (p : Fin 7) (q : Port) (c : List Byte), q = port s p.val → p.val < s.fab.ports.length → p.val ≠ 6 → s.gw.links = [] →
    q.queue = [] → s.job.ranks = 0 → q.state = .off → q.hs = .confirm → confirmOk s p.val c = false →
    (q.fails < 2 → ∃ t, exec (.linkConfirm p c) s = .next t ∧ (port t p.val).state = .off ∧ (port t p.val).fails = q.fails + 1 ∧
      t.log = s.log.push (s.log.stamp Code.linkAuthFail 0 [BitVec.ofNat 8 p.val])) ∧
    (2 ≤ q.fails → ∃ t, exec (.linkConfirm p c) s = .next t ∧ (port t p.val).state = .fenced ∧ (port t p.val).hs = .idle ∧
      (∀ k, k ≠ p.val → port t k = port s k) ∧ t.seq = s.seq ∧ t.mem = s.mem ∧
      ∃ l, l = s.log.push (s.log.stamp Code.linkAuthFail 0 [BitVec.ofNat 8 p.val]) ∧
        t.log = l.push (l.stamp Code.linkFenced 0 [BitVec.ofNat 8 p.val]))

/-- R222 to R224, R226: a good data flit with the expected SEQ is taken, the expected SEQ advances and its payload enters the message,
which its last flit completes where it opens under the receiving key; one with another SEQ is discarded, credits and all, and asks for
the expected one once; a flit whose CRC fails is discarded and counted. A NAK marks every flit from the named SEQ on to be sent again as
it was, and each replay is counted. Nothing else of the block changes. -/
def Sys2Proof.Claims.FlitsAreTakenInOrder : Prop :=
  ∀ (s : State) (p : Fin 7) (q : Port) (f : BitVec 512) (sy : BitVec 4), q = port s p.val → p.val < s.fab.ports.length → q.state = .active →
    q.dozeIn = false → q.unacked = [] →
    ((crc32c ((wordBytes f).take 60)).toNat = bits f 480 32 → bits f 0 4 = 1 → bits f 9 3 = 0 → bits f 39 1 = 0 → bits f 48 16 = 0 →
      ∀ body buf, body = (if bitAt f 7 then (wordBytes f).drop 8 |>.take 52 else q.rxBytes ++ ((wordBytes f).drop 8 |>.take 52)) →
      buf = (if bitAt f 7 then BitVec.ofNat 3 (bits f 4 2 * 2 + bits f 6 1) else q.rxBuffer) →
      (bits f 12 12 = q.rxSeq.toNat → (bitAt f 8 = false ∨ ∃ text, openHeld q buf body = some text) →
        ∃ t, exec (.flitReceive p f (some sy)) s = .next t ∧ t = onPort p.val (fun _ => port t p.val) s ∧
          (port t p.val).credits = sput q.credits (bits f 36 3) (sget q.credits (bits f 36 3) 0 + bits f 40 8) ∧
          (port t p.val).corrected = satAdd q.corrected sy.toNat ∧
          (port t p.val).rxSeq = q.rxSeq + 1 ∧ (port t p.val).nak = false ∧
          (bitAt f 8 = false → (port t p.val).rxBytes = body ∧ (port t p.val).rxMseq = q.rxMseq ∧ (port t p.val).rxMsgs = q.rxMsgs) ∧
          (bitAt f 8 = true → (port t p.val).rxBytes = [] ∧ (port t p.val).rxMseq = q.rxMseq + 1 ∧
            ∀ text, openHeld q buf body = some text → (port t p.val).rxMsgs = (if buf.toNat < 6 then
              q.rxMsgs ++ [{ buffer := buf, flits := body.length / 52, text := text }] else q.rxMsgs))) ∧
      (bits f 12 12 = q.rxSeq.toNat → bitAt f 8 = true → openHeld q buf body = none → q.tagFail = none → q.retrains = [] →
        ∃ t, exec (.flitReceive p f (some sy)) s = .next t ∧ (port t p.val).state = .off ∧ (port t p.val).rxMsgs = q.rxMsgs ∧
          t.log = s.log.push (s.log.stamp Code.linkAuthFail 0 [BitVec.ofNat 8 p.val])) ∧
      (bits f 12 12 ≠ q.rxSeq.toNat →
        ∃ t, exec (.flitReceive p f (some sy)) s = .next t ∧ t = onPort p.val (fun _ => port t p.val) s ∧
          (port t p.val).credits = q.credits ∧ (port t p.val).rxSeq = q.rxSeq ∧ (port t p.val).nak = true ∧
          (port t p.val).rxMsgs = q.rxMsgs ∧ (port t p.val).nakSent = (if q.nak then q.nakSent else q.nakSent + 1))) ∧
    ((crc32c ((wordBytes f).take 60)).toNat ≠ bits f 480 32 → exec (.flitReceive p f (some sy)) s =
      .next (sendNak p.val (onPort p.val (fun x => { x with corrected := satAdd x.corrected sy.toNat, crcFails := satAdd x.crcFails 1 }) s))) ∧
    exec (.flitReceive p f none) s = .next (sendNak p.val (onPort p.val (fun x => { x with
      uncorrectable := satAdd x.uncorrectable 1, crcFails := satAdd x.crcFails 10 }) s)) ∧
    (q.nak = true → exec (.nakRepeat p) s = .next (sendNak p.val s)) ∧
    (q.nak = false → exec (.nakRepeat p) s = .next s) ∧
    (∀ v, exec (.flitReceive p f v) { s with fab := { s.fab with ports := modifyAt s.fab.ports p.val Port.off } } =
      .next { s with fab := { s.fab with ports := modifyAt s.fab.ports p.val Port.off } })

/-- R223, R224: a NAK is answered by a replay of every flit from its SEQ on; the SEQ is the one that the NAK's flit brought, where that
has come. -/
def Sys2Proof.Claims.NakReplaysFromItsSeq : Prop :=
  ∀ (s : State) (p : Fin 7) (q : Port) (named seq : BitVec 12) (newMs : Bool) (keep : List TxFlit), q = port s p.val →
    p.val < s.fab.ports.length → q.state = .active → (newMs = true ∨ q.replaysMs < 64) → (∀ x ∈ q.unacked, x.resent < 7) →
    (q.nakSeen = some seq ∨ q.nakSeen = none ∧ named = seq) → keep = q.unacked.takeWhile (fun x => x.seq != seq) →
    exec (.nakReceive p named newMs) s = .next (onPort p.val (fun x => { x with
      unacked := keep ++ (q.unacked.drop keep.length).map (fun y => { y with resent := y.resent + 1 })
      wire := (q.unacked.drop keep.length).map TxFlit.flit, nakSeen := none
      replays := satAdd x.replays 1
      replaysMs := if newMs then 1 else x.replaysMs + 1 }) s)

/-- Table 10-8: silence of the peer retrains the port, which is OFF and comes up again, with LINK_RETRAIN; the fourth retrain within 60 s
fences it. -/
def Sys2Proof.Claims.SilenceRetrainsThePort : Prop :=
  ∀ (s : State) (p : Fin 7) (q : Port), q = port s p.val → p.val < s.fab.ports.length → q.state = .active →
    ((q.retrains.filter (fun k => s.log.opSeconds.toNat ≤ k + 60)).length < 3 →
      ∃ t, exec (.peerSilence p) s = .next t ∧ (port t p.val).state = .off ∧ (port t p.val).unacked = [] ∧ (port t p.val).sent = q.sent ∧
        (port t p.val).txMseq = q.txMseq ∧ (port t p.val).retrainCount = satAdd q.retrainCount 1 ∧
        (wanted s p.val = true → sensed s p.val = true → s.power.rails = true → s.power.state ≠ .sleep → s.trust.lifecycle = .enrolled →
          (port t p.val).hs = .train) ∧
        t.log = s.log.push (s.log.stamp Code.linkRetrain 0 [BitVec.ofNat 8 p.val]) ∧
        t = { onPort p.val (fun _ => port t p.val) s with log := t.log }) ∧
    (3 ≤ (q.retrains.filter (fun k => s.log.opSeconds.toNat ≤ k + 60)).length → p.val ≠ 6 → s.gw.links = [] → q.queue = [] →
      ∃ t, exec (.peerSilence p) s = .next t ∧ (port t p.val).state = .fenced ∧ (∀ k, k ≠ p.val → port t k = port s k) ∧ t.seq = s.seq ∧
        t.mem = s.mem ∧ t.gw = s.gw)

/-- R228, R234: the message whose turn it is leaves whole with the next MSEQ and the SEQ of its flits, spending their credits; a message
of this module that waits for credits is charged to its channel, a collective's also to the regions of its row. A message for another
node joins the queue of the next port of its route. R222: a link with nothing to send carries IDLE flits. -/
def Sys2Proof.Claims.MessagesLeaveAndPassThrough : Prop :=
  ∀ (s : State) (p : Fin 7) (q : Port), q = port s p.val → p.val < s.fab.ports.length → q.state = .active →
    (∀ (vc : Fin 4) (dt : Nat) (o : Out), headOf q vc.val = some o → nextVc q (sget s.fab.turn p.val 2) = some vc.val →
      ∃ t, exec (.messageSend p vc dt) s = .next t ∧ (port t p.val).queue = afterPart o q.queue ∧
        (port t p.val).sent = q.sent ++ [{ o with mseq := q.txMseq }] ∧ (port t p.val).txMseq = q.txMseq + 1 ∧
        (port t p.val).txSeq = q.txSeq + BitVec.ofNat 12 o.flits ∧ (port t p.val).unacked.length = q.unacked.length + o.flits ∧
        (port t p.val).credits = sput q.credits (creditKey o) (sget q.credits (creditKey o) 0 - o.flits) ∧
        (∀ k, k ≠ p.val → port t k = port s k) ∧ t.seq = s.seq ∧ t.mem = s.mem ∧ t.gw = s.gw ∧ t.log = s.log ∧ t.job = s.job) ∧
    (∀ (vc : Fin 4) (dt : Nat) (o : Out), headOf q vc.val = some o → vcReady q vc.val = false → o.maker s = myNode s →
      exec (.messageSend p vc dt) s = .next (match vc.val with
        | 0 => chargeVc 0 dt (some o) s
        | 1 => chargeModule Cause.fabricFerry dt s
        | 2 => chargeModule Cause.fabricCopy dt s
        | _ => s)) ∧
    (∀ (vc : Fin 4) (dt : Nat), headOf q vc.val = none → q.queue ≠ [] → exec (.messageSend p vc dt) s = .next s) ∧
    (∀ (vc : Fin 4) (dt : Nat), q.queue = [] → (q.dozeOut = true ∨ q.quiet = false ∨ wantsDoze s p.val = false) →
      exec (.messageSend p vc dt) s = .next (onPort p.val (fun x => driveFlit 0 [] { x with wire := [] }) s)) ∧
    (∀ (m : Msg) (h : Hop) (l : List RxMsg) (u : State), p.val ≠ 6 → Taken p.val 1 (msgHeld m) s l u → m.dst ≠ myNode s →
      nextHop s m.src m.dst (some p.val) = some h →
      exec (.messageForward p m true) s = .next (enqueue h m.dst m.vc none (.copy m) (freeMsgs p.val l u))) ∧
    (∀ dst src via, s.seq.run = none → ∃ t, exec (.noRouteMessage p dst src via) s = .next t ∧
      t.log = s.log.push (s.log.stamp Code.noRoute 0 (leBytes 2 dst.toNat ++ leBytes 1 via.toNat)) ∧ t.seq = s.seq ∧ t.mem = s.mem ∧
      t.gw = s.gw ∧ t.job = s.job)

/-- R235, spec/11_collectives.md R245: the source of a message without a route halts with NO_ROUTE once no row is in flight. -/
def Sys2Proof.Claims.NoRouteHaltsTheRun : Prop :=
  ∀ (s : State) (p : Fin 7) (dst src : BitVec 14) (via : BitVec 8) (r : ActiveRun), (port s p.val).state = .active →
    s.seq.run = some r → r.halting = none → s.seq.flight = [] → s.power.sleepReq = false → s.trust.debugWait = none → s.gw.image = none →
    ∃ t, exec (.noRouteMessage p dst src via) s = .next t ∧ t.gw.runstate = .halted ∧ t.seq.run = none ∧ t.seq.haltCause = Status.noRoute ∧
      t.seq.haltSlot = r.slot ∧ (slotOf t r.slot).state = .loaded ∧ t.mem.tier = s.mem.tier ∧ t.mem.staging = s.mem.staging ∧
      t.mem.slice = s.mem.slice ∧ t.mem.host = s.mem.host ∧ t.mem.acc = []

/-- R204, R241, spec/09_memory.md R204: a WRITE that names bytes of this half writes them and is answered by WRITE_DONE; a READ is
answered by READ_DATA with the bytes it names and writes nothing; a write is complete with its last WRITE_DONE. A message whose tag
fails is not taken and the port leaves ACTIVE (R227). Log entry 18 gives the message fields. -/
def Obligations.CopyMessagesReadAndWrite : Prop :=
  ∀ (s : State) (p : Fin 7), (port s p.val).state = .active → s.fab.ports.length = 7 →
    (∀ (m : Msg) (pl : Nat × Nat) (h : Hop) (l : List RxMsg) (u : State), Taken p.val 1 (msgHeld m) s l u → crosses s p.val m = false → messagePlace s p.val m.addr.toNat m.payload.length = some pl →
      p.val ≠ 6 → nextHop s (myNode s) m.src none = some h →
      ∃ t o, exec (.writeMsg p m true) s = .next t ∧ t.mem = (writeMem pl.1 pl.2 m.payload s).mem ∧
        (port t h.port).queue = (port s h.port).queue ++ [o] ∧ o.dst = m.src ∧ o.vc = m.vc ∧
        (∃ a, o.body = .copy a ∧ a.op = 0x02 ∧ a.txn = m.txn ∧ a.dst = m.src ∧ a.payload = []) ∧
        t.seq = s.seq ∧ t.gw = s.gw ∧ t.job = s.job ∧ t.log = s.log ∧ t.regions = s.regions ∧ t.fab.txns = s.fab.txns) ∧
    (∀ (m : Msg) (sp key : Nat) (h : Hop) (l : List RxMsg) (u : State), Taken p.val 1 (msgHeld m) s l u → crosses s p.val m = false → messagePlace s p.val m.addr.toNat m.ctx.toNat = some (sp, key) →
      p.val ≠ 6 → nextHop s (myNode s) m.src none = some h → 0 < m.ctx.toNat → (sp = 0 → TierGood s key m.ctx.toNat) → m.vc ≠ 0 →
      s.mem.stagingBad = [] → s.mem.sliceBad = [] →
      ∃ t o, exec (.readMsg p m true) s = .next t ∧ t.mem = s.mem ∧ (port t h.port).queue = (port s h.port).queue ++ [o] ∧ o.dst = m.src ∧
        (∃ a, o.body = .copy a ∧ a.op = 0x04 ∧ a.txn = m.txn ∧ a.dst = m.src ∧ a.payload = readMem s sp key m.ctx.toNat) ∧
        t.seq = s.seq ∧ t.gw = s.gw ∧ t.job = s.job ∧ t.log = s.log ∧ t.regions = s.regions) ∧
    (∀ (src : BitVec 14) (txn : BitVec 12) (t : Txn), s.fab.txns = [t] → t.txn = txn → t.isRead = false → t.lash = decide (p.val = 6) →
      (∃ l u, Taken p.val 1 (answerHeld 2 txn) s l u) →
      (1 < t.left → ∃ u, exec (.writeDone p src txn) s = .next u ∧ u.fab.txns = [{ t with left := t.left - 1 }] ∧ u.seq = s.seq ∧
        u.mem = s.mem ∧ u.gw = s.gw) ∧
      (∀ f : Flight, t.left = 1 → s.seq.flight = [f] → f.id = t.flight → f.stage = .peer →
        ∃ u, exec (.writeDone p src txn) s = .next u ∧ u.fab.txns = [] ∧ u.seq = { s.seq with flight := [{ f with stage := .done }] } ∧
          u.mem = s.mem ∧ u.gw = s.gw)) ∧
    (∀ (src : BitVec 14) (txn : BitVec 12) (l : List RxMsg) (u : State), (∀ t ∈ s.fab.txns, t.txn ≠ txn) →
      (Taken p.val 1 (answerHeld 4 txn) s l u → ∀ offset data, exec (.readData p src txn offset data) s = .next (freeMsgs p.val l u)) ∧
      (Taken p.val 1 (answerHeld 2 txn) s l u → exec (.writeDone p src txn) s = .next (freeMsgs p.val l u))) ∧
    (∀ (src : BitVec 14) (txn : BitVec 12) (t : Txn) (f : Flight) (data : List Byte), s.fab.txns = [t] → t.txn = txn → t.isRead = true →
      t.lash = decide (p.val = 6) → s.seq.flight = [f] → f.id = t.flight → f.stage = .peer → t.desc ≠ 0 → dSkind t.desc = 2 →
      dDkind t.desc = 1 → dNrun t.desc = 1 → dCfmt t.desc = 0 → inPair s = false → t.left = data.length → 0 < data.length →
      dRun t.desc = data.length → t.data = [] → t.again = [] → (∃ l v, Taken p.val 1 (answerHeld 4 txn) s l v) →
      ∃ u, exec (.readData p src txn 0 ⟨data, 0⟩) s = .next u ∧ u.fab.txns = [] ∧ u.seq = { s.seq with flight := [{ f with stage := .done }] } ∧
        u.mem = (writeMem 0 (fld (dDaddr t.desc) 0 42) data s).mem ∧ u.gw = s.gw) ∧
    (∀ (m : Msg), (port s p.val).rxMsgs = [] → (port s p.val).tagFail = none → (port s p.val).retrains = [] →
      (∃ t, exec (.writeMsg p m false) s = .next t ∧ (port t p.val).state = .off ∧ t.mem = s.mem ∧ t.seq = s.seq ∧
        t.log = s.log.push (s.log.stamp Code.linkAuthFail 0 [BitVec.ofNat 8 p.val])) ∧
      (∃ t, exec (.readMsg p m false) s = .next t ∧ (port t p.val).state = .off ∧ t.mem = s.mem ∧ t.seq = s.seq) ∧
      (∃ t, exec (.messageForward p m false) s = .next t ∧ (port t p.val).state = .off ∧ t.mem = s.mem ∧ t.seq = s.seq))

/-- R237, R238, spec/01_module.md R19, R414: a sensed cable starts the bring-up of its port; a die fault fences the die's three ports; a
sleep notice takes the port OFF, and the other half's takes an idle half of a pair into SLEEP (spec/12_lashing.md R277); a quiet port that both ends want to doze goes to DOZE, and a wake returns it to ACTIVE. -/
def Obligations.LinkStatesFollowTheirEvents : Prop :=
  ∀ s : State, s.fab.ports.length = 7 →
    (∀ (p : Fin 6) (level : Bool), bitAt s.pins.fabricSenseN p.val ≠ level →
      ∃ t, exec (.fabricSenseChange p level) s = .next t ∧ bitAt t.pins.fabricSenseN p.val = level ∧
        (∀ k : Fin 6, k ≠ p → bitAt t.pins.fabricSenseN k.val = bitAt s.pins.fabricSenseN k.val) ∧
        (level = false → (port s p.val).state = .off → (port s p.val).hs = .idle → wanted s p.val = true → s.power.rails = true →
          s.power.state ≠ .sleep → s.trust.lifecycle = .enrolled → (port t p.val).hs = .train) ∧
        (port t p.val).state = (port s p.val).state ∧ (∀ k, k ≠ p.val → port t k = port s k) ∧ t.mem = s.mem ∧ t.seq = s.seq ∧
        t.gw = s.gw ∧ t.power = s.power) ∧
    (∀ level : Bool, s.pins.lashSenseN ≠ level → ∃ t, exec (.lashSenseChange level) s = .next t ∧
      t.pins = { s.pins with lashSenseN := level } ∧ (∀ k, k < 6 → port t k = port s k) ∧ (port t 6).state = (port s 6).state ∧
      t.mem = s.mem ∧ t.seq = s.seq ∧ t.gw = s.gw) ∧
    (∀ die : Bool, s.power.rails = true → s.gw.links = [] → (∀ q ∈ s.fab.ports, q.queue = []) → (port s 6).state = .off →
      ∃ t, exec (.portDieFault die) s = .next t ∧
        (∀ k, k < 6 → (port t k).state = (if (if die then 3 ≤ k else k < 3) then .fenced else (port s k).state)) ∧
        (port t 6).dieOk = (if die then ((port s 6).dieOk.1, false) else (false, (port s 6).dieOk.2)) ∧ t.mem = s.mem ∧ t.seq = s.seq ∧
        t.gw = s.gw) ∧
    (∀ p : Fin 7, ((port s p.val).state = .active ∨ (port s p.val).state = .doze) → (port s p.val).queue = [] →
      (p.val ≠ 6 ∨ inPair s = false) → exec (.sleepNotice p) s = .next (onPort p.val (fun x => { x.off with peerAsleep := true }) s)) ∧
    (((port s 6).state = .active ∨ (port s 6).state = .doze) → inPair s = true → s.power.state ≠ .sleep → s.seq.run = none →
      ∃ t, exec (.sleepNotice 6) s = .next t ∧ t.power.state = .sleep ∧ (port t 6).state = .off ∧ t.mem.tier = s.mem.tier ∧
        (∀ g ∈ t.regions, g.clock = .gated) ∧ t.seq = s.seq ∧ t.job = s.job ∧ t.gw = s.gw) ∧
    (∀ p : Fin 7, (port s p.val).state = .active → (port s p.val).dozeOut = true →
      ((port s p.val).quiet = true → exec (.dozeRequest p) s =
        .next (onPort p.val (fun x => { x with state := .doze, dozeIn := false, dozeOut := false }) s)) ∧
      ((port s p.val).quiet = false → exec (.dozeRequest p) s = .next (onPort p.val (fun x => { x with dozeIn := true }) s))) ∧
    (∀ p : Fin 7, (port s p.val).state = .doze →
      ((port s p.val).waking = false → exec (.linkWake p) s = .next (onPort p.val (fun x => { x with waking := true }) s)) ∧
      ((port s p.val).waking = true → exec (.linkWakeDone p) s =
        .next (onPort p.val (fun x => { x with state := .active, waking := false }) s)) ∧
      ((port s p.val).waking = false → exec (.linkWakeDone p) s = .next s))

/-- R232, R233, R240, R422: FABRIC_CONFIG with legal fields replaces the configuration; LINK_CTL takes a port OFF and holds it there,
answers at once for one that is ACTIVE, and leaves a fenced one fenced; LINK_UNFENCE alone takes a port out of FENCED. A port above 5
or an action above 2 is BAD_FIELD. R316: while a LINK_CTL of a port runs, LINK_CTL and LINK_UNFENCE of that port are WRONG_STATE. -/
def Obligations.LinkCommands : Prop :=
  (∀ (s : State) (q : Req) (n action : BitVec 8), waits q s = false → s.gw.links.any (fun x => x.1 = n.toNat) = true →
    (gate 0x21 0 q true s = none → exec (.linkCtl q n action) s = .next (answered q 0x21 Status.wrongState 0 [] s)) ∧
    (gate 0x22 0 q true s = none → exec (.linkUnfence q n) s = .next (answered q 0x22 Status.wrongState 0 [] s))) ∧
  ∀ (s : State) (q : Req), s.fab.ports.length = 7 → s.gw.links = [] →
    (∀ c : BitVec 128, Starts 0x20 0 q (inState s [.ready] && (List.range 6).all (fun p => (port s p).state = .off)) s →
      (configOk c = true → ∃ t, exec (.fabricConfig q c) s = .next t ∧ t.fab.cfg = c ∧ (∀ k, k < 7 → (port t k).state = (port s k).state) ∧
        t.gw = { (start q s).gw with held := (start q s).gw.held ++ [completionOf s q 0x20 Status.ok 0 []] } ∧ SameData s t ∧ t.log = s.log) ∧
      (configOk c = false → exec (.fabricConfig q c) s = .next (answered q 0x20 Status.badField (fieldDetail 0x20 0) [] s))) ∧
    (∀ n action : BitVec 8, Starts 0x21 0 q (inState s [.ready, .job, .halted] && linkFree s n.toNat) s →
      (5 < n.toNat → exec (.linkCtl q n action) s = .next (answered q 0x21 Status.badField (fieldDetail 0x21 0) [] s)) ∧
      (n.toNat ≤ 5 → 2 < action.toNat → exec (.linkCtl q n action) s =
        .next (answered q 0x21 Status.badField (fieldDetail 0x21 1) [] s)) ∧
      (n.toNat ≤ 5 → action.toNat ≤ 2 → (port s n.toNat).state = .fenced → exec (.linkCtl q n action) s =
        .next (answered q 0x21 Status.ok 0 [3] s)) ∧
      (n.toNat ≤ 5 → action = 1 → (port s n.toNat).state = .active → exec (.linkCtl q n action) s =
        .next (answered q 0x21 Status.ok 0 [0] s)) ∧
      (n.toNat ≤ 5 → action = 0 → (port s n.toNat).state ≠ .fenced → (port s n.toNat).queue = [] →
        exec (.linkCtl q n action) s = .next (onPort n.toNat (fun x => { x.offNotice with offHold := true })
          (answered q 0x21 Status.ok 0 [2] s)))) ∧
    (∀ n : BitVec 8, Starts 0x22 0 q (inState s [.ready, .job, .halted] && linkFree s n.toNat) s →
      (n.toNat ≤ 5 → ∃ t, exec (.linkUnfence q n) s = .next t ∧ (port t n.toNat).fails = 0 ∧ (port t n.toNat).retrains = [] ∧
        (port t n.toNat).tagFail = none ∧ (port t n.toNat).state ≠ .fenced ∧
        ((port s n.toNat).state ≠ .fenced → (port t n.toNat).state = (port s n.toNat).state) ∧
        (∀ k, k ≠ n.toNat → port t k = port s k) ∧
        t.gw = { (start q s).gw with held := (start q s).gw.held ++ [completionOf s q 0x22 Status.ok 0 []] } ∧ SameData s t ∧ t.log = s.log) ∧
      (5 < n.toNat → exec (.linkUnfence q n) s = .next (answered q 0x22 Status.badField (fieldDetail 0x22 0) [] s)))

/-! ### Data rows, spec/07_timetable.md R160 to R167 -/

/-- The effect of each data row command, and the rows it is for. -/
def Sys2Proof.Claims.dataRow : Instr → Option ((Row → Bool) × (RowCtx → State → State))
  | .pass _ => some (fun w => rowKind w = 1, passEffect)
  | .vectorCombine _ => some (fun w => rowKind w = 2 && vOp w = 0, vectorEffect)
  | .merge _ => some (fun w => rowKind w = 2 && vOp w = 1, vectorEffect)
  | .norm _ => some (fun w => rowKind w = 2 && vOp w = 2, vectorEffect)
  | .route _ => some (fun w => rowKind w = 2 && vOp w = 3, vectorEffect)
  | .opt _ => some (fun w => rowKind w = 2 && vOp w = 4, vectorEffect)
  | .sgrad _ => some (fun w => rowKind w = 2 && vOp w = 5, vectorEffect)
  | .rebuild _ => some (fun w => rowKind w = 2 && vOp w = 6, vectorEffect)
  | .quant _ => some (fun w => rowKind w = 3, quantEffect)
  | .copy _ => some (fun w => rowKind w = 4, copyEffect)
  | .reduceScatter _ => some (fun w => rowKind w = 5 && cCop w = 0, collectEffect)
  | .allGather _ => some (fun w => rowKind w = 5 && cCop w = 1, collectEffect)
  | .allReduce _ => some (fun w => rowKind w = 5 && cCop w = 2, collectEffect)
  | .broadcast _ => some (fun w => rowKind w = 5 && cCop w = 3, collectEffect)
  | .reshardRound _ => some (fun w => rowKind w = 5 && cCop w = 4, reshardEffect)
  | .dispatch _ => some (fun w => rowKind w = 6 && fFop w = 0, dispatchEffect)
  | .ferryReturn _ => some (fun w => rowKind w = 6 && fFop w = 1, returnEffect)
  | .ferryCombine _ => some (fun w => rowKind w = 6 && fFop w = 2, combineEffect)
  | _ => none

/-- R160, R161: a data row whose regions are clocked and whose bytes no earlier row touches issues at once: it takes its place in
path order, issue goes on at the row after it, and its effect is the one of its kind and operation; the command of another kind of
row does nothing. -/
def Sys2Proof.Claims.DataRowIssuesInPathOrder : Prop :=
  ∀ (s : State) (r : ActiveRun) (w : Row) (c : Instr) (is : Row → Bool) (eff : RowCtx → State → State),
    AtRow s r w → Claims.dataRow c = some (is, eff) →
    (is w = true → isData w = true → Unblocked s w → exec c s = .next (settled s (eff (issuing r w s) (pastIssue r s)))) ∧
    (is w = false → exec c s = .next s)

/-- R161, R183: a data row with a region that is not clocked is held, and issue goes on at the row after it; nothing else changes. -/
def Sys2Proof.Claims.DataRowWaitsForItsRegions : Prop :=
  ∀ (s : State) (r : ActiveRun) (w : Row) (c : Instr) (is : Row → Bool) (eff : RowCtx → State → State),
    AtRow s r w → Claims.dataRow c = some (is, eff) → is w = true → isData w = true → executes s w = true → s.trust.sealing = false →
    (∃ k ∈ setList (rowRset w), (region s k).clock ≠ .ready) →
    exec c s = .next { pastIssue r s with seq := { (pastIssue r s).seq with held :=
      [{ id := s.seq.nextId, row := r.next, bits := w, issue := sget s.seq.issues r.next 0, cause := Cause.regionWake }] } }

/-- R160: with 64 rows in flight no row issues; the row waits at its place. -/
def Sys2Proof.Claims.SixtyFourRowsInFlight : Prop :=
  ∀ (s : State) (r : ActiveRun) (c : Instr) (is : Row → Bool) (eff : RowCtx → State → State),
    activeNow s = some r → s.seq.held = [] → r.next < (slotOf s r.slot).rows.length → 64 ≤ s.seq.flight.length →
    Claims.dataRow c = some (is, eff) → is (rowAt s r.slot r.next) = true → isData (rowAt s r.slot r.next) = true →
    ∃ t, exec c s = .next t ∧ t.seq.run = some { r with waitCause := some Cause.issueDepth } ∧ t.seq.flight = s.seq.flight ∧
      t.mem = s.mem ∧ t.gw = s.gw ∧ t.job = s.job ∧ t.fab = s.fab ∧ t.regions = s.regions

/-- R165, R139: a QUANT or VECTOR row writes in each of its regions what the quantiser or the vector engine gives, and nothing else
of memory: the tiers, the accumulators and the host are as before. The row is then in flight with the flags of its regions. -/
def Sys2Proof.Claims.SliceRowsWriteOnlyLocalMemory : Prop :=
  ∀ (s : State) (c : RowCtx) (run : ActiveRun), s.mem.stagingBad = [] → s.mem.sliceBad = [] → s.seq.run = some run →
    run.halting = none →
    (∀ outs, outs = (rankedRegions c.bits).map (fun p =>
        (p.1, quantRegion c.bits (!(region s p.1).inService) (readerOf s p.1 (qSrc c.bits) (qSrcBytes c.bits))
          (if qCalibrated c.bits then readerOf s p.1 (qCal c.bits)
            (scaleBytes (qNtoken c.bits) (qK c.bits / (quantOf c.bits 128).g) (quantOf c.bits 128).zp) else [])
          (drawOf s c (genOf c.bits qGen) (quantOf c.bits 128).tensor p.2))) →
      ∃ t, quantEffect c s = t ∧ t.mem = (outs.foldl (fun s p => writeRegion p.1 p.2.writes s) s).mem ∧
        t.seq.flight = s.seq.flight ++ [inFlight c .done (outs.foldl (fun f p => f ||| p.2.tally.flags) 0)
          (watchOf c.bits (outs.map (fun p => p.2.tally)))] ∧
        t.mem.tier = s.mem.tier ∧ t.mem.acc = s.mem.acc ∧ t.mem.host = s.mem.host ∧ t.gw = s.gw ∧ t.job = s.job ∧ t.fab = s.fab ∧
        t.regions = s.regions ∧ t.log = s.log) ∧
    ((∀ r ∈ setList (rowRset c.bits), (anchorsOf c.bits (readerOf s r)).isSome = true) →
      (vectorEffect c s).mem.tier = s.mem.tier ∧ (vectorEffect c s).mem.acc = s.mem.acc ∧
      (vectorEffect c s).mem.host = s.mem.host ∧ (vectorEffect c s).seq.flight.length = s.seq.flight.length + 1 ∧
      (vectorEffect c s).gw = s.gw ∧ (vectorEffect c s).job = s.job ∧ (vectorEffect c s).fab = s.fab ∧
      (vectorEffect c s).regions = s.regions ∧ (vectorEffect c s).log = s.log)

/-- R105 to R120, R98, R99: a PASS row that no parity fault meets writes accumulator words and table memory and nothing else of memory; with END it is in flight
until its tiles have drained, else it is done. -/
def Sys2Proof.Claims.PassWritesOnlyAccumulators : Prop :=
  ∀ (s : State) (c : RowCtx) (run : ActiveRun), s.mem.stagingBad = [] → s.mem.sliceBad = [] → s.mem.accBad = [] →
    s.seq.run = some run → run.halting = none →
    ∃ acc table flags, (passEffect c s).mem = { s.mem with acc := acc, table := table } ∧
      (passEffect c s).seq.flight = s.seq.flight ++ [inFlight c (if (accOf (accBits c.bits)).ends then .drain else .done) flags []] ∧
      (passEffect c s).gw = s.gw ∧ (passEffect c s).job = s.job ∧ (passEffect c s).fab = s.fab ∧
      (passEffect c s).regions = s.regions ∧ (passEffect c s).log = s.log

/-- R117, R123, R128, R131: the drain of a core's first closing tile leaves each position's closed word at level 0, writes staging and
nothing else of memory, and takes the tile away; the row is done when none of its tiles is left. Without a closing tile nothing happens. -/
def Sys2Proof.Claims.TileDrainWritesStaging : Prop :=
  ∀ (s : State) (r : Fin 64) (k : Fin 144),
    (nextDrain s r.val k.val = none → exec (.tileDrain r k) s = .next s) ∧
    (∀ t id acc, nextDrain s r.val k.val = some t → t.closing = some (id, acc) → s.mem.stagingBad = [] → s.mem.accBad = [] →
      s.fab.txns = [] → sorted s.mem.acc = true → ∀ key : Nat → Nat → Nat → Nat,
      (∀ l pos n, key l pos n = accKey (physCore s r.val k.val) t.bank (t.base + l * t.nrows + pos) n) →
      ∃ u, exec (.tileDrain r k) s = .next u ∧ u.seq.tiles = s.seq.tiles.erase t ∧
        u.mem.tier = s.mem.tier ∧ u.mem.slice = s.mem.slice ∧ u.mem.host = s.mem.host ∧ u.mem.table = s.mem.table ∧
        (∀ pos n, pos < t.nrows → n < 512 → sget? u.mem.acc (key 0 pos n) =
          some (closeWord t.order t.levels (nth t.counts pos 0) (fun l => accWord s (key l pos n))).1) ∧
        (∀ a, (∀ pos n, pos < t.nrows → n < 512 → a ≠ key 0 pos n) → sget? u.mem.acc a = sget? s.mem.acc a) ∧
        (∀ f ∈ s.seq.flight, f.id ≠ id → f ∈ u.seq.flight) ∧
        (∀ f ∈ u.seq.flight, f.id = id → (∀ v ∈ s.seq.tiles.erase t, ∀ x, v.closing = some x → x.1 ≠ id) → f.stage = .done) ∧
        u.seq.run = s.seq.run ∧ u.gw = s.gw ∧ u.regions = s.regions)

/-- R199 to R206: a COPY row of one descriptor with one run from the tiers to a tier address, as it is or converted, writes what it
reads there and nothing else of memory, and is done. -/
def Sys2Proof.Claims.CopyMovesOneRun : Prop :=
  ∀ (s : State) (c : RowCtx) (run : ActiveRun) (d : BitVec 384), inPair s = false → s.mem.stagingBad = [] → s.mem.sliceBad = [] →
    s.fab.txns = [] → s.seq.run = some run → run.halting = none → descs c.bits = [d] → dSkind d = 1 → dDkind d = 1 →
    dNrun d = 1 → 0 < dRun d → TierGood s (fld (dSaddr d) 0 42) (dRun d) →
    (copyEffect c s).mem = (writeMem 0 (fld (dDaddr d) 0 42) (converted d (readMem s 0 (fld (dSaddr d) 0 42) (dRun d))) s).mem ∧
    (copyEffect c s).seq.flight = s.seq.flight ++ [inFlight c .done 0 []] ∧
    (copyEffect c s).gw = s.gw ∧ (copyEffect c s).fab = s.fab ∧ (copyEffect c s).regions = s.regions ∧ (copyEffect c s).log = s.log

/-- R160, R172, R136: a row that is done, awaits no acknowledgement and follows no row of its slice leaves flight, its flags entering its
flag register; any other in flight stays. A place with no row changes nothing. -/
def Obligations.RowCompletionTakesTheFlags : Prop :=
  ∀ (s : State) (place : Nat),
    (s.seq.flight[place]? = none → exec (.rowComplete place) s = .next s) ∧
    (∀ (f : Flight) (r : ActiveRun), s.seq.flight[place]? = some f → f.stage = .done → awaitsAck s f.id = false → sliceBefore s f = false → inPair s = false →
      f.watch = [] → s.seq.watchWait = [] → s.seq.run = some r → r.halting = none → r.restartAt = none →
      ∃ t, exec (.rowComplete place) s = .next t ∧ t.seq.flight = s.seq.flight.filter (fun g => g.id != f.id) ∧
        t.seq.flags = (if rowFreg f.bits = 0 then s.seq.flags
          else sput s.seq.flags (rowFreg f.bits) (sget s.seq.flags (rowFreg f.bits) 0 ||| f.flags)) ∧
        t.seq.run = s.seq.run ∧ t.seq.watch = s.seq.watch ∧ t.mem = s.mem ∧ t.gw = s.gw ∧ t.job = s.job ∧ t.regions = s.regions) ∧
    (∀ f, s.seq.flight[place]? = some f → f.stage = .done → (awaitsAck s f.id = true ∨ sliceBefore s f = true) → exec (.rowComplete place) s = .next s)

/-! ### Control rows, spec/07_timetable.md R168 to R174 -/

/-- R168, R171: NOP only takes its place; LOOP loads its register and ENDLOOP goes back to the row after its LOOP until the register
has counted down, and then idles it. -/
def Sys2Proof.Claims.NopAndLoopRows : Prop :=
  ∀ (s : State) (r : ActiveRun) (w : Row) (dt : Nat), AtRow s r w →
    (rowKind w = 0 → exec (.nop dt) s = .next (goesOnAt r (r.next + 1) s)) ∧
    (rowKind w = 9 → exec (.loop dt) s = .next { s with seq := { s.seq with
      run := some { r with next := r.next + 1, gap := rowGap w }, loops := sput s.seq.loops (lReg w) (lCount w) } }) ∧
    (rowKind w = 10 → sget s.seq.loops (lReg w) 0 ≤ 1 → exec (.endloop dt) s = .next { s with seq := { s.seq with
      run := some { r with next := r.next + 1, gap := rowGap w }, loops := sdel s.seq.loops (lReg w) } }) ∧
    (rowKind w = 10 → 1 < sget s.seq.loops (lReg w) 0 → exec (.endloop dt) s = .next { s with seq := { s.seq with
      run := some { r with next := lMate w + 1, gap := rowGap w }, loops := sput s.seq.loops (lReg w) (sget s.seq.loops (lReg w) 0 - 1) } })

/-- R169, R170, R172: BRANCH goes to its target where its condition holds, else to the next row; CLR clears the flag register it
tested, and nothing else changes. -/
def Sys2Proof.Claims.BranchRow : Prop :=
  ∀ (s : State) (r : ActiveRun) (w : Row) (dt : Nat), AtRow s r w → rowKind w = 8 →
    exec (.branch dt) s = .next { s with seq := { s.seq with
      run := some { r with next := if condHolds s w then bTarget w else r.next + 1, gap := rowGap w },
      flags := if bClr w then sdel s.seq.flags (bArg0 w) else s.seq.flags } }

/-- Table 07-7: what the conditions of a BRANCH or HALT test. -/
def Sys2Proof.Claims.ConditionsTestTheirState : Prop :=
  ∀ (s : State) (w : Row),
    (bCond w = 0 → condHolds s w = true) ∧
    (bCond w = 1 → (condHolds s w = true ↔ bArg1 w = (if s.seq.a4.contains (bArg0 w) then 0 else 1))) ∧
    (bCond w = 2 → (condHolds s w = true ↔ bArg1 w ≠ (if s.seq.a4.contains (bArg0 w) then 0 else 1))) ∧
    (bCond w = 3 → (condHolds s w = true ↔ sget s.seq.flags (bArg0 w) 0 &&& BitVec.ofNat 8 (bArg1 w) ≠ 0)) ∧
    (bCond w = 4 → (condHolds s w = true ↔ sget s.seq.flags (bArg0 w) 0 &&& BitVec.ofNat 8 (bArg1 w) = 0)) ∧
    (bCond w = 5 → (condHolds s w = true ↔ (sget s.seq.watch (bArg0 w) Watch.zero).drift = true)) ∧
    (bCond w = 6 → (condHolds s w = true ↔ (sget s.seq.watch (bArg0 w) Watch.zero).drift = false)) ∧
    (bCond w = 7 → (condHolds s w = true ↔ s.seq.step.toNat % bMod w = bRem w)) ∧
    (bCond w = 8 → (condHolds s w = true ↔ s.job.relaxed = true))

/-- R174: a HALT row whose condition holds ends the run with HALTED_BY_ROW and its CODE: RUNSTATE is HALTED, the halt names the slot
and the row, the slot is LOADED, accumulators are lost and the tiers kept, and RUN completes with the halt status. A HALT row whose
condition does not hold only takes its place. -/
def Obligations.HaltRowEndsTheRun : Prop :=
  ∀ (s : State) (r : ActiveRun) (w : Row) (dt : Nat), AtRow s r w → rowKind w = 15 → s.power.sleepReq = false →
    s.trust.debugWait = none → s.gw.stopCmd = none → s.gw.image = none → r.req ≠ farReq →
    (condHolds s w = true → ∃ t, exec (.halt dt) s = .next t ∧ t.gw.runstate = .halted ∧ t.seq.run = none ∧ t.seq.held = [] ∧
      t.seq.haltCause = Status.haltedByRow ∧ t.seq.haltSlot = r.slot ∧ t.seq.haltRow = BitVec.ofNat 14 r.next ∧
      (slotOf t r.slot).state = .loaded ∧ (slotOf t r.slot).rows = (slotOf s r.slot).rows ∧ slotOf t (!r.slot) = slotOf s (!r.slot) ∧
      t.gw.held = s.gw.held ++ [completionOf s r.req 0x36 Status.haltedByRow 0 (runPayload s r.slot r.next (bCode w))] ∧
      t.mem = { s.mem with acc := [], accBad := [], era := s.mem.era + 1 } ∧ t.seq.step = s.seq.step ∧ t.trust = s.trust) ∧
    (condHolds s w = false → bClr w = false → exec (.halt dt) s = .next (goesOnAt r (r.next + 1) s))

/-- spec/13_commands.md R313: NOTIFY holds an entry of KIND NOTIFY, TAG 0xFFFF and STATUS OK with VALUE, the slot and row and the
step number, for the session that issued the run, and is in flight until it is posted. -/
def Sys2Proof.Claims.NotifyRowHoldsAnEntry : Prop :=
  ∀ (s : State) (r : ActiveRun) (w : Row) (dt : Nat), AtRow s r w → rowKind w = 14 →
    ∃ t, exec (.notify dt) s = .next t ∧
      t.gw.held = s.gw.held ++ [{ tag := 0xFFFF, kind := 1, status := Status.ok, raddr := BitVec.ofNat 64 r.req.sid.toNat, reply := (
        wordBytes (nValue w) ++ leBytes 2 (b2n r.slot + r.next * 2) ++ zeros 2 ++ leBytes 8 s.seq.step.toNat) }] ∧
      t.seq = { s.seq with run := some { r with next := r.next + 1, gap := rowGap w }, nextId := s.seq.nextId + 1,
                           flight := [inFlight (issuing r w s) .notify 0 []] } ∧
      t = { s with seq := t.seq, gw := { s.gw with held := t.gw.held } }

/-- spec/03_quantiser.md R89: a governor of this module counts its hold down while it holds; else it compares the energy of the error
with THI and TLO times the energy, and where the verdict changes it holds for HOLD steps and writes PRECISION_CHANGE. -/
def Sys2Proof.Claims.GovernRowSetsTheVerdict : Prop :=
  ∀ (s : State) (r : ActiveRun) (w : Row) (dt : Nat) (e : Watch) (old new : Nat), AtRow s r w → rowKind w = 7 → gJob w = false →
    s.seq.watchWait = [] → s.pair.role = .solo → e = sget s.seq.watch (gWatch w) Watch.zero →
    old = (if s.seq.a4.contains (gVerdict w) then 0 else 1) →
    new = (if flt (fmul (gThi w) e.energy).1 e.err then 1 else if flt e.err (fmul (gTlo w) e.energy).1 then 0 else old) →
    (sget s.seq.hold (gVerdict w) 0 ≠ 0 → exec (.govern dt) s = .next { s with seq := { s.seq with
      run := some { r with next := r.next + 1, gap := rowGap w }, hold := sput s.seq.hold (gVerdict w) (sget s.seq.hold (gVerdict w) 0 - 1) } }) ∧
    (sget s.seq.hold (gVerdict w) 0 = 0 → new = old → exec (.govern dt) s = .next (goesOnAt r (r.next + 1) s)) ∧
    (sget s.seq.hold (gVerdict w) 0 = 0 → new ≠ old → ∃ t, exec (.govern dt) s = .next t ∧
      (t.seq.a4.contains (gVerdict w) = true ↔ new = 0) ∧ t.seq.hold = sput s.seq.hold (gVerdict w) (gHold w) ∧
      t.log = s.log.push (s.log.stamp Code.precisionChange 0 ([BitVec.ofNat 8 (gVerdict w), BitVec.ofNat 8 old, BitVec.ofNat 8 new] ++
        leBytes 8 s.seq.step.toNat ++ wordBytes e.err ++ wordBytes e.energy)) ∧
      t.seq.run = some { r with next := r.next + 1, gap := rowGap w } ∧ t.seq.watch = s.seq.watch ∧ t.mem = s.mem ∧ t.gw = s.gw)

/-- R173: a BARRIER of this module that finds every earlier row complete only takes its place; a commit barrier of the slot's lowering
marks the step (spec/17_modes_repair.md R398). -/
def Sys2Proof.Claims.LocalBarrierRow : Prop :=
  ∀ (s : State) (r : ActiveRun) (w : Row) (dt : Nat), AtRow s r w → rowKind w = 11 → barJob w = false →
    ((slotOf s r.slot).lowered = none → exec (.barrier dt) s = .next (goesOnAt r (r.next + 1) s)) ∧
    (∀ l, (slotOf s r.slot).lowered = some l → exec (.barrier dt) s = .next { s with seq := { s.seq with
      run := some { r with next := r.next + 1, gap := rowGap w, committed := r.committed || l.barriers.contains r.next } } })

/-- spec/11_collectives.md R252: RECORD enters the block's shard, digest and epoch in the ledger; CHECK passes where the header
agrees with the entry and else halts with STALE_SHARD; ADVANCE writes the header with EPOCH + 1 and the digest of the block's bytes,
and nothing else of memory. -/
def Obligations.EpochRowsReadAndAdvanceHeaders : Prop :=
  ∀ (s : State) (r : ActiveRun) (w : Row) (dt h : Nat), AtRow s r w → rowKind w = 13 → h = ofLe (readMem s 0 (eAddr w) 32) →
    TierGood s (eAddr w) 32 → hdShard h = eShard w → hdState h = 1 →
    (eOp w = 0 → exec (.epochRecord dt) s = .next { s with seq := { s.seq with
      run := some { r with next := r.next + 1, gap := rowGap w },
      ledger := sput s.seq.ledger (eEntry w) { shard := hdShard h, digest := hdDigest h, epoch := BitVec.ofNat 64 (hdEpoch h) } } }) ∧
    (∀ e, eOp w = 1 → sget? s.seq.ledger (eEntry w) = some e → e.shard = hdShard h → e.digest = hdDigest h →
      e.epoch.toNat = hdEpoch h → exec (.epochCheck dt) s = .next (goesOnAt r (r.next + 1) s)) ∧
    (eOp w = 1 → (∀ e, sget? s.seq.ledger (eEntry w) = some e → e.shard ≠ hdShard h ∨ e.digest ≠ hdDigest h ∨ e.epoch.toNat ≠ hdEpoch h) →
      ∃ t, exec (.epochCheck dt) s = .next t ∧ t.seq.haltCause = Status.staleShard ∧ t.gw.runstate = .halted) ∧
    (eOp w = 2 → hdEpoch h + 1 ≠ 2 ^ 64 → TierGood s (hdBase h) (hdLen h) →
      ∃ t, exec (.epochAdvance dt) s = .next t ∧ t.seq.run = some { r with next := r.next + 1, gap := rowGap w } ∧
        t.mem = (writeMem 0 (eAddr w) (leBytes 32 (fld h 0 32 + (crc32c (readMem s 0 (hdBase h) (hdLen h))).toNat * 2 ^ 32 +
          (hdEpoch h + 1) * 2 ^ 64 + h / 2 ^ 128 * 2 ^ 128)) s).mem ∧
        t.seq.ledger = s.seq.ledger ∧ t.gw = s.gw ∧ t.job = s.job ∧ t.regions = s.regions ∧ t.log = s.log)

/-- Table 07-9: a STEP row with END, or at the end of the budget, completes the RUN with OK and leaves RUNSTATE JOB and the slot
LOADED; the step number counts, flags, loops and the ledger are cleared, and the memories are kept. -/
def Sys2Proof.Claims.StepRowEndsTheRun : Prop :=
  ∀ (s : State) (r : ActiveRun) (w : Row) (dt : Nat), AtRow s r w → rowKind w = 12 →
    (sEnd w = true ∨ r.stopAt = true ∨ r.budget = 1) → s.reshard.active = none →
    s.power.sleepReq = false → s.trust.debugWait = none → s.gw.stopCmd = none → s.gw.image = none → r.req ≠ farReq →
    (∀ g ∈ s.regions, g.failing = []) →
    ∃ t, exec (.stepRow dt) s = .next t ∧ t.gw.runstate = .job ∧ t.seq.run = none ∧ t.seq.step = s.seq.step + 1 ∧
      (slotOf t r.slot).state = .loaded ∧ t.seq.flags = [] ∧ t.seq.loops = [] ∧ t.seq.ledger = [] ∧ t.seq.a4 = s.seq.a4 ∧
      t.seq.hold = s.seq.hold ∧ t.mem = s.mem ∧ t.job = s.job ∧ t.trust = s.trust ∧
      t.gw.held.length = s.gw.held.length + 1

/-- Table 07-9: another STEP row goes on at its NEXT in the same slot, where nothing is armed or pending: the step begins there, the
step number counts, one step of the budget is spent, and the entry verdicts are saved. -/
def Sys2Proof.Claims.StepRowBeginsTheNextStep : Prop :=
  ∀ (s : State) (r : ActiveRun) (w : Row) (dt : Nat), AtRow s r w → rowKind w = 12 →
    sEnd w = false → r.stopAt = false → r.budget ≠ 1 → s.reshard.active = none → armedSwap s = none →
    s.power.sleepReq = false → s.trust.debugWait = none → s.gw.image = none →
    (∀ g ∈ s.regions, g.failing = [] ∧ g.pendingFence = none ∧ g.returning = false ∧ ∀ c, g.mode = .fenced c → g.sliver = []) → s.seq.watch = [] → s.seq.watchWait = [] →
    ∃ t, exec (.stepRow dt) s = .next t ∧
      t.seq.run = some { r with next := sNext w, gap := rowGap w, stepEntry := sNext w, attempt := 0, committed := false, waitCause := none,
                                budget := r.budget - 1 } ∧
      t.seq.step = s.seq.step + 1 ∧ t.seq.flags = [] ∧ t.seq.loops = [] ∧ t.seq.ledger = [] ∧
      t.seq.entryVerdict = some (s.seq.a4, s.seq.hold) ∧ t.seq.slotA = s.seq.slotA ∧ t.seq.slotB = s.seq.slotB ∧
      t.mem = s.mem ∧ t.gw = s.gw ∧ t.regions = s.regions ∧ t.log = s.log

/-! ### What rows hear from other modules, spec/11_collectives.md R244 to R249, R263 to R266; spec/07_timetable.md R173 -/

/-- R248, R249: a contribution for a collective that this module has not issued yet is held in its receive buffers, whose credits wait;
one of an earlier step or attempt is discarded (spec/17_modes_repair.md R402). One for a row of the secondary alone the primary passes on
over the lash, which is the model's way (log entry 94). -/
def Sys2Proof.Claims.ContributionsWaitForTheirRow : Prop :=
  ∀ (s : State) (p : Fin 7) (m : CollectMsg) (l : List RxMsg) (u : State), Taken p.val (bodyParts (.collect m)) (opHeld 0x10) s l u →
    ((m.step.toNat < s.seq.step.toNat ∨ m.step = s.seq.step ∧ m.attempt < attemptNow s) →
      exec (.collectMessage p m true) s = .next (freeMsgs p.val l u)) ∧
    (¬ (m.step.toNat < s.seq.step.toNat ∨ m.step = s.seq.step ∧ m.attempt < attemptNow s) →
      (contribFar s p.val m = true → exec (.collectMessage p m true) s = .next (enqueueLash 0 none (.collect m) (freeMsgs p.val l u))) ∧
      (contribFar s p.val m = false → (∀ f ∈ s.seq.flight, f.stage = .collect → cGroup f.bits ≠ m.group.toNat) →
        exec (.collectMessage p m true) s = .next { u with job := { s.job with
          contribs := s.job.contribs ++ [m], early := s.job.early ++ [{ port := p.val, held := l, msg := m }] } }))

/-- R246, Table 11-2: with the last contribution an ALL_REDUCE writes at DST, for each element, the sum over the group's positions in
the canonical tree, an absent position passing its sibling's value; the row is then done. Nothing else of memory changes. R248: the contribution has left
its buffers, and its sender hears of it. -/
def Sys2Proof.Claims.AllReduceAddsInTheCanonicalTree : Prop :=
  ∀ (s : State) (p : Fin 7) (m : CollectMsg) (f : Flight) (g : Nat) (x : Nat → CollectMsg) (l : List RxMsg) (u : State),
    Taken p.val (bodyParts (.collect m)) (opHeld 0x10) s l u → inPair s = false → s.fab.txns = [] → s.seq.flight = [f] → f.stage = .collect → cCop f.bits = 2 → g = cGroup f.bits →
    m.group.toNat = g → m.step = s.seq.step → m.attempt = attemptNow s → m.position < groupLen s g → posPresent s g m.position = true →
    (m.src = myNode s ∨ (nextHop s (myNode s) m.src none).isSome = true) →
    (∀ k, k < groupLen s g → posPresent s g k = true →
      (s.job.contribs ++ [m]).filter (fun c => c.group.toNat = g && c.position = k && c.attempt = attemptNow s) = [x k] ∧
      (x k).tag = cTag f.bits ∧ (x k).cop = 2 ∧ (x k).fmt.toNat = cFmt f.bits ∧ (x k).count.toNat = cCount f.bits ∧
      (x k).sameTable = true) →
    ∃ t fl, exec (.collectMessage p m true) s = .next t ∧ t.seq.flight = [{ f with flags := fl, stage := .done }] ∧
      t.mem = (writeMem 0 (cDst f.bits) ((List.range (cCount f.bits)).flatMap (fun e =>
        wordBytes (canonP ((List.range (groupLen s g)).map (fun k =>
          if posPresent s g k then some (nth (readFloats 8 (cCount f.bits) (x k).data) e (fr 0)) else none))).1)) s).mem ∧
      t.gw = s.gw ∧ t.log = s.log ∧ t.regions = s.regions ∧ t.seq.run = s.seq.run

/-- R173: a JOB barrier is in flight until a message of every other present member has come, and leaves flight with the last; its
timeout halts with BARRIER_TIMEOUT and the count of members heard from. A message of an earlier step or attempt is discarded. -/
def Sys2Proof.Claims.JobBarrierWaitsForEveryMember : Prop :=
  ∀ s : State, s.pair.role = .solo → s.job.started = true →
    (∀ (r : ActiveRun) (w : Row) (dt : Nat), AtRow s r w → rowKind w = 11 → barJob w = true → (slotOf s r.slot).lowered = none →
      (∀ k ∈ otherMembers s (barGroup w), (nextHop s (myNode s) (rankNode (rankEntry s k)) none).isSome = true) →
      s.job.arrivals = [] → otherPositions s (barGroup w) ≠ [] →
      ∃ t, exec (.barrier dt) s = .next t ∧ t.seq = { s.seq with
          run := some { r with next := r.next + 1, gap := rowGap w }, nextId := s.seq.nextId + 1, flight := [inFlight (issuing r w s) .barrier 0 []] } ∧
        t.mem = s.mem ∧ t.gw = s.gw ∧ t.job = s.job ∧ t.log = s.log ∧ t.regions = s.regions) ∧
    (∀ (g : BitVec 12) (tag : BitVec 32) (position : Nat) (step : BitVec 48) (attempt : Nat),
      (step.toNat < s.seq.step.toNat → exec (.barrierArrival g tag position step attempt) s = .next s) ∧
      (s.seq.step.toNat < step.toNat → (∀ f ∈ s.seq.flight, f.stage ≠ .barrier) →
        exec (.barrierArrival g tag position step attempt) s =
          .next { s with job := { s.job with arrivals := s.job.arrivals ++ [(g, tag, position, attempt)] } }) ∧
      (∀ (f : Flight) (r : ActiveRun), s.seq.flight = [f] → f.stage = .barrier → s.seq.run = some r → r.halting = none →
        r.restartAt = none → step = s.seq.step → attempt = r.attempt →
        (∀ k ∈ otherPositions s (barGroup f.bits),
          (BitVec.ofNat 12 (barGroup f.bits), barTag f.bits, k, r.attempt) ∈ s.job.arrivals ++ [(g, tag, position, attempt)]) →
        ∃ t, exec (.barrierArrival g tag position step attempt) s = .next t ∧ t.seq = { s.seq with flight := [] } ∧ t.mem = s.mem ∧
          t.gw = s.gw ∧ t.fab = s.fab ∧ t.log = s.log ∧ t.job = { s.job with arrivals := t.job.arrivals })) ∧
    (∀ (f : Flight) (r : ActiveRun), s.seq.flight = [f] → f.stage = .barrier → s.seq.run = some r → r.halting = none →
      s.power.sleepReq = false → s.trust.debugWait = none → s.gw.image = none → s.gw.stopCmd = none →
      (∀ k ∈ s.regions, k.pendingFence = none) →
      (∀ k ∈ otherMembers s 0, (nextHop s (myNode s) (rankNode (rankEntry s k)) none).isSome = true) →
      ∃ t, exec (.barrierTimeout (BitVec.ofNat 12 (barGroup f.bits)) (barTag f.bits)) s = .next t ∧
        t.gw.runstate = .halted ∧ t.seq.haltCause = Status.barrierTimeout ∧ t.seq.haltSlot = r.slot ∧
        t.seq.haltRow = BitVec.ofNat 14 f.row ∧ t.seq.flight = [] ∧ t.seq.run = none ∧
        t.log = s.log.push (s.log.stamp Code.barrierTimeout 0 (leBytes 2 (barGroup f.bits) ++ wordBytes (barTag f.bits) ++
          leBytes 8 ((otherPositions s (barGroup f.bits)).filter (fun k => s.job.arrivals.contains
            (BitVec.ofNat 12 (barGroup f.bits), barTag f.bits, k, r.attempt))).length))) ∧
    ((∀ f ∈ s.seq.flight, f.stage ≠ .barrier) → ∀ g tag, exec (.barrierTimeout g tag) s = .next s)

/-- spec/03_quantiser.md R90: a JOB governor is in flight until the sums of every present rank have come; the verdict is then the one of
R89 for the two sums in the canonical tree over the job's ranks. -/
def Sys2Proof.Claims.JobGovernorSumsEveryRank : Prop :=
  ∀ s : State, s.pair.role = .solo → s.job.started = true →
    (∀ (r : ActiveRun) (w : Row) (dt : Nat) (k : Nat), AtRow s r w → rowKind w = 7 → gJob w = true → s.seq.watchWait = [] →
      (∀ j ∈ otherMembers s 0, (nextHop s (myNode s) (rankNode (rankEntry s j)) none).isSome = true) →
      s.job.sums = [] → k ∈ otherMembers s 0 →
      ∃ t, exec (.govern dt) s = .next t ∧ t.seq = { s.seq with
          run := some { r with next := r.next + 1, gap := rowGap w }, nextId := s.seq.nextId + 1, flight := [inFlight (issuing r w s) .govern 0 []] } ∧
        t.job = { s.job with sums := [(r.attempt, s.job.myRank, (sget s.seq.watch (gWatch w) Watch.zero).err,
          (sget s.seq.watch (gWatch w) Watch.zero).energy)] } ∧ t.mem = s.mem ∧ t.gw = s.gw ∧ t.log = s.log) ∧
    (∀ (position : Nat) (err en : F32) (step : BitVec 48) (attempt : Nat),
      (step.toNat < s.seq.step.toNat → exec (.governSum position err en step attempt) s = .next s) ∧
      (s.seq.step.toNat < step.toNat → (∀ f ∈ s.seq.flight, f.stage ≠ .govern) →
        exec (.governSum position err en step attempt) s =
          .next { s with job := { s.job with sums := s.job.sums ++ [(attempt, position, err, en)] } }) ∧
      (∀ (f : Flight) (r : ActiveRun) (x : Nat → F32 × F32) (E N : F32), s.seq.flight = [f] → f.stage = .govern → s.seq.run = some r →
        r.halting = none → r.restartAt = none → step = s.seq.step → attempt = r.attempt →
        (∀ k ∈ presentRanks s, (s.job.sums ++ [(attempt, position, err, en)]).filter (fun y => y.1 = r.attempt && y.2.1 = k) =
          [(r.attempt, k, (x k).1, (x k).2)]) →
        E = (canonP ((List.range s.job.ranks).map (fun k => if rankPresent (rankEntry s k) then some (fr (x k).1) else none))).1 →
        N = (canonP ((List.range s.job.ranks).map (fun k => if rankPresent (rankEntry s k) then some (fr (x k).2) else none))).1 →
        ∃ t, exec (.governSum position err en step attempt) s = .next t ∧ t.seq = { (govern f.bits E N s).seq with flight := [] } ∧
          t.log = (govern f.bits E N s).log ∧ t.mem = s.mem ∧ t.gw = s.gw ∧ t.fab = s.fab))

/-- R263, R264: a token is kept for the dispatch after those that its sender has ended; an output lands at LAND + (8 × token + entry)
strides in its source's region, for the earliest RETURN that it is owed to, and one that comes before its RETURN is held; a reply settles
the pairs it names, a refused pair of POLICY 0 being dropped and counted; DONE counts for its sender. What belongs to another step or
attempt is discarded or kept apart. -/
def Sys2Proof.Claims.FerryMessagesReachTheirTable : Prop :=
  ∀ s : State, s.job.started = true →
    (∀ (p : Fin 7) (m : FerryMsg) (l : List RxMsg) (u v : State), Taken p.val (bodyParts (.ferry m)) (opHeld 0x20) s l u →
      v = freeMsgs p.val l u →
      (m.step.toNat < s.seq.step.toNat → exec (.ferryMessage p m true) s = .next v) ∧
      (m.step = s.seq.step → m.attempt = attemptNow s → m.isReturn = false → s.seq.flight = [] →
        exec (.ferryMessage p m true) s = .next (onFerry m.table.toNat (fun x => { x with arrivals := x.arrivals ++
          [(x.dones.count (m.wave, senderOf m.position m.region) + 1, m)] }) v)) ∧
      (m.step = s.seq.step → m.attempt = attemptNow s → m.isReturn = true → (ferryState s m.table.toNat).returns = [] →
        (∀ f ∈ s.seq.flight, f.stage ≠ .dispatch) → exec (.ferryMessage p m true) s =
          .next (onFerry m.table.toNat (fun x => { x with outputs := x.outputs ++ [m] }) v)) ∧
      (∀ (f : Flight) (pl : Nat × Nat) (n : Nat) (pair : FerryPair), m.step = s.seq.step → m.attempt = attemptNow s → m.isReturn = true →
        s.seq.flight = [f] → f.stage = .ferryReturn → (ferryState s m.table.toNat).returns = [(f.id, n)] →
        pair = (m.region, m.token, m.entry) → (n, pair) ∈ (ferryState s m.table.toNat).owed →
        pl = placeOf s (m.region.toNat % 64) (fLand f.bits) →
        ∃ t, exec (.ferryMessage p m true) s = .next t ∧
          t.mem = (writeMem pl.1 (pl.2 + (8 * m.token.toNat + m.entry.toNat) * fStride f.bits) m.data s).mem ∧
          (ferryState t m.table.toNat).owed = (ferryState s m.table.toNat).owed.erase (n, pair) ∧
          t.seq.flight = [{ f with stage := if ((ferryState s m.table.toNat).owed.erase (n, pair)).any (fun o => o.1 = n)
            then .ferryReturn else .done }] ∧ t.gw = s.gw ∧ t.regions = s.regions)) ∧
    (∀ (a : Admission), (∀ f ∈ s.seq.flight, f.stage ≠ .dispatch) → exec (.admissionReply a) s = .next s) ∧
    (∀ (a : Admission) (f : Flight), s.seq.flight = [f] → f.stage = .dispatch → fHomes f.bits = a.table.toNat → a.step = s.seq.step →
      a.attempt = attemptNow s →
      (∀ v : Bool, (waveHeard s f.bits v = false ∧ waveReaches s f.bits v = true) ∨
        (ferryState s a.table.toNat).admitted.contains v = true) →
      (∃ x ∈ (ferryState s a.table.toNat).awaited.erase (a.expert, a.wave), x.2 = false) →
      (a.refused = [] → exec (.admissionReply a) s =
        .next (onFerry a.table.toNat (fun x => { x with awaited := x.awaited.erase (a.expert, a.wave) }) s)) ∧
      (∀ pair : FerryPair, a.refused = [pair] → fPolicy f.bits = 0 →
        ∃ t, exec (.admissionReply a) s = .next t ∧
          ferryState t a.table.toNat = { ferryState s a.table.toNat with
            awaited := (ferryState s a.table.toNat).awaited.erase (a.expert, a.wave)
            dropped := (ferryState s a.table.toNat).dropped ++ [pair]
            owed := (ferryState s a.table.toNat).owed.erase ((ferryState s a.table.toNat).round, pair) } ∧
          (ferryCount t a.table.toNat).dropped = satAdd (ferryCount s a.table.toNat).dropped 1 ∧
          (ferryCount t a.table.toNat).sent = (ferryCount s a.table.toNat).sent ∧ t.seq = s.seq ∧ t.mem = s.mem ∧ t.gw = s.gw)) ∧
    (∀ (table : BitVec 8) (wave : Bool) (position : BitVec 16) (step : BitVec 48) (attempt : Nat),
      (step.toNat < s.seq.step.toNat → exec (.ferryDone table wave position step attempt) s = .next s) ∧
      (step = s.seq.step → attempt = attemptNow s → (∀ f ∈ s.seq.flight, f.stage ≠ .dispatch) →
        exec (.ferryDone table wave position step attempt) s =
          .next (onFerry table.toNat (fun x => { x with dones := x.dones ++ [(wave, position)] }) s)))

/-- R262, R263: a home admits the CAP arrivals of its dispatch with the lowest keys (position, region, token, entry): its landing area
holds them in key order, then empty slots, then the tags. -/
def Sys2Proof.Claims.AdmissionTakesTheLowestKeys : Prop :=
  ∀ (s : State) (id : Nat) (w : Row) (wave : Bool) (home : Nat × Nat) (ms : List FerryMsg), s.seq.run = none →
    ms = (((ferryState s (fHomes w)).arrivals.filter (fun m => m.1 = (ferryState s (fHomes w)).round && m.2.wave = wave &&
      m.2.expert.toNat = home.1)).map Prod.snd).foldl (fun l m => insertKey m l) [] →
    (∀ m, m ∈ ms ↔ ((ferryState s (fHomes w)).round, m) ∈ (ferryState s (fHomes w)).arrivals ∧ m.wave = wave ∧
      m.expert.toNat = home.1) ∧
    ms.Pairwise (fun a b => keyLt b a = false) ∧
    (admitHome id w wave s home).mem = (writeMem (placeOf s home.2 (fLand w)).1 (placeOf s home.2 (fLand w)).2
      (landingArea w (ms.take (fCap w))) s).mem ∧
    (landingArea w (ms.take (fCap w))).length = fCap w * (fStride w + 16)

/-! ### Notices, spec/11_collectives.md R245, spec/17_modes_repair.md R402 -/

/-- R245: the first LOST or HALTED notice of a member writes RANK_LOST or PEER_HALTED and halts a run once its issued rows have settled;
a repeated notice changes nothing. R402: a RESTART of the present step with a later attempt begins the step again at its entry row with
the entry verdicts; any other changes nothing. -/
def Obligations.NoticesHaltOrRestartTheRun : Prop :=
  ∀ s : State, s.pair.role = .solo → s.job.started = true →
    (∀ (position : BitVec 16) (node : BitVec 14),
      ((false, position, node) ∈ s.job.notices → exec (.lostNotice position node) s = .next s) ∧
      ((false, position, node) ∉ s.job.notices → s.seq.run = none → exec (.lostNotice position node) s = .next { s with
        job := { s.job with notices := s.job.notices ++ [(false, position, node)] }
        log := s.log.push (s.log.stamp Code.rankLost 0 (leBytes 2 position.toNat ++ leBytes 2 node.toNat)) }) ∧
      (∀ r, (false, position, node) ∉ s.job.notices → s.seq.run = some r → r.halting = none → s.seq.flight = [] → s.power.sleepReq = false →
        s.trust.debugWait = none → s.gw.image = none →
        ∃ t, exec (.lostNotice position node) s = .next t ∧ t.gw.runstate = .halted ∧ t.seq.run = none ∧
          t.seq.haltCause = Status.rankLost ∧ t.seq.haltSlot = r.slot ∧ (slotOf t r.slot).state = .loaded ∧
          t.mem = { s.mem with acc := [], accBad := [], era := s.mem.era + 1 })) ∧
    (∀ (rank : BitVec 16) (node : BitVec 14) (status : BitVec 16),
      ((rank.toNat = s.job.myRank ∨ (true, rank, node) ∈ s.job.notices) → exec (.haltedNotice rank node status) s = .next s) ∧
      (rank.toNat ≠ s.job.myRank → (true, rank, node) ∉ s.job.notices → s.seq.run = none →
        (status ≠ Status.divergentCopies ∨ ∀ f ∈ s.seq.flight, f.stage ≠ .reshard) →
        exec (.haltedNotice rank node status) s = .next { s with
          job := { s.job with notices := s.job.notices ++ [(true, rank, node)] }
          log := s.log.push (s.log.stamp Code.peerHalted 0 (wordBytes rank ++ leBytes 2 node.toNat ++ wordBytes status)) }) ∧
      (∀ r, rank.toNat ≠ s.job.myRank → (true, rank, node) ∉ s.job.notices → s.seq.run = some r → r.halting = none →
        s.seq.flight = [] → s.power.sleepReq = false → s.trust.debugWait = none → s.gw.image = none →
        ∃ t, exec (.haltedNotice rank node status) s = .next t ∧ t.gw.runstate = .halted ∧ t.seq.run = none ∧
          t.seq.haltCause = Status.peerHalted ∧ t.seq.haltSlot = r.slot ∧ (slotOf t r.slot).state = .loaded)) ∧
    (∀ (step : BitVec 48) (attempt : Nat),
      ((step ≠ s.seq.step ∨ attempt ≤ attemptNow s) → exec (.restartNotice step attempt) s = .next s) ∧
      (∀ r, s.seq.run = some r → r.halting = none → r.abandoning = none → s.seq.flight = [] → step = s.seq.step → r.attempt < attempt →
        ∃ t, exec (.restartNotice step attempt) s = .next t ∧
          t.seq.run = some { r with next := r.stepEntry, attempt := attempt, committed := false, restartAt := none, waitCause := none } ∧
          t.seq.flags = [] ∧ t.seq.loops = [] ∧ t.seq.ledger = [] ∧ t.seq.held = [] ∧ t.seq.step = s.seq.step ∧
          (∀ v, s.seq.entryVerdict = some v → t.seq.a4 = v.1 ∧ t.seq.hold = v.2) ∧ t.mem = s.mem ∧ t.gw = s.gw ∧ t.log = s.log))

/-! ### RESHARD, spec/11_collectives.md R257 to R259 -/

/-- R257, R259: READY messages are kept; a round whose blocks have all landed and left is written PREPARED in the journal; the journal
states of members are kept for the resume. A RESHARD_RESUME that finds no COMMITTED entry rolls the round back with RESHARD_ROLLBACK and
its landed headers VACANT; one whose members hold COMMITTED commits a PREPARED round with RESHARD_COMMIT. -/
def Obligations.ReshardRoundsCommitOrRollBack : Prop :=
  ∀ s : State, s.pair.role = .solo →
    (∀ rid round position count, s.job.started = true → (∀ f ∈ s.seq.flight, f.stage ≠ .reshard) →
      exec (.reshardReady rid round ⟨position, count⟩) s =
        .next { s with reshard := { s.reshard with ready := insertOnce (rid, round, position, count) s.reshard.ready } }) ∧
    (∀ (rid round : BitVec 16) (position : Nat) (count : BitVec 40) (f : Flight) (r : ActiveRun), s.job.started = true →
      s.seq.flight = [f] → f.stage = .reshard → s.reshard.active.isSome = true → s.seq.run = some r → r.halting = none →
      s.reshard.ready = [] → position ∈ otherPositions s (cGroup f.bits) →
      (rid ≠ tagRid f.bits ∨ round.toNat ≠ tagRound f.bits ∨ count.toNat ≠ cCount f.bits) →
      ∃ t, exec (.reshardReady rid round ⟨position, count⟩) s = .next t ∧ t.gw.runstate = .halted ∧ t.seq.run = none ∧
        t.seq.haltCause = Status.collectiveMismatch ∧ t.seq.haltRow = BitVec.ofNat 14 f.row) ∧
    (∀ (rid : BitVec 16) (round rounds : Nat) (f : Flight), s.reshard.active = some (rid, round, rounds) → s.seq.flight = [f] →
      f.stage = .reshard → s.reshard.prepared = false → s.reshard.incoming = [] → outgoingDone s f.bits = true → s.fab.txns = [] →
      otherMembers s (cGroup f.bits) = [] → otherPositions s (cGroup f.bits) = [] →
      ∃ t e, exec .reshardPrepared s = .next t ∧ t.reshard.prepared = true ∧ e ∈ [t.reshard.journalA, t.reshard.journalB] ∧
        e.rid = rid ∧ e.round = BitVec.ofNat 16 round ∧ e.state = 1 ∧ e.pcycle = s.log.powerCycles ∧ e.slot = f.slot ∧
        journalCrcOk e = true ∧ t.reshard.lastB = !s.reshard.lastB ∧
        (if s.reshard.lastB then t.reshard.journalA = e ∧ t.reshard.journalB = s.reshard.journalB
          else t.reshard.journalB = e ∧ t.reshard.journalA = s.reshard.journalA) ∧
        t.seq = { s.seq with flight := [{ f with stage := .done }] } ∧ t.mem = s.mem ∧ t.gw = s.gw ∧ t.log = s.log) ∧
    ((s.reshard.active = none ∨ s.reshard.prepared = true ∨ s.reshard.incoming ≠ [] ∨ (∀ f ∈ s.seq.flight, f.stage ≠ .reshard)) →
      exec .reshardPrepared s = .next s) ∧
    (∀ position e, s.job.started = true → s.gw.resume = none → s.reshard.active ≠ none →
      exec (.journalExchange position e) s =
        .next { s with reshard := { s.reshard with journals := sput s.reshard.journals position e } }) ∧
    (∀ (q : Req) (rid : BitVec 16) (round rounds : Nat), Starts 0x3A 0 q (inState s [.halted] && runGroupFree s && resumable s rid) s →
      s.reshard.active = some (rid, round, rounds) → otherMembers s 0 = [] → s.reshard.journals = [] →
      ((journalOf s rid).state ≠ 2 → s.reshard.landed = [] →
        ∃ t, exec (.reshardResume q rid) s = .next t ∧ t.reshard.active = s.reshard.active ∧ t.reshard.prepared = false ∧
          t.reshard.vacate = [] ∧ t.reshard.incoming = [] ∧ t.mem = s.mem ∧ t.seq = s.seq ∧ t.gw.resume = none ∧
          t.gw.runstate = s.gw.runstate ∧ t.gw.held.length = (start q s).gw.held.length + 1 ∧
          t.log = s.log.push (s.log.stamp Code.reshardRollback 0 (wordBytes rid ++ leBytes 2 round))) ∧
      ((journalOf s rid).state = 2 → (journalOf s rid).round.toNat = round →
        ∃ t, exec (.reshardResume q rid) s = .next t ∧ t.reshard = s.reshard ∧ t.mem = s.mem ∧ t.seq = s.seq ∧ t.log = s.log ∧
          t.gw.held.length = (start q s).gw.held.length + 1)) ∧
    (∀ (q : Req) (rid : BitVec 16) (round rounds k : Nat) (e : JournalEntry),
      Starts 0x3A 0 q (inState s [.halted] && runGroupFree s && resumable s rid) s → s.reshard.active = some (rid, round, rounds) →
      k ∈ otherMembers s 0 → s.reshard.journals = [] →
      (∀ j ∈ otherMembers s 0, (nextHop s (myNode s) (rankNode (rankEntry s j)) none).isSome = true) →
      (∃ t, exec (.reshardResume q rid) s = .next t ∧ t.gw.resume = some { req := q, rid := rid } ∧ t.gw.held = (start q s).gw.held ∧
        t.reshard = s.reshard ∧ t.mem = s.mem ∧ t.seq = s.seq ∧ t.log = s.log) ∧
      (otherMembers s 0 = [k] → s.job.started = true → (journalOf s rid).state = 1 → (journalOf s rid).round.toNat = round →
        s.reshard.prepared = true → s.reshard.landed = [] → s.reshard.vacate = [] → e.rid = rid → e.state = 2 → e.round.toNat = round →
        ∃ t, exec (.journalExchange k e) { s with gw := { s.gw with resume := some { req := q, rid := rid } } } = .next t ∧
          (journalOf t rid).state = 2 ∧ t.gw.resume = none ∧ t.mem = s.mem ∧
          t.reshard.active = (if round + 1 = rounds then none else s.reshard.active) ∧
          t.log = s.log.push (s.log.stamp Code.reshardCommit 0 (wordBytes rid ++ leBytes 2 round))))

/-! ### Jobs and runs, spec/13_commands.md R308 to R310, spec/11_collectives.md R242 to R244 -/

/-- The state in which JOB_START's own checks of the slots have nothing to do: both slots EMPTY. -/
def Sys2Proof.Claims.slotsEmpty (s : State) : Prop := s.seq.slotA = Slot.empty ∧ s.seq.slotB = Slot.empty

/-- R308, spec/02_formats.md R58, R59: a JOB_START whose tables pass starts the exchange of claim lists and changes nothing else yet. Once
every other present member has been heard the job is in place: step 0, verdicts A8, counters and ledgers clear, RUNSTATE JOB; at its
timeout it is refused with JOIN_TIMEOUT. Under STRICT a member's claim that overlaps an own one is GENERATOR_OVERLAP. -/
def Sys2Proof.Claims.JobStartJoinsTheMembers : Prop :=
  ∀ s : State, s.pair.role = .solo → Claims.slotsEmpty s →
    (∀ (q : Req) (p : JobParams), Starts 0x35 0 q (inState s [.ready] && runGroupFree s) s → p.source = 0 →
      (jobFieldsOk p = false → exec (.jobStart q p) s = .next (answered q 0x35 Status.badField (fieldDetail 0x35 (badJobField p)) [] s)) ∧
      (jobFieldsOk p = true → tablesOk p = false →
        exec (.jobStart q p) s = .next (answered q 0x35 Status.badField (fieldDetail 0x35 (if p.myRank.toNat < p.ranks.toNat then 9 else 5)) [] s)) ∧
      (jobFieldsOk p = true → tablesOk p = true → s.gw.claimsHeld = [] →
        (∀ k ∈ otherMembers (asJob p s) 0, (nextHop s (myNode s) (rankNode (rankEntry (asJob p s) k)) none).isSome = true) →
        ∃ t, exec (.jobStart q p) s = .next t ∧
          t.gw.join = some { req := q, params := p, heard := [], claims := [], remapped := [] } ∧ t.gw.held = (start q s).gw.held ∧
          t.gw.runstate = s.gw.runstate ∧ t.job = s.job ∧ t.seq = s.seq ∧ t.mem = s.mem ∧ t.log = s.log ∧ t.trust = s.trust)) ∧
    (∀ j : JoinJob, s.gw.join = some j →
      (allHeard s j = false → exec .jobStartJoined s = .next s) ∧
      (allHeard s j = true → domainOf j.params.rankTable ≤ 1024 → j.remapped = [] →
        ∃ t, exec .jobStartJoined s = .next t ∧ t.gw.runstate = .job ∧ t.gw.join = none ∧ t.job = jobOf j.params ∧
          t.job.relaxed = decide (j.params.determinism = 1) ∧ t.seq.step = 0 ∧ t.seq.a4 = [] ∧ t.seq.hold = [] ∧
          t.seq.watch = (s.seq.watch.filter (fun x => x.2.drift)).map (fun x => (x.1, { Watch.zero with drift := true })) ∧
          t.seq.ledger = [] ∧ t.seq.stallR = [] ∧ t.seq.stallM = [] ∧ t.seq.slotA = s.seq.slotA ∧
          t.mem = { s.mem with acc := [], accBad := [], era := s.mem.era + 1 } ∧ t.log = s.log ∧
          t.gw.held = s.gw.held ++ [completionOf s j.req 0x35 Status.ok 0 ([BitVec.ofNat 8 (b2n t.job.relaxed)] ++
            leBytes 2 j.heard.length ++ leBytes 4 (domainOf j.params.rankTable))]) ∧
      (∃ t, exec .joinTimeout s = .next t ∧ t = { s with gw := { s.gw with
        join := none, held := s.gw.held ++ [completionOf s j.req 0x35 Status.joinTimeout 0 []] } }) ∧
      (∀ (k : Nat) (l : List Claim), s.power.rails = true →
        (relaxedJob j.params = true ∨ claimPair j.claims l = none) → exec (.claimList k l) s =
          .next { s with gw := { s.gw with join := some { j with heard := insertOnce k j.heard } } }) ∧
      (∀ (k : Nat) (l : List Claim) (a b : Claim), s.power.rails = true → relaxedJob j.params = false → claimPair j.claims l = some (a, b) →
        ∃ t, exec (.claimList k l) s = .next t ∧ t.gw = { s.gw with
            join := none, held := s.gw.held ++ [completionOf s j.req 0x35 Status.generatorOverlap (rowDetail a.slot a.row.toNat b.row.toNat) []] } ∧
          t.log = s.log.push (s.log.stamp Code.generatorOverlap 0 (slotByte a.slot ++ leBytes 2 a.row.toNat ++ leBytes 2 b.row.toNat)) ∧
          t.job = s.job ∧ t.seq = s.seq ∧ t.mem = s.mem)) ∧
    (s.gw.join = none → exec .jobStartJoined s = .next s ∧ exec .joinTimeout s = .next s ∧
      ∀ k l, s.power.rails = true → exec (.claimList k l) s = .next { s with gw := { s.gw with claimsHeld := sput s.gw.claimsHeld k l } })

/-- spec/02_formats.md R57: an own claim and another's are reported exactly where they have the same node, half and tensor and their
windows of four-element blocks intersect. -/
def Sys2Proof.Claims.ClaimPairFindsAnOverlap : Prop :=
  ∀ own others : List Claim,
    (claimPair own others = none ↔ ∀ a ∈ own, ∀ b ∈ others, ¬ (a.node = b.node ∧ a.half = b.half ∧ a.tensor = b.tensor ∧
      a.first / 4 ≤ b.last / 4 ∧ b.first / 4 ≤ a.last / 4)) ∧
    (∀ a b, claimPair own others = some (a, b) → a ∈ own ∧ b ∈ others ∧ a.node = b.node ∧ a.half = b.half ∧ a.tensor = b.tensor ∧
      a.first / 4 ≤ b.last / 4 ∧ b.first / 4 ≤ a.last / 4)

/-- R310, R244: JOB_END leaves READY with no job and keeps the slots, memories and journal; RANK_ABSENT clears PRESENT of another rank and
names its stand-in, which is none or a present rank; another rank or stand-in is BAD_FIELD. -/
def Obligations.JobEndAndRankAbsent : Prop :=
  ∀ (s : State) (q : Req), s.pair.role = .solo → Claims.slotsEmpty s →
    (Starts 0x38 0 q (inState s [.job, .halted] && runGroupFree s) s →
      ∃ t, exec (.jobEnd q) s = .next t ∧ t.gw.runstate = .ready ∧ t.job = Job.none ∧ t.seq = s.seq ∧ t.mem = s.mem ∧ t.log = s.log ∧
        t.reshard.active = none ∧ t.reshard.journalA = s.reshard.journalA ∧ t.reshard.journalB = s.reshard.journalB ∧
        t.gw.sessions = s.gw.sessions ∧ t.gw.held.length = (start q s).gw.held.length + 1) ∧
    (∀ rank standIn : BitVec 16, Starts 0x39 0 q (inState s [.job, .halted] && runGroupFree s) s →
      ((rank.toNat = s.job.myRank ∨ s.job.ranks ≤ rank.toNat) →
        exec (.rankAbsent q rank standIn) s = .next (answered q 0x39 Status.badField (fieldDetail 0x39 0) [] s)) ∧
      (rank.toNat ≠ s.job.myRank → rank.toNat < s.job.ranks → standIn ≠ 0xFFFF →
        (standIn = rank ∨ s.job.ranks ≤ standIn.toNat ∨ rankPresent (rankEntry s standIn.toNat) = false) →
        exec (.rankAbsent q rank standIn) s = .next (answered q 0x39 Status.badField (fieldDetail 0x39 1) [] s)) ∧
      (rank.toNat ≠ s.job.myRank → rank.toNat < s.job.ranks → rank.toNat < s.job.rankTable.length →
        (standIn = 0xFFFF ∨ standIn ≠ rank ∧ standIn.toNat < s.job.ranks ∧ rankPresent (rankEntry s standIn.toNat) = true) →
        ∃ t, exec (.rankAbsent q rank standIn) s = .next t ∧ rankPresent (rankEntry t rank.toNat) = false ∧
          rankStandIn (rankEntry t rank.toNat) = standIn.toNat ∧ rankNode (rankEntry t rank.toNat) = rankNode (rankEntry s rank.toNat) ∧
          rankPair (rankEntry t rank.toNat) = rankPair (rankEntry s rank.toNat) ∧ (∀ k, k ≠ rank.toNat → rankEntry t k = rankEntry s k) ∧
          t = { answered q 0x39 Status.ok 0 [] s with job := { s.job with rankTable := t.job.rankTable } }))

/-- R309, spec/07_timetable.md R164: RUN makes its slot ACTIVE and begins at the entry row with the step budget; a row that is no entry
row is BAD_FIELD, and a slot that names a region out of service is REGION_FENCED with the row. After a thermal trip RUN is
WRONG_STATE (spec/16_power.md R384). -/
def Obligations.RunBeginsAtAnEntryRow : Prop :=
  (∀ (s : State) (q : Req) (slot boost : BitVec 8) (entry : BitVec 32) (steps : BitVec 64), waits q s = false →
    s.thermal.tripped = true → gate 0x36 0 q true s = none →
    exec (.run q slot entry steps boost) s = .next (answered q 0x36 Status.wrongState 0 [] s)) ∧
  ∀ (s : State) (q : Req) (slot : BitVec 8) (entry : BitVec 32) (steps : BitVec 64) (boost : BitVec 8) (b : Bool), b = decide (slot = 1) →
    Starts 0x36 0 q (inState s [.job, .halted] && runGroupFree s && !s.thermal.tripped &&
      onNamed slot (armable s)) s →
    slot.toNat ≤ 1 → s.gw.runstate = .job → s.pair.role = .solo → (∀ g ∈ s.regions, g.failing = [] ∧ g.pendingFence = none) →
    (entry.toNat ∉ entryRows (slotOf s b).rows → exec (.run q slot entry steps boost) s =
      .next (answered q 0x36 Status.badField (fieldDetail 0x36 1) [] s)) ∧
    (entry.toNat ∈ entryRows (slotOf s b).rows → 1 < boost.toNat → exec (.run q slot entry steps boost) s =
      .next (answered q 0x36 Status.badField (fieldDetail 0x36 3) [] s)) ∧
    (∀ k, entry.toNat ∈ entryRows (slotOf s b).rows → boost.toNat ≤ 1 → fencedRow s (slotOf s b).rows = some k →
      exec (.run q slot entry steps boost) s = .next (answered q 0x36 Status.regionFenced (rowDetail b k 0) [] s)) ∧
    (entry.toNat ∈ entryRows (slotOf s b).rows → boost.toNat ≤ 1 → fencedRow s (slotOf s b).rows = none →
      ∃ t, exec (.run q slot entry steps boost) s = .next t ∧ t.gw.runstate = .running ∧ t.gw.held = (start q s).gw.held ∧
        (∃ r, t.seq.run = some r ∧ r.slot = b ∧ r.next = entry.toNat ∧ r.stepEntry = entry.toNat ∧ r.budget = steps.toNat ∧
          r.boost = decide (boost = 1) ∧ r.req = q ∧ r.halting = none ∧ r.attempt = 0) ∧
        (slotOf t b).state = .active ∧ (slotOf t b).rows = (slotOf s b).rows ∧ slotOf t (!b) = slotOf s (!b) ∧ t.seq.flight = [] ∧
        t.seq.entryVerdict = some (s.seq.a4, s.seq.hold) ∧ t.seq.step = s.seq.step ∧ t.mem = s.mem ∧ t.log = s.log)

/-- R310: STOP with MODE BOUNDARY ends the run at the next step boundary, as if that STEP row had END set. STOP with MODE NOW halts with
STOPPED, naming the row at which issue stopped. STOP completes after the RUN it stops. -/
def Obligations.StopEndsTheRun : Prop :=
  ∀ (s : State) (r : ActiveRun) (w : Row), s.pair.role = .solo → AtRow s r w → s.power.sleepReq = false → s.trust.debugWait = none →
    s.gw.image = none → r.req ≠ farReq →
    (∀ q mode, Starts 0x37 0 q (inState s [.running] && s.gw.powerCmd.isNone && s.gw.stopCmd.isNone) s →
      (mode = 0 → exec (.stop q mode) s = .next { start q s with
        seq := { s.seq with run := some { r with stopAt := true } }, gw := { (start q s).gw with stopCmd := some q } }) ∧
      (mode = 1 → ∃ t, exec (.stop q mode) s = .next t ∧ t.gw.runstate = .halted ∧ t.seq.run = none ∧ t.seq.haltCause = Status.stopped ∧
        t.seq.haltSlot = r.slot ∧ t.seq.haltRow = BitVec.ofNat 14 r.next ∧ (slotOf t r.slot).state = .loaded ∧
        t.gw.held = (start q s).gw.held ++ [completionOf s r.req 0x36 Status.stopped 0 (runPayload s r.slot r.next 0),
          completionOf s q 0x37 Status.ok 0 []] ∧ t.gw.stopCmd = none ∧
        t.mem = { s.mem with acc := [], accBad := [], era := s.mem.era + 1 }) ∧
      (1 < mode.toNat → exec (.stop q mode) s = .next (answered q 0x37 Status.badField (fieldDetail 0x37 0) [] s))) ∧
    (∀ q dt, s.gw.stopCmd = some q → rowKind w = 12 → r.stopAt = true → s.reshard.active = none → (∀ g ∈ s.regions, g.failing = []) →
      ∃ t c, exec (.stepRow dt) s = .next t ∧ t.gw.runstate = .job ∧ t.seq.run = none ∧ t.gw.stopCmd = none ∧
        t.gw.held = s.gw.held ++ [completionOf s r.req 0x36 Status.ok 0 c, completionOf s q 0x37 Status.ok 0 []])

/-! ### Slots and plans, spec/07_timetable.md R179 to R181, spec/08_xekoade.md R189 to R192 -/

/-- R179, R180, R181: TT_LOAD empties its slot and loads N rows; when they pass their checks the slot is LOADED with their digest, and
when one fails the load is refused with its row and the slot stays EMPTY. TT_ARM makes a LOADED slot ARMED at an entry row. TT_DISCARD
takes ARMED to LOADED and LOADED to EMPTY. -/
def Obligations.SlotsAreLoadedArmedAndDiscarded : Prop :=
  ∀ (s : State) (q : Req) (slot : BitVec 8) (b : Bool), s.pair.role = .solo → slot.toNat ≤ 1 → b = decide (slot = 1) →
    (∀ (n : BitVec 32) (rows : List Row), Starts 0x32 0 q (onNamed slot (slotFree s)) s →
      (1 ≤ n.toNat → n.toNat ≤ 16384 → rows.length = n.toNat →
        ∃ t, exec (.ttLoad q slot n rows) s = .next t ∧ slotOf t b = Slot.empty ∧ slotOf t (!b) = slotOf s (!b) ∧
          (if b then t.gw.loadB else t.gw.loadA) = some { req := q, rows := rows, fetched := false } ∧ t.gw.held = (start q s).gw.held ∧ t.mem = s.mem ∧
          t.job = s.job ∧ t.log = s.log) ∧
      ((n.toNat = 0 ∨ 16384 < n.toNat ∨ rows.length ≠ n.toNat) →
        exec (.ttLoad q slot n rows) s = .next (answered q 0x32 Status.badField (fieldDetail 0x32 1) [] s))) ∧
    (∀ j : LoadJob, (if b then s.gw.loadB else s.gw.loadA) = some j →
      (checkRows s j.rows = .ok [] →
        ∃ t, exec (.ttLoadDone b) s = .next t ∧
          slotOf t b = { state := .loaded, rows := j.rows, digest := slotDigest j.rows, entry := 0, lowered := none } ∧
          slotOf t (!b) = slotOf s (!b) ∧ t.seq.slotGen = s.seq.slotGen + 1 ∧ (if b then t.gw.loadB else t.gw.loadA) = none ∧
          t.gw.held = s.gw.held ++ [completionOf s j.req 0x32 Status.ok 0 (wordBytes (slotDigest j.rows) ++ leBytes 4 j.rows.length)] ∧
          t.mem = s.mem ∧ t.job = s.job ∧ t.log = s.log) ∧
      (∀ e : LoadFault, checkRows s j.rows = .error e → e.1 ≠ Status.generatorOverlap →
        ∃ t, exec (.ttLoadDone b) s = .next t ∧ t.seq = s.seq ∧ (if b then t.gw.loadB else t.gw.loadA) = none ∧
          t.gw.held = s.gw.held ++ [completionOf s j.req 0x32 e.1 (rowDetail b e.2.1 e.2.2) []] ∧ t.mem = s.mem ∧ t.log = s.log)) ∧
    ((if b then s.gw.loadB else s.gw.loadA) = none → exec (.ttLoadDone b) s = .next s) ∧
    (∀ entry : BitVec 32, Starts 0x33 0 q (inState s [.running] && onNamed slot (armable s)) s →
      (entry.toNat ∉ entryRows (slotOf s b).rows →
        exec (.ttArm q slot entry) s = .next (answered q 0x33 Status.badField (fieldDetail 0x33 1) [] s)) ∧
      (entry.toNat ∈ entryRows (slotOf s b).rows → fencedRow s (slotOf s b).rows = none →
        ∃ t, exec (.ttArm q slot entry) s = .next t ∧ slotOf t b = { slotOf s b with state := .armed, entry := entry.toNat } ∧
          slotOf t (!b) = slotOf s (!b) ∧ t.gw = (answered q 0x33 Status.ok 0 [] s).gw ∧ t.seq.run = s.seq.run ∧ t.mem = s.mem ∧
          t.log = s.log)) ∧
    (Starts 0x34 0 q (onNamed slot (fun b => slotIs s b [.loaded, .armed] && !slotBusy s b)) s →
      ∃ t, exec (.ttDiscard q slot) s = .next t ∧
        ((slotOf s b).state = .armed → slotOf t b = { slotOf s b with state := .loaded }) ∧
        ((slotOf s b).state = .loaded → slotOf t b = Slot.empty) ∧ slotOf t (!b) = slotOf s (!b) ∧
        t.gw = (answered q 0x34 Status.ok 0 [] s).gw ∧ t.seq.run = s.seq.run ∧ t.mem = s.mem ∧ t.log = s.log)

/-- R184 to R192, spec/09_memory.md R214: CHECK_PLAN and LOWER of a legal inline plan take the lowering group and change no slot; the
check ends with the footprint, PLAN_TOO_LARGE where a tier is short; the lowering ends with the slot LOADED with the rows lowered, or
refused with the slot as it was; a plan blob with a chunk that does not open is BLOB_AUTH. R109, R190, R195: rows that a lowering gives
serve the plan's passages: a PASS row has its passage's shifts and order, and under STRICT a passage in TREE order has one cover unit of
each super-group in a row. -/
def Sys2Proof.Claims.PlansAreCheckedAndLowered : Prop :=
  ∀ (s : State) (q : Req) (p : Plan), s.pair.role = .solo →
    (Starts 0x30 0 q (inState s [.ready, .job, .halted] && s.gw.lowering.isNone) s → planFault p = none →
      exec (.checkPlan q p .inline) s = .next { start q s with gw := { (start q s).gw with lowering := (
        some { req := q, slot := none, plan := p, snapshot := descriptor s, window := none, offset := 0, length := 0, fetched := false }) } }) ∧
    (∀ e, Starts 0x30 0 q (inState s [.ready, .job, .halted] && s.gw.lowering.isNone) s → planFault p = some e →
      exec (.checkPlan q p .inline) s = .next (answered q 0x30 e.1 e.2 [] s)) ∧
    (∀ (slot : BitVec 8), slot.toNat ≤ 1 → Starts 0x31 0 q (s.gw.lowering.isNone && onNamed slot (slotFree s)) s →
      planFault p = none → exec (.lower q slot p .inline) s = .next { start q s with gw := { (start q s).gw with lowering := (
        some { req := q, slot := some (slot = 1), plan := p, snapshot := descriptor s, window := none, offset := 0, length := 0, fetched := false }) } }) ∧
    (∀ (j : LowerJob) (f : Footprint), s.gw.lowering = some j → j.window = none → f = footprint j.plan j.snapshot →
      (j.slot = none → ∃ t, exec .checkPlanDone s = .next t ∧ t = { s with gw := { s.gw with
          lowering := none
          held := s.gw.held ++ [completionOf s j.req 0x30 (if f.tooLarge then Status.planTooLarge else Status.ok) 0 f.bytes] } }) ∧
      (∀ b, j.slot = some b → f.tooLarge = true → ∃ t, exec .lowerDone s = .next t ∧ t = { s with gw := { s.gw with
          lowering := none, held := s.gw.held ++ [completionOf s j.req 0x31 Status.planTooLarge 0 []] } }) ∧
      (∀ b, j.slot = some b → f.tooLarge = false → exec .lowerDone s =
        .next (settled s (endLowering j b j.plan (lowerPlan j.plan j.snapshot) { s with gw := { s.gw with lowering := none } }))) ∧
      (∀ b n, endLowering j b j.plan (.inr n) s = { s with gw := { s.gw with
        held := s.gw.held ++ [completionOf s j.req 0x31 Status.notLowerable (BitVec.ofNat 64 (n.1 + n.2.1 * 2 ^ 32 + n.2.2 * 2 ^ 40)) []] } }) ∧
      (∀ b rows barriers, checkRowsIn (snapServes j.snapshot) s rows = .ok [] →
        ∃ t, settled s (endLowering j b j.plan (.inl (rows, barriers)) s) = t ∧
          slotOf t b = { state := .loaded, rows := rows, digest := slotDigest rows, entry := 0, lowered := (
            some { plan := j.plan, snapshot := j.snapshot, barriers := barriers }) } ∧ slotOf t (!b) = slotOf s (!b) ∧
          t.seq.slotGen = s.seq.slotGen + 1 ∧ t.mem = s.mem ∧ t.job = s.job ∧ t.log = s.log ∧
          t.gw.held = s.gw.held ++ [completionOf s j.req 0x31 Status.ok 0 (wordBytes (slotDigest rows) ++ sha384 j.plan.bytes ++
            sha384 (wordBytes j.snapshot) ++ leBytes 4 rows.length ++ wordBytes (snapVersion j.snapshot) ++
            [BitVec.ofNat 8 (b2n (relaxedFor s j.plan))])])) ∧
    (∀ (j : LowerJob) (b : Bool) (w : BitVec 8) (k n : Nat), s.gw.lowering = some j → j.slot = some b → j.window = some w →
      n = blobText j.length.toNat → readBlob s (windowAddr s w.toNat j.offset.toNat) n (chunkCount n) 0 = .inl k →
      ∃ t, exec .lowerDone s = .next t ∧ t.gw = { s.gw with
          lowering := none, held := s.gw.held ++ [completionOf s j.req 0x31 Status.blobAuth 0 []] } ∧ t.seq = s.seq ∧ t.mem = s.mem ∧
        t.log = s.log.push (s.log.stamp Code.hostBlobAuth 0 (zeros 4 ++ leBytes 6 (j.offset.toNat + 65568 * k)))) ∧
    (∀ d : BitVec 1024, (planPaired p ≠ snapPaired d → lowerPlan p d = .inr (0, 7, 5)) ∧
      ∀ x, lowerPlan p d = .inl x → accepted p d (loweringOf p d) = .inl x) ∧
    (∀ (d : BitVec 1024) (c : Option Config.Lowering) (rows : List Row) (barriers : List Nat), accepted p d c = .inl (rows, barriers) →
      rows.length ≤ snapRows d ∧ rows ≠ [] ∧ ∃ served : List (Option (BitVec 32)), served.length = rows.length ∧
        ∀ k, k < rows.length → rowKind (nth rows k 0) = 1 → ∃ x ∈ p.passages, nth served k none = some x.ident ∧ x.kind = .product ∧
          ((passOf (nth rows k 0)).kw, (passOf (nth rows k 0)).ka) = x.shifts.getD (0, 0) ∧
          (accOf (accBits (nth rows k 0))).order = x.order ∧
          (planRelaxed p = false → x.order = 0 → coverOk x.cover (productGroups p x) (passOf (nth rows k 0)) = true)) ∧
    (s.gw.lowering = none → exec .checkPlanDone s = .next s ∧ exec .lowerDone s = .next s)

/-- spec/09_memory.md R210 to R213: a plan larger than both tiers is short; one whose near tensors exceed the near tier moves the least
read of them to the far tier, and one whose far tensors exceed the far tier moves the most read up; every tensor moved comes from the
level that overflows, and no more is moved once it fits. -/
def Sys2Proof.Claims.FootprintMovesTheRightTensors : Prop :=
  ∀ l : List TensorUse,
    (footprintOf l).near = demandOf l false ∧ (footprintOf l).far = demandOf l true ∧
    (nearBytes + farBytes < demandOf l false + demandOf l true → (footprintOf l).tooLarge = true ∧ (footprintOf l).spilled = [] ∧
      (footprintOf l).raised = []) ∧
    (demandOf l false ≤ nearBytes → demandOf l true ≤ farBytes → (footprintOf l).tooLarge = false ∧ (footprintOf l).spilled = [] ∧
      (footprintOf l).raised = []) ∧
    (∀ t ∈ (footprintOf l).spilled, t ∈ l ∧ t.level = 1) ∧ (∀ t ∈ (footprintOf l).raised, t ∈ l ∧ t.level = 2) ∧
    ((footprintOf l).tooLarge = false → (footprintOf l).near - ((footprintOf l).spilled.map TensorUse.alloc).sum +
      ((footprintOf l).raised.map TensorUse.alloc).sum ≤ nearBytes) ∧
    ((footprintOf l).tooLarge = false → (footprintOf l).far - ((footprintOf l).raised.map TensorUse.alloc).sum +
      ((footprintOf l).spilled.map TensorUse.alloc).sum ≤ farBytes) ∧
    ((∀ t ∈ l, 0 < t.alloc) → (footprintOf l).spilled.Pairwise (fun a b => spillBefore b a = false) ∧
      (footprintOf l).raised.Pairwise (fun a b => raiseBefore b a = false))

/-! ### Regions, spec/07_timetable.md R164, R178, spec/17_modes_repair.md R400 to R403 -/

/-- R178: a gated region wakes when a row that names it is due, is clocked at the end of its wake, and is gated again when nothing uses it;
otherwise these events change nothing. -/
def Sys2Proof.Claims.RegionsWakeAndGate : Prop :=
  ∀ (s : State) (r : Fin 64),
    (wakes s r.val = true → exec (.regionWakeStart r) s = .next (onRegion r.val (fun g => { g with clock := .waking }) s)) ∧
    (wakes s r.val = false → exec (.regionWakeStart r) s = .next s) ∧
    (∀ g, region s r.val = g → g.clock = .waking → regionsUp s = true → exec (.regionReady r) s =
      .next (onRegion r.val (fun x => { x with
        clock := .ready, clkStep := max (min (min g.clkStep (regionTarget s r.val)) (stepCeil s r.val)) (stepFloor s r.val) }) s)) ∧
    ((region s r.val).clock ≠ .waking → exec (.regionReady r) s = .next s) ∧
    ((region s r.val).clock = .ready → idle s r.val = true → s.gw.runstate = .running →
      exec (.regionGate r) s = .next (onRegion r.val (fun g => { g with clock := .gated }) s)) ∧
    (idle s r.val = false → exec (.regionGate r) s = .next s)

/-- R401, R403: REGION_CTL FENCE of a region in service puts it on the slipway with REGION_FENCE at once without a run, and waits for the
step boundary of an active one; RETURN of a region that it fenced starts a retest. A passed retest returns the region to service, at
once without a run; a failed one leaves it fenced with SELFTEST_FAIL and its failing cores to be replaced. -/
def Sys2Proof.Claims.RegionsAreFencedAndReturned : Prop :=
  ∀ (s : State), s.pair.role = .solo → s.regions.length = 64 →
    (∀ (q : Req) (r action : BitVec 8), Starts 0x62 0 q (regionAccepts s r.toNat action.toNat) s →
      (64 ≤ r.toNat → exec (.regionCtl q r action) s = .next (answered q 0x62 Status.badField (fieldDetail 0x62 0) [] s)) ∧
      (r.toNat < 64 → 1 < action.toNat → exec (.regionCtl q r action) s =
        .next (answered q 0x62 Status.badField (fieldDetail 0x62 1) [] s)) ∧
      (∀ run, r.toNat < 64 → action = 0 → s.seq.run = some run → s.gw.runstate = .running → exec (.regionCtl q r action) s =
        .next (onRegion r.toNat (fun g => { g with pendingFence := some .command }) (answered q 0x62 Status.ok 0 [] s))) ∧
      (r.toNat < 64 → action = 0 → s.seq.run = none →
        ∃ t, exec (.regionCtl q r action) s = .next t ∧ (region t r.toNat).mode = .slipway .command ∧
          (region t r.toNat).clock = .gated ∧ (region t r.toNat).retest = false ∧ (∀ k, k ≠ r.toNat → region t k = region s k) ∧
          t.log = s.log.push (s.log.stamp Code.regionFence 0 ([BitVec.ofNat 8 r.toNat] ++ slotByte s.seq.haltSlot ++ leBytes 2 s.seq.haltRow.toNat)) ∧
          t.mem = s.mem ∧ t.seq = s.seq) ∧
      (r.toNat < 64 → action = 1 → s.power.state ≠ .doze →
        ∃ t, exec (.regionCtl q r action) s = .next t ∧ (region t r.toNat).mode = .slipway .regionReset ∧
          (region t r.toNat).retest = true ∧ (region t r.toNat).clock = .waking ∧ (∀ k, k ≠ r.toNat → region t k = region s k) ∧
          t.log = s.log ∧ t.mem = s.mem ∧ t.seq = s.seq)) ∧
    (∀ (r : Fin 64), (region s r.val).retest = true → (region s r.val).clock = .ready → s.gw.powerCmd = none →
      (s.seq.run = none → (∃ c, (region s r.val).mode = .slipway c ∧ c ≠ .command) →
        ∃ t, exec (.retestComplete r [] true) s = .next t ∧ (region t r.val).mode = .service ∧ (region t r.val).retest = false ∧
          t.log = s.log ∧ t.mem = s.mem ∧ t.seq = s.seq) ∧
      (∀ k : Fin 144, (∃ t, exec (.retestComplete r [k] true) s = .next t ∧ (region t r.val).mode = .fenced .selftest ∧
        (region t r.val).clock = .gated ∧ k.val ∈ (region t r.val).failing ∧ (∀ j, j ≠ r.val → region t j = region s j) ∧
        t.log = s.log.push (s.log.stamp Code.selftestFail 0 ([BitVec.ofNat 8 r.val] ++ coreParam r.val k.val)) ∧ t.seq = s.seq ∧
        t.mem = s.mem))) ∧
    (∀ (r : Fin 64) f ok, (region s r.val).retest = false → exec (.retestComplete r f ok) s = .next s)

/-- R402: where the plan of an abandoned step can be lowered again the step restarts in the other slot with one attempt more, the entry
verdicts restored; where it cannot, the run halts with REGION_FENCED. Without an abandoned step nothing happens. -/
def Obligations.AbandonedStepsRestartDegraded : Prop :=
  ∀ (s : State) (r : ActiveRun), s.pair.role = .solo → s.seq.run = some r →
    (r.abandoning = none → exec .degradedRestart s = .next s) ∧
    (∀ (h : Halt) (l : Lowered), r.abandoning = some h → mayLowerAgain s = true → (slotOf s r.slot).lowered = some l →
      (slotOf s (!r.slot)).state ≠ .armed →
      exec .degradedRestart s = .next (settled s (endDegraded r (lowerAgain s l (descriptor s)) s)) ∧
      (h.cause = Status.regionFenced → s.power.sleepReq = false → s.trust.debugWait = none → s.gw.image = none →
        ∃ t, settled s (endDegraded r none s) = t ∧ t.gw.runstate = .halted ∧ t.seq.haltCause = Status.regionFenced ∧ t.seq.run = none ∧
          t.mem.tier = s.mem.tier) ∧
      (∀ x : List Row × Lowered × List Nat, x.2.2 = [] →
        (∀ k ∈ otherMembers s 0, (nextHop s (myNode s) (rankNode (rankEntry s k)) none).isSome = true) →
        ∃ t e, settled s (endDegraded r (some x) s) = t ∧ e = mapEntry (slotOf s r.slot).rows x.1 r.stepEntry ∧
          t.seq.run = some { r with slot := !r.slot, next := e, stepEntry := e, attempt := r.attempt + 1, committed := false,
                                    abandoning := none, restartAt := none, waitCause := none } ∧
          (slotOf t (!r.slot)).state = .active ∧ (slotOf t (!r.slot)).rows = x.1 ∧ (slotOf t r.slot).state = .loaded ∧
          (∀ v, s.seq.entryVerdict = some v → t.seq.a4 = v.1 ∧ t.seq.hold = v.2) ∧ t.seq.step = s.seq.step ∧ t.seq.flags = [] ∧
          t.mem = s.mem ∧ t.log = s.log))

/-! ### Seals and images, spec/14_trust.md R334 to R343 -/

/-- R334, R335, R338: SEAL with legal ranges and a window that holds its output begins SEALING, writes the 64-byte head, and leaves the
tiers as they are; an illegal range list is BAD_FIELD. At the end the manifest stands after the chunks, SEAL_DONE is written, and the
reply carries the manifest's SHA-384 and the bytes written. SEAL_RESUME goes on at the checkpoint with RESUME one higher. Log entry 11
gives the nonce's draw. -/
def Sys2Proof.Claims.SealsWriteHeadChunksAndManifest : Prop :=
  ∀ s : State,
    (∀ (q : Req) (ident : BitVec 64) (window : BitVec 32) (offset : BitVec 64) (l : List (BitVec 128)),
      Starts 0x40 0 q (inState s [.job, .running, .halted] && maintNone s && s.gw.seals.isNone) s →
      (rangesOk s l = false → exec (.sealTiers q ident window offset l) s =
        .next (answered q 0x40 Status.badField (fieldDetail 0x40 3) [] s)) ∧
      (rangesOk s l = true → (255 < window.toNat ∨ windowHolds s window.toNat offset.toNat (sealBytes l) = false) →
        exec (.sealTiers q ident window offset l) s = .next (answered q 0x40 Status.badField (fieldDetail 0x40 1) [] s)) ∧
      (rangesOk s l = true → window.toNat ≤ 255 → windowHolds s window.toNat offset.toNat (sealBytes l) = true →
        ∃ t j, exec (.sealTiers q ident window offset l) s = .next t ∧ t.gw.seals = some j ∧ j.req = q ∧ j.kind = .seal ∧
          j.sealId = ident ∧ j.sealNonce = Config.random64 s.free ∧ j.ranges = l ∧ j.chunk = 0 ∧ j.resume = 0 ∧ j.tag = 0 ∧
          t.trust.sealing = true ∧ t.trust.checkpoint = some { job := j, chunk := 0, tag := 0 } ∧ t.gw.held = (start q s).gw.held ∧
          t.mem = (writeMem 3 (windowAddr s window.toNat offset.toNat) (sealHead ident (Config.random64 s.free) l) s).mem ∧
          t.seq = s.seq ∧ t.log = s.log)) ∧
    (∀ j : SealJob, s.gw.seals = some j → j.kind ≠ .unseal → s.gw.linkUp = true →
      (sealChunks j.ranges ≤ j.chunk →
        ∃ t m, exec .sealComplete s = .next t ∧ m = manifestBody s j ++ manifestTag s j.sealId j.sealNonce (manifestBody s j) ∧
          t.gw.seals = none ∧ t.trust.sealing = false ∧ t.trust.checkpoint = none ∧
          t.gw.held = s.gw.held ++ [completionOf s j.req (sealOp j) Status.ok 0
            (sha384 (m ++ wordBytes (ecdsaSign s.identity.priv (Config.random384 s.free) m)) ++ leBytes 8 (sealBytes j.ranges))] ∧
          t.mem = (writeMem 3 (windowAddr s j.window.toNat (j.offset.toNat + manifestOffset j.ranges))
            (m ++ wordBytes (ecdsaSign s.identity.priv (Config.random384 s.free) m)) s).mem ∧
          t.log = s.log.push (s.log.stamp Code.sealDone 0 []) ∧ t.seq = s.seq) ∧
      (j.chunk < sealChunks j.ranges → exec .sealComplete s = .next s) ∧
      (sealChunks j.ranges ≤ j.chunk → exec .sealCheckpoint s = .next s)) ∧
    (∀ (q : Req) (ident : BitVec 64) (c : Checkpoint), s.trust.checkpoint = some c → c.job.sealId = ident →
      Starts 0x41 0 q (inState s [.job, .halted] && maintNone s && s.gw.seals.isNone && (checkpointOf s ident).isSome) s →
      windowHolds s c.job.window.toNat c.job.offset.toNat (sealBytes c.job.ranges) = true →
      ∃ t, exec (.sealResume q ident) s = .next t ∧
        t.gw.seals = some { c.job with req := q, kind := .resume, chunk := c.chunk, tag := c.tag, resume := c.job.resume + 1 } ∧
        t.trust.sealing = true ∧ t.gw.held = (start q s).gw.held ∧ t.mem = s.mem ∧ t.seq = s.seq ∧ t.log = s.log) ∧
    (s.gw.seals = none → exec .sealCheckpoint s = .next s ∧ exec .sealComplete s = .next s ∧ exec .unsealComplete s = .next s)

/-- R336, R338: the last chunks of a seal whose tier units read well are written to the window, each sealed over
its plaintext and the tag before it; the checkpoint is the state after them, and the tiers are as they were. -/
def Sys2Proof.Claims.SealCheckpointWritesChunks : Prop :=
  ∀ (s : State) (j : SealJob) (r : BitVec 128) (pt c : List Byte), s.gw.seals = some j → j.kind ≠ .unseal → s.gw.linkUp = true →
    inPair s = false → j.ranges = [r] → 0 < rangeLen r → rangeLen r ≤ 65536 → j.chunk = 0 → TierGood s (rangeAddr r) (rangeLen r) →
    pt = readMem s 0 (rangeAddr r) (rangeLen r) →
    c = sealChunk (sealKey s j.sealId j.sealNonce) j.sealNonce 0 true j.resume.toNat (wordBytes j.tag) pt →
    ∃ t k, exec .sealCheckpoint s = .next t ∧ t.gw.seals = some k ∧ k.chunk = 1 ∧ k.tag = bytesWord 128 (c.drop (c.length - 16)) ∧
      k.ranges = j.ranges ∧ k.sealId = j.sealId ∧ k.sealNonce = j.sealNonce ∧ t.trust.checkpoint = some { job := k, chunk := 1, tag := k.tag } ∧
      t.mem = (writeMem 3 (windowAddr s j.window.toNat (j.offset.toNat + 64)) c s).mem ∧ t.mem.tier = s.mem.tier ∧ t.gw.held = s.gw.held ∧
      t.seq = s.seq ∧ t.log = s.log

/-- R336, R339: UNSEAL of a window without a valid seal is BLOB_AUTH with UNSEAL_FAIL and writes nothing; of a valid one it starts the
unsealing. When every chunk opens, the tiers hold the plaintext, and UNSEAL_DONE and the ranges are reported; the chunk that fails stops
it with UNSEAL_FAIL. -/
def Obligations.UnsealOpensOnlyAValidSeal : Prop :=
  ∀ s : State,
    (∀ (q : Req) (window : BitVec 32) (offset : BitVec 64),
      Starts 0x42 0 q (inState s [.ready, .job, .halted] && maintNone s && s.gw.seals.isNone) s →
      ((255 < window.toNat ∨ windowHolds s window.toNat offset.toNat 64 = false) →
        exec (.unsealTiers q window offset) s = .next (answered q 0x42 Status.badField (fieldDetail 0x42 0) [] s)) ∧
      (∀ f, window.toNat ≤ 255 → windowHolds s window.toNat offset.toNat 64 = true → findSeal s window.toNat offset.toNat = some f →
        (sealValid s f = false → ∃ t, exec (.unsealTiers q window offset) s = .next t ∧ t.gw.seals = none ∧ t.mem = s.mem ∧
          t.log = s.log.push (s.log.stamp Code.unsealFail 0 []) ∧
          t.gw.held = (start q s).gw.held ++ [completionOf s q 0x42 Status.blobAuth 0 (sha384 f.whole ++ leBytes 8 0)]) ∧
        (sealValid s f = true → (fsRanges f).all (rangeExists s) = true →
          ∃ t j, exec (.unsealTiers q window offset) s = .next t ∧ t.gw.seals = some j ∧ j.kind = .unseal ∧ j.req = q ∧
            j.ranges = fsRanges f ∧ j.tag = fsLastTag f ∧ j.chunk = 0 ∧ t.mem = s.mem ∧ t.gw.held = (start q s).gw.held ∧ t.log = s.log))) ∧
    (∀ (j : SealJob) (r : BitVec 128) (pt : List Byte), s.gw.seals = some j → j.kind = .unseal → s.gw.linkUp = true → inPair s = false →
      j.ranges = [r] → 0 < rangeLen r → rangeLen r ≤ 65536 →
      (openChunk (sealKey s j.sealId j.sealNonce) j.sealNonce 0 true none (zeros 16) (chunkAt s j 0) = some pt → pt.length = rangeLen r →
        wordBytes j.tag = (chunkAt s j 0).drop ((chunkAt s j 0).length - 16) →
        ∃ t, exec .unsealComplete s = .next t ∧ t.gw.seals = none ∧ t.mem = (writeMem 0 (rangeAddr r) pt s).mem ∧
          t.gw.held = s.gw.held ++ [completionOf s j.req 0x42 Status.ok 0 (unsealDigest s j ++ leBytes 8 1 ++ wordBytes r)] ∧
          t.log = s.log.push (s.log.stamp Code.unsealDone 0 []) ∧ t.seq = s.seq) ∧
      (openChunk (sealKey s j.sealId j.sealNonce) j.sealNonce 0 true none (zeros 16) (chunkAt s j 0) = none →
        ∃ t, exec .unsealComplete s = .next t ∧ t.gw.seals = none ∧
          t.mem = { s.mem with tier := sdelRange s.mem.tier (rangeAddr r) (rangeAddr r + rangeLen r), era := s.mem.era + 1 } ∧
          t.gw.held = s.gw.held ++ [completionOf s j.req 0x42 Status.blobAuth 0 (unsealDigest s j ++ leBytes 8 0)] ∧
          t.log = s.log.push (s.log.stamp Code.unsealFail 0 []))) ∧
    (s.gw.seals = none → exec .unsealComplete s = .next s)

/-- R340 to R343, R318: IMAGE_STAGE writes the area that is not running, and the image is staged only if it passes R341, else BAD_IMAGE or
ROLLBACK with IMAGE_REJECT; IMAGE_ACTIVATE holds the gangway at once without a run; the start check confirms the new image, blowing the
fuses up to its LEVEL, or the earlier one runs again with IMAGE_REVERT. -/
def Obligations.ImagesAreStagedAndActivated : Prop :=
  ∀ s : State, s.pair.role = .solo →
    (∀ (q : Req) (window : BitVec 32) (offset length : BitVec 64), Starts 0x50 0 q (maintNone s && s.gw.image.isNone) s →
      window.toNat ≤ 255 → windowHolds s window.toNat offset.toNat length.toNat = true →
      ∃ t j, exec (.imageStage q window offset length) s = .next t ∧ t.gw.image = some j ∧ j.req = q ∧ j.activate = false ∧
        j.image = readMem s 3 (windowAddr s window.toNat offset.toNat) length.toNat ∧
        runningImage t = runningImage s ∧ otherImage t = Image.invalid ∧ t.trust.running = s.trust.running ∧ t.gw.held = (start q s).gw.held ∧
        t.mem = s.mem ∧ t.seq = s.seq ∧ t.log = s.log) ∧
    (∀ j : ImageJob, s.gw.image = some j → j.activate = false → j.req ≠ farReq →
      (∀ st, imgFault s j.image = some st → ∃ t, exec .imageStageComplete s = .next t ∧ t.gw.image = none ∧ t.trust = s.trust ∧
        t.gw.held = s.gw.held ++ [completionOf s j.req 0x50 st 0 []] ∧ t.log = s.log.push (s.log.stamp Code.imageReject 0 [])) ∧
      (imgFault s j.image = none → ∃ t, exec .imageStageComplete s = .next t ∧ t.gw.image = none ∧ t.trust.imageStaged = true ∧
        otherImage t = imgOf j.image ∧ runningImage t = runningImage s ∧ t.trust.running = s.trust.running ∧
        t.trust.rollback = s.trust.rollback ∧ t.log = s.log ∧ t.seq = s.seq ∧ t.gw.held.length = s.gw.held.length + 1)) ∧
    (∀ q, Starts 0x51 0 q (s.trust.imageStaged && s.gw.image.isNone && s.gw.seals.isNone && stagedAlike s) s →
      ∃ t, exec (.imageActivate q) s = .next t ∧ t.gw.held = (start q s).gw.held ∧ t.seq = s.seq ∧
        (s.seq.run = none → t.trust = { s.trust with flagged := !s.trust.running } ∧ t.gw.hold = true ∧ ∃ j, t.gw.image = some j ∧ j.activate = true ∧ j.started = true) ∧
        (∀ r, s.seq.run = some r → r.asleep = false → t.trust = s.trust ∧ t.gw.hold = false ∧ ∃ j, t.gw.image = some j ∧ j.activate = true ∧ j.started = false)) ∧
    (∀ j : ImageJob, s.gw.image = some j → j.activate = true → j.started = true → j.req ≠ farReq → policyTakes s (otherImage s).header = true →
      (∃ t, exec (.firmwareStartCheck true) s = .next t ∧ t.trust.running = !s.trust.running ∧ runningImage t = otherImage s ∧
        t.trust.flagged = t.trust.running ∧ t.trust.imageStaged = false ∧ t.trust.unconfirmed = none ∧
        t.trust.rollback = (if s.trust.rollback.toNat < (otherImage s).level.toNat then (otherImage s).level else s.trust.rollback) ∧
        t.gw.hold = false ∧ t.gw.image = none ∧ t.log = s.log.push (s.log.stamp Code.imageActivated 0 []) ∧
        t.gw.held = s.gw.held ++ [completionOf s j.req 0x51 Status.ok 0 (wordBytes (otherImage s).version)]) ∧
      (∃ t, exec (.firmwareStartCheck false) s = .next t ∧ t.trust.running = s.trust.running ∧ runningImage t = runningImage s ∧
        t.trust.rollback = s.trust.rollback ∧ t.trust.imageStaged = false ∧ t.gw.hold = false ∧ t.gw.image = none ∧
        t.log = s.log.push (s.log.stamp Code.imageRevert 0 []) ∧
        t.gw.held = s.gw.held ++ [completionOf s j.req 0x51 Status.badImage 0 []])) ∧
    (s.gw.image = none → exec .imageStageComplete s = .next s ∧
      (s.trust.unconfirmed ≠ some s.trust.running → ∀ ok, exec (.firmwareStartCheck ok) s = .next s) ∧
      (s.trust.unconfirmed = some s.trust.running →
        ∃ t, exec (.firmwareStartCheck true) s = .next t ∧ t.trust.unconfirmed = none ∧ t.trust.running = s.trust.running ∧
          t.log = s.log.push (s.log.stamp Code.imageActivated 0 [])))

/-! ### Lashed pairs, spec/12_lashing.md R271 to R288 -/

/-- R271, R272, R286: LASH without a bridge is LASH_LINK_FAIL and with a ROLE above 1 is BAD_FIELD; with a bridge it is pending and starts
the bring-up, and expires with LASH_TIMEOUT if no bring-up with the partner has started. When the port is up and the partner's record is
known the pair is formed: its role, a record EPOCH above both, both slots EMPTY and PAIR_LASHED. UNLASH leaves SOLO with the record's
EPOCH one higher, both slots EMPTY, the sessions closed and PAIR_UNLASHED written on each half, as
log entry 67 says. -/
def Obligations.PairsAreFormedAndParted : Prop :=
  ∀ (s : State) (q : Req),
    (∀ (partner : Fp) (role : BitVec 8), Starts 0x23 0 q (mayLash s) s →
      (1 < role.toNat → exec (.lash q partner role) s = .next (answered q 0x23 Status.badField (fieldDetail 0x23 1) [] s)) ∧
      (role.toNat ≤ 1 → s.pins.lashSenseN = true → exec (.lash q partner role) s = .next (answered q 0x23 Status.lashLinkFail 0 [] s)) ∧
      (role.toNat ≤ 1 → s.pins.lashSenseN = false → (port s 6).state = .off → (port s 6).hs = .idle → s.fab.ports.length = 7 →
        ∃ t, exec (.lash q partner role) s = .next t ∧
          t.gw.lash = some { req := q, partner := partner, primary := decide (role = 0), bringup := false, found := none } ∧
          t.gw.held = (start q s).gw.held ∧ t.pair = s.pair ∧ SameData s t ∧ t.log = s.log ∧
          (s.power.rails = true → s.power.state ≠ .sleep → (port t 6).hs = .train))) ∧
    (∀ j : LashJob, s.gw.lash = some j →
      (j.bringup = true → exec .lashExpiry s = .next s) ∧
      (j.bringup = false → ∃ t, exec .lashExpiry s = .next t ∧ t.gw.lash = none ∧ t.pair = s.pair ∧ SameData s t ∧ t.log = s.log ∧
        t.gw.held = s.gw.held ++ [completionOf s j.req 0x23 Status.lashTimeout 0 []]) ∧
      (j.found = none → exec .pairFormed s = .next s) ∧
      (∀ epoch regions, j.found = some (epoch, regions) → (port s 6).state = .active → s.pair.role = .solo →
        s.pair.record.epoch.toNat < 2 ^ 64 - 1 → epoch.toNat < 2 ^ 64 - 1 →
        ∃ t, exec .pairFormed s = .next t ∧ t.pair.role = (if j.primary then .primary else .secondary) ∧ t.pair.record.lashed = true ∧
          s.pair.record.epoch < t.pair.record.epoch ∧ epoch < t.pair.record.epoch ∧
          t.pair.record.primaryFp = (if j.primary then identityFp s else j.partner) ∧
          t.pair.record.secondaryFp = (if j.primary then j.partner else identityFp s) ∧ t.pair.record.ownerFp = ownerFp s ∧
          t.pair.peerRegions = regions ∧ t.seq.slotA = Slot.empty ∧ t.seq.slotB = Slot.empty ∧ t.gw.lash = none ∧ t.mem = s.mem ∧
          t.regions = s.regions ∧ t.gw.held.length = s.gw.held.length + 1 ∧
          (j.primary = true → t.log = s.log.push (s.log.stamp Code.pairLashed 1 [])) ∧
          (j.primary = false → s.trust.debug = none → s.trust.debugWait = none → t.log = s.log ∧ t.gw.sessions = []))) ∧
    (s.gw.lash = none → exec .lashExpiry s = .next s ∧ exec .pairFormed s = .next s) ∧
    (∀ token, Starts 0x24 0 q (mayUnlash s) s → (s.pair.role = .primary ∨ s.pair.role = .stranded ∨
        s.pair.role = .secondary ∧ ∃ k, token = some k ∧ tokenCheck 4 true k s = none) → s.fab.ports.length = 7 → s.trust.debugWait = none →
      ∃ t, exec (.unlash q token) s = .next t ∧ t.pair.role = .solo ∧ t.pair.record.epoch = s.pair.record.epoch + 1 ∧
        t.pair.record.lashed = false ∧ t.seq.slotA = Slot.empty ∧ t.seq.slotB = Slot.empty ∧ t.gw.sessions = [] ∧
        (port t 6).peer = none ∧ (port t 6).state ≠ .active ∧ t.mem = s.mem ∧ t.regions = s.regions ∧
        t.gw.held.length = (start q s).gw.held.length + 1 ∧ t.gw.held.getLast? = some (completionOf s q 0x24 Status.ok 0 []) ∧
        t.log = s.log.push (s.log.stamp Code.pairUnlashed
          (match s.pair.role with | .primary => 1 | .secondary => 5 | _ => 0) []))

/-- R280 to R282, R285: what two copies of a mirrored item come to: the one whose CRC passes, else the later epoch, else agreement; two
copies that both pass with one epoch and differ, and two that both fail, are lost or divergent. R278, R281: where an item diverges both
halves halt and DIVERGENT_COPIES is written; where a STRANDED half finds its partner and the items agree, it takes the role of its record
and writes PAIR_REJOINED. -/
def Sys2Proof.Claims.MirroredItemsAreCompared : Prop :=
  (∀ (a b : Bool) (own other : Nat) (same : Bool),
    (judge (a, b) own other same = .give ↔ a = true ∧ (b = false ∨ other < own)) ∧
    (judge (a, b) own other same = .take ↔ b = true ∧ (a = false ∨ own < other)) ∧
    (judge (a, b) own other same = .lost ↔ a = false ∧ b = false) ∧
    (judge (a, b) own other same = .keep ↔ a = true ∧ b = true ∧ own = other ∧ same = true) ∧
    (judge (a, b) own other same = .diverge ↔ a = true ∧ b = true ∧ own = other ∧ same = false)) ∧
  (∀ (s : State) (i : PartnerItems), s.pair.compareDue = true → (port s 6).state = .active → s.gw.lash = none →
    (s.pair.role = .solo → exec (.lashBringupComplete i) s = .next { s with pair := { s.pair with compareDue := false } }) ∧
    (s.pair.role = .stranded → s.pair.recordOk = true → i.recordOk = (true, true) → i.record = s.pair.record → i.record.lashed = true →
      i.keyOk = (true, true) → i.keyEpoch = s.pair.keyEpoch → i.keyId = s.pair.keyId → i.tailOk = (true, true) →
      i.events = s.pair.events → i.tail = s.pair.tail → i.slotsOk = (true, true) → i.slotGen = s.seq.slotGen →
      slotItemBytes s.seq.slotA.item ++ slotItemBytes s.seq.slotB.item = slotItemBytes i.slotA ++ slotItemBytes i.slotB →
      ∃ t, exec (.lashBringupComplete i) s = .next t ∧
        t.pair.role = (if s.pair.record.primaryFp = identityFp s then .primary else .secondary) ∧
        t.pair.record.epoch = s.pair.record.epoch + 1 ∧ t.pair.keyEpoch = s.pair.keyEpoch + 1 ∧ t.pair.peerRegions = i.regions ∧
        t.seq = s.seq ∧ t.mem = s.mem ∧ t.regions = s.regions ∧ t.gw.held = s.gw.held ∧
        (s.pair.record.primaryFp = identityFp s → t.log = s.log.push (s.log.stamp Code.pairRejoined 1 []))) ∧
    (s.pair.role = .primary → s.seq.run = none → s.pair.recordOk = true → i.recordOk = (true, true) → i.record.lashed = true →
      i.record.epoch = s.pair.record.epoch → recordBytes i.record ≠ recordBytes s.pair.record →
      ∃ t, exec (.lashBringupComplete i) s = .next t ∧ t.pair = { s.pair with compareDue := false, diverged := true } ∧
        t.log = s.log.push (s.log.stamp Code.divergentCopies 0 ([1] ++ leBytes 8 s.pair.record.epoch.toNat ++
          wordBytes (crc32c (recordBytes s.pair.record)) ++ wordBytes (crc32c (recordBytes i.record)))) ∧ t.mem = s.mem ∧ t.seq = s.seq))

/-- R275 to R277, R284, R287: the other half's rendezvous is kept for this half's row; its contribution ends a row that waits for it with
both halves' flags, or is kept; its warm reset resets this half; what it passes over the lash port takes effect here, and a STRANDED half
starts a bring-up at its retry. A command of a pair does nothing on a SOLO half. -/
def Obligations.HalvesHearEachOther : Prop :=
  (∀ (s : State) (run : ActiveRun), inPair s = true → s.seq.run = some run →
    (∀ slot row, s.pair.sent = none → exec (.pairRendezvous slot row) s =
      .next { s with pair := { s.pair with got := s.pair.got ++ [(slot, row)] } }) ∧
    (∀ slot row, s.pair.sent = some (slot, row.toNat) → exec (.pairRendezvous slot row) s =
      .next { s with pair := { s.pair with got := s.pair.got ++ [(slot, row)] } }) ∧
    (∀ p : PairShare, (∀ f ∈ s.seq.flight, f.stage ≠ .remote) →
      exec (.pairContribution p) s = .next { s with pair := { s.pair with shares := s.pair.shares ++ [p] } }) ∧
    (∀ (p : PairShare) (f : Flight), s.seq.flight = [f] → f.stage = .remote → f.slot = p.slot → f.row = p.row.toNat → f.issue = p.issue →
      f.watch = [] → p.watch = none → s.seq.watchWait = [] → run.halting = none → run.restartAt = none →
      ∃ t, exec (.pairContribution p) s = .next t ∧ t.seq.flight = [] ∧ t.seq.run = s.seq.run ∧
        t.seq.flags = (if rowFreg f.bits = 0 then s.seq.flags
          else sput s.seq.flags (rowFreg f.bits) (sget s.seq.flags (rowFreg f.bits) 0 ||| (f.flags ||| p.flags))) ∧
        t.mem = s.mem ∧ t.gw = s.gw ∧ t.pair = s.pair)) ∧
  (∀ s : State, inPair s = true → s.power.rails = true →
    (∃ t, exec .partnerWarmReset s = .next t ∧ t.seq.run = none ∧ t.seq.flight = [] ∧ t.seq.a4 = [] ∧ t.mem.acc = [] ∧
      t.gw.sessions = [] ∧ t.regions.length = s.regions.length ∧ t.trust.ownerKey = s.trust.ownerKey) ∧
    (∀ b, exec (.pairForward (.arm b 0)) s = .next (armSlot b 0 s)) ∧
    (∀ d, exec (.pairForward (.imageStaged d)) s = .next { s with pair := { s.pair with peerImage := some d } }) ∧
    (∀ rank standIn, exec (.pairForward (.rankAbsent rank standIn)) s = .next (markAbsent rank standIn s)) ∧
    (∀ w : BitVec 64, s.seq.run = none → exec (.pairForward (.regions w false)) s =
      .next { s with pair := { s.pair with peerRegions := w } }) ∧
    (∃ t, exec (.pairForward .jobEnd) s = .next t ∧ t.gw.runstate = .ready ∧ t.job = Job.none ∧ t.seq = s.seq ∧ t.mem = s.mem ∧
      t.gw.held = s.gw.held) ∧
    (∀ r : RecordBody, s.pair.role = .secondary → ∃ t c, exec (.pairForward (.record r)) s = .next t ∧ c.source = r.source ∧ c.code = r.code ∧
      t.log = s.log.push (s.log.stamp c 5 r.params) ∧ t.pair = { s.pair with tail := r.crc, events := s.pair.events + 1 } ∧ t.mem = s.mem)) ∧
  (∀ s : State, s.pair.role = .solo → exec .strandedRetry s = .next s ∧ exec .partnerWarmReset s = .next s ∧
    (∀ f, exec (.pairForward f) s = .next s) ∧ (∀ b k, exec (.pairRendezvous b k) s = .next s) ∧
    (∀ p, exec (.pairContribution p) s = .next s)) ∧
  (∀ s : State, s.pair.role = .stranded → (port s 6).state = .off → (port s 6).hs = .idle → s.power.rails = true →
    s.power.state ≠ .sleep → s.trust.lifecycle = .enrolled → s.pins.lashSenseN = false →
    exec .strandedRetry s = .next (onPort 6 (fun x => { x with hs := .train, transcript := [] }) s))

/-! ### Reset and the canonical form -/

/-- The memory of every address space keeps its canonical form, and the 64 regions and seven ports are there. -/
def Sys2Proof.Claims.Canonical (s : State) : Prop :=
  Memory.wf s.mem.tier = true ∧ Memory.wf s.mem.staging = true ∧ Memory.wf s.mem.slice = true ∧ Memory.wf s.mem.host = true ∧
    sorted s.mem.acc = true ∧ s.regions.length = 64 ∧ s.fab.ports.length = 7

/-- The module as it leaves manufacture is in that form. -/
def Sys2Proof.Claims.ResetIsCanonical : Prop := Claims.Canonical State.reset

/-- Every step from every state in that form leads to a state in that form. -/
def Obligations.EveryStepKeepsTheCanonicalForm : Prop :=
  ∀ s t : State, Claims.Canonical s → step s = .next t → Claims.Canonical t

/-- The values that the spec gives for reset: lifecycle BLANK (R321), RUNSTATE STARTING, STANDBY, rings and indices 0 with PHASE 1
(Table 13-1, R292), slots EMPTY (R179), no session, regions fenced at 850 MHz, ports OFF, COOLANT_SET 55 °C and 25 % (Table 16-9). -/
def Sys2Proof.Claims.ResetState : Prop :=
  State.reset.trust.lifecycle = .blank ∧ State.reset.gw.runstate = .starting ∧ State.reset.power.state = .standby ∧
    State.reset.gw.enable = false ∧ State.reset.gw.sqBase = 0 ∧ State.reset.gw.sqTail = 0 ∧ State.reset.gw.cqHead = 0 ∧
    State.reset.gw.phase = true ∧ State.reset.gw.err = 0 ∧ State.reset.gw.irqEn = false ∧ State.reset.gw.sessions = [] ∧
    State.reset.seq.slotA.state = .empty ∧ State.reset.seq.slotB.state = .empty ∧ State.reset.seq.run = none ∧
    State.reset.pair.role = .solo ∧ (∀ r, r < 64 → (region State.reset r).inService = false ∧ (region State.reset r).clkStep = 17) ∧
    (∀ p, p < 7 → (port State.reset p).state = .off) ∧ State.reset.thermal.outletTarget.toNat = 55 * 16 ∧
    State.reset.thermal.dutyMin = 25 ∧ State.reset.log.ring = [] ∧ State.reset.pending = [] ∧ gwStatus State.reset = 0

/-- R276, R280, Table 12-3: TT_ARM and RUN of a primary wait until the secondary has shown its slot digests. Copies that agree let the
command take effect as on a module alone; copies of one generation that differ are divergent, and the command is refused. The secondary
answers with its own copies. What the secondary has read completes the command that waits for it. Log entry 67 gives the messages. -/
def Sys2Proof.Claims.PairCommandsCompareFirst : Prop :=
  ∀ s : State, inPair s = true → s.power.rails = true →
    (∀ (q : Req) (slot : BitVec 8) (entry : BitVec 32), s.pair.role = .primary → slot.toNat ≤ 1 →
      Starts 0x33 0 q (inState s [.running] && onNamed slot (armable s)) s →
      entry.toNat ∈ entryRows (slotOf s (slot = 1)).rows → fencedRow s (slotOf s (slot = 1)).rows = none →
      exec (.ttArm q slot entry) s = .next (enqueueLash 3 none (.forward (.compare (mirrored s false true) none))
        { start q s with pair := { s.pair with wait := s.pair.wait ++ [.arm q (slot = 1) entry] } })) ∧
    (∀ (q : Req) (slot boost : BitVec 8) (entry : BitVec 32) (steps : BitVec 64), s.pair.role = .primary → slot.toNat ≤ 1 →
      boost.toNat ≤ 1 → Starts 0x36 0 q (inState s [.job, .halted] && runGroupFree s && !s.thermal.tripped && onNamed slot (armable s)) s →
      entry.toNat ∈ entryRows (slotOf s (slot = 1)).rows → fencedRow s (slotOf s (slot = 1)).rows = none →
      exec (.run q slot entry steps boost) s = .next (enqueueLash 3 none (.forward (.compare (mirrored s false true) none))
        { start q s with pair := { s.pair with wait := s.pair.wait ++ [.run q (slot = 1) entry steps boost] } })) ∧
    (s.pair.role = .secondary → exec (.pairForward (.compare (mirrored s false true) none)) s =
      .next (enqueueLash 3 none (.forward (.compare (mirrored s false true) (some (mirrored s false true)))) s)) ∧
    (∀ (q : Req) (b : Bool) (entry : BitVec 32) (rest : List PairWait) (x : Mirrored), s.pair.role = .primary → x.tail = none →
      s.pair.wait = .arm q b entry :: rest → s.pair.diverged = false → s.gw.runstate = .running → armable s b = true →
      entry.toNat ∈ entryRows (slotOf s b).rows → fencedRow s (slotOf s b).rows = none →
      ∃ t, exec (.pairForward (.compare x (some x))) s = .next t ∧ slotOf t b = { slotOf s b with state := .armed, entry := entry.toNat } ∧
        slotOf t (!b) = slotOf s (!b) ∧ t.gw.held = s.gw.held ++ [completionOf s q 0x33 Status.ok 0 []] ∧
        t.pair = { s.pair with wait := rest } ∧ t.seq.run = s.seq.run ∧ t.mem = s.mem ∧ t.log = s.log ∧ t.regions = s.regions) ∧
    (∀ (q : Req) (b : Bool) (entry : BitVec 32) (steps : BitVec 64) (boost : BitVec 8) (rest : List PairWait) (x : Mirrored),
      s.pair.role = .primary → x.tail = none → s.pair.wait = .run q b entry steps boost :: rest → s.pair.diverged = false →
      s.gw.runstate = .job → s.seq.run = none → s.thermal.tripped = false → armable s b = true →
      (∀ g ∈ s.regions, g.failing = [] ∧ g.pendingFence = none) →
      entry.toNat ∈ entryRows (slotOf s b).rows → fencedRow s (slotOf s b).rows = none →
      ∃ t, exec (.pairForward (.compare x (some x))) s = .next t ∧ t.gw.runstate = .running ∧ (slotOf t b).state = .active ∧
        (∃ r, t.seq.run = some r ∧ r.slot = b ∧ r.next = entry.toNat ∧ r.budget = steps.toNat ∧ r.boost = decide (boost = 1) ∧ r.req = q) ∧
        t.pair.wait = rest ∧ t.mem = s.mem ∧ t.log = s.log) ∧
    (∀ (w : PairWait) (rest : List PairWait) (a b : SlotItem), s.pair.role = .primary → s.seq.run = none → s.pair.wait = w :: rest →
      slotItemBytes s.seq.slotA.item ++ slotItemBytes s.seq.slotB.item ≠ slotItemBytes a ++ slotItemBytes b →
      ∃ t, exec (.pairForward (.compare { tail := none, slots := some (s.seq.slotGen, a, b) } (some (mirrored s false true)))) s = .next t ∧
        t.pair = { s.pair with diverged := true, wait := rest } ∧ t.seq = s.seq ∧ t.mem = s.mem ∧
        t.gw.held = s.gw.held ++ [completionOf s w.req (BitVec.ofNat 8 w.opcode) Status.divergentCopies 0 []] ∧
        t.log = s.log.push (s.log.stamp Code.divergentCopies 0 ([4] ++ leBytes 8 s.seq.slotGen.toNat ++
          wordBytes (crc32c (slotItemBytes s.seq.slotA.item ++ slotItemBytes s.seq.slotB.item)) ++
          wordBytes (crc32c (slotItemBytes a ++ slotItemBytes b))))) ∧
    (∀ (q : Req) (op : Nat) (own data : List Byte) (rest : List PairWait), s.pair.wait = .read q op own :: rest →
      exec (.pairForward (.reading data)) s = .next { s with
        pair := { s.pair with wait := rest }
        gw := { s.gw with held := s.gw.held ++ [completionOf s q (BitVec.ofNat 8 op) Status.ok 0 (own ++ data)] } })

/-- Commands of the gangway: opcode, request, the condition that checks 3 to 7 ask, the condition that its parameters pass checks 8 and 9,
and the effect on the state that the start has left (spec/13_commands.md Table 13-9). -/
def Sys2Proof.Claims.commandEffect (s : State) : Instr → Option (Nat × Req × Bool × Prop × (State → State))
  | .retire q token => some (0x11, q, inState s [.ready] && decide (s.pair.role = .solo) && maintNone s,
      tokenCheck 1 false token (start q s) = none, retireNow)
  | .policySet q p => some (0x14, q, inState s [.ready],
      policyFormOk p = true ∧ policySigned p s.trust.ownerKey = true ∧ policyVersion s.trust.policy < policyVersion p, fun s =>
        let t := record Code.policySet [] { s with trust := { s.trust with policy := p } }
        complete q 0x14 (wordBytes (policyDigest t)) t)
  | .jobEnd q => some (0x38, q, inState s [.job, .halted] && runGroupFree s, True, fun s =>
      complete q 0x38 [] (sendLash (.forward .jobEnd) (endJob s)))
  | .rankAbsent q r k => some (0x39, q, inState s [.job, .halted] && runGroupFree s,
      r.toNat ≠ s.job.myRank ∧ r.toNat < s.job.ranks ∧ standInOk s r.toNat k.toNat = true ∧
        absentFault (markAbsent r.toNat k.toNat (start q s)) = none, fun s =>
      complete q 0x39 [] (sendLash (.forward (.rankAbsent r.toNat k.toNat)) (markAbsent r.toNat k.toNat s)))
  | .reshardResume q rid => some (0x3A, q, inState s [.halted] && runGroupFree s && resumable s rid, True, startResume q rid)
  | .reset q kind r => some (0x61, q, resetAccepts kind.toNat r.toNat s,
      (kind = 0 ∧ r = 0) ∨ (kind = 1 ∧ r.toNat < regionCount s), fun s =>
        if kind = 0 then onGw (fun g => { g with warmPending := true }) (complete q 0x61 [] s)
        else complete q 0x61 [] (if r.toNat < 64 then resetRegion r.toNat (wakeDoze s)
          else sendLash (.forward (.regionReset (r.toNat % 64))) s))
  | .debugClose q => some (0x71, q, (s.trust.debug).isSome, True, fun s =>
      complete q 0x71 [0] (endDebug 0 (sendLash (.forward (.debugClose 0)) s)))
  | _ => none

/-- Events: the condition under which one has its effect, and that effect; the steps 01 to 17 of spec/95_what_each_step_holds.md. -/
def Sys2Proof.Claims.eventEffect (s : State) : Instr → Option (Bool × (State → State))
  | .reshardPrepared => some (true, prepare)
  | .barrierTimeout g tag => some (true, barrierTimeout g tag)
  | .rowComplete k => some (true, rowComplete k)
  | .tileDrain r k => some (true, tileDrain r.val k.val)
  | .regionWakeStart r => some (wakes s r.val, onRegion r.val (fun g => { g with clock := .waking }))
  | .regionReady r => some ((region s r.val).clock = .waking && regionsUp s, regionReady r.val)
  | .regionGate r => some ((region s r.val).clock = .ready && idle s r.val, fun s =>
      settleDoze (onRegion r.val (fun g => { g with clock := .gated }) s))
  | .retestComplete r bad ok => some ((region s r.val).retest && (region s r.val).clock = .ready,
      retestComplete r.val (bad.map (fun k => k.val)) ok)
  | .portDieFault die => some (s.power.rails, portDieFault die)
  | .fabricSenseChange p level => some (bitAt s.pins.fabricSenseN p.val != level, fabricSense p.val level)
  | .lashSenseChange level => some (s.pins.lashSenseN != level, fun s =>
      bringUp 6 { s with pins := { s.pins with lashSenseN := level } })
  | .linkTrainComplete p low high => some (mayTrain s p.val, fun s =>
      if wakesHalf s p.val then { s with power := { s.power with wakeReq := true } } else trainComplete p.val low high s)
  | .linkHello p f n r m => some ((port s p.val).hs = .hello, hello p.val f n r m)
  | .linkEvidence p e m => some ((port s p.val).hs = .evidence, peerEvidence p.val e m)
  | .linkAgree p ok k m => some ((port s p.val).hs = .agree, agree p.val ok k m)
  | .linkConfirm p c => some ((port s p.val).hs = .confirm, linkConfirm p.val c)
  | .linkResume p n => some ((port s p.val).hs = .resume, resume p.val n)
  | .flitReceive p f n => some (flitsFlow (port s p.val), flitReceive p.val f n)
  | .nakReceive p k ms => some (flitsFlow (port s p.val), nakReceive p.val ((port s p.val).nakSeen.getD k) ms)
  | .nakRepeat p => some (flitsFlow (port s p.val) && (port s p.val).nak, sendNak p.val)
  | .peerSilence p => some ((port s p.val).state = .active, retrain p.val Code.linkRetrain)
  | .messageSend p vc dt => some (true, messageSend p.val vc.val dt)
  | .admissionReply a => some (s.job.started, admissionReply a)
  | .ferryDone t w p n a => some (s.job.started, ferryDone t.toNat w p n a)
  | .barrierArrival g tag p n a => some (s.job.started, barrierArrival g tag p n a)
  | .governSum p x y n a => some (s.job.started, governSum p x y n a)
  | .claimList p l => some (s.power.rails, takeClaims p l)
  | .reshardReady rid n x => some (s.job.started, reshardReady rid n x.position x.count)
  | .journalExchange p e => some (s.job.started, journalExchange p e)
  | .lostNotice p n => some (s.job.started, fun s => takeLost p.toNat n (echo (.lost p.toNat n) s))
  | .haltedNotice r n st => some (s.job.started, takeHalted r n st)
  | .restartNotice n a => some (s.seq.run.isSome && decide (n = s.seq.step) && decide (attemptNow s < a), fun s =>
      takeRestart a (echo (.restart n a) s))
  | .sleepNotice p => some ((port s p.val).state = .active || (port s p.val).state = .doze,
      if p.val = 6 then partnerSleeps else sleepNotice p.val)
  | .dozeRequest p => some ((port s p.val).state = .active, dozeRequest p.val)
  | .linkWake p => some ((port s p.val).state = .doze && !(port s p.val).waking, onPort p.val (fun x => { x with waking := true }))
  | .linkWakeDone p => some ((port s p.val).state = .doze && (port s p.val).waking,
      onPort p.val (fun x => { x with state := .active, waking := false }))
  | .pairRendezvous b k => some (inPair s && s.seq.run.isSome, rendezvous b k)
  | .pairContribution x => some (inPair s && s.seq.run.isSome, takeShare x)
  | .partnerWarmReset => some (inPair s && s.power.rails, fun s => warmReset (warmPosts s))
  | .lashBringupComplete i => some (s.pair.compareDue && decide ((port s 6).state = .active), lashBringup i)
  | .strandedRetry => some (decide (s.pair.role = .stranded), bringUp 6)
  | .pairForward f => some (inPair s && s.power.rails, forwarded f)
  | .auxGood ok mv slot n => some (!s.pins.aux, auxGood ok mv slot n)
  | .auxLost => some (s.pins.aux, auxLost)
  | .mainEnAssert => some (!s.pins.mainEn, mainEnAssert)
  | .mainEnDeassert => some (s.pins.mainEn, mainEnDeassert)
  | .mainHoldRelease => some (s.pins.aux && !s.power.auxReady, mainHoldRelease)
  | .mainRange mv lasted => some (s.power.rails, mainRange mv lasted)
  | .railFault r k mv => some (s.pins.aux, railFault r k mv)
  | .pllLossOfLock r => some ((region s r).clock = .ready, pllLossOfLock r)
  | .linkRefclkFault => some (s.power.rails, fun s => emergencyDown (record Code.clockFault [0xFF] s))
  | .pcieRefclkLoss => some (s.pins.pcieRef, fun s =>
      { s with gw := { s.gw with linkUp := false }, pins := { s.pins with pcieRef := false } })
  | .pcieLinkUp => some (s.power.rails && !s.gw.linkUp, fun s =>
      { s with gw := { s.gw with linkUp := true }, pins := { s.pins with perstN := true, pcieRef := true } })
  | .perstNFall strap => some (s.pins.perstN, perstNFall strap)
  | .warmResetEffect => some (s.gw.warmPending && s.power.rails, fun s => warmReset (warmPosts (sendLash .warmReset s)))
  | .controlRestartDone => some (s.power.startup = 7, controlRestartDone)
  | .memoryTrained x => some (s.power.startup = 2, memoryTrained x)
  | .selftestDone a b c => some (s.power.startup = 3, selftestDone a b c)
  | .idleSleep => some (s.gw.runstate = .ready && (s.power.state = .doze || s.power.state = .run) && s.gw.seals.isNone &&
      s.gw.powerCmd.isNone, enterSleep)
  | .sleepWakeDone => some (s.power.state = .sleep && s.power.wakeReq, sleepWakeDone)
  | .temperatureSample l o => some (s.power.rails, temperatureSample l o)
  | .powerCapTick w => some (s.power.rails, powerCapTick w)
  | .thermalCreditUpdate w => some (s.power.rails, thermalCreditUpdate w)
  | .valveLoopTick => some (s.thermal.loopOn && s.power.state != .standby, fun s =>
      { s with thermal := if dutyForced s then { s.thermal with duty := 1000 } else valveLoop s.thermal })
  | .flowUpdate n => some (s.pins.aux, fun s => { s with thermal := { s.thermal with
      tach := (n :: s.thermal.tach).take 20, flow := 100 * (((n :: s.thermal.tach).take 20).take 10).sum } })
  | .coolantConditionTest x => some (s.pins.aux, coolantTest x)
  | .tamperTrip x => some (x != 0, tamperTrip x)
  | .cellLow mv => some (s.pins.aux, cellCheck 0 mv)
  | .ownerPresentRise => some (!s.pins.ownerPresentN, ownerRise)
  | .operatingSecond => some (s.pins.aux, fun s => { s with log := { s.log with opSeconds := s.log.opSeconds + 1 } })
  | .counterCopy => some (s.pins.aux, fun s =>
      { s with log := { s.log with flashOp := s.log.opSeconds, flashCycles := s.log.powerCycles } })
  | .debugExpiry => some (debugExpired s, fun s => endDebug 1 (sendLash (.forward (.debugClose 1)) s))
  | .recordWrite => some (s.pins.aux && !s.log.queue.isEmpty, recordWrite)
  | .logMarkQueued => some (s.pins.aux && !s.log.markWait.isEmpty && markRoom s, markQueued)
  | .logSelect a n ok => some (s.pins.aux && ok && decide (a.toNat ≤ 1), fun s =>
      smbReply [] { s with log := { s.log with sbArea := a = 1, sbPtr := n } })
  | .logNext ok => some (s.pins.aux && ok, logNext)
  | .logBounds ok => some (s.pins.aux && ok, fun s => smbReply (boundsBytes s) { s with pins := { s.pins with smbAlertN := true } })
  | .thermalRead ok => some (s.pins.aux && ok, fun s => smbReply (thermalBytes s) s)
  | .coolantSet x d r ok => some (s.pins.aux && ok && coolantLegal x d r, fun s =>
      smbReply [] (coolantDuty { s with thermal := { s.thermal with outletTarget := x, dutyMin := d } }))
  | .alertResponse => some (s.pins.aux, fun s => smbReply [BitVec.ofNat 8 (0x58 + s.pins.slotId.toNat)] s)
  | _ => none

/-- Messages that arrive: the port, whether it verified, which held messages are it, how many link messages carry it, and its effect once
they are taken out of their buffers. -/
def Sys2Proof.Claims.messageEffect : Instr → Option (Fin 7 × Bool × (RxMsg → Bool) × Nat × (List RxMsg → State → State))
  | .messageForward p m ok => some (p, ok, msgHeld m, 1, fun l s => messageForward p.val m (freeMsgs p.val l s))
  | .writeMsg p m ok => some (p, ok, msgHeld m, 1, fun l s => writeHere p.val m (freeMsgs p.val l s))
  | .readMsg p m ok => some (p, ok, msgHeld m, 1, fun l s => readHere p.val m (freeMsgs p.val l s))
  | .writeDone p _ txn => some (p, true, answerHeld 2 txn, 1, fun l s => writeDone p.val txn (freeMsgs p.val l s))
  | .readData p _ txn off data => some (p, true, answerHeld 4 txn, 1, fun l s => takeReadData p.val txn off data (freeMsgs p.val l s))
  | .collectMessage p m ok => some (p, ok, opHeld 0x10, bodyParts (.collect m), takeContrib p.val m)
  | .ferryMessage p m ok => some (p, ok, opHeld 0x20, bodyParts (.ferry m), fun l s => ferryMessage m (freeMsgs p.val l s))
  | .noRouteMessage p dst _ via => some (p, true, fun _ => false, 0, fun l s => noRouteHere dst via.toNat (freeMsgs p.val l s))
  | _ => none

/-- spec/13_commands.md Table 13-9, spec/95_what_each_step_holds.md: a command that starts and whose parameters pass answers the next state
of its own effect; so does an event whose condition holds, and a message whose link messages have verified; where an event's condition does
not hold nothing changes. A change of GW_STATUS raises vector 1 beside it (R291). The named effects are those of the statements above. -/
def Obligations.FormsCompleteWithTheirEffect : Prop :=
  ∀ (s : State) (c : Instr),
    (∀ op q own ok f, Claims.commandEffect s c = some (op, q, own, ok, f) → Starts op 0 q own s → ok →
      exec c s = .next (settled s (f (start q s)))) ∧
    (∀ f, Claims.eventEffect s c = some (true, f) → exec c s = .next (settled s (f s))) ∧
    (∀ f, Claims.eventEffect s c = some (false, f) → (∀ x, c ≠ .tamperTrip x) → exec c s = .next s) ∧
    (∀ p ok fits n f l u, Claims.messageEffect c = some (p, ok, fits, n, f) → Taken p.val n fits s l u →
      ((port s p.val).rxMsgs = [] → ok = true) → exec c s = .next (settled s (f l u))) ∧
    (∀ (r : ActiveRun) (b : Bool), c = .degradedRestart →
      (s.seq.run = some r → mayLowerAgain s = true → exec c s = .next (settled s (degradedRestart r s))) ∧
      (s.seq.run = none → s.seq.relower = some b → exec c s = .next (settled s (relowerIdle b s))))


/-! ### Statements of several claims above -/

/-- The rings are checked at enable, locked while enabled and at rest while disabled. -/
def Obligations.RingsFollowEnable : Prop :=
  Claims.EnableChecksBothRings ∧ Claims.RingConfigurationOnlyWhileDisabled ∧ Claims.DisabledRingsHoldStill

/-- Doorbells, control bits and other BAR0 writes change their own register, and reads show the registers. -/
def Obligations.RegisterWritesActOnTheirRegisters : Prop :=
  Claims.DoorbellsAndControlBits ∧
    Claims.OtherRegistersIgnoreWrites ∧
    Claims.RegisterReadsShowTheirRegisters ∧
    Claims.LinkDownAnswersNoRequest

/-- A fetch checks its entry and accepts a CLEAR packet that passes; a completion is posted with its reply where the ring has
room. -/
def Obligations.RingsFetchAndPost : Prop :=
  Claims.SubmissionFetchChecksTheEntry ∧ Claims.CompletionPostWritesReplyThenEntry

/-- Reading commands reply with what they read and change nothing else. -/
def Obligations.ReadingCommandsChangeNothing : Prop :=
  Claims.ClearReadsAreAnsweredInEveryState ∧
    Claims.AttestSignsTheEvidence ∧
    Claims.ReadStateReturnsTheUnits ∧
    Claims.DebugReadOnlyReads

/-- CLOSE_SESSION closes the session it names, and DEBUG-OPEN with it. -/
def Obligations.SessionsCloseByName : Prop :=
  Claims.CloseSessionClosesOneSession

/-- OPEN_SESSION opens a session, provisional before enrolment; a provisional session only enrols or closes. -/
def Obligations.ProvisionalSessionsOnlyEnrol : Prop :=
  Claims.OpenSessionOpensOneOfFour ∧
    Claims.ProvisionalSessionsAcceptEnrolOnly ∧
    Claims.EnrolBindsTheOwner ∧
    Claims.OwnerPresentRiseClosesProvisional

/-- RETIRE erases the binding, and POLICY_SET takes only a higher version. -/
def Obligations.LifecycleAndPolicyChangesAreRecorded : Prop :=
  Claims.RetireErasesTheBinding ∧ Claims.PolicySetNeedsAHigherVersion

/-- Records take the next SEQUENCE as they are written, and a LOG_MARK is never lost. -/
def Obligations.RecordsTakeTheirSequence : Prop :=
  Claims.LogMarkIsNeverLost ∧ Claims.RecordWriteTakesTheNextSequence

/-- The sideband reads the log and the thermal block; the counters count. -/
def Obligations.SidebandReadsAndCounters : Prop :=
  Claims.SidebandReadsTheLog ∧ Claims.SidebandThermalCommands ∧ Claims.OperatingCounters

/-- The island boots at AUX good, and only it outlives the loss of AUX. -/
def Obligations.AuxGoodAndLost : Prop :=
  Claims.AuxGoodBootsTheIsland ∧ Claims.AuxLostKeepsOnlyTheIsland

/-- Supply faults run the emergency down sequence; a lost region clock fences its region; a lost host clock takes the link down. -/
def Obligations.FaultsOfSupplyAndClock : Prop :=
  Claims.SupplyFaultsRunTheEmergencyDown ∧ Claims.PllLossFencesTheRegion ∧ Claims.PcieLinkGoesDownAndUp

/-- A warm reset keeps tiers, slots and job; RESET of a region loses that region only. -/
def Obligations.ResetsKeepWhatTheirKindKeeps : Prop :=
  Claims.WarmResetKeepsTiersSlotsAndJob ∧ Claims.ResetWarmOrOneRegion

/-- Memory training, self-test and the control restart end STARTING. -/
def Obligations.StartUpEndsInReady : Prop :=
  Claims.StartUpStepsEnd ∧ Claims.SelftestPutsRegionsInService

/-- Temperature, power cap and thermal credit act at their limits. -/
def Obligations.ThermalAndPowerLimits : Prop :=
  Claims.TemperatureLimits ∧ Claims.PowerCapStepsClocks ∧ Claims.ThermalCreditHysteresis

/-- The valve duty stays in its range and follows the readings. -/
def Obligations.CoolantLoop : Prop :=
  Claims.ValveDutyStaysInRange ∧ Claims.CoolantReadings

/-- A trip erases the binding and all volatile state; CELL_LOW is recorded once per crossing. -/
def Obligations.TamperAndCell : Prop :=
  Claims.TamperErasesEverything ∧ Claims.CellLowOncePerCrossing

/-- A port comes up step by step, and its third failure in a row fences it. -/
def Obligations.LinkBringUp : Prop :=
  Claims.LinkBringUpRunsItsSteps ∧ Claims.ThreeFailedBringUpsFenceThePort

/-- Flits are taken in order and replayed by NAK; silence retrains the port. -/
def Obligations.FlitsAndSilence : Prop :=
  Claims.FlitsAreTakenInOrder ∧ Claims.NakReplaysFromItsSeq ∧ Claims.SilenceRetrainsThePort

/-- Messages leave in turn and pass through by the route; a message without a route halts the run. -/
def Obligations.MessagesLeaveAndPassThrough : Prop :=
  Claims.MessagesLeaveAndPassThrough ∧ Claims.NoRouteHaltsTheRun

/-- A data row issues in path order, waits for its regions, and 64 rows are in flight at most. -/
def Obligations.DataRowsIssueInPathOrder : Prop :=
  Claims.DataRowIssuesInPathOrder ∧ Claims.DataRowWaitsForItsRegions ∧ Claims.SixtyFourRowsInFlight

/-- QUANT, VECTOR, PASS and COPY rows write their targets and nothing else of memory. -/
def Obligations.DataRowsWriteOnlyTheirTargets : Prop :=
  Claims.SliceRowsWriteOnlyLocalMemory ∧
    Claims.PassWritesOnlyAccumulators ∧
    Claims.TileDrainWritesStaging ∧
    Claims.CopyMovesOneRun

/-- NOP, LOOP, ENDLOOP and NOTIFY rows. -/
def Obligations.NopLoopAndNotify : Prop :=
  Claims.NopAndLoopRows ∧ Claims.NotifyRowHoldsAnEntry

/-- BRANCH goes where its condition says. -/
def Obligations.BranchesTestConditions : Prop :=
  Claims.BranchRow ∧ Claims.ConditionsTestTheirState

/-- GOVERN rows set the verdict from the local or the job's sums. -/
def Obligations.GovernorsSetTheVerdict : Prop :=
  Claims.GovernRowSetsTheVerdict ∧ Claims.JobGovernorSumsEveryRank

/-- BARRIER rows wait for earlier rows or for every member. -/
def Obligations.BarriersWait : Prop :=
  Claims.LocalBarrierRow ∧ Claims.JobBarrierWaitsForEveryMember

/-- A STEP row ends the run or begins the next step. -/
def Obligations.StepRowsEndOrGoOn : Prop :=
  Claims.StepRowEndsTheRun ∧ Claims.StepRowBeginsTheNextStep

/-- Contributions wait for their row, and ALL_REDUCE adds in the canonical tree. -/
def Obligations.CollectiveContributions : Prop :=
  Claims.ContributionsWaitForTheirRow ∧ Claims.AllReduceAddsInTheCanonicalTree

/-- Ferry messages reach their table, and a home admits the lowest keys. -/
def Obligations.FerryMessagesAndAdmission : Prop :=
  Claims.FerryMessagesReachTheirTable ∧ Claims.AdmissionTakesTheLowestKeys

/-- JOB_START joins the members and checks their claims. -/
def Obligations.JobStartJoinsTheMembers : Prop :=
  Claims.JobStartJoinsTheMembers ∧ Claims.ClaimPairFindsAnOverlap

/-- Plans are checked against the tiers and lowered into a slot. -/
def Obligations.PlansAreCheckedAndLowered : Prop :=
  Claims.PlansAreCheckedAndLowered ∧ Claims.FootprintMovesTheRightTensors

/-- Regions wake, gate, are fenced and return. -/
def Obligations.RegionsWakeFenceAndReturn : Prop :=
  Claims.RegionsWakeAndGate ∧ Claims.RegionsAreFencedAndReturned

/-- SEAL and SEAL_RESUME write head, chunks and manifest and leave the tiers as they are. -/
def Obligations.SealsWriteTheirOutput : Prop :=
  Claims.SealsWriteHeadChunksAndManifest ∧ Claims.SealCheckpointWritesChunks

/-- The copies of mirrored items are compared when a lash comes up and before a pair runs. -/
def Obligations.MirroredItemsAreCompared : Prop :=
  Claims.MirroredItemsAreCompared ∧ Claims.PairCommandsCompareFirst

/-- The reset state has the values the spec gives and the canonical form. -/
def Obligations.ResetLeavesTheStatedValues : Prop :=
  Claims.ResetIsCanonical ∧ Claims.ResetState
end

