-- ==== Sys2Proof/Laws/Memory.lean ====
section
/-!
SUPPORT. Sparse maps, byte memories and lists with one entry changed: what a write leaves, and that every operation keeps
the canonical form.
-/
namespace Sys2Proof.Machine

/-! ### Sparse maps -/

theorem sget?_sput {α : Type} (m : SMap α) (k j : Nat) (v : α) : sorted m = true →
    sget? (sput m k v) j = if k = j then some v else sget? m j := by
  induction m with
  | nil => intro _; simp [sput, sget?]
  | cons p r ih =>
    obtain ⟨a, w⟩ := p
    intro h
    have hr : sorted r = true := by simp only [sorted, Bool.and_eq_true] at h; exact h.2
    simp only [sput]
    split
    · simp only [sget?]
    · split
      · next h1 => subst h1; simp only [sget?]; split <;> rfl
      · next h1 h2 =>
        simp only [sget?, ih hr]
        split
        · next h3 => subst h3; rw [if_neg h2]
        · rfl

/-- A sorted list's rest holds only greater indices. -/
theorem sorted_lt {α : Type} {j : Nat} {w : α} {r : SMap α} (h : sorted ((j, w) :: r) = true) : ∀ p ∈ r, j < p.1 := by
  induction r generalizing j w with
  | nil => intro p hp; cases hp
  | cons q r ih =>
    obtain ⟨k, v⟩ := q
    simp only [sorted, Bool.and_eq_true, decide_eq_true_eq] at h
    intro p hp
    rcases List.mem_cons.1 hp with rfl | hp
    · exact h.1
    · exact lt_trans h.1 (ih (w := v) (by simp only [sorted, Bool.and_eq_true]; exact h.2) p hp)

theorem sorted_iff {α : Type} (m : SMap α) : sorted m = true ↔ m.Pairwise (fun a b => a.1 < b.1) := by
  induction m with
  | nil => simp [sorted]
  | cons q r ih =>
    obtain ⟨j, w⟩ := q
    rw [List.pairwise_cons, ← ih]
    constructor
    · intro h
      exact ⟨sorted_lt h, by simp only [sorted, Bool.and_eq_true] at h; exact h.2⟩
    · rintro ⟨h1, h2⟩
      simp only [sorted, Bool.and_eq_true]
      refine ⟨?_, h2⟩
      cases r with
      | nil => rfl
      | cons p r => simpa using h1 p (List.mem_cons_self ..)

theorem sorted_filter {α : Type} (m : SMap α) (f : Nat × α → Bool) (h : sorted m = true) : sorted (m.filter f) = true := by
  rw [sorted_iff] at *; exact h.filter f

theorem mem_sput {α : Type} {m : SMap α} {k : Nat} {v : α} {p : Nat × α} (h : p ∈ sput m k v) : p = (k, v) ∨ p ∈ m := by
  induction m with
  | nil => left; simpa [sput] using h
  | cons q r ih =>
    obtain ⟨j, w⟩ := q
    simp only [sput] at h
    split at h
    · rcases List.mem_cons.1 h with h | h
      · exact .inl h
      · exact .inr h
    · split at h
      · rcases List.mem_cons.1 h with h | h
        · exact .inl h
        · exact .inr (List.mem_cons_of_mem _ h)
      · rcases List.mem_cons.1 h with h | h
        · exact .inr (h ▸ List.mem_cons_self ..)
        · exact (ih h).imp id (List.mem_cons_of_mem _)

theorem sorted_sput {α : Type} (m : SMap α) (k : Nat) (v : α) (h : sorted m = true) : sorted (sput m k v) = true := by
  induction m with
  | nil => rfl
  | cons q r ih =>
    obtain ⟨j, w⟩ := q
    have hl := sorted_lt h
    have hr : sorted r = true := by simp only [sorted, Bool.and_eq_true] at h; exact h.2
    simp only [sput]
    split
    · next h1 => simp only [sorted, Bool.and_eq_true, decide_eq_true_eq] at *; exact ⟨h1, h⟩
    · split
      · next h1 => subst h1; simpa [sorted] using h
      · next h1 h2 =>
        have hs := ih hr
        rw [sorted_iff] at hs ⊢
        refine List.pairwise_cons.2 ⟨fun p hp => ?_, hs⟩
        rcases mem_sput hp with rfl | hp
        · simp only; omega
        · exact hl p hp

theorem sorted_sdel {α : Type} (m : SMap α) (k : Nat) (h : sorted m = true) : sorted (sdel m k) = true := sorted_filter m _ h

theorem sorted_sdelRange {α : Type} (m : SMap α) (lo hi : Nat) (h : sorted m = true) : sorted (sdelRange m lo hi) = true :=
  sorted_filter m _ h

theorem sget_sput {α : Type} (m : SMap α) (k j : Nat) (v d : α) (h : sorted m = true) :
    sget (sput m k v) j d = if k = j then v else sget m j d := by
  unfold sget; rw [sget?_sput m k j v h]; split <;> rfl

theorem sget?_filter {α : Type} (m : SMap α) (f : Nat → Bool) (j : Nat) :
    sget? (m.filter (fun p => f p.1)) j = if f j then sget? m j else none := by
  induction m with
  | nil => simp [sget?]
  | cons q r ih =>
    obtain ⟨k, w⟩ := q
    by_cases hk : f k = true
    · rw [List.filter_cons_of_pos (by simpa using hk)]
      simp only [sget?, ih]
      split
      · next h => subst h; simp [hk]
      · rfl
    · rw [List.filter_cons_of_neg (by simpa using hk), ih]
      simp only [sget?]
      by_cases h : k = j
      · subst h; simp [hk]
      · rw [if_neg h]

theorem sget?_sdel {α : Type} (m : SMap α) (k j : Nat) : sget? (sdel m k) j = if j = k then none else sget? m j := by
  unfold sdel
  rw [sget?_filter m (fun x => x != k) j]
  by_cases h : j = k <;> simp [h]

/-! ### Byte memories -/

/-- A write keeps the canonical form. -/
theorem wf_mwrite (m : List Host.Cell) (a : Nat) (bs : List Byte) (h : Memory.wf m = true) : Memory.wf (mwrite m a bs) = true := by
  induction bs generalizing m a with
  | nil => exact h
  | cons b r ih => exact ih _ _ (sorted_sput m a b h)

theorem wf_filter (m : List Host.Cell) (f : Host.Cell → Bool) (h : Memory.wf m = true) : Memory.wf (m.filter f) = true :=
  sorted_filter m f h

/-- After a write, the bytes written are there and every other address holds what it held. -/
theorem sget?_mwrite (m : List Host.Cell) (a : Nat) (bs : List Byte) (j : Nat) (h : Memory.wf m = true) :
    sget? (mwrite m a bs) j = if a ≤ j ∧ j < a + bs.length then bs[j - a]? else sget? m j := by
  induction bs generalizing m a with
  | nil => simp only [mwrite, List.length_nil]; rw [if_neg (by omega)]
  | cons b r ih =>
    simp only [mwrite, List.length_cons]
    rw [ih _ _ (sorted_sput m a b h), sget?_sput m a j b h]
    by_cases h1 : a + 1 ≤ j ∧ j < a + 1 + r.length
    · rw [if_pos h1, if_pos (by omega)]
      obtain ⟨n, rfl⟩ : ∃ n, j = a + 1 + n := ⟨j - (a + 1), by omega⟩
      have e1 : a + 1 + n - (a + 1) = n := by omega
      have e2 : a + 1 + n - a = n + 1 := by omega
      rw [e1, e2, List.getElem?_cons_succ]
    · rw [if_neg h1]
      by_cases h2 : a = j
      · subst h2; rw [if_pos rfl, if_pos (by omega)]; simp
      · rw [if_neg h2, if_neg (by omega)]

@[simp] theorem mread_length (u : Nat → Byte) (m : List Host.Cell) (a n : Nat) : (mread u m a n).length = n := by
  induction n generalizing a with
  | zero => rfl
  | succ n ih => simp [mread, ih]

theorem mread_getElem? (u : Nat → Byte) (m : List Host.Cell) (a n k : Nat) (h : k < n) :
    (mread u m a n)[k]? = some (sget m (a + k) (u (a + k))) := by
  induction n generalizing a k with
  | zero => omega
  | succ n ih =>
    cases k with
    | zero => simp [mread]
    | succ k =>
      rw [mread, List.getElem?_cons_succ, ih (a + 1) k (by omega)]
      have e : a + 1 + k = a + (k + 1) := by omega
      rw [e]

/-- A read of what has just been written gives the bytes written. -/
theorem mread_mwrite_same (u : Nat → Byte) (m : List Host.Cell) (a : Nat) (bs : List Byte) (h : Memory.wf m = true) :
    mread u (mwrite m a bs) a bs.length = bs := by
  apply List.ext_getElem?
  intro k
  by_cases hk : k < bs.length
  · rw [mread_getElem? _ _ _ _ _ hk, sget, sget?_mwrite m a bs _ h, if_pos (by omega)]
    have e : a + k - a = k := by omega
    rw [e, List.getElem?_eq_getElem hk]; rfl
  · rw [List.getElem?_eq_none (by simpa using hk), List.getElem?_eq_none (by simpa using hk)]

/-- A read that meets none of the bytes written gives what it gave. -/
theorem mread_mwrite_apart (u : Nat → Byte) (m : List Host.Cell) (a b n : Nat) (bs : List Byte) (h : Memory.wf m = true)
    (hd : b + n ≤ a ∨ a + bs.length ≤ b) : mread u (mwrite m a bs) b n = mread u m b n := by
  induction n generalizing b with
  | zero => rfl
  | succ n ih =>
    rw [mread, mread, ih (b + 1) (by omega)]
    simp only [sget, sget?_mwrite m a bs b h]
    rw [if_neg (by omega)]

/-! ### Lists with one entry changed -/

@[simp] theorem modifyAt_length {α : Type} (l : List α) (k : Nat) (f : α → α) : (modifyAt l k f).length = l.length := by
  induction l generalizing k with
  | nil => rfl
  | cons x r ih => cases k <;> simp [modifyAt, ih]

theorem nth_modifyAt_same {α : Type} (l : List α) (k : Nat) (f : α → α) (d : α) (h : k < l.length) :
    nth (modifyAt l k f) k d = f (nth l k d) := by
  induction l generalizing k with
  | nil => simp at h
  | cons x r ih =>
    cases k with
    | zero => rfl
    | succ k => simpa [modifyAt, nth] using ih k (by simpa using h)

theorem nth_modifyAt_other {α : Type} (l : List α) (k j : Nat) (f : α → α) (d : α) (h : j ≠ k) :
    nth (modifyAt l k f) j d = nth l j d := by
  induction l generalizing k j with
  | nil => rfl
  | cons x r ih =>
    cases k with
    | zero => cases j with
      | zero => exact absurd rfl h
      | succ j => rfl
    | succ k => cases j with
      | zero => rfl
      | succ j => simpa [modifyAt, nth] using ih k j (by omega)

@[simp] theorem region_onRegion_same (s : State) (r : Nat) (f : Region → Region) (h : r < s.regions.length) :
    region (onRegion r f s) r = f (region s r) := nth_modifyAt_same _ _ _ _ h

@[simp] theorem region_onRegion_other (s : State) (r k : Nat) (f : Region → Region) (h : k ≠ r) :
    region (onRegion r f s) k = region s k := nth_modifyAt_other _ _ _ _ _ h

@[simp] theorem port_onPort_same (s : State) (p : Nat) (f : Port → Port) (h : p < s.fab.ports.length) :
    port (onPort p f s) p = f (port s p) := nth_modifyAt_same _ _ _ _ h

@[simp] theorem port_onPort_other (s : State) (p k : Nat) (f : Port → Port) (h : k ≠ p) :
    port (onPort p f s) k = port s k := nth_modifyAt_other _ _ _ _ _ h

/-! ### Writes of the state's memories -/

theorem cells_writeMem_same (s : State) (sp a : Nat) (bs : List Byte) (h : sp ≤ 3) :
    (writeMem sp a bs s).mem.cells sp = mwrite (s.mem.cells sp) a bs := by
  obtain rfl | rfl | rfl | rfl : sp = 0 ∨ sp = 1 ∨ sp = 2 ∨ sp = 3 := by omega
  all_goals rfl

theorem cells_writeMem_other (s : State) (sp t a : Nat) (bs : List Byte) (h : sp ≤ 3) (ht : t ≤ 3) (hn : t ≠ sp) :
    (writeMem sp a bs s).mem.cells t = s.mem.cells t := by
  obtain rfl | rfl | rfl | rfl : sp = 0 ∨ sp = 1 ∨ sp = 2 ∨ sp = 3 := by omega
  all_goals
    obtain rfl | rfl | rfl | rfl : t = 0 ∨ t = 1 ∨ t = 2 ∨ t = 3 := by omega
    all_goals first | rfl | exact absurd rfl hn

theorem era_writeMem (s : State) (sp a : Nat) (bs : List Byte) : (writeMem sp a bs s).mem.era = s.mem.era := by
  unfold writeMem; split <;> rfl

/-- A read of what has just been written to a space gives the bytes written. -/
theorem readMem_writeMem_same (s : State) (sp a : Nat) (bs : List Byte) (h : sp ≤ 3) (w : Memory.wf (s.mem.cells sp) = true) :
    readMem (writeMem sp a bs s) sp a bs.length = bs := by
  unfold readMem; rw [cells_writeMem_same s sp a bs h]; exact mread_mwrite_same _ _ _ _ w

/-- A read of another space, or of bytes apart from those written, gives what it gave. -/
theorem readMem_writeMem_apart (s : State) (sp t a b n : Nat) (bs : List Byte) (h : sp ≤ 3) (ht : t ≤ 3)
    (w : Memory.wf (s.mem.cells sp) = true) (hd : t ≠ sp ∨ b + n ≤ a ∨ a + bs.length ≤ b) :
    readMem (writeMem sp a bs s) t b n = readMem s t b n := by
  unfold readMem
  rw [era_writeMem]
  by_cases e : t = sp
  · subst e; rw [cells_writeMem_same s t a bs h]; exact mread_mwrite_apart _ _ _ _ _ _ w (by tauto)
  · rw [cells_writeMem_other s sp t a bs h ht e]

/-! ### The canonical form of the memories, and the numbers of regions and ports -/

/-- What keeps the canonical form: each memory in its form before is in it after, and there are as many regions and ports. -/
structure KeepsForm (s t : State) : Prop where
  tier : Memory.wf s.mem.tier = true → Memory.wf t.mem.tier = true
  staging : Memory.wf s.mem.staging = true → Memory.wf t.mem.staging = true
  slice : Memory.wf s.mem.slice = true → Memory.wf t.mem.slice = true
  host : Memory.wf s.mem.host = true → Memory.wf t.mem.host = true
  acc : sorted s.mem.acc = true → sorted t.mem.acc = true
  regions : t.regions.length = s.regions.length
  ports : t.fab.ports.length = s.fab.ports.length

theorem KeepsForm.refl (s : State) : KeepsForm s s := ⟨id, id, id, id, id, rfl, rfl⟩

theorem KeepsForm.trans {s t u : State} (a : KeepsForm s t) (b : KeepsForm t u) : KeepsForm s u :=
  ⟨b.tier ∘ a.tier, b.staging ∘ a.staging, b.slice ∘ a.slice, b.host ∘ a.host, b.acc ∘ a.acc, b.regions.trans a.regions,
    b.ports.trans a.ports⟩

/-- What leaves the memories and the numbers of regions and ports alone keeps the form. -/
theorem KeepsForm.of_eq {s t : State} (m : t.mem = s.mem) (r : t.regions.length = s.regions.length)
    (p : t.fab.ports.length = s.fab.ports.length) : KeepsForm s t :=
  ⟨fun h => m ▸ h, fun h => m ▸ h, fun h => m ▸ h, fun h => m ▸ h, fun h => m ▸ h, r, p⟩

theorem keepsForm_writeMem (s : State) (sp a : Nat) (bs : List Byte) : KeepsForm s (writeMem sp a bs s) := by
  unfold writeMem
  split
  · exact ⟨wf_mwrite _ _ _, id, id, id, id, rfl, rfl⟩
  · exact ⟨id, wf_mwrite _ _ _, id, id, id, rfl, rfl⟩
  · exact ⟨id, id, wf_mwrite _ _ _, id, id, rfl, rfl⟩
  · exact ⟨id, id, id, wf_mwrite _ _ _, id, rfl, rfl⟩

theorem keepsForm_loseRegion (r : Nat) (s : State) : KeepsForm s (loseRegion r s) :=
  ⟨id, wf_filter _ _, wf_filter _ _, id, sorted_filter _ _, rfl, rfl⟩

theorem keepsForm_loseAcc (s : State) : KeepsForm s (loseAcc s) := ⟨id, id, id, id, fun _ => rfl, rfl, rfl⟩

theorem keepsForm_onRegion (r : Nat) (f : Region → Region) (s : State) : KeepsForm s (onRegion r f s) :=
  .of_eq rfl (modifyAt_length _ _ _) rfl

theorem keepsForm_onRegions (f : Nat → Region → Region) (s : State) : KeepsForm s (onRegions f s) :=
  .of_eq rfl (by simp [onRegions]) rfl

theorem keepsForm_onPort (p : Nat) (f : Port → Port) (s : State) : KeepsForm s (onPort p f s) :=
  .of_eq rfl rfl (modifyAt_length _ _ _)

/-- A fold of operations that keep the form keeps it. -/
theorem keepsForm_foldl {β : Type} (f : State → β → State) (hf : ∀ s b, KeepsForm s (f s b)) (l : List β) (s : State) :
    KeepsForm s (l.foldl f s) := by
  induction l generalizing s with
  | nil => exact .refl s
  | cons b r ih => exact (hf s b).trans (ih _)

end Sys2Proof.Machine
end

