-- ==== Sys2Proof/Laws/State.lean ====
section
/-!
SUPPORT. What each shared operation leaves of the state: one equation for each field that it keeps or sets outright.
-/
namespace Sys2Proof.Machine

/-- A fold leaves what each of its steps leaves. -/
theorem foldl_keeps {α β γ : Type} (f : β → γ) (g : β → α → β) (h : ∀ s x, f (g s x) = f s) (l : List α) (s : β) :
    f (l.foldl g s) = f s := by
  induction l generalizing s with
  | nil => rfl
  | cons x l ih => rw [List.foldl_cons, ih, h]


@[simp] theorem onGw_identity (f : Gangway → Gangway) (s : State) : (onGw f s).identity = s.identity := rfl
@[simp] theorem onGw_pins (f : Gangway → Gangway) (s : State) : (onGw f s).pins = s.pins := rfl
@[simp] theorem onGw_power (f : Gangway → Gangway) (s : State) : (onGw f s).power = s.power := rfl
@[simp] theorem onGw_thermal (f : Gangway → Gangway) (s : State) : (onGw f s).thermal = s.thermal := rfl
@[simp] theorem onGw_regions (f : Gangway → Gangway) (s : State) : (onGw f s).regions = s.regions := rfl
@[simp] theorem onGw_mem (f : Gangway → Gangway) (s : State) : (onGw f s).mem = s.mem := rfl
@[simp] theorem onGw_seq (f : Gangway → Gangway) (s : State) : (onGw f s).seq = s.seq := rfl
@[simp] theorem onGw_job (f : Gangway → Gangway) (s : State) : (onGw f s).job = s.job := rfl
@[simp] theorem onGw_reshard (f : Gangway → Gangway) (s : State) : (onGw f s).reshard = s.reshard := rfl
@[simp] theorem onGw_gw (f : Gangway → Gangway) (s : State) : (onGw f s).gw = f s.gw := rfl
@[simp] theorem onGw_trust (f : Gangway → Gangway) (s : State) : (onGw f s).trust = s.trust := rfl
@[simp] theorem onGw_log (f : Gangway → Gangway) (s : State) : (onGw f s).log = s.log := rfl
@[simp] theorem onGw_fab (f : Gangway → Gangway) (s : State) : (onGw f s).fab = s.fab := rfl
@[simp] theorem onGw_pair (f : Gangway → Gangway) (s : State) : (onGw f s).pair = s.pair := rfl
@[simp] theorem onGw_badSpares (f : Gangway → Gangway) (s : State) : (onGw f s).badSpares = s.badSpares := rfl
@[simp] theorem onGw_free (f : Gangway → Gangway) (s : State) : (onGw f s).free = s.free := rfl
@[simp] theorem onGw_pending (f : Gangway → Gangway) (s : State) : (onGw f s).pending = s.pending := rfl

@[simp] theorem onPower_identity (f : Power → Power) (s : State) : (onPower f s).identity = s.identity := rfl
@[simp] theorem onPower_pins (f : Power → Power) (s : State) : (onPower f s).pins = s.pins := rfl
@[simp] theorem onPower_power (f : Power → Power) (s : State) : (onPower f s).power = f s.power := rfl
@[simp] theorem onPower_thermal (f : Power → Power) (s : State) : (onPower f s).thermal = s.thermal := rfl
@[simp] theorem onPower_regions (f : Power → Power) (s : State) : (onPower f s).regions = s.regions := rfl
@[simp] theorem onPower_mem (f : Power → Power) (s : State) : (onPower f s).mem = s.mem := rfl
@[simp] theorem onPower_seq (f : Power → Power) (s : State) : (onPower f s).seq = s.seq := rfl
@[simp] theorem onPower_job (f : Power → Power) (s : State) : (onPower f s).job = s.job := rfl
@[simp] theorem onPower_reshard (f : Power → Power) (s : State) : (onPower f s).reshard = s.reshard := rfl
@[simp] theorem onPower_gw (f : Power → Power) (s : State) : (onPower f s).gw = s.gw := rfl
@[simp] theorem onPower_trust (f : Power → Power) (s : State) : (onPower f s).trust = s.trust := rfl
@[simp] theorem onPower_log (f : Power → Power) (s : State) : (onPower f s).log = s.log := rfl
@[simp] theorem onPower_fab (f : Power → Power) (s : State) : (onPower f s).fab = s.fab := rfl
@[simp] theorem onPower_pair (f : Power → Power) (s : State) : (onPower f s).pair = s.pair := rfl
@[simp] theorem onPower_badSpares (f : Power → Power) (s : State) : (onPower f s).badSpares = s.badSpares := rfl
@[simp] theorem onPower_free (f : Power → Power) (s : State) : (onPower f s).free = s.free := rfl
@[simp] theorem onPower_pending (f : Power → Power) (s : State) : (onPower f s).pending = s.pending := rfl

@[simp] theorem onPins_identity (f : Pins → Pins) (s : State) : (onPins f s).identity = s.identity := rfl
@[simp] theorem onPins_pins (f : Pins → Pins) (s : State) : (onPins f s).pins = f s.pins := rfl
@[simp] theorem onPins_power (f : Pins → Pins) (s : State) : (onPins f s).power = s.power := rfl
@[simp] theorem onPins_thermal (f : Pins → Pins) (s : State) : (onPins f s).thermal = s.thermal := rfl
@[simp] theorem onPins_regions (f : Pins → Pins) (s : State) : (onPins f s).regions = s.regions := rfl
@[simp] theorem onPins_mem (f : Pins → Pins) (s : State) : (onPins f s).mem = s.mem := rfl
@[simp] theorem onPins_seq (f : Pins → Pins) (s : State) : (onPins f s).seq = s.seq := rfl
@[simp] theorem onPins_job (f : Pins → Pins) (s : State) : (onPins f s).job = s.job := rfl
@[simp] theorem onPins_reshard (f : Pins → Pins) (s : State) : (onPins f s).reshard = s.reshard := rfl
@[simp] theorem onPins_gw (f : Pins → Pins) (s : State) : (onPins f s).gw = s.gw := rfl
@[simp] theorem onPins_trust (f : Pins → Pins) (s : State) : (onPins f s).trust = s.trust := rfl
@[simp] theorem onPins_log (f : Pins → Pins) (s : State) : (onPins f s).log = s.log := rfl
@[simp] theorem onPins_fab (f : Pins → Pins) (s : State) : (onPins f s).fab = s.fab := rfl
@[simp] theorem onPins_pair (f : Pins → Pins) (s : State) : (onPins f s).pair = s.pair := rfl
@[simp] theorem onPins_badSpares (f : Pins → Pins) (s : State) : (onPins f s).badSpares = s.badSpares := rfl
@[simp] theorem onPins_free (f : Pins → Pins) (s : State) : (onPins f s).free = s.free := rfl
@[simp] theorem onPins_pending (f : Pins → Pins) (s : State) : (onPins f s).pending = s.pending := rfl

@[simp] theorem onThermal_identity (f : Thermal → Thermal) (s : State) : (onThermal f s).identity = s.identity := rfl
@[simp] theorem onThermal_pins (f : Thermal → Thermal) (s : State) : (onThermal f s).pins = s.pins := rfl
@[simp] theorem onThermal_power (f : Thermal → Thermal) (s : State) : (onThermal f s).power = s.power := rfl
@[simp] theorem onThermal_thermal (f : Thermal → Thermal) (s : State) : (onThermal f s).thermal = f s.thermal := rfl
@[simp] theorem onThermal_regions (f : Thermal → Thermal) (s : State) : (onThermal f s).regions = s.regions := rfl
@[simp] theorem onThermal_mem (f : Thermal → Thermal) (s : State) : (onThermal f s).mem = s.mem := rfl
@[simp] theorem onThermal_seq (f : Thermal → Thermal) (s : State) : (onThermal f s).seq = s.seq := rfl
@[simp] theorem onThermal_job (f : Thermal → Thermal) (s : State) : (onThermal f s).job = s.job := rfl
@[simp] theorem onThermal_reshard (f : Thermal → Thermal) (s : State) : (onThermal f s).reshard = s.reshard := rfl
@[simp] theorem onThermal_gw (f : Thermal → Thermal) (s : State) : (onThermal f s).gw = s.gw := rfl
@[simp] theorem onThermal_trust (f : Thermal → Thermal) (s : State) : (onThermal f s).trust = s.trust := rfl
@[simp] theorem onThermal_log (f : Thermal → Thermal) (s : State) : (onThermal f s).log = s.log := rfl
@[simp] theorem onThermal_fab (f : Thermal → Thermal) (s : State) : (onThermal f s).fab = s.fab := rfl
@[simp] theorem onThermal_pair (f : Thermal → Thermal) (s : State) : (onThermal f s).pair = s.pair := rfl
@[simp] theorem onThermal_badSpares (f : Thermal → Thermal) (s : State) : (onThermal f s).badSpares = s.badSpares := rfl
@[simp] theorem onThermal_free (f : Thermal → Thermal) (s : State) : (onThermal f s).free = s.free := rfl
@[simp] theorem onThermal_pending (f : Thermal → Thermal) (s : State) : (onThermal f s).pending = s.pending := rfl

@[simp] theorem onLog_identity (f : Recorder → Recorder) (s : State) : (onLog f s).identity = s.identity := rfl
@[simp] theorem onLog_pins (f : Recorder → Recorder) (s : State) : (onLog f s).pins = s.pins := rfl
@[simp] theorem onLog_power (f : Recorder → Recorder) (s : State) : (onLog f s).power = s.power := rfl
@[simp] theorem onLog_thermal (f : Recorder → Recorder) (s : State) : (onLog f s).thermal = s.thermal := rfl
@[simp] theorem onLog_regions (f : Recorder → Recorder) (s : State) : (onLog f s).regions = s.regions := rfl
@[simp] theorem onLog_mem (f : Recorder → Recorder) (s : State) : (onLog f s).mem = s.mem := rfl
@[simp] theorem onLog_seq (f : Recorder → Recorder) (s : State) : (onLog f s).seq = s.seq := rfl
@[simp] theorem onLog_job (f : Recorder → Recorder) (s : State) : (onLog f s).job = s.job := rfl
@[simp] theorem onLog_reshard (f : Recorder → Recorder) (s : State) : (onLog f s).reshard = s.reshard := rfl
@[simp] theorem onLog_gw (f : Recorder → Recorder) (s : State) : (onLog f s).gw = s.gw := rfl
@[simp] theorem onLog_trust (f : Recorder → Recorder) (s : State) : (onLog f s).trust = s.trust := rfl
@[simp] theorem onLog_log (f : Recorder → Recorder) (s : State) : (onLog f s).log = f s.log := rfl
@[simp] theorem onLog_fab (f : Recorder → Recorder) (s : State) : (onLog f s).fab = s.fab := rfl
@[simp] theorem onLog_pair (f : Recorder → Recorder) (s : State) : (onLog f s).pair = s.pair := rfl
@[simp] theorem onLog_badSpares (f : Recorder → Recorder) (s : State) : (onLog f s).badSpares = s.badSpares := rfl
@[simp] theorem onLog_free (f : Recorder → Recorder) (s : State) : (onLog f s).free = s.free := rfl
@[simp] theorem onLog_pending (f : Recorder → Recorder) (s : State) : (onLog f s).pending = s.pending := rfl

@[simp] theorem onSeq_identity (f : Seq → Seq) (s : State) : (onSeq f s).identity = s.identity := rfl
@[simp] theorem onSeq_pins (f : Seq → Seq) (s : State) : (onSeq f s).pins = s.pins := rfl
@[simp] theorem onSeq_power (f : Seq → Seq) (s : State) : (onSeq f s).power = s.power := rfl
@[simp] theorem onSeq_thermal (f : Seq → Seq) (s : State) : (onSeq f s).thermal = s.thermal := rfl
@[simp] theorem onSeq_regions (f : Seq → Seq) (s : State) : (onSeq f s).regions = s.regions := rfl
@[simp] theorem onSeq_mem (f : Seq → Seq) (s : State) : (onSeq f s).mem = s.mem := rfl
@[simp] theorem onSeq_seq (f : Seq → Seq) (s : State) : (onSeq f s).seq = f s.seq := rfl
@[simp] theorem onSeq_job (f : Seq → Seq) (s : State) : (onSeq f s).job = s.job := rfl
@[simp] theorem onSeq_reshard (f : Seq → Seq) (s : State) : (onSeq f s).reshard = s.reshard := rfl
@[simp] theorem onSeq_gw (f : Seq → Seq) (s : State) : (onSeq f s).gw = s.gw := rfl
@[simp] theorem onSeq_trust (f : Seq → Seq) (s : State) : (onSeq f s).trust = s.trust := rfl
@[simp] theorem onSeq_log (f : Seq → Seq) (s : State) : (onSeq f s).log = s.log := rfl
@[simp] theorem onSeq_fab (f : Seq → Seq) (s : State) : (onSeq f s).fab = s.fab := rfl
@[simp] theorem onSeq_pair (f : Seq → Seq) (s : State) : (onSeq f s).pair = s.pair := rfl
@[simp] theorem onSeq_badSpares (f : Seq → Seq) (s : State) : (onSeq f s).badSpares = s.badSpares := rfl
@[simp] theorem onSeq_free (f : Seq → Seq) (s : State) : (onSeq f s).free = s.free := rfl
@[simp] theorem onSeq_pending (f : Seq → Seq) (s : State) : (onSeq f s).pending = s.pending := rfl

@[simp] theorem onPair_identity (f : Pair → Pair) (s : State) : (onPair f s).identity = s.identity := rfl
@[simp] theorem onPair_pins (f : Pair → Pair) (s : State) : (onPair f s).pins = s.pins := rfl
@[simp] theorem onPair_power (f : Pair → Pair) (s : State) : (onPair f s).power = s.power := rfl
@[simp] theorem onPair_thermal (f : Pair → Pair) (s : State) : (onPair f s).thermal = s.thermal := rfl
@[simp] theorem onPair_regions (f : Pair → Pair) (s : State) : (onPair f s).regions = s.regions := rfl
@[simp] theorem onPair_mem (f : Pair → Pair) (s : State) : (onPair f s).mem = s.mem := rfl
@[simp] theorem onPair_seq (f : Pair → Pair) (s : State) : (onPair f s).seq = s.seq := rfl
@[simp] theorem onPair_job (f : Pair → Pair) (s : State) : (onPair f s).job = s.job := rfl
@[simp] theorem onPair_reshard (f : Pair → Pair) (s : State) : (onPair f s).reshard = s.reshard := rfl
@[simp] theorem onPair_gw (f : Pair → Pair) (s : State) : (onPair f s).gw = s.gw := rfl
@[simp] theorem onPair_trust (f : Pair → Pair) (s : State) : (onPair f s).trust = s.trust := rfl
@[simp] theorem onPair_log (f : Pair → Pair) (s : State) : (onPair f s).log = s.log := rfl
@[simp] theorem onPair_fab (f : Pair → Pair) (s : State) : (onPair f s).fab = s.fab := rfl
@[simp] theorem onPair_pair (f : Pair → Pair) (s : State) : (onPair f s).pair = f s.pair := rfl
@[simp] theorem onPair_badSpares (f : Pair → Pair) (s : State) : (onPair f s).badSpares = s.badSpares := rfl
@[simp] theorem onPair_free (f : Pair → Pair) (s : State) : (onPair f s).free = s.free := rfl
@[simp] theorem onPair_pending (f : Pair → Pair) (s : State) : (onPair f s).pending = s.pending := rfl

@[simp] theorem onRegion_identity (r : Nat) (f : Region → Region) (s : State) : (onRegion r f s).identity = s.identity := rfl
@[simp] theorem onRegion_pins (r : Nat) (f : Region → Region) (s : State) : (onRegion r f s).pins = s.pins := rfl
@[simp] theorem onRegion_power (r : Nat) (f : Region → Region) (s : State) : (onRegion r f s).power = s.power := rfl
@[simp] theorem onRegion_thermal (r : Nat) (f : Region → Region) (s : State) : (onRegion r f s).thermal = s.thermal := rfl
@[simp] theorem onRegion_regions (r : Nat) (f : Region → Region) (s : State) : (onRegion r f s).regions = modifyAt s.regions r f := rfl
@[simp] theorem onRegion_mem (r : Nat) (f : Region → Region) (s : State) : (onRegion r f s).mem = s.mem := rfl
@[simp] theorem onRegion_seq (r : Nat) (f : Region → Region) (s : State) : (onRegion r f s).seq = s.seq := rfl
@[simp] theorem onRegion_job (r : Nat) (f : Region → Region) (s : State) : (onRegion r f s).job = s.job := rfl
@[simp] theorem onRegion_reshard (r : Nat) (f : Region → Region) (s : State) : (onRegion r f s).reshard = s.reshard := rfl
@[simp] theorem onRegion_gw (r : Nat) (f : Region → Region) (s : State) : (onRegion r f s).gw = s.gw := rfl
@[simp] theorem onRegion_trust (r : Nat) (f : Region → Region) (s : State) : (onRegion r f s).trust = s.trust := rfl
@[simp] theorem onRegion_log (r : Nat) (f : Region → Region) (s : State) : (onRegion r f s).log = s.log := rfl
@[simp] theorem onRegion_fab (r : Nat) (f : Region → Region) (s : State) : (onRegion r f s).fab = s.fab := rfl
@[simp] theorem onRegion_pair (r : Nat) (f : Region → Region) (s : State) : (onRegion r f s).pair = s.pair := rfl
@[simp] theorem onRegion_badSpares (r : Nat) (f : Region → Region) (s : State) : (onRegion r f s).badSpares = s.badSpares := rfl
@[simp] theorem onRegion_free (r : Nat) (f : Region → Region) (s : State) : (onRegion r f s).free = s.free := rfl
@[simp] theorem onRegion_pending (r : Nat) (f : Region → Region) (s : State) : (onRegion r f s).pending = s.pending := rfl

@[simp] theorem onRegions_identity (f : Nat → Region → Region) (s : State) : (onRegions f s).identity = s.identity := rfl
@[simp] theorem onRegions_pins (f : Nat → Region → Region) (s : State) : (onRegions f s).pins = s.pins := rfl
@[simp] theorem onRegions_power (f : Nat → Region → Region) (s : State) : (onRegions f s).power = s.power := rfl
@[simp] theorem onRegions_thermal (f : Nat → Region → Region) (s : State) : (onRegions f s).thermal = s.thermal := rfl
@[simp] theorem onRegions_regions (f : Nat → Region → Region) (s : State) : (onRegions f s).regions = s.regions.mapIdx f := rfl
@[simp] theorem onRegions_mem (f : Nat → Region → Region) (s : State) : (onRegions f s).mem = s.mem := rfl
@[simp] theorem onRegions_seq (f : Nat → Region → Region) (s : State) : (onRegions f s).seq = s.seq := rfl
@[simp] theorem onRegions_job (f : Nat → Region → Region) (s : State) : (onRegions f s).job = s.job := rfl
@[simp] theorem onRegions_reshard (f : Nat → Region → Region) (s : State) : (onRegions f s).reshard = s.reshard := rfl
@[simp] theorem onRegions_gw (f : Nat → Region → Region) (s : State) : (onRegions f s).gw = s.gw := rfl
@[simp] theorem onRegions_trust (f : Nat → Region → Region) (s : State) : (onRegions f s).trust = s.trust := rfl
@[simp] theorem onRegions_log (f : Nat → Region → Region) (s : State) : (onRegions f s).log = s.log := rfl
@[simp] theorem onRegions_fab (f : Nat → Region → Region) (s : State) : (onRegions f s).fab = s.fab := rfl
@[simp] theorem onRegions_pair (f : Nat → Region → Region) (s : State) : (onRegions f s).pair = s.pair := rfl
@[simp] theorem onRegions_badSpares (f : Nat → Region → Region) (s : State) : (onRegions f s).badSpares = s.badSpares := rfl
@[simp] theorem onRegions_free (f : Nat → Region → Region) (s : State) : (onRegions f s).free = s.free := rfl
@[simp] theorem onRegions_pending (f : Nat → Region → Region) (s : State) : (onRegions f s).pending = s.pending := rfl

@[simp] theorem onPort_identity (p : Nat) (f : Port → Port) (s : State) : (onPort p f s).identity = s.identity := rfl
@[simp] theorem onPort_pins (p : Nat) (f : Port → Port) (s : State) : (onPort p f s).pins = s.pins := rfl
@[simp] theorem onPort_power (p : Nat) (f : Port → Port) (s : State) : (onPort p f s).power = s.power := rfl
@[simp] theorem onPort_thermal (p : Nat) (f : Port → Port) (s : State) : (onPort p f s).thermal = s.thermal := rfl
@[simp] theorem onPort_regions (p : Nat) (f : Port → Port) (s : State) : (onPort p f s).regions = s.regions := rfl
@[simp] theorem onPort_mem (p : Nat) (f : Port → Port) (s : State) : (onPort p f s).mem = s.mem := rfl
@[simp] theorem onPort_seq (p : Nat) (f : Port → Port) (s : State) : (onPort p f s).seq = s.seq := rfl
@[simp] theorem onPort_job (p : Nat) (f : Port → Port) (s : State) : (onPort p f s).job = s.job := rfl
@[simp] theorem onPort_reshard (p : Nat) (f : Port → Port) (s : State) : (onPort p f s).reshard = s.reshard := rfl
@[simp] theorem onPort_gw (p : Nat) (f : Port → Port) (s : State) : (onPort p f s).gw = s.gw := rfl
@[simp] theorem onPort_trust (p : Nat) (f : Port → Port) (s : State) : (onPort p f s).trust = s.trust := rfl
@[simp] theorem onPort_log (p : Nat) (f : Port → Port) (s : State) : (onPort p f s).log = s.log := rfl
@[simp] theorem onPort_fab (p : Nat) (f : Port → Port) (s : State) : (onPort p f s).fab = { s.fab with ports := modifyAt s.fab.ports p f } := rfl
@[simp] theorem onPort_pair (p : Nat) (f : Port → Port) (s : State) : (onPort p f s).pair = s.pair := rfl
@[simp] theorem onPort_badSpares (p : Nat) (f : Port → Port) (s : State) : (onPort p f s).badSpares = s.badSpares := rfl
@[simp] theorem onPort_free (p : Nat) (f : Port → Port) (s : State) : (onPort p f s).free = s.free := rfl
@[simp] theorem onPort_pending (p : Nat) (f : Port → Port) (s : State) : (onPort p f s).pending = s.pending := rfl

@[simp] theorem onTxns_identity (f : List Txn → List Txn) (s : State) : (onTxns f s).identity = s.identity := rfl
@[simp] theorem onTxns_pins (f : List Txn → List Txn) (s : State) : (onTxns f s).pins = s.pins := rfl
@[simp] theorem onTxns_power (f : List Txn → List Txn) (s : State) : (onTxns f s).power = s.power := rfl
@[simp] theorem onTxns_thermal (f : List Txn → List Txn) (s : State) : (onTxns f s).thermal = s.thermal := rfl
@[simp] theorem onTxns_regions (f : List Txn → List Txn) (s : State) : (onTxns f s).regions = s.regions := rfl
@[simp] theorem onTxns_mem (f : List Txn → List Txn) (s : State) : (onTxns f s).mem = s.mem := rfl
@[simp] theorem onTxns_seq (f : List Txn → List Txn) (s : State) : (onTxns f s).seq = s.seq := rfl
@[simp] theorem onTxns_job (f : List Txn → List Txn) (s : State) : (onTxns f s).job = s.job := rfl
@[simp] theorem onTxns_reshard (f : List Txn → List Txn) (s : State) : (onTxns f s).reshard = s.reshard := rfl
@[simp] theorem onTxns_gw (f : List Txn → List Txn) (s : State) : (onTxns f s).gw = s.gw := rfl
@[simp] theorem onTxns_trust (f : List Txn → List Txn) (s : State) : (onTxns f s).trust = s.trust := rfl
@[simp] theorem onTxns_log (f : List Txn → List Txn) (s : State) : (onTxns f s).log = s.log := rfl
@[simp] theorem onTxns_fab (f : List Txn → List Txn) (s : State) : (onTxns f s).fab = { s.fab with txns := f s.fab.txns } := rfl
@[simp] theorem onTxns_pair (f : List Txn → List Txn) (s : State) : (onTxns f s).pair = s.pair := rfl
@[simp] theorem onTxns_badSpares (f : List Txn → List Txn) (s : State) : (onTxns f s).badSpares = s.badSpares := rfl
@[simp] theorem onTxns_free (f : List Txn → List Txn) (s : State) : (onTxns f s).free = s.free := rfl
@[simp] theorem onTxns_pending (f : List Txn → List Txn) (s : State) : (onTxns f s).pending = s.pending := rfl

@[simp] theorem hold_identity (c : Completion) (s : State) : (Machine.hold c s).identity = s.identity := rfl
@[simp] theorem hold_pins (c : Completion) (s : State) : (Machine.hold c s).pins = s.pins := rfl
@[simp] theorem hold_power (c : Completion) (s : State) : (Machine.hold c s).power = s.power := rfl
@[simp] theorem hold_thermal (c : Completion) (s : State) : (Machine.hold c s).thermal = s.thermal := rfl
@[simp] theorem hold_regions (c : Completion) (s : State) : (Machine.hold c s).regions = s.regions := rfl
@[simp] theorem hold_mem (c : Completion) (s : State) : (Machine.hold c s).mem = s.mem := rfl
@[simp] theorem hold_seq (c : Completion) (s : State) : (Machine.hold c s).seq = s.seq := rfl
@[simp] theorem hold_job (c : Completion) (s : State) : (Machine.hold c s).job = s.job := rfl
@[simp] theorem hold_reshard (c : Completion) (s : State) : (Machine.hold c s).reshard = s.reshard := rfl
@[simp] theorem hold_gw (c : Completion) (s : State) : (Machine.hold c s).gw = { s.gw with held := s.gw.held ++ [c] } := rfl
@[simp] theorem hold_trust (c : Completion) (s : State) : (Machine.hold c s).trust = s.trust := rfl
@[simp] theorem hold_log (c : Completion) (s : State) : (Machine.hold c s).log = s.log := rfl
@[simp] theorem hold_fab (c : Completion) (s : State) : (Machine.hold c s).fab = s.fab := rfl
@[simp] theorem hold_pair (c : Completion) (s : State) : (Machine.hold c s).pair = s.pair := rfl
@[simp] theorem hold_badSpares (c : Completion) (s : State) : (Machine.hold c s).badSpares = s.badSpares := rfl
@[simp] theorem hold_free (c : Completion) (s : State) : (Machine.hold c s).free = s.free := rfl
@[simp] theorem hold_pending (c : Completion) (s : State) : (Machine.hold c s).pending = s.pending := rfl

@[simp] theorem orphanRuns_identity (i : BitVec 3) (s : State) : (orphanRuns i s).identity = s.identity := rfl
@[simp] theorem orphanRuns_pins (i : BitVec 3) (s : State) : (orphanRuns i s).pins = s.pins := rfl
@[simp] theorem orphanRuns_power (i : BitVec 3) (s : State) : (orphanRuns i s).power = s.power := rfl
@[simp] theorem orphanRuns_thermal (i : BitVec 3) (s : State) : (orphanRuns i s).thermal = s.thermal := rfl
@[simp] theorem orphanRuns_regions (i : BitVec 3) (s : State) : (orphanRuns i s).regions = s.regions := rfl
@[simp] theorem orphanRuns_mem (i : BitVec 3) (s : State) : (orphanRuns i s).mem = s.mem := rfl
@[simp] theorem orphanRuns_job (i : BitVec 3) (s : State) : (orphanRuns i s).job = s.job := rfl
@[simp] theorem orphanRuns_reshard (i : BitVec 3) (s : State) : (orphanRuns i s).reshard = s.reshard := rfl
@[simp] theorem orphanRuns_fab (i : BitVec 3) (s : State) : (orphanRuns i s).fab = s.fab := rfl
@[simp] theorem orphanRuns_badSpares (i : BitVec 3) (s : State) : (orphanRuns i s).badSpares = s.badSpares := rfl
@[simp] theorem orphanRuns_free (i : BitVec 3) (s : State) : (orphanRuns i s).free = s.free := rfl
@[simp] theorem orphanRuns_pending (i : BitVec 3) (s : State) : (orphanRuns i s).pending = s.pending := rfl

@[simp] theorem closeSession_identity (i : BitVec 3) (s : State) : (closeSession i s).identity = s.identity := rfl
@[simp] theorem closeSession_pins (i : BitVec 3) (s : State) : (closeSession i s).pins = s.pins := rfl
@[simp] theorem closeSession_power (i : BitVec 3) (s : State) : (closeSession i s).power = s.power := rfl
@[simp] theorem closeSession_thermal (i : BitVec 3) (s : State) : (closeSession i s).thermal = s.thermal := rfl
@[simp] theorem closeSession_regions (i : BitVec 3) (s : State) : (closeSession i s).regions = s.regions := rfl
@[simp] theorem closeSession_mem (i : BitVec 3) (s : State) : (closeSession i s).mem = s.mem := rfl
@[simp] theorem closeSession_job (i : BitVec 3) (s : State) : (closeSession i s).job = s.job := rfl
@[simp] theorem closeSession_reshard (i : BitVec 3) (s : State) : (closeSession i s).reshard = s.reshard := rfl
@[simp] theorem closeSession_fab (i : BitVec 3) (s : State) : (closeSession i s).fab = s.fab := rfl
@[simp] theorem closeSession_badSpares (i : BitVec 3) (s : State) : (closeSession i s).badSpares = s.badSpares := rfl
@[simp] theorem closeSession_free (i : BitVec 3) (s : State) : (closeSession i s).free = s.free := rfl
@[simp] theorem closeSession_pending (i : BitVec 3) (s : State) : (closeSession i s).pending = s.pending := rfl

@[simp] theorem record_identity (c : RecCode) (ps : List Byte) (s : State) : (record c ps s).identity = s.identity := rfl
@[simp] theorem record_pins (c : RecCode) (ps : List Byte) (s : State) : (record c ps s).pins = s.pins := rfl
@[simp] theorem record_power (c : RecCode) (ps : List Byte) (s : State) : (record c ps s).power = s.power := rfl
@[simp] theorem record_thermal (c : RecCode) (ps : List Byte) (s : State) : (record c ps s).thermal = s.thermal := rfl
@[simp] theorem record_regions (c : RecCode) (ps : List Byte) (s : State) : (record c ps s).regions = s.regions := rfl
@[simp] theorem record_mem (c : RecCode) (ps : List Byte) (s : State) : (record c ps s).mem = s.mem := rfl
@[simp] theorem record_seq (c : RecCode) (ps : List Byte) (s : State) : (record c ps s).seq = s.seq := rfl
@[simp] theorem record_job (c : RecCode) (ps : List Byte) (s : State) : (record c ps s).job = s.job := rfl
@[simp] theorem record_reshard (c : RecCode) (ps : List Byte) (s : State) : (record c ps s).reshard = s.reshard := rfl
@[simp] theorem record_gw (c : RecCode) (ps : List Byte) (s : State) : (record c ps s).gw = s.gw := rfl
@[simp] theorem record_trust (c : RecCode) (ps : List Byte) (s : State) : (record c ps s).trust = s.trust := rfl
@[simp] theorem record_log (c : RecCode) (ps : List Byte) (s : State) : (record c ps s).log = s.log.push (s.log.stamp c 0 ps) := rfl
@[simp] theorem record_fab (c : RecCode) (ps : List Byte) (s : State) : (record c ps s).fab = s.fab := rfl
@[simp] theorem record_pair (c : RecCode) (ps : List Byte) (s : State) : (record c ps s).pair = s.pair := rfl
@[simp] theorem record_badSpares (c : RecCode) (ps : List Byte) (s : State) : (record c ps s).badSpares = s.badSpares := rfl
@[simp] theorem record_free (c : RecCode) (ps : List Byte) (s : State) : (record c ps s).free = s.free := rfl
@[simp] theorem record_pending (c : RecCode) (ps : List Byte) (s : State) : (record c ps s).pending = s.pending := rfl

@[simp] theorem loseAcc_identity (s : State) : (loseAcc s).identity = s.identity := rfl
@[simp] theorem loseAcc_pins (s : State) : (loseAcc s).pins = s.pins := rfl
@[simp] theorem loseAcc_power (s : State) : (loseAcc s).power = s.power := rfl
@[simp] theorem loseAcc_thermal (s : State) : (loseAcc s).thermal = s.thermal := rfl
@[simp] theorem loseAcc_regions (s : State) : (loseAcc s).regions = s.regions := rfl
@[simp] theorem loseAcc_mem (s : State) : (loseAcc s).mem = { s.mem with acc := [], accBad := [], era := s.mem.era + 1 } := rfl
@[simp] theorem loseAcc_seq (s : State) : (loseAcc s).seq = s.seq := rfl
@[simp] theorem loseAcc_job (s : State) : (loseAcc s).job = s.job := rfl
@[simp] theorem loseAcc_reshard (s : State) : (loseAcc s).reshard = s.reshard := rfl
@[simp] theorem loseAcc_gw (s : State) : (loseAcc s).gw = s.gw := rfl
@[simp] theorem loseAcc_trust (s : State) : (loseAcc s).trust = s.trust := rfl
@[simp] theorem loseAcc_log (s : State) : (loseAcc s).log = s.log := rfl
@[simp] theorem loseAcc_fab (s : State) : (loseAcc s).fab = s.fab := rfl
@[simp] theorem loseAcc_pair (s : State) : (loseAcc s).pair = s.pair := rfl
@[simp] theorem loseAcc_badSpares (s : State) : (loseAcc s).badSpares = s.badSpares := rfl
@[simp] theorem loseAcc_free (s : State) : (loseAcc s).free = s.free := rfl
@[simp] theorem loseAcc_pending (s : State) : (loseAcc s).pending = s.pending := rfl

@[simp] theorem loseRegion_identity (r : Nat) (s : State) : (loseRegion r s).identity = s.identity := rfl
@[simp] theorem loseRegion_pins (r : Nat) (s : State) : (loseRegion r s).pins = s.pins := rfl
@[simp] theorem loseRegion_power (r : Nat) (s : State) : (loseRegion r s).power = s.power := rfl
@[simp] theorem loseRegion_thermal (r : Nat) (s : State) : (loseRegion r s).thermal = s.thermal := rfl
@[simp] theorem loseRegion_regions (r : Nat) (s : State) : (loseRegion r s).regions = s.regions := rfl
@[simp] theorem loseRegion_seq (r : Nat) (s : State) : (loseRegion r s).seq = s.seq := rfl
@[simp] theorem loseRegion_job (r : Nat) (s : State) : (loseRegion r s).job = s.job := rfl
@[simp] theorem loseRegion_reshard (r : Nat) (s : State) : (loseRegion r s).reshard = s.reshard := rfl
@[simp] theorem loseRegion_gw (r : Nat) (s : State) : (loseRegion r s).gw = s.gw := rfl
@[simp] theorem loseRegion_trust (r : Nat) (s : State) : (loseRegion r s).trust = s.trust := rfl
@[simp] theorem loseRegion_log (r : Nat) (s : State) : (loseRegion r s).log = s.log := rfl
@[simp] theorem loseRegion_fab (r : Nat) (s : State) : (loseRegion r s).fab = s.fab := rfl
@[simp] theorem loseRegion_pair (r : Nat) (s : State) : (loseRegion r s).pair = s.pair := rfl
@[simp] theorem loseRegion_badSpares (r : Nat) (s : State) : (loseRegion r s).badSpares = s.badSpares := rfl
@[simp] theorem loseRegion_free (r : Nat) (s : State) : (loseRegion r s).free = s.free := rfl
@[simp] theorem loseRegion_pending (r : Nat) (s : State) : (loseRegion r s).pending = s.pending := rfl

@[simp] theorem sleepKeeps_identity (s : State) : (sleepKeeps s).identity = s.identity := rfl
@[simp] theorem sleepKeeps_pins (s : State) : (sleepKeeps s).pins = s.pins := rfl
@[simp] theorem sleepKeeps_power (s : State) : (sleepKeeps s).power = s.power := rfl
@[simp] theorem sleepKeeps_thermal (s : State) : (sleepKeeps s).thermal = s.thermal := rfl
@[simp] theorem sleepKeeps_regions (s : State) : (sleepKeeps s).regions = s.regions := rfl
@[simp] theorem sleepKeeps_mem (s : State) : (sleepKeeps s).mem = { s.mem with staging := [], slice := [], acc := [], table := [], stagingBad := [], sliceBad := [], accBad := [], era := s.mem.era + 1 } := rfl
@[simp] theorem sleepKeeps_seq (s : State) : (sleepKeeps s).seq = s.seq := rfl
@[simp] theorem sleepKeeps_job (s : State) : (sleepKeeps s).job = s.job := rfl
@[simp] theorem sleepKeeps_reshard (s : State) : (sleepKeeps s).reshard = s.reshard := rfl
@[simp] theorem sleepKeeps_gw (s : State) : (sleepKeeps s).gw = s.gw := rfl
@[simp] theorem sleepKeeps_trust (s : State) : (sleepKeeps s).trust = s.trust := rfl
@[simp] theorem sleepKeeps_log (s : State) : (sleepKeeps s).log = s.log := rfl
@[simp] theorem sleepKeeps_fab (s : State) : (sleepKeeps s).fab = s.fab := rfl
@[simp] theorem sleepKeeps_pair (s : State) : (sleepKeeps s).pair = s.pair := rfl
@[simp] theorem sleepKeeps_badSpares (s : State) : (sleepKeeps s).badSpares = s.badSpares := rfl
@[simp] theorem sleepKeeps_free (s : State) : (sleepKeeps s).free = s.free := rfl
@[simp] theorem sleepKeeps_pending (s : State) : (sleepKeeps s).pending = s.pending := rfl

@[simp] theorem cutWaits_identity (s : State) : (cutWaits s).identity = s.identity := rfl
@[simp] theorem cutWaits_pins (s : State) : (cutWaits s).pins = s.pins := rfl
@[simp] theorem cutWaits_power (s : State) : (cutWaits s).power = s.power := rfl
@[simp] theorem cutWaits_thermal (s : State) : (cutWaits s).thermal = s.thermal := rfl
@[simp] theorem cutWaits_regions (s : State) : (cutWaits s).regions = s.regions := rfl
@[simp] theorem cutWaits_mem (s : State) : (cutWaits s).mem = s.mem := rfl
@[simp] theorem cutWaits_job (s : State) : (cutWaits s).job = s.job := rfl
@[simp] theorem cutWaits_reshard (s : State) : (cutWaits s).reshard = s.reshard := rfl
@[simp] theorem cutWaits_gw (s : State) : (cutWaits s).gw = s.gw := rfl
@[simp] theorem cutWaits_trust (s : State) : (cutWaits s).trust = s.trust := rfl
@[simp] theorem cutWaits_log (s : State) : (cutWaits s).log = s.log := rfl
@[simp] theorem cutWaits_pair (s : State) : (cutWaits s).pair = s.pair := rfl
@[simp] theorem cutWaits_badSpares (s : State) : (cutWaits s).badSpares = s.badSpares := rfl
@[simp] theorem cutWaits_free (s : State) : (cutWaits s).free = s.free := rfl
@[simp] theorem cutWaits_pending (s : State) : (cutWaits s).pending = s.pending := rfl

@[simp] theorem freeMsgs_identity (p : Nat) (l : List RxMsg) (s : State) : (freeMsgs p l s).identity = s.identity := rfl
@[simp] theorem freeMsgs_pins (p : Nat) (l : List RxMsg) (s : State) : (freeMsgs p l s).pins = s.pins := rfl
@[simp] theorem freeMsgs_power (p : Nat) (l : List RxMsg) (s : State) : (freeMsgs p l s).power = s.power := rfl
@[simp] theorem freeMsgs_thermal (p : Nat) (l : List RxMsg) (s : State) : (freeMsgs p l s).thermal = s.thermal := rfl
@[simp] theorem freeMsgs_regions (p : Nat) (l : List RxMsg) (s : State) : (freeMsgs p l s).regions = s.regions := rfl
@[simp] theorem freeMsgs_mem (p : Nat) (l : List RxMsg) (s : State) : (freeMsgs p l s).mem = s.mem := rfl
@[simp] theorem freeMsgs_seq (p : Nat) (l : List RxMsg) (s : State) : (freeMsgs p l s).seq = s.seq := rfl
@[simp] theorem freeMsgs_job (p : Nat) (l : List RxMsg) (s : State) : (freeMsgs p l s).job = s.job := rfl
@[simp] theorem freeMsgs_reshard (p : Nat) (l : List RxMsg) (s : State) : (freeMsgs p l s).reshard = s.reshard := rfl
@[simp] theorem freeMsgs_gw (p : Nat) (l : List RxMsg) (s : State) : (freeMsgs p l s).gw = s.gw := rfl
@[simp] theorem freeMsgs_trust (p : Nat) (l : List RxMsg) (s : State) : (freeMsgs p l s).trust = s.trust := rfl
@[simp] theorem freeMsgs_log (p : Nat) (l : List RxMsg) (s : State) : (freeMsgs p l s).log = s.log := rfl
@[simp] theorem freeMsgs_pair (p : Nat) (l : List RxMsg) (s : State) : (freeMsgs p l s).pair = s.pair := rfl
@[simp] theorem freeMsgs_badSpares (p : Nat) (l : List RxMsg) (s : State) : (freeMsgs p l s).badSpares = s.badSpares := rfl
@[simp] theorem freeMsgs_free (p : Nat) (l : List RxMsg) (s : State) : (freeMsgs p l s).free = s.free := rfl
@[simp] theorem freeMsgs_pending (p : Nat) (l : List RxMsg) (s : State) : (freeMsgs p l s).pending = s.pending := rfl

@[simp] theorem dropEarly_identity (g : CollectMsg → Bool) (s : State) : (dropEarly g s).identity = s.identity := by unfold dropEarly; rw [foldl_keeps State.identity (fun (s : State) (e : Early) => freeMsgs e.port e.held s) (fun _ _ => rfl)]
@[simp] theorem dropEarly_pins (g : CollectMsg → Bool) (s : State) : (dropEarly g s).pins = s.pins := by unfold dropEarly; rw [foldl_keeps State.pins (fun (s : State) (e : Early) => freeMsgs e.port e.held s) (fun _ _ => rfl)]
@[simp] theorem dropEarly_power (g : CollectMsg → Bool) (s : State) : (dropEarly g s).power = s.power := by unfold dropEarly; rw [foldl_keeps State.power (fun (s : State) (e : Early) => freeMsgs e.port e.held s) (fun _ _ => rfl)]
@[simp] theorem dropEarly_thermal (g : CollectMsg → Bool) (s : State) : (dropEarly g s).thermal = s.thermal := by unfold dropEarly; rw [foldl_keeps State.thermal (fun (s : State) (e : Early) => freeMsgs e.port e.held s) (fun _ _ => rfl)]
@[simp] theorem dropEarly_regions (g : CollectMsg → Bool) (s : State) : (dropEarly g s).regions = s.regions := by unfold dropEarly; rw [foldl_keeps State.regions (fun (s : State) (e : Early) => freeMsgs e.port e.held s) (fun _ _ => rfl)]
@[simp] theorem dropEarly_mem (g : CollectMsg → Bool) (s : State) : (dropEarly g s).mem = s.mem := by unfold dropEarly; rw [foldl_keeps State.mem (fun (s : State) (e : Early) => freeMsgs e.port e.held s) (fun _ _ => rfl)]
@[simp] theorem dropEarly_seq (g : CollectMsg → Bool) (s : State) : (dropEarly g s).seq = s.seq := by unfold dropEarly; rw [foldl_keeps State.seq (fun (s : State) (e : Early) => freeMsgs e.port e.held s) (fun _ _ => rfl)]
@[simp] theorem dropEarly_reshard (g : CollectMsg → Bool) (s : State) : (dropEarly g s).reshard = s.reshard := by unfold dropEarly; rw [foldl_keeps State.reshard (fun (s : State) (e : Early) => freeMsgs e.port e.held s) (fun _ _ => rfl)]
@[simp] theorem dropEarly_gw (g : CollectMsg → Bool) (s : State) : (dropEarly g s).gw = s.gw := by unfold dropEarly; rw [foldl_keeps State.gw (fun (s : State) (e : Early) => freeMsgs e.port e.held s) (fun _ _ => rfl)]
@[simp] theorem dropEarly_trust (g : CollectMsg → Bool) (s : State) : (dropEarly g s).trust = s.trust := by unfold dropEarly; rw [foldl_keeps State.trust (fun (s : State) (e : Early) => freeMsgs e.port e.held s) (fun _ _ => rfl)]
@[simp] theorem dropEarly_log (g : CollectMsg → Bool) (s : State) : (dropEarly g s).log = s.log := by unfold dropEarly; rw [foldl_keeps State.log (fun (s : State) (e : Early) => freeMsgs e.port e.held s) (fun _ _ => rfl)]
@[simp] theorem dropEarly_pair (g : CollectMsg → Bool) (s : State) : (dropEarly g s).pair = s.pair := by unfold dropEarly; rw [foldl_keeps State.pair (fun (s : State) (e : Early) => freeMsgs e.port e.held s) (fun _ _ => rfl)]
@[simp] theorem dropEarly_badSpares (g : CollectMsg → Bool) (s : State) : (dropEarly g s).badSpares = s.badSpares := by unfold dropEarly; rw [foldl_keeps State.badSpares (fun (s : State) (e : Early) => freeMsgs e.port e.held s) (fun _ _ => rfl)]
@[simp] theorem dropEarly_free (g : CollectMsg → Bool) (s : State) : (dropEarly g s).free = s.free := by unfold dropEarly; rw [foldl_keeps State.free (fun (s : State) (e : Early) => freeMsgs e.port e.held s) (fun _ _ => rfl)]
@[simp] theorem dropEarly_pending (g : CollectMsg → Bool) (s : State) : (dropEarly g s).pending = s.pending := by unfold dropEarly; rw [foldl_keeps State.pending (fun (s : State) (e : Early) => freeMsgs e.port e.held s) (fun _ _ => rfl)]

@[simp] theorem setAttempt_identity (n : Nat) (s : State) : (setAttempt n s).identity = s.identity := by simp [setAttempt]
@[simp] theorem setAttempt_pins (n : Nat) (s : State) : (setAttempt n s).pins = s.pins := by simp [setAttempt]
@[simp] theorem setAttempt_power (n : Nat) (s : State) : (setAttempt n s).power = s.power := by simp [setAttempt]
@[simp] theorem setAttempt_thermal (n : Nat) (s : State) : (setAttempt n s).thermal = s.thermal := by simp [setAttempt]
@[simp] theorem setAttempt_regions (n : Nat) (s : State) : (setAttempt n s).regions = s.regions := by simp [setAttempt]
@[simp] theorem setAttempt_mem (n : Nat) (s : State) : (setAttempt n s).mem = s.mem := by simp [setAttempt]
@[simp] theorem setAttempt_reshard (n : Nat) (s : State) : (setAttempt n s).reshard = s.reshard := by simp [setAttempt]
@[simp] theorem setAttempt_gw (n : Nat) (s : State) : (setAttempt n s).gw = s.gw := by simp [setAttempt]
@[simp] theorem setAttempt_trust (n : Nat) (s : State) : (setAttempt n s).trust = s.trust := by simp [setAttempt]
@[simp] theorem setAttempt_log (n : Nat) (s : State) : (setAttempt n s).log = s.log := by simp [setAttempt]
@[simp] theorem setAttempt_pair (n : Nat) (s : State) : (setAttempt n s).pair = s.pair := by simp [setAttempt]
@[simp] theorem setAttempt_badSpares (n : Nat) (s : State) : (setAttempt n s).badSpares = s.badSpares := by simp [setAttempt]
@[simp] theorem setAttempt_free (n : Nat) (s : State) : (setAttempt n s).free = s.free := by simp [setAttempt]
@[simp] theorem setAttempt_pending (n : Nat) (s : State) : (setAttempt n s).pending = s.pending := by simp [setAttempt]

@[simp] theorem chargeModule_identity (c : Cause) (ns : Nat) (s : State) : (chargeModule c ns s).identity = s.identity := rfl
@[simp] theorem chargeModule_pins (c : Cause) (ns : Nat) (s : State) : (chargeModule c ns s).pins = s.pins := rfl
@[simp] theorem chargeModule_power (c : Cause) (ns : Nat) (s : State) : (chargeModule c ns s).power = s.power := rfl
@[simp] theorem chargeModule_thermal (c : Cause) (ns : Nat) (s : State) : (chargeModule c ns s).thermal = s.thermal := rfl
@[simp] theorem chargeModule_regions (c : Cause) (ns : Nat) (s : State) : (chargeModule c ns s).regions = s.regions := rfl
@[simp] theorem chargeModule_mem (c : Cause) (ns : Nat) (s : State) : (chargeModule c ns s).mem = s.mem := rfl
@[simp] theorem chargeModule_job (c : Cause) (ns : Nat) (s : State) : (chargeModule c ns s).job = s.job := rfl
@[simp] theorem chargeModule_reshard (c : Cause) (ns : Nat) (s : State) : (chargeModule c ns s).reshard = s.reshard := rfl
@[simp] theorem chargeModule_gw (c : Cause) (ns : Nat) (s : State) : (chargeModule c ns s).gw = s.gw := rfl
@[simp] theorem chargeModule_trust (c : Cause) (ns : Nat) (s : State) : (chargeModule c ns s).trust = s.trust := rfl
@[simp] theorem chargeModule_log (c : Cause) (ns : Nat) (s : State) : (chargeModule c ns s).log = s.log := rfl
@[simp] theorem chargeModule_fab (c : Cause) (ns : Nat) (s : State) : (chargeModule c ns s).fab = s.fab := rfl
@[simp] theorem chargeModule_pair (c : Cause) (ns : Nat) (s : State) : (chargeModule c ns s).pair = s.pair := rfl
@[simp] theorem chargeModule_badSpares (c : Cause) (ns : Nat) (s : State) : (chargeModule c ns s).badSpares = s.badSpares := rfl
@[simp] theorem chargeModule_free (c : Cause) (ns : Nat) (s : State) : (chargeModule c ns s).free = s.free := rfl
@[simp] theorem chargeModule_pending (c : Cause) (ns : Nat) (s : State) : (chargeModule c ns s).pending = s.pending := rfl

@[simp] theorem clearWatch_identity (s : State) : (clearWatch s).identity = s.identity := rfl
@[simp] theorem clearWatch_pins (s : State) : (clearWatch s).pins = s.pins := rfl
@[simp] theorem clearWatch_power (s : State) : (clearWatch s).power = s.power := rfl
@[simp] theorem clearWatch_thermal (s : State) : (clearWatch s).thermal = s.thermal := rfl
@[simp] theorem clearWatch_regions (s : State) : (clearWatch s).regions = s.regions := rfl
@[simp] theorem clearWatch_mem (s : State) : (clearWatch s).mem = s.mem := rfl
@[simp] theorem clearWatch_job (s : State) : (clearWatch s).job = s.job := rfl
@[simp] theorem clearWatch_reshard (s : State) : (clearWatch s).reshard = s.reshard := rfl
@[simp] theorem clearWatch_gw (s : State) : (clearWatch s).gw = s.gw := rfl
@[simp] theorem clearWatch_trust (s : State) : (clearWatch s).trust = s.trust := rfl
@[simp] theorem clearWatch_log (s : State) : (clearWatch s).log = s.log := rfl
@[simp] theorem clearWatch_fab (s : State) : (clearWatch s).fab = s.fab := rfl
@[simp] theorem clearWatch_pair (s : State) : (clearWatch s).pair = s.pair := rfl
@[simp] theorem clearWatch_badSpares (s : State) : (clearWatch s).badSpares = s.badSpares := rfl
@[simp] theorem clearWatch_free (s : State) : (clearWatch s).free = s.free := rfl
@[simp] theorem clearWatch_pending (s : State) : (clearWatch s).pending = s.pending := rfl

@[simp] theorem enqueue_identity (h : Hop) (dst : BitVec 14) (vc : Fin 4) (fl : Option Nat) (b : Body) (s : State) : (enqueue h dst vc fl b s).identity = s.identity := rfl
@[simp] theorem enqueue_pins (h : Hop) (dst : BitVec 14) (vc : Fin 4) (fl : Option Nat) (b : Body) (s : State) : (enqueue h dst vc fl b s).pins = s.pins := rfl
@[simp] theorem enqueue_power (h : Hop) (dst : BitVec 14) (vc : Fin 4) (fl : Option Nat) (b : Body) (s : State) : (enqueue h dst vc fl b s).power = s.power := rfl
@[simp] theorem enqueue_thermal (h : Hop) (dst : BitVec 14) (vc : Fin 4) (fl : Option Nat) (b : Body) (s : State) : (enqueue h dst vc fl b s).thermal = s.thermal := rfl
@[simp] theorem enqueue_regions (h : Hop) (dst : BitVec 14) (vc : Fin 4) (fl : Option Nat) (b : Body) (s : State) : (enqueue h dst vc fl b s).regions = s.regions := rfl
@[simp] theorem enqueue_mem (h : Hop) (dst : BitVec 14) (vc : Fin 4) (fl : Option Nat) (b : Body) (s : State) : (enqueue h dst vc fl b s).mem = s.mem := rfl
@[simp] theorem enqueue_seq (h : Hop) (dst : BitVec 14) (vc : Fin 4) (fl : Option Nat) (b : Body) (s : State) : (enqueue h dst vc fl b s).seq = s.seq := rfl
@[simp] theorem enqueue_job (h : Hop) (dst : BitVec 14) (vc : Fin 4) (fl : Option Nat) (b : Body) (s : State) : (enqueue h dst vc fl b s).job = s.job := rfl
@[simp] theorem enqueue_reshard (h : Hop) (dst : BitVec 14) (vc : Fin 4) (fl : Option Nat) (b : Body) (s : State) : (enqueue h dst vc fl b s).reshard = s.reshard := rfl
@[simp] theorem enqueue_gw (h : Hop) (dst : BitVec 14) (vc : Fin 4) (fl : Option Nat) (b : Body) (s : State) : (enqueue h dst vc fl b s).gw = s.gw := rfl
@[simp] theorem enqueue_trust (h : Hop) (dst : BitVec 14) (vc : Fin 4) (fl : Option Nat) (b : Body) (s : State) : (enqueue h dst vc fl b s).trust = s.trust := rfl
@[simp] theorem enqueue_log (h : Hop) (dst : BitVec 14) (vc : Fin 4) (fl : Option Nat) (b : Body) (s : State) : (enqueue h dst vc fl b s).log = s.log := rfl
@[simp] theorem enqueue_pair (h : Hop) (dst : BitVec 14) (vc : Fin 4) (fl : Option Nat) (b : Body) (s : State) : (enqueue h dst vc fl b s).pair = s.pair := rfl
@[simp] theorem enqueue_badSpares (h : Hop) (dst : BitVec 14) (vc : Fin 4) (fl : Option Nat) (b : Body) (s : State) : (enqueue h dst vc fl b s).badSpares = s.badSpares := rfl
@[simp] theorem enqueue_free (h : Hop) (dst : BitVec 14) (vc : Fin 4) (fl : Option Nat) (b : Body) (s : State) : (enqueue h dst vc fl b s).free = s.free := rfl
@[simp] theorem enqueue_pending (h : Hop) (dst : BitVec 14) (vc : Fin 4) (fl : Option Nat) (b : Body) (s : State) : (enqueue h dst vc fl b s).pending = s.pending := rfl

@[simp] theorem onSlot_identity (b : Bool) (f : Slot → Slot) (s : State) : (onSlot b f s).identity = s.identity := by cases b <;> rfl
@[simp] theorem onSlot_pins (b : Bool) (f : Slot → Slot) (s : State) : (onSlot b f s).pins = s.pins := by cases b <;> rfl
@[simp] theorem onSlot_power (b : Bool) (f : Slot → Slot) (s : State) : (onSlot b f s).power = s.power := by cases b <;> rfl
@[simp] theorem onSlot_thermal (b : Bool) (f : Slot → Slot) (s : State) : (onSlot b f s).thermal = s.thermal := by cases b <;> rfl
@[simp] theorem onSlot_regions (b : Bool) (f : Slot → Slot) (s : State) : (onSlot b f s).regions = s.regions := by cases b <;> rfl
@[simp] theorem onSlot_mem (b : Bool) (f : Slot → Slot) (s : State) : (onSlot b f s).mem = s.mem := by cases b <;> rfl
@[simp] theorem onSlot_job (b : Bool) (f : Slot → Slot) (s : State) : (onSlot b f s).job = s.job := by cases b <;> rfl
@[simp] theorem onSlot_reshard (b : Bool) (f : Slot → Slot) (s : State) : (onSlot b f s).reshard = s.reshard := by cases b <;> rfl
@[simp] theorem onSlot_gw (b : Bool) (f : Slot → Slot) (s : State) : (onSlot b f s).gw = s.gw := by cases b <;> rfl
@[simp] theorem onSlot_trust (b : Bool) (f : Slot → Slot) (s : State) : (onSlot b f s).trust = s.trust := by cases b <;> rfl
@[simp] theorem onSlot_log (b : Bool) (f : Slot → Slot) (s : State) : (onSlot b f s).log = s.log := by cases b <;> rfl
@[simp] theorem onSlot_fab (b : Bool) (f : Slot → Slot) (s : State) : (onSlot b f s).fab = s.fab := by cases b <;> rfl
@[simp] theorem onSlot_pair (b : Bool) (f : Slot → Slot) (s : State) : (onSlot b f s).pair = s.pair := by cases b <;> rfl
@[simp] theorem onSlot_badSpares (b : Bool) (f : Slot → Slot) (s : State) : (onSlot b f s).badSpares = s.badSpares := by cases b <;> rfl
@[simp] theorem onSlot_free (b : Bool) (f : Slot → Slot) (s : State) : (onSlot b f s).free = s.free := by cases b <;> rfl
@[simp] theorem onSlot_pending (b : Bool) (f : Slot → Slot) (s : State) : (onSlot b f s).pending = s.pending := by cases b <;> rfl

@[simp] theorem raiseVec1_identity (s : State) : (raiseVec1 s).identity = s.identity := by unfold raiseVec1; split <;> rfl
@[simp] theorem raiseVec1_pins (s : State) : (raiseVec1 s).pins = s.pins := by unfold raiseVec1; split <;> rfl
@[simp] theorem raiseVec1_power (s : State) : (raiseVec1 s).power = s.power := by unfold raiseVec1; split <;> rfl
@[simp] theorem raiseVec1_thermal (s : State) : (raiseVec1 s).thermal = s.thermal := by unfold raiseVec1; split <;> rfl
@[simp] theorem raiseVec1_regions (s : State) : (raiseVec1 s).regions = s.regions := by unfold raiseVec1; split <;> rfl
@[simp] theorem raiseVec1_mem (s : State) : (raiseVec1 s).mem = s.mem := by unfold raiseVec1; split <;> rfl
@[simp] theorem raiseVec1_seq (s : State) : (raiseVec1 s).seq = s.seq := by unfold raiseVec1; split <;> rfl
@[simp] theorem raiseVec1_job (s : State) : (raiseVec1 s).job = s.job := by unfold raiseVec1; split <;> rfl
@[simp] theorem raiseVec1_reshard (s : State) : (raiseVec1 s).reshard = s.reshard := by unfold raiseVec1; split <;> rfl
@[simp] theorem raiseVec1_trust (s : State) : (raiseVec1 s).trust = s.trust := by unfold raiseVec1; split <;> rfl
@[simp] theorem raiseVec1_log (s : State) : (raiseVec1 s).log = s.log := by unfold raiseVec1; split <;> rfl
@[simp] theorem raiseVec1_fab (s : State) : (raiseVec1 s).fab = s.fab := by unfold raiseVec1; split <;> rfl
@[simp] theorem raiseVec1_pair (s : State) : (raiseVec1 s).pair = s.pair := by unfold raiseVec1; split <;> rfl
@[simp] theorem raiseVec1_badSpares (s : State) : (raiseVec1 s).badSpares = s.badSpares := by unfold raiseVec1; split <;> rfl
@[simp] theorem raiseVec1_free (s : State) : (raiseVec1 s).free = s.free := by unfold raiseVec1; split <;> rfl
@[simp] theorem raiseVec1_pending (s : State) : (raiseVec1 s).pending = s.pending := by unfold raiseVec1; split <;> rfl

@[simp] theorem passRefused_identity (s : State) : (passRefused s).identity = s.identity := rfl
@[simp] theorem passRefused_pins (s : State) : (passRefused s).pins = s.pins := rfl
@[simp] theorem passRefused_power (s : State) : (passRefused s).power = s.power := rfl
@[simp] theorem passRefused_thermal (s : State) : (passRefused s).thermal = s.thermal := rfl
@[simp] theorem passRefused_regions (s : State) : (passRefused s).regions = s.regions := rfl
@[simp] theorem passRefused_mem (s : State) : (passRefused s).mem = s.mem := rfl
@[simp] theorem passRefused_seq (s : State) : (passRefused s).seq = s.seq := rfl
@[simp] theorem passRefused_job (s : State) : (passRefused s).job = s.job := rfl
@[simp] theorem passRefused_reshard (s : State) : (passRefused s).reshard = s.reshard := rfl
@[simp] theorem passRefused_trust (s : State) : (passRefused s).trust = s.trust := rfl
@[simp] theorem passRefused_log (s : State) : (passRefused s).log = s.log := rfl
@[simp] theorem passRefused_fab (s : State) : (passRefused s).fab = s.fab := rfl
@[simp] theorem passRefused_pair (s : State) : (passRefused s).pair = s.pair := rfl
@[simp] theorem passRefused_badSpares (s : State) : (passRefused s).badSpares = s.badSpares := rfl
@[simp] theorem passRefused_free (s : State) : (passRefused s).free = s.free := rfl
@[simp] theorem passRefused_pending (s : State) : (passRefused s).pending = s.pending := rfl

@[simp] theorem start_identity (q : Req) (s : State) : (start q s).identity = s.identity := by simp only [start]; split <;> rfl
@[simp] theorem start_pins (q : Req) (s : State) : (start q s).pins = s.pins := by simp only [start]; split <;> rfl
@[simp] theorem start_power (q : Req) (s : State) : (start q s).power = s.power := by simp only [start]; split <;> rfl
@[simp] theorem start_thermal (q : Req) (s : State) : (start q s).thermal = s.thermal := by simp only [start]; split <;> rfl
@[simp] theorem start_regions (q : Req) (s : State) : (start q s).regions = s.regions := by simp only [start]; split <;> rfl
@[simp] theorem start_mem (q : Req) (s : State) : (start q s).mem = s.mem := by simp only [start]; split <;> rfl
@[simp] theorem start_seq (q : Req) (s : State) : (start q s).seq = s.seq := by simp only [start]; split <;> rfl
@[simp] theorem start_job (q : Req) (s : State) : (start q s).job = s.job := by simp only [start]; split <;> rfl
@[simp] theorem start_reshard (q : Req) (s : State) : (start q s).reshard = s.reshard := by simp only [start]; split <;> rfl
@[simp] theorem start_trust (q : Req) (s : State) : (start q s).trust = s.trust := by simp only [start]; split <;> rfl
@[simp] theorem start_log (q : Req) (s : State) : (start q s).log = s.log := by simp only [start]; split <;> rfl
@[simp] theorem start_fab (q : Req) (s : State) : (start q s).fab = s.fab := by simp only [start]; split <;> rfl
@[simp] theorem start_pair (q : Req) (s : State) : (start q s).pair = s.pair := by simp only [start]; split <;> rfl
@[simp] theorem start_badSpares (q : Req) (s : State) : (start q s).badSpares = s.badSpares := by simp only [start]; split <;> rfl
@[simp] theorem start_free (q : Req) (s : State) : (start q s).free = s.free := by simp only [start]; split <;> rfl
@[simp] theorem start_pending (q : Req) (s : State) : (start q s).pending = s.pending := by simp only [start]; split <;> rfl

@[simp] theorem pairEvent_identity (c : RecCode) (ps : List Byte) (s : State) : (pairEvent c ps s).identity = s.identity := by unfold pairEvent; split <;> rfl
@[simp] theorem pairEvent_pins (c : RecCode) (ps : List Byte) (s : State) : (pairEvent c ps s).pins = s.pins := by unfold pairEvent; split <;> rfl
@[simp] theorem pairEvent_power (c : RecCode) (ps : List Byte) (s : State) : (pairEvent c ps s).power = s.power := by unfold pairEvent; split <;> rfl
@[simp] theorem pairEvent_thermal (c : RecCode) (ps : List Byte) (s : State) : (pairEvent c ps s).thermal = s.thermal := by unfold pairEvent; split <;> rfl
@[simp] theorem pairEvent_regions (c : RecCode) (ps : List Byte) (s : State) : (pairEvent c ps s).regions = s.regions := by unfold pairEvent; split <;> rfl
@[simp] theorem pairEvent_mem (c : RecCode) (ps : List Byte) (s : State) : (pairEvent c ps s).mem = s.mem := by unfold pairEvent; split <;> rfl
@[simp] theorem pairEvent_seq (c : RecCode) (ps : List Byte) (s : State) : (pairEvent c ps s).seq = s.seq := by unfold pairEvent; split <;> rfl
@[simp] theorem pairEvent_job (c : RecCode) (ps : List Byte) (s : State) : (pairEvent c ps s).job = s.job := by unfold pairEvent; split <;> rfl
@[simp] theorem pairEvent_reshard (c : RecCode) (ps : List Byte) (s : State) : (pairEvent c ps s).reshard = s.reshard := by unfold pairEvent; split <;> rfl
@[simp] theorem pairEvent_gw (c : RecCode) (ps : List Byte) (s : State) : (pairEvent c ps s).gw = s.gw := by unfold pairEvent; split <;> rfl
@[simp] theorem pairEvent_trust (c : RecCode) (ps : List Byte) (s : State) : (pairEvent c ps s).trust = s.trust := by unfold pairEvent; split <;> rfl
@[simp] theorem pairEvent_fab (c : RecCode) (ps : List Byte) (s : State) : (pairEvent c ps s).fab = s.fab := by unfold pairEvent; split <;> rfl
@[simp] theorem pairEvent_pair (c : RecCode) (ps : List Byte) (s : State) : (pairEvent c ps s).pair = s.pair := by unfold pairEvent; split <;> rfl
@[simp] theorem pairEvent_badSpares (c : RecCode) (ps : List Byte) (s : State) : (pairEvent c ps s).badSpares = s.badSpares := by unfold pairEvent; split <;> rfl
@[simp] theorem pairEvent_free (c : RecCode) (ps : List Byte) (s : State) : (pairEvent c ps s).free = s.free := by unfold pairEvent; split <;> rfl
@[simp] theorem pairEvent_pending (c : RecCode) (ps : List Byte) (s : State) : (pairEvent c ps s).pending = s.pending := by unfold pairEvent; split <;> rfl

@[simp] theorem settled_identity (t : State) (s : State) : (settled s t).identity = t.identity := by unfold settled; split <;> simp
@[simp] theorem settled_pins (t : State) (s : State) : (settled s t).pins = t.pins := by unfold settled; split <;> simp
@[simp] theorem settled_power (t : State) (s : State) : (settled s t).power = t.power := by unfold settled; split <;> simp
@[simp] theorem settled_thermal (t : State) (s : State) : (settled s t).thermal = t.thermal := by unfold settled; split <;> simp
@[simp] theorem settled_regions (t : State) (s : State) : (settled s t).regions = t.regions := by unfold settled; split <;> simp
@[simp] theorem settled_mem (t : State) (s : State) : (settled s t).mem = t.mem := by unfold settled; split <;> simp
@[simp] theorem settled_seq (t : State) (s : State) : (settled s t).seq = t.seq := by unfold settled; split <;> simp
@[simp] theorem settled_job (t : State) (s : State) : (settled s t).job = t.job := by unfold settled; split <;> simp
@[simp] theorem settled_reshard (t : State) (s : State) : (settled s t).reshard = t.reshard := by unfold settled; split <;> simp
@[simp] theorem settled_trust (t : State) (s : State) : (settled s t).trust = t.trust := by unfold settled; split <;> simp
@[simp] theorem settled_log (t : State) (s : State) : (settled s t).log = t.log := by unfold settled; split <;> simp
@[simp] theorem settled_fab (t : State) (s : State) : (settled s t).fab = t.fab := by unfold settled; split <;> simp
@[simp] theorem settled_pair (t : State) (s : State) : (settled s t).pair = t.pair := by unfold settled; split <;> simp
@[simp] theorem settled_badSpares (t : State) (s : State) : (settled s t).badSpares = t.badSpares := by unfold settled; split <;> simp
@[simp] theorem settled_free (t : State) (s : State) : (settled s t).free = t.free := by unfold settled; split <;> simp
@[simp] theorem settled_pending (t : State) (s : State) : (settled s t).pending = t.pending := by unfold settled; split <;> simp

@[simp] theorem completeAs_identity (q : Req) (op : BitVec 8) (st : BitVec 16) (d : BitVec 64) (p : List Byte) (s : State) : (completeAs q op st d p s).identity = s.identity := rfl
@[simp] theorem completeAs_pins (q : Req) (op : BitVec 8) (st : BitVec 16) (d : BitVec 64) (p : List Byte) (s : State) : (completeAs q op st d p s).pins = s.pins := rfl
@[simp] theorem completeAs_power (q : Req) (op : BitVec 8) (st : BitVec 16) (d : BitVec 64) (p : List Byte) (s : State) : (completeAs q op st d p s).power = s.power := rfl
@[simp] theorem completeAs_thermal (q : Req) (op : BitVec 8) (st : BitVec 16) (d : BitVec 64) (p : List Byte) (s : State) : (completeAs q op st d p s).thermal = s.thermal := rfl
@[simp] theorem completeAs_regions (q : Req) (op : BitVec 8) (st : BitVec 16) (d : BitVec 64) (p : List Byte) (s : State) : (completeAs q op st d p s).regions = s.regions := rfl
@[simp] theorem completeAs_mem (q : Req) (op : BitVec 8) (st : BitVec 16) (d : BitVec 64) (p : List Byte) (s : State) : (completeAs q op st d p s).mem = s.mem := rfl
@[simp] theorem completeAs_seq (q : Req) (op : BitVec 8) (st : BitVec 16) (d : BitVec 64) (p : List Byte) (s : State) : (completeAs q op st d p s).seq = s.seq := rfl
@[simp] theorem completeAs_job (q : Req) (op : BitVec 8) (st : BitVec 16) (d : BitVec 64) (p : List Byte) (s : State) : (completeAs q op st d p s).job = s.job := rfl
@[simp] theorem completeAs_reshard (q : Req) (op : BitVec 8) (st : BitVec 16) (d : BitVec 64) (p : List Byte) (s : State) : (completeAs q op st d p s).reshard = s.reshard := rfl
@[simp] theorem completeAs_gw (q : Req) (op : BitVec 8) (st : BitVec 16) (d : BitVec 64) (p : List Byte) (s : State) : (completeAs q op st d p s).gw = { s.gw with held := s.gw.held ++ [completionOf s q op st d p] } := rfl
@[simp] theorem completeAs_trust (q : Req) (op : BitVec 8) (st : BitVec 16) (d : BitVec 64) (p : List Byte) (s : State) : (completeAs q op st d p s).trust = s.trust := rfl
@[simp] theorem completeAs_log (q : Req) (op : BitVec 8) (st : BitVec 16) (d : BitVec 64) (p : List Byte) (s : State) : (completeAs q op st d p s).log = s.log := rfl
@[simp] theorem completeAs_fab (q : Req) (op : BitVec 8) (st : BitVec 16) (d : BitVec 64) (p : List Byte) (s : State) : (completeAs q op st d p s).fab = s.fab := rfl
@[simp] theorem completeAs_pair (q : Req) (op : BitVec 8) (st : BitVec 16) (d : BitVec 64) (p : List Byte) (s : State) : (completeAs q op st d p s).pair = s.pair := rfl
@[simp] theorem completeAs_badSpares (q : Req) (op : BitVec 8) (st : BitVec 16) (d : BitVec 64) (p : List Byte) (s : State) : (completeAs q op st d p s).badSpares = s.badSpares := rfl
@[simp] theorem completeAs_free (q : Req) (op : BitVec 8) (st : BitVec 16) (d : BitVec 64) (p : List Byte) (s : State) : (completeAs q op st d p s).free = s.free := rfl
@[simp] theorem completeAs_pending (q : Req) (op : BitVec 8) (st : BitVec 16) (d : BitVec 64) (p : List Byte) (s : State) : (completeAs q op st d p s).pending = s.pending := rfl

@[simp] theorem complete_identity (q : Req) (op : BitVec 8) (p : List Byte) (s : State) : (complete q op p s).identity = s.identity := rfl
@[simp] theorem complete_pins (q : Req) (op : BitVec 8) (p : List Byte) (s : State) : (complete q op p s).pins = s.pins := rfl
@[simp] theorem complete_power (q : Req) (op : BitVec 8) (p : List Byte) (s : State) : (complete q op p s).power = s.power := rfl
@[simp] theorem complete_thermal (q : Req) (op : BitVec 8) (p : List Byte) (s : State) : (complete q op p s).thermal = s.thermal := rfl
@[simp] theorem complete_regions (q : Req) (op : BitVec 8) (p : List Byte) (s : State) : (complete q op p s).regions = s.regions := rfl
@[simp] theorem complete_mem (q : Req) (op : BitVec 8) (p : List Byte) (s : State) : (complete q op p s).mem = s.mem := rfl
@[simp] theorem complete_seq (q : Req) (op : BitVec 8) (p : List Byte) (s : State) : (complete q op p s).seq = s.seq := rfl
@[simp] theorem complete_job (q : Req) (op : BitVec 8) (p : List Byte) (s : State) : (complete q op p s).job = s.job := rfl
@[simp] theorem complete_reshard (q : Req) (op : BitVec 8) (p : List Byte) (s : State) : (complete q op p s).reshard = s.reshard := rfl
@[simp] theorem complete_gw (q : Req) (op : BitVec 8) (p : List Byte) (s : State) : (complete q op p s).gw = { s.gw with held := s.gw.held ++ [completionOf s q op Status.ok 0 p] } := rfl
@[simp] theorem complete_trust (q : Req) (op : BitVec 8) (p : List Byte) (s : State) : (complete q op p s).trust = s.trust := rfl
@[simp] theorem complete_log (q : Req) (op : BitVec 8) (p : List Byte) (s : State) : (complete q op p s).log = s.log := rfl
@[simp] theorem complete_fab (q : Req) (op : BitVec 8) (p : List Byte) (s : State) : (complete q op p s).fab = s.fab := rfl
@[simp] theorem complete_pair (q : Req) (op : BitVec 8) (p : List Byte) (s : State) : (complete q op p s).pair = s.pair := rfl
@[simp] theorem complete_badSpares (q : Req) (op : BitVec 8) (p : List Byte) (s : State) : (complete q op p s).badSpares = s.badSpares := rfl
@[simp] theorem complete_free (q : Req) (op : BitVec 8) (p : List Byte) (s : State) : (complete q op p s).free = s.free := rfl
@[simp] theorem complete_pending (q : Req) (op : BitVec 8) (p : List Byte) (s : State) : (complete q op p s).pending = s.pending := rfl

@[simp] theorem refuse_identity (q : Req) (op : BitVec 8) (st : BitVec 16) (s : State) : (refuse q op st s).identity = s.identity := rfl
@[simp] theorem refuse_pins (q : Req) (op : BitVec 8) (st : BitVec 16) (s : State) : (refuse q op st s).pins = s.pins := rfl
@[simp] theorem refuse_power (q : Req) (op : BitVec 8) (st : BitVec 16) (s : State) : (refuse q op st s).power = s.power := rfl
@[simp] theorem refuse_thermal (q : Req) (op : BitVec 8) (st : BitVec 16) (s : State) : (refuse q op st s).thermal = s.thermal := rfl
@[simp] theorem refuse_regions (q : Req) (op : BitVec 8) (st : BitVec 16) (s : State) : (refuse q op st s).regions = s.regions := rfl
@[simp] theorem refuse_mem (q : Req) (op : BitVec 8) (st : BitVec 16) (s : State) : (refuse q op st s).mem = s.mem := rfl
@[simp] theorem refuse_seq (q : Req) (op : BitVec 8) (st : BitVec 16) (s : State) : (refuse q op st s).seq = s.seq := rfl
@[simp] theorem refuse_job (q : Req) (op : BitVec 8) (st : BitVec 16) (s : State) : (refuse q op st s).job = s.job := rfl
@[simp] theorem refuse_reshard (q : Req) (op : BitVec 8) (st : BitVec 16) (s : State) : (refuse q op st s).reshard = s.reshard := rfl
@[simp] theorem refuse_gw (q : Req) (op : BitVec 8) (st : BitVec 16) (s : State) : (refuse q op st s).gw = { s.gw with held := s.gw.held ++ [completionOf s q op st 0 []] } := rfl
@[simp] theorem refuse_trust (q : Req) (op : BitVec 8) (st : BitVec 16) (s : State) : (refuse q op st s).trust = s.trust := rfl
@[simp] theorem refuse_log (q : Req) (op : BitVec 8) (st : BitVec 16) (s : State) : (refuse q op st s).log = s.log := rfl
@[simp] theorem refuse_fab (q : Req) (op : BitVec 8) (st : BitVec 16) (s : State) : (refuse q op st s).fab = s.fab := rfl
@[simp] theorem refuse_pair (q : Req) (op : BitVec 8) (st : BitVec 16) (s : State) : (refuse q op st s).pair = s.pair := rfl
@[simp] theorem refuse_badSpares (q : Req) (op : BitVec 8) (st : BitVec 16) (s : State) : (refuse q op st s).badSpares = s.badSpares := rfl
@[simp] theorem refuse_free (q : Req) (op : BitVec 8) (st : BitVec 16) (s : State) : (refuse q op st s).free = s.free := rfl
@[simp] theorem refuse_pending (q : Req) (op : BitVec 8) (st : BitVec 16) (s : State) : (refuse q op st s).pending = s.pending := rfl

@[simp] theorem refuseField_identity (q : Req) (op : BitVec 8) (k : Nat) (s : State) : (refuseField q op k s).identity = s.identity := rfl
@[simp] theorem refuseField_pins (q : Req) (op : BitVec 8) (k : Nat) (s : State) : (refuseField q op k s).pins = s.pins := rfl
@[simp] theorem refuseField_power (q : Req) (op : BitVec 8) (k : Nat) (s : State) : (refuseField q op k s).power = s.power := rfl
@[simp] theorem refuseField_thermal (q : Req) (op : BitVec 8) (k : Nat) (s : State) : (refuseField q op k s).thermal = s.thermal := rfl
@[simp] theorem refuseField_regions (q : Req) (op : BitVec 8) (k : Nat) (s : State) : (refuseField q op k s).regions = s.regions := rfl
@[simp] theorem refuseField_mem (q : Req) (op : BitVec 8) (k : Nat) (s : State) : (refuseField q op k s).mem = s.mem := rfl
@[simp] theorem refuseField_seq (q : Req) (op : BitVec 8) (k : Nat) (s : State) : (refuseField q op k s).seq = s.seq := rfl
@[simp] theorem refuseField_job (q : Req) (op : BitVec 8) (k : Nat) (s : State) : (refuseField q op k s).job = s.job := rfl
@[simp] theorem refuseField_reshard (q : Req) (op : BitVec 8) (k : Nat) (s : State) : (refuseField q op k s).reshard = s.reshard := rfl
@[simp] theorem refuseField_gw (q : Req) (op : BitVec 8) (k : Nat) (s : State) : (refuseField q op k s).gw = { s.gw with held := s.gw.held ++ [completionOf s q op Status.badField (fieldDetail op k) []] } := rfl
@[simp] theorem refuseField_trust (q : Req) (op : BitVec 8) (k : Nat) (s : State) : (refuseField q op k s).trust = s.trust := rfl
@[simp] theorem refuseField_log (q : Req) (op : BitVec 8) (k : Nat) (s : State) : (refuseField q op k s).log = s.log := rfl
@[simp] theorem refuseField_fab (q : Req) (op : BitVec 8) (k : Nat) (s : State) : (refuseField q op k s).fab = s.fab := rfl
@[simp] theorem refuseField_pair (q : Req) (op : BitVec 8) (k : Nat) (s : State) : (refuseField q op k s).pair = s.pair := rfl
@[simp] theorem refuseField_badSpares (q : Req) (op : BitVec 8) (k : Nat) (s : State) : (refuseField q op k s).badSpares = s.badSpares := rfl
@[simp] theorem refuseField_free (q : Req) (op : BitVec 8) (k : Nat) (s : State) : (refuseField q op k s).free = s.free := rfl
@[simp] theorem refuseField_pending (q : Req) (op : BitVec 8) (k : Nat) (s : State) : (refuseField q op k s).pending = s.pending := rfl

@[simp] theorem completeClear_identity (tag st : BitVec 16) (s : State) : (completeClear tag st s).identity = s.identity := rfl
@[simp] theorem completeClear_pins (tag st : BitVec 16) (s : State) : (completeClear tag st s).pins = s.pins := rfl
@[simp] theorem completeClear_power (tag st : BitVec 16) (s : State) : (completeClear tag st s).power = s.power := rfl
@[simp] theorem completeClear_thermal (tag st : BitVec 16) (s : State) : (completeClear tag st s).thermal = s.thermal := rfl
@[simp] theorem completeClear_regions (tag st : BitVec 16) (s : State) : (completeClear tag st s).regions = s.regions := rfl
@[simp] theorem completeClear_mem (tag st : BitVec 16) (s : State) : (completeClear tag st s).mem = s.mem := rfl
@[simp] theorem completeClear_seq (tag st : BitVec 16) (s : State) : (completeClear tag st s).seq = s.seq := rfl
@[simp] theorem completeClear_job (tag st : BitVec 16) (s : State) : (completeClear tag st s).job = s.job := rfl
@[simp] theorem completeClear_reshard (tag st : BitVec 16) (s : State) : (completeClear tag st s).reshard = s.reshard := rfl
@[simp] theorem completeClear_gw (tag st : BitVec 16) (s : State) : (completeClear tag st s).gw = { s.gw with held := s.gw.held ++ [{ tag := tag, kind := 0, status := st, raddr := 0, reply := [] }] } := rfl
@[simp] theorem completeClear_trust (tag st : BitVec 16) (s : State) : (completeClear tag st s).trust = s.trust := rfl
@[simp] theorem completeClear_log (tag st : BitVec 16) (s : State) : (completeClear tag st s).log = s.log := rfl
@[simp] theorem completeClear_fab (tag st : BitVec 16) (s : State) : (completeClear tag st s).fab = s.fab := rfl
@[simp] theorem completeClear_pair (tag st : BitVec 16) (s : State) : (completeClear tag st s).pair = s.pair := rfl
@[simp] theorem completeClear_badSpares (tag st : BitVec 16) (s : State) : (completeClear tag st s).badSpares = s.badSpares := rfl
@[simp] theorem completeClear_free (tag st : BitVec 16) (s : State) : (completeClear tag st s).free = s.free := rfl
@[simp] theorem completeClear_pending (tag st : BitVec 16) (s : State) : (completeClear tag st s).pending = s.pending := rfl

@[simp] theorem authRecord_identity (c : Nat) (i : BitVec 3) (n : BitVec 64) (op : BitVec 8) (s : State) : (authRecord c i n op s).identity = s.identity := rfl
@[simp] theorem authRecord_pins (c : Nat) (i : BitVec 3) (n : BitVec 64) (op : BitVec 8) (s : State) : (authRecord c i n op s).pins = s.pins := rfl
@[simp] theorem authRecord_power (c : Nat) (i : BitVec 3) (n : BitVec 64) (op : BitVec 8) (s : State) : (authRecord c i n op s).power = s.power := rfl
@[simp] theorem authRecord_thermal (c : Nat) (i : BitVec 3) (n : BitVec 64) (op : BitVec 8) (s : State) : (authRecord c i n op s).thermal = s.thermal := rfl
@[simp] theorem authRecord_regions (c : Nat) (i : BitVec 3) (n : BitVec 64) (op : BitVec 8) (s : State) : (authRecord c i n op s).regions = s.regions := rfl
@[simp] theorem authRecord_mem (c : Nat) (i : BitVec 3) (n : BitVec 64) (op : BitVec 8) (s : State) : (authRecord c i n op s).mem = s.mem := rfl
@[simp] theorem authRecord_seq (c : Nat) (i : BitVec 3) (n : BitVec 64) (op : BitVec 8) (s : State) : (authRecord c i n op s).seq = s.seq := rfl
@[simp] theorem authRecord_job (c : Nat) (i : BitVec 3) (n : BitVec 64) (op : BitVec 8) (s : State) : (authRecord c i n op s).job = s.job := rfl
@[simp] theorem authRecord_reshard (c : Nat) (i : BitVec 3) (n : BitVec 64) (op : BitVec 8) (s : State) : (authRecord c i n op s).reshard = s.reshard := rfl
@[simp] theorem authRecord_gw (c : Nat) (i : BitVec 3) (n : BitVec 64) (op : BitVec 8) (s : State) : (authRecord c i n op s).gw = s.gw := rfl
@[simp] theorem authRecord_trust (c : Nat) (i : BitVec 3) (n : BitVec 64) (op : BitVec 8) (s : State) : (authRecord c i n op s).trust = s.trust := rfl
@[simp] theorem authRecord_fab (c : Nat) (i : BitVec 3) (n : BitVec 64) (op : BitVec 8) (s : State) : (authRecord c i n op s).fab = s.fab := rfl
@[simp] theorem authRecord_pair (c : Nat) (i : BitVec 3) (n : BitVec 64) (op : BitVec 8) (s : State) : (authRecord c i n op s).pair = s.pair := rfl
@[simp] theorem authRecord_badSpares (c : Nat) (i : BitVec 3) (n : BitVec 64) (op : BitVec 8) (s : State) : (authRecord c i n op s).badSpares = s.badSpares := rfl
@[simp] theorem authRecord_free (c : Nat) (i : BitVec 3) (n : BitVec 64) (op : BitVec 8) (s : State) : (authRecord c i n op s).free = s.free := rfl
@[simp] theorem authRecord_pending (c : Nat) (i : BitVec 3) (n : BitVec 64) (op : BitVec 8) (s : State) : (authRecord c i n op s).pending = s.pending := rfl

@[simp] theorem writeMem_identity (sp : Space) (k : Nat) (bs : List Byte) (s : State) : (writeMem sp k bs s).identity = s.identity := by unfold writeMem; split <;> rfl
@[simp] theorem writeMem_pins (sp : Space) (k : Nat) (bs : List Byte) (s : State) : (writeMem sp k bs s).pins = s.pins := by unfold writeMem; split <;> rfl
@[simp] theorem writeMem_power (sp : Space) (k : Nat) (bs : List Byte) (s : State) : (writeMem sp k bs s).power = s.power := by unfold writeMem; split <;> rfl
@[simp] theorem writeMem_thermal (sp : Space) (k : Nat) (bs : List Byte) (s : State) : (writeMem sp k bs s).thermal = s.thermal := by unfold writeMem; split <;> rfl
@[simp] theorem writeMem_regions (sp : Space) (k : Nat) (bs : List Byte) (s : State) : (writeMem sp k bs s).regions = s.regions := by unfold writeMem; split <;> rfl
@[simp] theorem writeMem_seq (sp : Space) (k : Nat) (bs : List Byte) (s : State) : (writeMem sp k bs s).seq = s.seq := by unfold writeMem; split <;> rfl
@[simp] theorem writeMem_job (sp : Space) (k : Nat) (bs : List Byte) (s : State) : (writeMem sp k bs s).job = s.job := by unfold writeMem; split <;> rfl
@[simp] theorem writeMem_reshard (sp : Space) (k : Nat) (bs : List Byte) (s : State) : (writeMem sp k bs s).reshard = s.reshard := by unfold writeMem; split <;> rfl
@[simp] theorem writeMem_gw (sp : Space) (k : Nat) (bs : List Byte) (s : State) : (writeMem sp k bs s).gw = s.gw := by unfold writeMem; split <;> rfl
@[simp] theorem writeMem_trust (sp : Space) (k : Nat) (bs : List Byte) (s : State) : (writeMem sp k bs s).trust = s.trust := by unfold writeMem; split <;> rfl
@[simp] theorem writeMem_log (sp : Space) (k : Nat) (bs : List Byte) (s : State) : (writeMem sp k bs s).log = s.log := by unfold writeMem; split <;> rfl
@[simp] theorem writeMem_fab (sp : Space) (k : Nat) (bs : List Byte) (s : State) : (writeMem sp k bs s).fab = s.fab := by unfold writeMem; split <;> rfl
@[simp] theorem writeMem_pair (sp : Space) (k : Nat) (bs : List Byte) (s : State) : (writeMem sp k bs s).pair = s.pair := by unfold writeMem; split <;> rfl
@[simp] theorem writeMem_badSpares (sp : Space) (k : Nat) (bs : List Byte) (s : State) : (writeMem sp k bs s).badSpares = s.badSpares := by unfold writeMem; split <;> rfl
@[simp] theorem writeMem_free (sp : Space) (k : Nat) (bs : List Byte) (s : State) : (writeMem sp k bs s).free = s.free := by unfold writeMem; split <;> rfl
@[simp] theorem writeMem_pending (sp : Space) (k : Nat) (bs : List Byte) (s : State) : (writeMem sp k bs s).pending = s.pending := by unfold writeMem; split <;> rfl

@[simp] theorem chargeRegionCycles_identity (c : Cause) (r n : Nat) (s : State) : (chargeRegionCycles c r n s).identity = s.identity := by unfold chargeRegionCycles; split <;> rfl
@[simp] theorem chargeRegionCycles_pins (c : Cause) (r n : Nat) (s : State) : (chargeRegionCycles c r n s).pins = s.pins := by unfold chargeRegionCycles; split <;> rfl
@[simp] theorem chargeRegionCycles_power (c : Cause) (r n : Nat) (s : State) : (chargeRegionCycles c r n s).power = s.power := by unfold chargeRegionCycles; split <;> rfl
@[simp] theorem chargeRegionCycles_thermal (c : Cause) (r n : Nat) (s : State) : (chargeRegionCycles c r n s).thermal = s.thermal := by unfold chargeRegionCycles; split <;> rfl
@[simp] theorem chargeRegionCycles_regions (c : Cause) (r n : Nat) (s : State) : (chargeRegionCycles c r n s).regions = s.regions := by unfold chargeRegionCycles; split <;> rfl
@[simp] theorem chargeRegionCycles_mem (c : Cause) (r n : Nat) (s : State) : (chargeRegionCycles c r n s).mem = s.mem := by unfold chargeRegionCycles; split <;> rfl
@[simp] theorem chargeRegionCycles_job (c : Cause) (r n : Nat) (s : State) : (chargeRegionCycles c r n s).job = s.job := by unfold chargeRegionCycles; split <;> rfl
@[simp] theorem chargeRegionCycles_reshard (c : Cause) (r n : Nat) (s : State) : (chargeRegionCycles c r n s).reshard = s.reshard := by unfold chargeRegionCycles; split <;> rfl
@[simp] theorem chargeRegionCycles_gw (c : Cause) (r n : Nat) (s : State) : (chargeRegionCycles c r n s).gw = s.gw := by unfold chargeRegionCycles; split <;> rfl
@[simp] theorem chargeRegionCycles_trust (c : Cause) (r n : Nat) (s : State) : (chargeRegionCycles c r n s).trust = s.trust := by unfold chargeRegionCycles; split <;> rfl
@[simp] theorem chargeRegionCycles_log (c : Cause) (r n : Nat) (s : State) : (chargeRegionCycles c r n s).log = s.log := by unfold chargeRegionCycles; split <;> rfl
@[simp] theorem chargeRegionCycles_fab (c : Cause) (r n : Nat) (s : State) : (chargeRegionCycles c r n s).fab = s.fab := by unfold chargeRegionCycles; split <;> rfl
@[simp] theorem chargeRegionCycles_pair (c : Cause) (r n : Nat) (s : State) : (chargeRegionCycles c r n s).pair = s.pair := by unfold chargeRegionCycles; split <;> rfl
@[simp] theorem chargeRegionCycles_badSpares (c : Cause) (r n : Nat) (s : State) : (chargeRegionCycles c r n s).badSpares = s.badSpares := by unfold chargeRegionCycles; split <;> rfl
@[simp] theorem chargeRegionCycles_free (c : Cause) (r n : Nat) (s : State) : (chargeRegionCycles c r n s).free = s.free := by unfold chargeRegionCycles; split <;> rfl
@[simp] theorem chargeRegionCycles_pending (c : Cause) (r n : Nat) (s : State) : (chargeRegionCycles c r n s).pending = s.pending := by unfold chargeRegionCycles; split <;> rfl

@[simp] theorem sendNotice_identity (dst : BitVec 14) (b : Body) (s : State) : (sendNotice dst b s).identity = s.identity := by unfold sendNotice; split <;> rfl
@[simp] theorem sendNotice_pins (dst : BitVec 14) (b : Body) (s : State) : (sendNotice dst b s).pins = s.pins := by unfold sendNotice; split <;> rfl
@[simp] theorem sendNotice_power (dst : BitVec 14) (b : Body) (s : State) : (sendNotice dst b s).power = s.power := by unfold sendNotice; split <;> rfl
@[simp] theorem sendNotice_thermal (dst : BitVec 14) (b : Body) (s : State) : (sendNotice dst b s).thermal = s.thermal := by unfold sendNotice; split <;> rfl
@[simp] theorem sendNotice_regions (dst : BitVec 14) (b : Body) (s : State) : (sendNotice dst b s).regions = s.regions := by unfold sendNotice; split <;> rfl
@[simp] theorem sendNotice_mem (dst : BitVec 14) (b : Body) (s : State) : (sendNotice dst b s).mem = s.mem := by unfold sendNotice; split <;> rfl
@[simp] theorem sendNotice_seq (dst : BitVec 14) (b : Body) (s : State) : (sendNotice dst b s).seq = s.seq := by unfold sendNotice; split <;> rfl
@[simp] theorem sendNotice_job (dst : BitVec 14) (b : Body) (s : State) : (sendNotice dst b s).job = s.job := by unfold sendNotice; split <;> rfl
@[simp] theorem sendNotice_reshard (dst : BitVec 14) (b : Body) (s : State) : (sendNotice dst b s).reshard = s.reshard := by unfold sendNotice; split <;> rfl
@[simp] theorem sendNotice_gw (dst : BitVec 14) (b : Body) (s : State) : (sendNotice dst b s).gw = s.gw := by unfold sendNotice; split <;> rfl
@[simp] theorem sendNotice_trust (dst : BitVec 14) (b : Body) (s : State) : (sendNotice dst b s).trust = s.trust := by unfold sendNotice; split <;> rfl
@[simp] theorem sendNotice_log (dst : BitVec 14) (b : Body) (s : State) : (sendNotice dst b s).log = s.log := by unfold sendNotice; split <;> rfl
@[simp] theorem sendNotice_pair (dst : BitVec 14) (b : Body) (s : State) : (sendNotice dst b s).pair = s.pair := by unfold sendNotice; split <;> rfl
@[simp] theorem sendNotice_badSpares (dst : BitVec 14) (b : Body) (s : State) : (sendNotice dst b s).badSpares = s.badSpares := by unfold sendNotice; split <;> rfl
@[simp] theorem sendNotice_free (dst : BitVec 14) (b : Body) (s : State) : (sendNotice dst b s).free = s.free := by unfold sendNotice; split <;> rfl
@[simp] theorem sendNotice_pending (dst : BitVec 14) (b : Body) (s : State) : (sendNotice dst b s).pending = s.pending := by unfold sendNotice; split <;> rfl

@[simp] theorem enqueueLash_identity (vc : Fin 4) (fl : Option Nat) (b : Body) (s : State) : (enqueueLash vc fl b s).identity = s.identity := by unfold enqueueLash; split <;> rfl
@[simp] theorem enqueueLash_pins (vc : Fin 4) (fl : Option Nat) (b : Body) (s : State) : (enqueueLash vc fl b s).pins = s.pins := by unfold enqueueLash; split <;> rfl
@[simp] theorem enqueueLash_power (vc : Fin 4) (fl : Option Nat) (b : Body) (s : State) : (enqueueLash vc fl b s).power = s.power := by unfold enqueueLash; split <;> rfl
@[simp] theorem enqueueLash_thermal (vc : Fin 4) (fl : Option Nat) (b : Body) (s : State) : (enqueueLash vc fl b s).thermal = s.thermal := by unfold enqueueLash; split <;> rfl
@[simp] theorem enqueueLash_regions (vc : Fin 4) (fl : Option Nat) (b : Body) (s : State) : (enqueueLash vc fl b s).regions = s.regions := by unfold enqueueLash; split <;> rfl
@[simp] theorem enqueueLash_mem (vc : Fin 4) (fl : Option Nat) (b : Body) (s : State) : (enqueueLash vc fl b s).mem = s.mem := by unfold enqueueLash; split <;> rfl
@[simp] theorem enqueueLash_seq (vc : Fin 4) (fl : Option Nat) (b : Body) (s : State) : (enqueueLash vc fl b s).seq = s.seq := by unfold enqueueLash; split <;> rfl
@[simp] theorem enqueueLash_job (vc : Fin 4) (fl : Option Nat) (b : Body) (s : State) : (enqueueLash vc fl b s).job = s.job := by unfold enqueueLash; split <;> rfl
@[simp] theorem enqueueLash_reshard (vc : Fin 4) (fl : Option Nat) (b : Body) (s : State) : (enqueueLash vc fl b s).reshard = s.reshard := by unfold enqueueLash; split <;> rfl
@[simp] theorem enqueueLash_gw (vc : Fin 4) (fl : Option Nat) (b : Body) (s : State) : (enqueueLash vc fl b s).gw = s.gw := by unfold enqueueLash; split <;> rfl
@[simp] theorem enqueueLash_trust (vc : Fin 4) (fl : Option Nat) (b : Body) (s : State) : (enqueueLash vc fl b s).trust = s.trust := by unfold enqueueLash; split <;> rfl
@[simp] theorem enqueueLash_log (vc : Fin 4) (fl : Option Nat) (b : Body) (s : State) : (enqueueLash vc fl b s).log = s.log := by unfold enqueueLash; split <;> rfl
@[simp] theorem enqueueLash_pair (vc : Fin 4) (fl : Option Nat) (b : Body) (s : State) : (enqueueLash vc fl b s).pair = s.pair := by unfold enqueueLash; split <;> rfl
@[simp] theorem enqueueLash_badSpares (vc : Fin 4) (fl : Option Nat) (b : Body) (s : State) : (enqueueLash vc fl b s).badSpares = s.badSpares := by unfold enqueueLash; split <;> rfl
@[simp] theorem enqueueLash_free (vc : Fin 4) (fl : Option Nat) (b : Body) (s : State) : (enqueueLash vc fl b s).free = s.free := by unfold enqueueLash; split <;> rfl
@[simp] theorem enqueueLash_pending (vc : Fin 4) (fl : Option Nat) (b : Body) (s : State) : (enqueueLash vc fl b s).pending = s.pending := by unfold enqueueLash; split <;> rfl

@[simp] theorem sendLash_identity (b : Body) (s : State) : (sendLash b s).identity = s.identity := by simp [sendLash]
@[simp] theorem sendLash_pins (b : Body) (s : State) : (sendLash b s).pins = s.pins := by simp [sendLash]
@[simp] theorem sendLash_power (b : Body) (s : State) : (sendLash b s).power = s.power := by simp [sendLash]
@[simp] theorem sendLash_thermal (b : Body) (s : State) : (sendLash b s).thermal = s.thermal := by simp [sendLash]
@[simp] theorem sendLash_regions (b : Body) (s : State) : (sendLash b s).regions = s.regions := by simp [sendLash]
@[simp] theorem sendLash_mem (b : Body) (s : State) : (sendLash b s).mem = s.mem := by simp [sendLash]
@[simp] theorem sendLash_seq (b : Body) (s : State) : (sendLash b s).seq = s.seq := by simp [sendLash]
@[simp] theorem sendLash_job (b : Body) (s : State) : (sendLash b s).job = s.job := by simp [sendLash]
@[simp] theorem sendLash_reshard (b : Body) (s : State) : (sendLash b s).reshard = s.reshard := by simp [sendLash]
@[simp] theorem sendLash_gw (b : Body) (s : State) : (sendLash b s).gw = s.gw := by simp [sendLash]
@[simp] theorem sendLash_trust (b : Body) (s : State) : (sendLash b s).trust = s.trust := by simp [sendLash]
@[simp] theorem sendLash_log (b : Body) (s : State) : (sendLash b s).log = s.log := by simp [sendLash]
@[simp] theorem sendLash_pair (b : Body) (s : State) : (sendLash b s).pair = s.pair := by simp [sendLash]
@[simp] theorem sendLash_badSpares (b : Body) (s : State) : (sendLash b s).badSpares = s.badSpares := by simp [sendLash]
@[simp] theorem sendLash_free (b : Body) (s : State) : (sendLash b s).free = s.free := by simp [sendLash]
@[simp] theorem sendLash_pending (b : Body) (s : State) : (sendLash b s).pending = s.pending := by simp [sendLash]

@[simp] theorem compareFirst_identity (w : PairWait) (s : State) : (compareFirst w s).identity = s.identity := by simp [compareFirst]
@[simp] theorem compareFirst_pins (w : PairWait) (s : State) : (compareFirst w s).pins = s.pins := by simp [compareFirst]
@[simp] theorem compareFirst_power (w : PairWait) (s : State) : (compareFirst w s).power = s.power := by simp [compareFirst]
@[simp] theorem compareFirst_thermal (w : PairWait) (s : State) : (compareFirst w s).thermal = s.thermal := by simp [compareFirst]
@[simp] theorem compareFirst_regions (w : PairWait) (s : State) : (compareFirst w s).regions = s.regions := by simp [compareFirst]
@[simp] theorem compareFirst_mem (w : PairWait) (s : State) : (compareFirst w s).mem = s.mem := by simp [compareFirst]
@[simp] theorem compareFirst_seq (w : PairWait) (s : State) : (compareFirst w s).seq = s.seq := by simp [compareFirst]
@[simp] theorem compareFirst_job (w : PairWait) (s : State) : (compareFirst w s).job = s.job := by simp [compareFirst]
@[simp] theorem compareFirst_reshard (w : PairWait) (s : State) : (compareFirst w s).reshard = s.reshard := by simp [compareFirst]
@[simp] theorem compareFirst_gw (w : PairWait) (s : State) : (compareFirst w s).gw = s.gw := by simp [compareFirst]
@[simp] theorem compareFirst_trust (w : PairWait) (s : State) : (compareFirst w s).trust = s.trust := by simp [compareFirst]
@[simp] theorem compareFirst_log (w : PairWait) (s : State) : (compareFirst w s).log = s.log := by simp [compareFirst]
@[simp] theorem compareFirst_pair (w : PairWait) (s : State) : (compareFirst w s).pair = { s.pair with wait := s.pair.wait ++ [w] } := by simp [compareFirst]
@[simp] theorem compareFirst_badSpares (w : PairWait) (s : State) : (compareFirst w s).badSpares = s.badSpares := by simp [compareFirst]
@[simp] theorem compareFirst_free (w : PairWait) (s : State) : (compareFirst w s).free = s.free := by simp [compareFirst]
@[simp] theorem compareFirst_pending (w : PairWait) (s : State) : (compareFirst w s).pending = s.pending := by simp [compareFirst]

@[simp] theorem askOther_identity (q : Req) (op : Nat) (own : List Byte) (g : PairFwd) (s : State) : (askOther q op own g s).identity = s.identity := by simp [askOther]
@[simp] theorem askOther_pins (q : Req) (op : Nat) (own : List Byte) (g : PairFwd) (s : State) : (askOther q op own g s).pins = s.pins := by simp [askOther]
@[simp] theorem askOther_power (q : Req) (op : Nat) (own : List Byte) (g : PairFwd) (s : State) : (askOther q op own g s).power = s.power := by simp [askOther]
@[simp] theorem askOther_thermal (q : Req) (op : Nat) (own : List Byte) (g : PairFwd) (s : State) : (askOther q op own g s).thermal = s.thermal := by simp [askOther]
@[simp] theorem askOther_regions (q : Req) (op : Nat) (own : List Byte) (g : PairFwd) (s : State) : (askOther q op own g s).regions = s.regions := by simp [askOther]
@[simp] theorem askOther_mem (q : Req) (op : Nat) (own : List Byte) (g : PairFwd) (s : State) : (askOther q op own g s).mem = s.mem := by simp [askOther]
@[simp] theorem askOther_seq (q : Req) (op : Nat) (own : List Byte) (g : PairFwd) (s : State) : (askOther q op own g s).seq = s.seq := by simp [askOther]
@[simp] theorem askOther_job (q : Req) (op : Nat) (own : List Byte) (g : PairFwd) (s : State) : (askOther q op own g s).job = s.job := by simp [askOther]
@[simp] theorem askOther_reshard (q : Req) (op : Nat) (own : List Byte) (g : PairFwd) (s : State) : (askOther q op own g s).reshard = s.reshard := by simp [askOther]
@[simp] theorem askOther_gw (q : Req) (op : Nat) (own : List Byte) (g : PairFwd) (s : State) : (askOther q op own g s).gw = s.gw := by simp [askOther]
@[simp] theorem askOther_trust (q : Req) (op : Nat) (own : List Byte) (g : PairFwd) (s : State) : (askOther q op own g s).trust = s.trust := by simp [askOther]
@[simp] theorem askOther_log (q : Req) (op : Nat) (own : List Byte) (g : PairFwd) (s : State) : (askOther q op own g s).log = s.log := by simp [askOther]
@[simp] theorem askOther_pair (q : Req) (op : Nat) (own : List Byte) (g : PairFwd) (s : State) : (askOther q op own g s).pair = { s.pair with wait := s.pair.wait ++ [.read q op own] } := by simp [askOther]
@[simp] theorem askOther_badSpares (q : Req) (op : Nat) (own : List Byte) (g : PairFwd) (s : State) : (askOther q op own g s).badSpares = s.badSpares := by simp [askOther]
@[simp] theorem askOther_free (q : Req) (op : Nat) (own : List Byte) (g : PairFwd) (s : State) : (askOther q op own g s).free = s.free := by simp [askOther]
@[simp] theorem askOther_pending (q : Req) (op : Nat) (own : List Byte) (g : PairFwd) (s : State) : (askOther q op own g s).pending = s.pending := by simp [askOther]

@[simp] theorem wakeDoze_identity (s : State) : (wakeDoze s).identity = s.identity := by unfold wakeDoze; split <;> rfl
@[simp] theorem wakeDoze_pins (s : State) : (wakeDoze s).pins = s.pins := by unfold wakeDoze; split <;> rfl
@[simp] theorem wakeDoze_thermal (s : State) : (wakeDoze s).thermal = s.thermal := by unfold wakeDoze; split <;> rfl
@[simp] theorem wakeDoze_regions (s : State) : (wakeDoze s).regions = s.regions := by unfold wakeDoze; split <;> rfl
@[simp] theorem wakeDoze_mem (s : State) : (wakeDoze s).mem = s.mem := by unfold wakeDoze; split <;> rfl
@[simp] theorem wakeDoze_seq (s : State) : (wakeDoze s).seq = s.seq := by unfold wakeDoze; split <;> rfl
@[simp] theorem wakeDoze_job (s : State) : (wakeDoze s).job = s.job := by unfold wakeDoze; split <;> rfl
@[simp] theorem wakeDoze_reshard (s : State) : (wakeDoze s).reshard = s.reshard := by unfold wakeDoze; split <;> rfl
@[simp] theorem wakeDoze_gw (s : State) : (wakeDoze s).gw = s.gw := by unfold wakeDoze; split <;> rfl
@[simp] theorem wakeDoze_trust (s : State) : (wakeDoze s).trust = s.trust := by unfold wakeDoze; split <;> rfl
@[simp] theorem wakeDoze_log (s : State) : (wakeDoze s).log = s.log := by unfold wakeDoze; split <;> rfl
@[simp] theorem wakeDoze_fab (s : State) : (wakeDoze s).fab = s.fab := by unfold wakeDoze; split <;> rfl
@[simp] theorem wakeDoze_pair (s : State) : (wakeDoze s).pair = s.pair := by unfold wakeDoze; split <;> rfl
@[simp] theorem wakeDoze_badSpares (s : State) : (wakeDoze s).badSpares = s.badSpares := by unfold wakeDoze; split <;> rfl
@[simp] theorem wakeDoze_free (s : State) : (wakeDoze s).free = s.free := by unfold wakeDoze; split <;> rfl
@[simp] theorem wakeDoze_pending (s : State) : (wakeDoze s).pending = s.pending := by unfold wakeDoze; split <;> rfl

@[simp] theorem noteRelower_identity (b : Bool) (s : State) : (noteRelower b s).identity = s.identity := by unfold noteRelower; split <;> rfl
@[simp] theorem noteRelower_pins (b : Bool) (s : State) : (noteRelower b s).pins = s.pins := by unfold noteRelower; split <;> rfl
@[simp] theorem noteRelower_power (b : Bool) (s : State) : (noteRelower b s).power = s.power := by unfold noteRelower; split <;> rfl
@[simp] theorem noteRelower_thermal (b : Bool) (s : State) : (noteRelower b s).thermal = s.thermal := by unfold noteRelower; split <;> rfl
@[simp] theorem noteRelower_regions (b : Bool) (s : State) : (noteRelower b s).regions = s.regions := by unfold noteRelower; split <;> rfl
@[simp] theorem noteRelower_mem (b : Bool) (s : State) : (noteRelower b s).mem = s.mem := by unfold noteRelower; split <;> rfl
@[simp] theorem noteRelower_job (b : Bool) (s : State) : (noteRelower b s).job = s.job := by unfold noteRelower; split <;> rfl
@[simp] theorem noteRelower_reshard (b : Bool) (s : State) : (noteRelower b s).reshard = s.reshard := by unfold noteRelower; split <;> rfl
@[simp] theorem noteRelower_gw (b : Bool) (s : State) : (noteRelower b s).gw = s.gw := by unfold noteRelower; split <;> rfl
@[simp] theorem noteRelower_trust (b : Bool) (s : State) : (noteRelower b s).trust = s.trust := by unfold noteRelower; split <;> rfl
@[simp] theorem noteRelower_log (b : Bool) (s : State) : (noteRelower b s).log = s.log := by unfold noteRelower; split <;> rfl
@[simp] theorem noteRelower_fab (b : Bool) (s : State) : (noteRelower b s).fab = s.fab := by unfold noteRelower; split <;> rfl
@[simp] theorem noteRelower_pair (b : Bool) (s : State) : (noteRelower b s).pair = s.pair := by unfold noteRelower; split <;> rfl
@[simp] theorem noteRelower_badSpares (b : Bool) (s : State) : (noteRelower b s).badSpares = s.badSpares := by unfold noteRelower; split <;> rfl
@[simp] theorem noteRelower_free (b : Bool) (s : State) : (noteRelower b s).free = s.free := by unfold noteRelower; split <;> rfl
@[simp] theorem noteRelower_pending (b : Bool) (s : State) : (noteRelower b s).pending = s.pending := by unfold noteRelower; split <;> rfl

@[simp] theorem beginActivate_identity (j : ImageJob) (s : State) : (beginActivate j s).identity = s.identity := rfl
@[simp] theorem beginActivate_pins (j : ImageJob) (s : State) : (beginActivate j s).pins = s.pins := rfl
@[simp] theorem beginActivate_power (j : ImageJob) (s : State) : (beginActivate j s).power = s.power := rfl
@[simp] theorem beginActivate_thermal (j : ImageJob) (s : State) : (beginActivate j s).thermal = s.thermal := rfl
@[simp] theorem beginActivate_regions (j : ImageJob) (s : State) : (beginActivate j s).regions = s.regions := rfl
@[simp] theorem beginActivate_mem (j : ImageJob) (s : State) : (beginActivate j s).mem = s.mem := rfl
@[simp] theorem beginActivate_seq (j : ImageJob) (s : State) : (beginActivate j s).seq = s.seq := rfl
@[simp] theorem beginActivate_job (j : ImageJob) (s : State) : (beginActivate j s).job = s.job := rfl
@[simp] theorem beginActivate_reshard (j : ImageJob) (s : State) : (beginActivate j s).reshard = s.reshard := rfl
@[simp] theorem beginActivate_trust (j : ImageJob) (s : State) : (beginActivate j s).trust = { s.trust with flagged := !s.trust.running } := rfl
@[simp] theorem beginActivate_log (j : ImageJob) (s : State) : (beginActivate j s).log = s.log := rfl
@[simp] theorem beginActivate_fab (j : ImageJob) (s : State) : (beginActivate j s).fab = s.fab := rfl
@[simp] theorem beginActivate_pair (j : ImageJob) (s : State) : (beginActivate j s).pair = s.pair := rfl
@[simp] theorem beginActivate_badSpares (j : ImageJob) (s : State) : (beginActivate j s).badSpares = s.badSpares := rfl
@[simp] theorem beginActivate_free (j : ImageJob) (s : State) : (beginActivate j s).free = s.free := rfl
@[simp] theorem beginActivate_pending (j : ImageJob) (s : State) : (beginActivate j s).pending = s.pending := rfl

@[simp] theorem serveActivate_identity (s : State) : (serveActivate s).identity = s.identity := by unfold serveActivate; split <;> (try split) <;> rfl
@[simp] theorem serveActivate_pins (s : State) : (serveActivate s).pins = s.pins := by unfold serveActivate; split <;> (try split) <;> rfl
@[simp] theorem serveActivate_power (s : State) : (serveActivate s).power = s.power := by unfold serveActivate; split <;> (try split) <;> rfl
@[simp] theorem serveActivate_thermal (s : State) : (serveActivate s).thermal = s.thermal := by unfold serveActivate; split <;> (try split) <;> rfl
@[simp] theorem serveActivate_regions (s : State) : (serveActivate s).regions = s.regions := by unfold serveActivate; split <;> (try split) <;> rfl
@[simp] theorem serveActivate_mem (s : State) : (serveActivate s).mem = s.mem := by unfold serveActivate; split <;> (try split) <;> rfl
@[simp] theorem serveActivate_seq (s : State) : (serveActivate s).seq = s.seq := by unfold serveActivate; split <;> (try split) <;> rfl
@[simp] theorem serveActivate_job (s : State) : (serveActivate s).job = s.job := by unfold serveActivate; split <;> (try split) <;> rfl
@[simp] theorem serveActivate_reshard (s : State) : (serveActivate s).reshard = s.reshard := by unfold serveActivate; split <;> (try split) <;> rfl
@[simp] theorem serveActivate_log (s : State) : (serveActivate s).log = s.log := by unfold serveActivate; split <;> (try split) <;> rfl
@[simp] theorem serveActivate_fab (s : State) : (serveActivate s).fab = s.fab := by unfold serveActivate; split <;> (try split) <;> rfl
@[simp] theorem serveActivate_pair (s : State) : (serveActivate s).pair = s.pair := by unfold serveActivate; split <;> (try split) <;> rfl
@[simp] theorem serveActivate_badSpares (s : State) : (serveActivate s).badSpares = s.badSpares := by unfold serveActivate; split <;> (try split) <;> rfl
@[simp] theorem serveActivate_free (s : State) : (serveActivate s).free = s.free := by unfold serveActivate; split <;> (try split) <;> rfl
@[simp] theorem serveActivate_pending (s : State) : (serveActivate s).pending = s.pending := by unfold serveActivate; split <;> (try split) <;> rfl

@[simp] theorem settleDoze_identity (s : State) : (settleDoze s).identity = s.identity := by unfold settleDoze; split <;> rfl
@[simp] theorem settleDoze_pins (s : State) : (settleDoze s).pins = s.pins := by unfold settleDoze; split <;> rfl
@[simp] theorem settleDoze_thermal (s : State) : (settleDoze s).thermal = s.thermal := by unfold settleDoze; split <;> rfl
@[simp] theorem settleDoze_regions (s : State) : (settleDoze s).regions = s.regions := by unfold settleDoze; split <;> rfl
@[simp] theorem settleDoze_mem (s : State) : (settleDoze s).mem = s.mem := by unfold settleDoze; split <;> rfl
@[simp] theorem settleDoze_seq (s : State) : (settleDoze s).seq = s.seq := by unfold settleDoze; split <;> rfl
@[simp] theorem settleDoze_job (s : State) : (settleDoze s).job = s.job := by unfold settleDoze; split <;> rfl
@[simp] theorem settleDoze_reshard (s : State) : (settleDoze s).reshard = s.reshard := by unfold settleDoze; split <;> rfl
@[simp] theorem settleDoze_gw (s : State) : (settleDoze s).gw = s.gw := by unfold settleDoze; split <;> rfl
@[simp] theorem settleDoze_trust (s : State) : (settleDoze s).trust = s.trust := by unfold settleDoze; split <;> rfl
@[simp] theorem settleDoze_log (s : State) : (settleDoze s).log = s.log := by unfold settleDoze; split <;> rfl
@[simp] theorem settleDoze_fab (s : State) : (settleDoze s).fab = s.fab := by unfold settleDoze; split <;> rfl
@[simp] theorem settleDoze_pair (s : State) : (settleDoze s).pair = s.pair := by unfold settleDoze; split <;> rfl
@[simp] theorem settleDoze_badSpares (s : State) : (settleDoze s).badSpares = s.badSpares := by unfold settleDoze; split <;> rfl
@[simp] theorem settleDoze_free (s : State) : (settleDoze s).free = s.free := by unfold settleDoze; split <;> rfl
@[simp] theorem settleDoze_pending (s : State) : (settleDoze s).pending = s.pending := by unfold settleDoze; split <;> rfl

@[simp] theorem settleBoost_identity (s : State) : (settleBoost s).identity = s.identity := by unfold settleBoost; split <;> (try split) <;> rfl
@[simp] theorem settleBoost_pins (s : State) : (settleBoost s).pins = s.pins := by unfold settleBoost; split <;> (try split) <;> rfl
@[simp] theorem settleBoost_thermal (s : State) : (settleBoost s).thermal = s.thermal := by unfold settleBoost; split <;> (try split) <;> rfl
@[simp] theorem settleBoost_mem (s : State) : (settleBoost s).mem = s.mem := by unfold settleBoost; split <;> (try split) <;> rfl
@[simp] theorem settleBoost_seq (s : State) : (settleBoost s).seq = s.seq := by unfold settleBoost; split <;> (try split) <;> rfl
@[simp] theorem settleBoost_job (s : State) : (settleBoost s).job = s.job := by unfold settleBoost; split <;> (try split) <;> rfl
@[simp] theorem settleBoost_reshard (s : State) : (settleBoost s).reshard = s.reshard := by unfold settleBoost; split <;> (try split) <;> rfl
@[simp] theorem settleBoost_gw (s : State) : (settleBoost s).gw = s.gw := by unfold settleBoost; split <;> (try split) <;> rfl
@[simp] theorem settleBoost_trust (s : State) : (settleBoost s).trust = s.trust := by unfold settleBoost; split <;> (try split) <;> rfl
@[simp] theorem settleBoost_log (s : State) : (settleBoost s).log = s.log := by unfold settleBoost; split <;> (try split) <;> rfl
@[simp] theorem settleBoost_fab (s : State) : (settleBoost s).fab = s.fab := by unfold settleBoost; split <;> (try split) <;> rfl
@[simp] theorem settleBoost_pair (s : State) : (settleBoost s).pair = s.pair := by unfold settleBoost; split <;> (try split) <;> rfl
@[simp] theorem settleBoost_badSpares (s : State) : (settleBoost s).badSpares = s.badSpares := by unfold settleBoost; split <;> (try split) <;> rfl
@[simp] theorem settleBoost_free (s : State) : (settleBoost s).free = s.free := by unfold settleBoost; split <;> (try split) <;> rfl
@[simp] theorem settleBoost_pending (s : State) : (settleBoost s).pending = s.pending := by unfold settleBoost; split <;> (try split) <;> rfl

@[simp] theorem completePower_identity (s : State) : (completePower s).identity = s.identity := by unfold completePower; split <;> rfl
@[simp] theorem completePower_pins (s : State) : (completePower s).pins = s.pins := by unfold completePower; split <;> rfl
@[simp] theorem completePower_power (s : State) : (completePower s).power = s.power := by unfold completePower; split <;> rfl
@[simp] theorem completePower_thermal (s : State) : (completePower s).thermal = s.thermal := by unfold completePower; split <;> rfl
@[simp] theorem completePower_regions (s : State) : (completePower s).regions = s.regions := by unfold completePower; split <;> rfl
@[simp] theorem completePower_mem (s : State) : (completePower s).mem = s.mem := by unfold completePower; split <;> rfl
@[simp] theorem completePower_seq (s : State) : (completePower s).seq = s.seq := by unfold completePower; split <;> rfl
@[simp] theorem completePower_job (s : State) : (completePower s).job = s.job := by unfold completePower; split <;> rfl
@[simp] theorem completePower_reshard (s : State) : (completePower s).reshard = s.reshard := by unfold completePower; split <;> rfl
@[simp] theorem completePower_trust (s : State) : (completePower s).trust = s.trust := by unfold completePower; split <;> rfl
@[simp] theorem completePower_log (s : State) : (completePower s).log = s.log := by unfold completePower; split <;> rfl
@[simp] theorem completePower_fab (s : State) : (completePower s).fab = s.fab := by unfold completePower; split <;> rfl
@[simp] theorem completePower_pair (s : State) : (completePower s).pair = s.pair := by unfold completePower; split <;> rfl
@[simp] theorem completePower_badSpares (s : State) : (completePower s).badSpares = s.badSpares := by unfold completePower; split <;> rfl
@[simp] theorem completePower_free (s : State) : (completePower s).free = s.free := by unfold completePower; split <;> rfl
@[simp] theorem completePower_pending (s : State) : (completePower s).pending = s.pending := by unfold completePower; split <;> rfl

@[simp] theorem completeStop_identity (s : State) : (completeStop s).identity = s.identity := by unfold completeStop; split <;> rfl
@[simp] theorem completeStop_pins (s : State) : (completeStop s).pins = s.pins := by unfold completeStop; split <;> rfl
@[simp] theorem completeStop_power (s : State) : (completeStop s).power = s.power := by unfold completeStop; split <;> rfl
@[simp] theorem completeStop_thermal (s : State) : (completeStop s).thermal = s.thermal := by unfold completeStop; split <;> rfl
@[simp] theorem completeStop_regions (s : State) : (completeStop s).regions = s.regions := by unfold completeStop; split <;> rfl
@[simp] theorem completeStop_mem (s : State) : (completeStop s).mem = s.mem := by unfold completeStop; split <;> rfl
@[simp] theorem completeStop_seq (s : State) : (completeStop s).seq = s.seq := by unfold completeStop; split <;> rfl
@[simp] theorem completeStop_job (s : State) : (completeStop s).job = s.job := by unfold completeStop; split <;> rfl
@[simp] theorem completeStop_reshard (s : State) : (completeStop s).reshard = s.reshard := by unfold completeStop; split <;> rfl
@[simp] theorem completeStop_trust (s : State) : (completeStop s).trust = s.trust := by unfold completeStop; split <;> rfl
@[simp] theorem completeStop_log (s : State) : (completeStop s).log = s.log := by unfold completeStop; split <;> rfl
@[simp] theorem completeStop_fab (s : State) : (completeStop s).fab = s.fab := by unfold completeStop; split <;> rfl
@[simp] theorem completeStop_pair (s : State) : (completeStop s).pair = s.pair := by unfold completeStop; split <;> rfl
@[simp] theorem completeStop_badSpares (s : State) : (completeStop s).badSpares = s.badSpares := by unfold completeStop; split <;> rfl
@[simp] theorem completeStop_free (s : State) : (completeStop s).free = s.free := by unfold completeStop; split <;> rfl
@[simp] theorem completeStop_pending (s : State) : (completeStop s).pending = s.pending := by unfold completeStop; split <;> rfl

@[simp] theorem endDebug_identity (c : Nat) (s : State) : (endDebug c s).identity = s.identity := by unfold endDebug; split <;> rfl
@[simp] theorem endDebug_pins (c : Nat) (s : State) : (endDebug c s).pins = s.pins := by unfold endDebug; split <;> rfl
@[simp] theorem endDebug_power (c : Nat) (s : State) : (endDebug c s).power = s.power := by unfold endDebug; split <;> rfl
@[simp] theorem endDebug_thermal (c : Nat) (s : State) : (endDebug c s).thermal = s.thermal := by unfold endDebug; split <;> rfl
@[simp] theorem endDebug_regions (c : Nat) (s : State) : (endDebug c s).regions = s.regions := by unfold endDebug; split <;> rfl
@[simp] theorem endDebug_mem (c : Nat) (s : State) : (endDebug c s).mem = s.mem := by unfold endDebug; split <;> rfl
@[simp] theorem endDebug_seq (c : Nat) (s : State) : (endDebug c s).seq = s.seq := by unfold endDebug; split <;> rfl
@[simp] theorem endDebug_job (c : Nat) (s : State) : (endDebug c s).job = s.job := by unfold endDebug; split <;> rfl
@[simp] theorem endDebug_reshard (c : Nat) (s : State) : (endDebug c s).reshard = s.reshard := by unfold endDebug; split <;> rfl
@[simp] theorem endDebug_gw (c : Nat) (s : State) : (endDebug c s).gw = s.gw := by unfold endDebug; split <;> rfl
@[simp] theorem endDebug_fab (c : Nat) (s : State) : (endDebug c s).fab = s.fab := by unfold endDebug; split <;> rfl
@[simp] theorem endDebug_pair (c : Nat) (s : State) : (endDebug c s).pair = s.pair := by unfold endDebug; split <;> rfl
@[simp] theorem endDebug_badSpares (c : Nat) (s : State) : (endDebug c s).badSpares = s.badSpares := by unfold endDebug; split <;> rfl
@[simp] theorem endDebug_free (c : Nat) (s : State) : (endDebug c s).free = s.free := by unfold endDebug; split <;> rfl
@[simp] theorem endDebug_pending (c : Nat) (s : State) : (endDebug c s).pending = s.pending := by unfold endDebug; split <;> rfl

@[simp] theorem endSession_identity (i : BitVec 3) (s : State) : (endSession i s).identity = s.identity := by unfold endSession endSessionDebug; simp only []; split <;> (try split) <;> (try split) <;> simp
@[simp] theorem endSession_pins (i : BitVec 3) (s : State) : (endSession i s).pins = s.pins := by unfold endSession endSessionDebug; simp only []; split <;> (try split) <;> (try split) <;> simp
@[simp] theorem endSession_power (i : BitVec 3) (s : State) : (endSession i s).power = s.power := by unfold endSession endSessionDebug; simp only []; split <;> (try split) <;> (try split) <;> simp
@[simp] theorem endSession_thermal (i : BitVec 3) (s : State) : (endSession i s).thermal = s.thermal := by unfold endSession endSessionDebug; simp only []; split <;> (try split) <;> (try split) <;> simp
@[simp] theorem endSession_regions (i : BitVec 3) (s : State) : (endSession i s).regions = s.regions := by unfold endSession endSessionDebug; simp only []; split <;> (try split) <;> (try split) <;> simp
@[simp] theorem endSession_mem (i : BitVec 3) (s : State) : (endSession i s).mem = s.mem := by unfold endSession endSessionDebug; simp only []; split <;> (try split) <;> (try split) <;> simp
@[simp] theorem endSession_job (i : BitVec 3) (s : State) : (endSession i s).job = s.job := by unfold endSession endSessionDebug; simp only []; split <;> (try split) <;> (try split) <;> simp
@[simp] theorem endSession_reshard (i : BitVec 3) (s : State) : (endSession i s).reshard = s.reshard := by unfold endSession endSessionDebug; simp only []; split <;> (try split) <;> (try split) <;> simp
@[simp] theorem endSession_badSpares (i : BitVec 3) (s : State) : (endSession i s).badSpares = s.badSpares := by unfold endSession endSessionDebug; simp only []; split <;> (try split) <;> (try split) <;> simp
@[simp] theorem endSession_free (i : BitVec 3) (s : State) : (endSession i s).free = s.free := by unfold endSession endSessionDebug; simp only []; split <;> (try split) <;> (try split) <;> simp
@[simp] theorem endSession_pending (i : BitVec 3) (s : State) : (endSession i s).pending = s.pending := by unfold endSession endSessionDebug; simp only []; split <;> (try split) <;> (try split) <;> simp

@[simp] theorem setOtherImage_identity (i : Image) (s : State) : (setOtherImage i s).identity = s.identity := by unfold setOtherImage; split <;> rfl
@[simp] theorem setOtherImage_pins (i : Image) (s : State) : (setOtherImage i s).pins = s.pins := by unfold setOtherImage; split <;> rfl
@[simp] theorem setOtherImage_power (i : Image) (s : State) : (setOtherImage i s).power = s.power := by unfold setOtherImage; split <;> rfl
@[simp] theorem setOtherImage_thermal (i : Image) (s : State) : (setOtherImage i s).thermal = s.thermal := by unfold setOtherImage; split <;> rfl
@[simp] theorem setOtherImage_regions (i : Image) (s : State) : (setOtherImage i s).regions = s.regions := by unfold setOtherImage; split <;> rfl
@[simp] theorem setOtherImage_mem (i : Image) (s : State) : (setOtherImage i s).mem = s.mem := by unfold setOtherImage; split <;> rfl
@[simp] theorem setOtherImage_seq (i : Image) (s : State) : (setOtherImage i s).seq = s.seq := by unfold setOtherImage; split <;> rfl
@[simp] theorem setOtherImage_job (i : Image) (s : State) : (setOtherImage i s).job = s.job := by unfold setOtherImage; split <;> rfl
@[simp] theorem setOtherImage_reshard (i : Image) (s : State) : (setOtherImage i s).reshard = s.reshard := by unfold setOtherImage; split <;> rfl
@[simp] theorem setOtherImage_gw (i : Image) (s : State) : (setOtherImage i s).gw = s.gw := by unfold setOtherImage; split <;> rfl
@[simp] theorem setOtherImage_log (i : Image) (s : State) : (setOtherImage i s).log = s.log := by unfold setOtherImage; split <;> rfl
@[simp] theorem setOtherImage_fab (i : Image) (s : State) : (setOtherImage i s).fab = s.fab := by unfold setOtherImage; split <;> rfl
@[simp] theorem setOtherImage_pair (i : Image) (s : State) : (setOtherImage i s).pair = s.pair := by unfold setOtherImage; split <;> rfl
@[simp] theorem setOtherImage_badSpares (i : Image) (s : State) : (setOtherImage i s).badSpares = s.badSpares := by unfold setOtherImage; split <;> rfl
@[simp] theorem setOtherImage_free (i : Image) (s : State) : (setOtherImage i s).free = s.free := by unfold setOtherImage; split <;> rfl
@[simp] theorem setOtherImage_pending (i : Image) (s : State) : (setOtherImage i s).pending = s.pending := by unfold setOtherImage; split <;> rfl

@[simp] theorem bootImage_identity (s : State) : (bootImage s).identity = s.identity := by unfold bootImage; split <;> rfl
@[simp] theorem bootImage_pins (s : State) : (bootImage s).pins = s.pins := by unfold bootImage; split <;> rfl
@[simp] theorem bootImage_power (s : State) : (bootImage s).power = s.power := by unfold bootImage; split <;> rfl
@[simp] theorem bootImage_thermal (s : State) : (bootImage s).thermal = s.thermal := by unfold bootImage; split <;> rfl
@[simp] theorem bootImage_regions (s : State) : (bootImage s).regions = s.regions := by unfold bootImage; split <;> rfl
@[simp] theorem bootImage_mem (s : State) : (bootImage s).mem = s.mem := by unfold bootImage; split <;> rfl
@[simp] theorem bootImage_seq (s : State) : (bootImage s).seq = s.seq := by unfold bootImage; split <;> rfl
@[simp] theorem bootImage_job (s : State) : (bootImage s).job = s.job := by unfold bootImage; split <;> rfl
@[simp] theorem bootImage_reshard (s : State) : (bootImage s).reshard = s.reshard := by unfold bootImage; split <;> rfl
@[simp] theorem bootImage_gw (s : State) : (bootImage s).gw = s.gw := by unfold bootImage; split <;> rfl
@[simp] theorem bootImage_fab (s : State) : (bootImage s).fab = s.fab := by unfold bootImage; split <;> rfl
@[simp] theorem bootImage_pair (s : State) : (bootImage s).pair = s.pair := by unfold bootImage; split <;> rfl
@[simp] theorem bootImage_badSpares (s : State) : (bootImage s).badSpares = s.badSpares := by unfold bootImage; split <;> rfl
@[simp] theorem bootImage_free (s : State) : (bootImage s).free = s.free := by unfold bootImage; split <;> rfl
@[simp] theorem bootImage_pending (s : State) : (bootImage s).pending = s.pending := by unfold bootImage; split <;> rfl

@[simp] theorem journalPut_identity (e : JournalEntry) (s : State) : (journalPut e s).identity = s.identity := rfl
@[simp] theorem journalPut_pins (e : JournalEntry) (s : State) : (journalPut e s).pins = s.pins := rfl
@[simp] theorem journalPut_power (e : JournalEntry) (s : State) : (journalPut e s).power = s.power := rfl
@[simp] theorem journalPut_thermal (e : JournalEntry) (s : State) : (journalPut e s).thermal = s.thermal := rfl
@[simp] theorem journalPut_regions (e : JournalEntry) (s : State) : (journalPut e s).regions = s.regions := rfl
@[simp] theorem journalPut_mem (e : JournalEntry) (s : State) : (journalPut e s).mem = s.mem := rfl
@[simp] theorem journalPut_seq (e : JournalEntry) (s : State) : (journalPut e s).seq = s.seq := rfl
@[simp] theorem journalPut_job (e : JournalEntry) (s : State) : (journalPut e s).job = s.job := rfl
@[simp] theorem journalPut_gw (e : JournalEntry) (s : State) : (journalPut e s).gw = s.gw := rfl
@[simp] theorem journalPut_trust (e : JournalEntry) (s : State) : (journalPut e s).trust = s.trust := rfl
@[simp] theorem journalPut_log (e : JournalEntry) (s : State) : (journalPut e s).log = s.log := rfl
@[simp] theorem journalPut_fab (e : JournalEntry) (s : State) : (journalPut e s).fab = s.fab := rfl
@[simp] theorem journalPut_pair (e : JournalEntry) (s : State) : (journalPut e s).pair = s.pair := rfl
@[simp] theorem journalPut_badSpares (e : JournalEntry) (s : State) : (journalPut e s).badSpares = s.badSpares := rfl
@[simp] theorem journalPut_free (e : JournalEntry) (s : State) : (journalPut e s).free = s.free := rfl
@[simp] theorem journalPut_pending (e : JournalEntry) (s : State) : (journalPut e s).pending = s.pending := rfl

@[simp] theorem voidReshard_identity (s : State) : (voidReshard s).identity = s.identity := by unfold voidReshard; split <;> simp
@[simp] theorem voidReshard_pins (s : State) : (voidReshard s).pins = s.pins := by unfold voidReshard; split <;> simp
@[simp] theorem voidReshard_power (s : State) : (voidReshard s).power = s.power := by unfold voidReshard; split <;> simp
@[simp] theorem voidReshard_thermal (s : State) : (voidReshard s).thermal = s.thermal := by unfold voidReshard; split <;> simp
@[simp] theorem voidReshard_regions (s : State) : (voidReshard s).regions = s.regions := by unfold voidReshard; split <;> simp
@[simp] theorem voidReshard_mem (s : State) : (voidReshard s).mem = s.mem := by unfold voidReshard; split <;> simp
@[simp] theorem voidReshard_seq (s : State) : (voidReshard s).seq = s.seq := by unfold voidReshard; split <;> simp
@[simp] theorem voidReshard_job (s : State) : (voidReshard s).job = s.job := by unfold voidReshard; split <;> simp
@[simp] theorem voidReshard_gw (s : State) : (voidReshard s).gw = s.gw := by unfold voidReshard; split <;> simp
@[simp] theorem voidReshard_trust (s : State) : (voidReshard s).trust = s.trust := by unfold voidReshard; split <;> simp
@[simp] theorem voidReshard_fab (s : State) : (voidReshard s).fab = s.fab := by unfold voidReshard; split <;> simp
@[simp] theorem voidReshard_pair (s : State) : (voidReshard s).pair = s.pair := by unfold voidReshard; split <;> simp
@[simp] theorem voidReshard_badSpares (s : State) : (voidReshard s).badSpares = s.badSpares := by unfold voidReshard; split <;> simp
@[simp] theorem voidReshard_free (s : State) : (voidReshard s).free = s.free := by unfold voidReshard; split <;> simp
@[simp] theorem voidReshard_pending (s : State) : (voidReshard s).pending = s.pending := by unfold voidReshard; split <;> simp

@[simp] theorem start_sessions (q : Req) (s : State) : (start q s).gw.sessions = s.gw.sessions := by simp only [start]; split <;> rfl
@[simp] theorem start_runstate (q : Req) (s : State) : (start q s).gw.runstate = s.gw.runstate := by simp only [start]; split <;> rfl

/-- With nothing fetched that waits, only a place of the 256 is taken. -/
theorem start_fresh (q : Req) (s : State) (h : s.gw.accepted = []) :
    start q s = { s with gw := { s.gw with outstanding := s.gw.outstanding + 1 } } := by
  simp [start, passRefused, h]

@[simp] theorem raiseVec1_held (s : State) : (raiseVec1 s).gw.held = s.gw.held := by unfold raiseVec1; split <;> rfl
@[simp] theorem raiseVec1_sessions (s : State) : (raiseVec1 s).gw.sessions = s.gw.sessions := by unfold raiseVec1; split <;> rfl
@[simp] theorem raiseVec1_runstate (s : State) : (raiseVec1 s).gw.runstate = s.gw.runstate := by unfold raiseVec1; split <;> rfl
@[simp] theorem settled_held (s t : State) : (settled s t).gw.held = t.gw.held := by unfold settled; split <;> simp
@[simp] theorem settled_sessions (s t : State) : (settled s t).gw.sessions = t.gw.sessions := by unfold settled; split <;> simp
@[simp] theorem settled_runstate (s t : State) : (settled s t).gw.runstate = t.gw.runstate := by unfold settled; split <;> simp

@[simp] theorem session_start (q : Req) (s : State) (i : BitVec 3) : session? (start q s) i = session? s i := by
  simp [session?]

/-- A completion depends on the state through its sessions alone. -/
theorem completionOf_congr {s t : State} (h : t.gw.sessions = s.gw.sessions) (q : Req) (op : BitVec 8) (st : BitVec 16)
    (d : BitVec 64) (p : List Byte) : completionOf t q op st d p = completionOf s q op st d p := by
  simp [completionOf, replyPacket, session?, h]

@[simp] theorem completionOf_start (r : Req) (s : State) (q : Req) (op : BitVec 8) (st : BitVec 16) (d : BitVec 64)
    (p : List Byte) : completionOf (start r s) q op st d p = completionOf s q op st d p :=
  completionOf_congr (start_sessions r s) q op st d p

/-- GW_STATUS depends on these fields alone. -/
theorem gwStatus_congr {s t : State} (h1 : t.gw.runstate = s.gw.runstate) (h2 : t.trust = s.trust) (h3 : t.power = s.power)
    (h4 : t.pair = s.pair) (h5 : t.reshard = s.reshard) (h6 : t.regions = s.regions) (h7 : t.job = s.job) (h8 : t.seq = s.seq)
    (h9 : t.gw.sessions = s.gw.sessions) : gwStatus t = gwStatus s := by
  simp [gwStatus, maintCode, slipwayNow, h1, h2, h3, h4, h5, h6, h7, h8, h9]

/-- Without a change of GW_STATUS no vector is raised. -/
theorem settled_eq {s t : State} (h : gwStatus t = gwStatus s) : settled s t = t := by simp [settled, h]

@[simp] theorem settled_self (s : State) : settled s s = s := settled_eq rfl

@[simp] theorem gwStatus_hold (c : Completion) (s : State) : gwStatus (Machine.hold c s) = gwStatus s :=
  gwStatus_congr rfl rfl rfl rfl rfl rfl rfl rfl rfl

@[simp] theorem gwStatus_start (q : Req) (s : State) : gwStatus (start q s) = gwStatus s :=
  gwStatus_congr (by simp) (by simp) (by simp) (by simp) (by simp) (by simp) (by simp) (by simp) (by simp)

/-- A command that only replies leaves the answered state. -/
theorem settled_completeAs_start (s : State) (q : Req) (op : BitVec 8) (st : BitVec 16) (d : BitVec 64) (p : List Byte) :
    settled s (completeAs q op st d p (start q s)) = answered q op st d p s := by
  rw [settled_eq (by simp [completeAs])]
  simp [completeAs, answered]

/-- A command that starts has the outcome of its effect. -/
theorem command_starts {op page : Nat} {q : Req} {own : Bool} {s : State} (h : Starts op page q own s) (f : State → State) :
    command op page q own f s = .next (settled s (f (start q s))) := by
  simp [command, h.1, h.2.1, h.2.2, done]

/-- A command that starts and only replies. -/
theorem command_replies {op page : Nat} {q : Req} {own : Bool} {s : State} (h : Starts op page q own s) (f : State → State)
    {o : BitVec 8} {st : BitVec 16} {d : BitVec 64} {p : List Byte} (hf : f (start q s) = completeAs q o st d p (start q s)) :
    command op page q own f s = .next (answered q o st d p s) := by
  rw [command_starts h, hf, settled_completeAs_start]

/-- An event whose condition holds has the outcome of its effect; one whose condition does not changes nothing. -/
theorem event_holds {c : Bool} (h : c = true) (f : State → State) (s : State) : event c f s = .next (settled s (f s)) := by
  simp [event, h, done]

theorem event_waits {c : Bool} (h : c = false) (f : State → State) (s : State) : event c f s = .next s := by simp [event, h]

end Sys2Proof.Machine
end

