-- ==== Sys2Proof/Laws/Steps.lean ====
section
/-!
SUPPORT. Everything that the shared operations of the commands can do: the outcome of a command, an event, a register access,
a message and a step, and that each shared operation keeps the canonical form.
-/
namespace Sys2Proof.Machine

/-! ### The outcome of a command -/

@[simp] theorem done_eq (s t : State) : done s t = .next (settled s t) := rfl

/-- Only vector 1 may rise besides. -/
theorem settled_gw (s t : State) : (settled s t).gw = { t.gw with vec1 := (settled s t).gw.vec1 } := by
  unfold settled raiseVec1; split
  · rfl
  · split <;> rfl


/-- An event always answers a next state: the one before it, or its effect. -/
theorem event_cases (c : Bool) (f : State → State) (s : State) :
    (c = false ∧ event c f s = .next s) ∨ (c = true ∧ event c f s = .next (settled s (f s))) := by
  cases c
  · exact .inl ⟨rfl, rfl⟩
  · exact .inr ⟨rfl, rfl⟩

/-- A register access answers a next state: the one before it while the link is down. -/
theorem bar0_up (f : State → State) (s : State) (h : s.gw.linkUp = true) : bar0 f s = .next (settled s (f s)) := by
  unfold bar0; rw [if_pos h]; rfl

theorem bar0_down (f : State → State) (s : State) (h : s.gw.linkUp = false) : bar0 f s = .next s := by
  unfold bar0; rw [if_neg (by simp [h]), done_eq, settled_self]

/-! ### Gangway commands -/

theorem command_waits (op page : Nat) (q : Req) (own : Bool) (f : State → State) (s : State) (h : waits q s = true) :
    command op page q own f s = .next s := by
  unfold command; rw [if_pos h]

/-- A command that the gate refuses only completes. -/
theorem command_refused (op page : Nat) (q : Req) (own : Bool) (f : State → State) (s : State) (st : BitVec 16)
    (w : waits q s = false) (h : gate op page q own s = some st) :
    command op page q own f s = .next (settled s (if st = Status.noSession then completeClear q.tag st (start q s)
      else refuse q (BitVec.ofNat 8 op) st (start q s))) := by
  unfold command; rw [if_neg (by simp [w]), h]; rfl

/-- A command whose packet does not hold its parameters completes with BAD_FIELD. -/
theorem command_malformed (op page : Nat) (q : Req) (own : Bool) (f : State → State) (s : State)
    (w : waits q s = false) (g : gate op page q own s = none) (h : ((nextAccepted s).all Accepted.formOk) = false) :
    command op page q own f s = .next (settled s (refuseField q (BitVec.ofNat 8 op) 0 (start q s))) := by
  unfold command; rw [if_neg (by simp [w]), g]; simp [h, done]

/-- A command answers a next state in every case. -/
theorem command_cases (op page : Nat) (q : Req) (own : Bool) (f : State → State) (s : State) :
    (waits q s = true ∧ command op page q own f s = .next s) ∨
    (∃ st, waits q s = false ∧ gate op page q own s = some st ∧ command op page q own f s =
      .next (settled s (if st = Status.noSession then completeClear q.tag st (start q s)
        else refuse q (BitVec.ofNat 8 op) st (start q s)))) ∨
    (waits q s = false ∧ gate op page q own s = none ∧ ((nextAccepted s).all Accepted.formOk) = false ∧
      command op page q own f s = .next (settled s (refuseField q (BitVec.ofNat 8 op) 0 (start q s)))) ∨
    (Starts op page q own s ∧ command op page q own f s = .next (settled s (f (start q s)))) := by
  cases w : waits q s with
  | true => exact .inl ⟨rfl, command_waits _ _ _ _ _ _ w⟩
  | false =>
    cases g : gate op page q own s with
    | some st => exact .inr (.inl ⟨st, rfl, rfl, command_refused _ _ _ _ _ _ _ w g⟩)
    | none =>
      cases h : (nextAccepted s).all Accepted.formOk with
      | false => exact .inr (.inr (.inl ⟨rfl, rfl, rfl, command_malformed _ _ _ _ _ _ w g h⟩))
      | true => exact .inr (.inr (.inr ⟨⟨w, g, h⟩, command_starts ⟨w, g, h⟩ f⟩))

theorem check_true {ok : Bool} (q : Req) (op : Nat) (st : BitVec 16) (f : State → State) (s : State) (h : ok = true) :
    check q op ok st f s = f s := by unfold check; rw [if_pos h]

theorem check_false {ok : Bool} (q : Req) (op : Nat) (st : BitVec 16) (f : State → State) (s : State) (h : ok = false) :
    check q op ok st f s = refuse q (BitVec.ofNat 8 op) st s := by unfold check; rw [if_neg (by simp [h])]

theorem checkField_true {ok : Bool} (q : Req) (op param : Nat) (f : State → State) (s : State) (h : ok = true) :
    checkField q op param ok f s = f s := by unfold checkField; rw [if_pos h]

theorem checkField_false {ok : Bool} (q : Req) (op param : Nat) (f : State → State) (s : State) (h : ok = false) :
    checkField q op param ok f s = refuseField q (BitVec.ofNat 8 op) param s := by unfold checkField; rw [if_neg (by simp [h])]

/-- A refusal for a field is the completion that `answered` describes. -/
theorem refuseField_start (q : Req) (op : BitVec 8) (param : Nat) (s : State) :
    refuseField q op param (start q s) = hold (completionOf (start q s) q op Status.badField (fieldDetail op param) []) (start q s) := rfl

/-! ### Messages -/

theorem takeHeld_idle (p : Nat) (ok : Bool) (fits : RxMsg → Bool) (n : Nat) (f : List RxMsg → State → State) (s : State)
    (h : (port s p).state ≠ .active) : takeHeld p ok fits n f s = s := by unfold takeHeld; rw [if_pos h]

/-- Nothing is held at the port: the message is taken as it stands. -/
theorem takeHeld_given (p : Nat) (fits : RxMsg → Bool) (n : Nat) (f : List RxMsg → State → State) (s : State)
    (h : (port s p).state = .active) (e : (port s p).rxMsgs = []) : takeHeld p true fits n f s = f [] s := by
  unfold takeHeld; rw [if_neg (by simp [h]), if_pos e]; rfl

/-- A message whose tag fails. -/
theorem takeHeld_bad (p : Nat) (fits : RxMsg → Bool) (n : Nat) (f : List RxMsg → State → State) (s : State)
    (h : (port s p).state = .active) (e : (port s p).rxMsgs = []) : takeHeld p false fits n f s = tagFailure p s := by
  unfold takeHeld; rw [if_neg (by simp [h]), if_pos e]; rfl

/-- The messages held are taken out, or the message is not there. -/
theorem takeHeld_held (p : Nat) (ok : Bool) (fits : RxMsg → Bool) (n : Nat) (f : List RxMsg → State → State) (s : State)
    (h : (port s p).state = .active) (e : (port s p).rxMsgs ≠ []) :
    takeHeld p ok fits n f s =
      if (heldMsgs (port s p) fits n).length = n then
        f (heldMsgs (port s p) fits n)
          (onPort p (fun q => { q with rxMsgs := (heldMsgs (port s p) fits n).foldl List.erase q.rxMsgs }) s)
      else s := by
  unfold takeHeld; rw [if_neg (by simp [h]), if_neg e]

theorem takeMsg_idle (p : Nat) (ok : Bool) (fits : RxMsg → Bool) (n : Nat) (f : State → State) (s : State)
    (h : (port s p).state ≠ .active) : takeMsg p ok fits n f s = s := takeHeld_idle _ _ _ _ _ _ h

theorem takeMsg_given (p : Nat) (fits : RxMsg → Bool) (n : Nat) (f : State → State) (s : State)
    (h : (port s p).state = .active) (e : (port s p).rxMsgs = []) : takeMsg p true fits n f s = f (freeMsgs p [] s) :=
  takeHeld_given _ _ _ _ _ h e

theorem takeMsg_bad (p : Nat) (fits : RxMsg → Bool) (n : Nat) (f : State → State) (s : State)
    (h : (port s p).state = .active) (e : (port s p).rxMsgs = []) : takeMsg p false fits n f s = tagFailure p s :=
  takeHeld_bad _ _ _ _ _ h e

/-- A message with a route joins the queue of the port its next hop goes through. -/
theorem send_routed (dst : BitVec 14) (vc : Fin 4) (fl : Option Nat) (b : Body) (s : State) (h : Hop)
    (e : nextHop s (myNode s) dst none = some h) : send dst vc fl b s = enqueue h dst vc fl b s := by
  unfold send; rw [e]

theorem sendNotice_cases (dst : BitVec 14) (b : Body) (s : State) :
    sendNotice dst b s = s ∨ ∃ h, nextHop s (myNode s) dst none = some h ∧ sendNotice dst b s = enqueue h dst 3 none b s := by
  unfold sendNotice
  cases e : nextHop s (myNode s) dst none with
  | none => exact .inl rfl
  | some h => exact .inr ⟨h, rfl, rfl⟩

/-- Outside a pair nothing goes to another half. -/
theorem sendLash_alone (b : Body) (s : State) (h : inPair s = false) : sendLash b s = s := by
  simp [inPair] at h
  simp [sendLash, enqueueLash, h]

theorem sendLash_cases (b : Body) (s : State) :
    sendLash b s = s ∨ sendLash b s = enqueue ⟨6, false, false⟩ (myNode s) 3 none b s := by
  unfold sendLash enqueueLash; split
  · exact .inr rfl
  · exact .inl rfl

/-! ### Steps -/

theorem step_empty (s : State) (h : s.pending = []) : step s = .next s := by unfold step; rw [h]

theorem step_front (c : Instr) (rest : List Instr) (s : State) (h : s.pending = c :: rest) :
    step s = exec c { s with pending := rest } := by unfold step; rw [h]

/-! ### Halts -/

/-- Without a run a halt changes nothing. -/
theorem settleHalt_idle (s : State) (h : s.seq.run = none) : settleHalt s = s := by unfold settleHalt; rw [h]

/-- Rows in flight keep a halt waiting. -/
theorem settleHalt_busy (s : State) (h : s.seq.flight ≠ []) : settleHalt s = s := by
  unfold settleHalt
  split
  · rfl
  · rw [if_pos h]

theorem activeNow_some {s : State} {r : ActiveRun} (h : activeNow s = some r) :
    s.seq.run = some r ∧ r.asleep = false ∧ r.halting = none ∧ r.abandoning = none ∧ r.restartAt = none := by
  unfold activeNow at h
  rw [Option.filter_eq_some_iff] at h
  simpa [Bool.and_eq_true, and_assoc] using h

/-- The sequencer that stands at a row is active. -/
theorem AtRow.active {s : State} {r : ActiveRun} {w : Row} (h : AtRow s r w) : activeNow s = some r := by
  unfold activeNow
  rw [h.run]
  simp [Option.filter, h.issuing.1, h.issuing.2.1, h.issuing.2.2.1, h.issuing.2.2.2.1]

/-! ### The canonical form -/

theorem keepsForm_settled (s t : State) : KeepsForm t (settled s t) := .of_eq (by simp) (by simp) (by simp)
theorem keepsForm_record (c : RecCode) (l : List Byte) (s : State) : KeepsForm s (record c l s) := .of_eq rfl rfl rfl
theorem keepsForm_hold (c : Completion) (s : State) : KeepsForm s (hold c s) := .of_eq rfl rfl rfl
theorem keepsForm_completeAs (q : Req) (op : BitVec 8) (st : BitVec 16) (d : BitVec 64) (p : List Byte) (s : State) :
    KeepsForm s (completeAs q op st d p s) := .of_eq rfl rfl rfl
theorem keepsForm_start (q : Req) (s : State) : KeepsForm s (start q s) := .of_eq (by simp) (by simp) (by simp)
theorem keepsForm_onGw (f : Gangway → Gangway) (s : State) : KeepsForm s (onGw f s) := .of_eq rfl rfl rfl
theorem keepsForm_onSeq (f : Seq → Seq) (s : State) : KeepsForm s (onSeq f s) := .of_eq rfl rfl rfl
theorem keepsForm_onPair (f : Pair → Pair) (s : State) : KeepsForm s (onPair f s) := .of_eq rfl rfl rfl
theorem keepsForm_enqueue (h : Hop) (dst : BitVec 14) (vc : Fin 4) (fl : Option Nat) (b : Body) (s : State) :
    KeepsForm s (enqueue h dst vc fl b s) := keepsForm_onPort _ _ _

theorem keepsForm_sendNotice (dst : BitVec 14) (b : Body) (s : State) : KeepsForm s (sendNotice dst b s) := by
  rcases sendNotice_cases dst b s with h | ⟨h, -, e⟩
  · rw [h]; exact .refl s
  · rw [e]; exact keepsForm_enqueue _ _ _ _ _ _

theorem keepsForm_sendLash (b : Body) (s : State) : KeepsForm s (sendLash b s) := by
  rcases sendLash_cases b s with e | e <;> rw [e]
  · exact .refl s
  · exact keepsForm_enqueue _ _ _ _ _ _

theorem keepsForm_tellGroup (g : Nat) (b : Body) (s : State) : KeepsForm s (tellGroup g b s) :=
  keepsForm_foldl _ (fun _ _ => keepsForm_sendNotice _ _ _) _ s

/-- An event whose effect keeps the form keeps it. -/
theorem keepsForm_event (c : Bool) (f : State → State) (s t : State) (hf : KeepsForm s (f s)) (h : event c f s = .next t) :
    KeepsForm s t := by
  rcases event_cases c f s with ⟨-, e⟩ | ⟨-, e⟩
  · rw [e] at h; cases h; exact .refl s
  · rw [e] at h; cases h; exact hf.trans (keepsForm_settled _ _)

/-- A command whose effect keeps the form keeps it. -/
theorem keepsForm_command (op page : Nat) (q : Req) (own : Bool) (f : State → State) (s t : State)
    (hf : KeepsForm (start q s) (f (start q s))) (h : command op page q own f s = .next t) : KeepsForm s t := by
  rcases command_cases op page q own f s with ⟨-, e⟩ | ⟨st, -, -, e⟩ | ⟨-, -, -, e⟩ | ⟨-, e⟩
  · rw [e] at h; cases h; exact .refl s
  · rw [e] at h; cases h
    refine (KeepsForm.trans (keepsForm_start q s) ?_).trans (keepsForm_settled _ _)
    split
    · exact keepsForm_hold _ _
    · exact keepsForm_completeAs _ _ _ _ _ _
  · rw [e] at h; cases h
    exact ((keepsForm_start q s).trans (keepsForm_completeAs _ _ _ _ _ _)).trans (keepsForm_settled _ _)
  · rw [e] at h; cases h; exact ((keepsForm_start q s).trans hf).trans (keepsForm_settled _ _)

end Sys2Proof.Machine
end

