-- ==== Sys2Proof/WellFormed.lean ====
section
/-!
DEFINITION. Which commands are well formed: operands that the hardware can present. A packet's length words agree with the
lists it carries (spec/13_commands.md Tables 13-9, 13-12), a message carries at most 3,072 bytes (spec/10_fabric.md R225), a
place in the issue order is below 64 (spec/07_timetable.md R160) and a sample carries one reading for each region
(spec/16_power.md R373). Every check is a separate function, so that each can be tested by a term it refuses.
-/
namespace Sys2Proof

/-- A message's bytes fit it. -/
def payloadWf (data : List Byte) : Bool := decide (data.length ≤ 3072)

/-- With SOURCE NATIVE a job's counts are those of the lists it carries (spec/13_commands.md R308). -/
def JobParams.wf (p : JobParams) : Bool :=
  p.source != 0 ||
    (decide (p.ranks.toNat = p.rankTable.length) && decide (p.nGroup.toNat = p.groups.length) &&
      decide (p.nHome.toNat = p.homes.length))

/-- A load carries as many rows as it says. -/
def rowsWf (n : BitVec 32) (rows : List Row) : Bool := decide (n.toNat = rows.length)

/-- One reading for each region. -/
def readingsWf (regions : List Int) : Bool := decide (regions.length = 64)

/-- A place of the issue order. -/
def placeWf (place : Nat) : Bool := decide (place < 64)

def Instr.wf : Instr → Bool
  | .jobStart _ p => p.wf
  | .ttLoad _ _ n rows => rowsWf n rows
  | .messageForward _ m _ => payloadWf m.payload
  | .writeMsg _ m _ => payloadWf m.payload
  | .readMsg _ m _ => payloadWf m.payload
  | .readData _ _ _ _ data => payloadWf data.bytes
  | .temperatureSample regions _ => readingsWf regions
  | .rowComplete place => placeWf place
  | _ => true

end Sys2Proof
end

