-- ==== Sys2Proof/Tests/Slice0.lean ====
section
/-!
SUPPORT. Small tests of single steps, and for each statement with hypotheses a witness: concrete states and operands that meet the
hypotheses of its clauses together. The states are built from a few bases (`B.up`, `B.running w`, …).
-/
set_option maxRecDepth 20000
set_option Elab.async false
namespace Sys2Proof.Tests
open Sys2Proof Sys2Proof.Machine

/-! ### How the hypotheses without a decision procedure are shown -/

theorem starts_of {op page : Nat} {q : Req} {own : Bool} {s : Machine.State}
    (h : waits q s = false ∧ gate op page q own s = none ∧ (nextAccepted s).all Accepted.formOk = true) :
    Starts op page q own s := h

theorem atRow_of {s : Machine.State} {r : ActiveRun} {w : Row}
    (h : s.seq.run = some r ∧ (r.asleep = false ∧ r.halting = none ∧ r.abandoning = none ∧ r.restartAt = none ∧ r.waitCause = none) ∧
      r.next < (slotOf s r.slot).rows.length ∧ rowAt s r.slot r.next = w ∧
      (s.seq.held = [] ∧ s.seq.flight = [] ∧ s.log.protWait = [] ∧ s.seq.copies = []) ∧
      (inPair s = false ∧ s.pair.sent = none ∧ s.pair.got = [])) : AtRow s r w :=
  ⟨h.1, h.2.1, h.2.2.1, h.2.2.2.1, h.2.2.2.2.1, h.2.2.2.2.2⟩

theorem unblocked_of {s : Machine.State} {w : Row}
    (h : executes s w = true ∧ (∀ k ∈ setList (rowRset w), (region s k).clock = .ready) ∧ drainWait s w = false ∧
      hostWait s w = false ∧ linkWait s w = false ∧ s.trust.sealing = false) : Unblocked s w :=
  ⟨h.1, h.2.1, h.2.2.1, h.2.2.2.1, h.2.2.2.2.1, h.2.2.2.2.2⟩

theorem tierGood_of {s : Machine.State} {a n : Nat}
    (h : (List.range ((a + n - 1) / 256 + 1)).all (fun u => decide (u < a / 256) || decide (unitFails s u = (false, false))) = true) :
    TierGood s a n := by
  intro u h1 h2
  have := List.all_eq_true.1 h u (List.mem_range.2 (by omega))
  simp only [Bool.or_eq_true, decide_eq_true_eq] at this
  exact this.resolve_left (by omega)

theorem legalRing_of {b : BitVec 64} {z : BitVec 32}
    (h : b.toNat % 4096 = 0 ∧ (List.range 9).any (fun k => z.toNat = 2 ^ (k + 4)) = true) : LegalRing b z := by
  obtain ⟨k, hk, e⟩ := List.any_eq_true.1 h.2
  rw [List.mem_range] at hk
  exact ⟨Nat.dvd_of_mod_eq_zero h.1, k + 4, by omega, by omega, by simpa using e⟩

theorem not_legalRing_of {b : BitVec 64} {z : BitVec 32}
    (h : b.toNat % 4096 ≠ 0 ∨ (List.range 9).all (fun k => z.toNat ≠ 2 ^ (k + 4)) = true) : ¬ LegalRing b z := by
  rintro ⟨hd, k, h1, h2, e⟩
  rcases h with h | h
  · exact h (Nat.mod_eq_zero_of_dvd hd)
  · have := List.all_eq_true.1 h (k - 4) (List.mem_range.2 (by omega))
    have e2 : k - 4 + 4 = k := by omega
    rw [e2] at this
    simp [e] at this

theorem slotsEmpty_of {s : Machine.State} (h : s.seq.slotA = Slot.empty ∧ s.seq.slotB = Slot.empty) : Claims.slotsEmpty s := h

/-! ### Base states -/

namespace B
def gKey : Key := BitVec.ofNat 768 (P384.gx + P384.gy*2^384)
def req : Req := { tag := 7, isSealed := true, sid := 1, seq := 5, raddr := 0x9000, rcap := 0x8000000 }
def reqC : Req := { tag := 8, isSealed := false, sid := 0, seq := 0, raddr := 0xA000, rcap := 0x8000000 }
def req2 : Req := { tag := 9, isSealed := true, sid := 1, seq := 6, raddr := 0xB000, rcap := 0x8000000 }
def ses : Session := { sid := 1, provisional := false, owner := gKey, seq := 3, nseq := 2, h2d := 11, d2h := 12 }
def ses2 : Session := { sid := 2, provisional := false, owner := gKey, seq := 4, nseq := 1, h2d := 13, d2h := 14 }
def imgA : Image := { valid := true, version := 5, level := 2, digest := 77, header := [] }
def imgB : Image := { valid := true, version := 4, level := 3, digest := 78, header := [] }
def mkRec (n : Nat) (c : RecCode) : Rec := { seq := BitVec.ofNat 64 n, op := 9, cycles := 2, source := c.source, code := c.code, flags := 0, params := [1,2] }
def regionUp : Region := { Region.reset with mode := .service, clock := .ready, temp := 500, floorMs := 3, coreParity := [(3, 7)] }
def portUp : Port := { Port.reset with state := .active, peer := some 5, candidate := some 5, everActive := true, txMseq := 9, rxMseq := 8, txSeq := 3, rxSeq := 4, credits := [(0,100),(1,100),(2,100),(3,100),(4,100),(5,100),(6,100),(7,100)], rxMsgs := [], txKey := 5, rxKey := 6, corrected := 3, transcript := [([4], [5])] }
def portOff : Port := { portUp with state := .off, credits := [], rxMsgs := [], txKey := 0, rxKey := 0, transcript := [] }
/-- dims 4 x 2 x 1 (exponents 2,1,0); node (1,0,0); ports X and Y enabled -/
def cfg : BitVec 128 := BitVec.ofNat 128 (2 + 1 * 8 + 0 * 64 + 1 * 2^16 + 0x3F * 2^32 + 0xABCD * 2^64)
def pinsUp : Pins := { Pins.reset with aux := true, mainEn := true, perstN := true, ownerPresentN := true, slotId := 3, fabricSenseN := 0, lashSenseN := false }
def log : Recorder := { Recorder.reset with ring := [mkRec 1 Code.logMark, mkRec 2 Code.logMark, mkRec 4 Code.logMark], prot := [mkRec 3 Code.cleared], nextSeq := 6, queue := [mkRec 0 Code.logMark], opSeconds := 7200, powerCycles := 4, flashOp := 7000, flashCycles := 4 }
def gw : Gangway := { Gangway.reset with linkUp := true, enable := true, irqEn := true, sqBase := 0x1000, sqSize := 16, sqTail := 3, sqHead := 1, cqBase := 0x2000, cqSize := 16, cqHead := 2, cqTail := 5, held := [{ tag := 3, kind := 0, status := 5, raddr := 0x7000, reply := [1,2,3] }], outstanding := 2, vec0 := 4, vec1 := 6, windows := [(1, 0x10000, 0x100000), (2, 0x200000, 0x1000)], sessions := [ses, ses2], runstate := .ready }
def trust : Trust := { Trust.reset with lifecycle := .enrolled, ownerKey := gKey, domain := 0x1234, policy := BitVec.ofNat 4096 (0x594C4F50 + 3 * 2^32 + 2^65), wrapKey := 2, rollback := 1, imageA := imgA, imageB := imgB, cellMv := 2900, tamperCount := 2 }
def mem : Mem := { Mem.reset with tier := (List.range 300).map (fun k => (k, BitVec.ofNat 8 (k + 1))), staging := [(0, 3), (5, 9)], slice := [(1, 4), (2^22*5+3, 8)], host := [(0x10000, 5), (0x10001, 6)], acc := [(3, 7), (90000, 8)], era := 3, keys := some ⟨(1, 2), (3, 4)⟩ }
def seq : Seq := { Seq.reset with slotGen := 3, nextId := 12, a4 := [2, 5], hold := [(2, 3)], flags := [(1, 4)], step := 17, haltCause := 3, haltRow := 9, loops := [(1, 3)], ledger := [(4, ⟨1,2,3⟩)], stallR := [(33, 5)], stallM := [(2, 6)], watch := [(3, { Watch.zero with err := 0x3F800000, energy := 0x40000000 })], issues := [(2, 1)] }
def up : Machine.State := { Machine.State.reset with identity := ⟨2, [1,2,3], [4,5], 99, gKey⟩, pins := pinsUp, power := { Power.reset with state := .run, startup := 6, rails := true, auxReady := true }, thermal := { Thermal.reset with mainMv := 48000, inlet := 300, outlet := 700, flow := 1000, granted := false, duty := 500, loopOn := true, integ := 5 }, regions := List.replicate 64 regionUp, mem := mem, seq := seq, gw := gw, trust := trust, log := log, fab := { cfg := cfg, ports := List.replicate 6 portUp ++ [portOff], txns := [], nextTxn := 3, turn := [(0, 2)], far := [], asked := [] }, free := 5 }
def job : Job := { Job.none with started := true, seed := 5, ranks := 2, myRank := 0, rankTable := [BitVec.ofNat 64 (1 + 2^14), BitVec.ofNat 64 (2 + 2^14)], domain := 2 }
def soloJob : Job := { Job.none with started := true, seed := 5, ranks := 1, myRank := 0, rankTable := [BitVec.ofNat 64 (1 + 2^14)], domain := 1 }
def jobUp : Machine.State := { up with gw := { gw with runstate := .job }, job := soloJob }
def jobUp2 : Machine.State := { up with gw := { gw with runstate := .job }, job := job }
def arun : ActiveRun := { slot := false, next := 1, entry := 0, stepEntry := 0, gap := 0, budget := 3, boost := false, req := req2, stopAt := false, halting := none, attempt := 0, asleep := false, committed := false, abandoning := none, restartAt := none, waitCause := none }
def slotW (st : SlotState) (ws : List Row) : Slot := { state := st, rows := ws, digest := 5, entry := 0, lowered := none }
/-- running, at row 1 = w -/
def running (w : Row) : Machine.State := { jobUp with gw := { jobUp.gw with runstate := .running }, seq := { seq with slotA := slotW .active [0, w, 0], slotB := slotW .loaded [0], run := some arun, entryVerdict := some ([1], [(3,2)]) } }
def running2 (w : Row) : Machine.State := { running w with job := job }
end B

/-- The state after a command. -/
def after (c : Instr) (s : Machine.State) : Machine.State :=
  match exec c s with
  | .next t => t
  | _ => s

theorem checkRows_of {s : Machine.State} {l : List Row} (h : (checkRows s l).toOption = some []) : checkRows s l = .ok [] := by
  cases e : checkRows s l with
  | error x => rw [e] at h; cases h
  | ok x => rw [e] at h; simp only [Except.toOption, Option.some.injEq] at h; rw [h]

namespace Rings
open B

def dis : Machine.State := { up with gw := { gw with enable := false } }
def disA : Machine.State := { up with gw := { gw with enable := false, sqSize := 17 } }
def disB : Machine.State := { up with gw := { gw with enable := false, cqBase := 17 } }
def disC : Machine.State := { up with gw := { gw with enable := false, cqBase := 17, sqSize := 15 } }
def down : Machine.State := { up with gw := { gw with linkUp := false } }

theorem witness_EnableChecksBothRings :
    (LegalRing dis.gw.sqBase dis.gw.sqSize ∧ LegalRing dis.gw.cqBase dis.gw.cqSize ∧ (dis.gw.linkUp = true ∧ dis.gw.enable = false)) ∧
    (¬LegalRing disA.gw.sqBase disA.gw.sqSize ∧ LegalRing disA.gw.cqBase disA.gw.cqSize ∧ (disA.gw.linkUp = true ∧ disA.gw.enable = false)) ∧
    (LegalRing disB.gw.sqBase disB.gw.sqSize ∧ ¬LegalRing disB.gw.cqBase disB.gw.cqSize ∧ (disB.gw.linkUp = true ∧ disB.gw.enable = false)) ∧
    (¬LegalRing disC.gw.sqBase disC.gw.sqSize ∧ ¬LegalRing disC.gw.cqBase disC.gw.cqSize ∧ (disC.gw.linkUp = true ∧ disC.gw.enable = false)) ∧
    (up.gw.linkUp = true ∧ up.gw.enable = true) :=
  ⟨⟨legalRing_of (by decide +kernel), legalRing_of (by decide +kernel), by decide +kernel⟩, ⟨not_legalRing_of (by decide +kernel),
   legalRing_of (by decide +kernel), by decide +kernel⟩, ⟨legalRing_of (by decide +kernel), not_legalRing_of (by decide +kernel),
   by decide +kernel⟩, ⟨not_legalRing_of (by decide +kernel), not_legalRing_of (by decide +kernel), by decide +kernel⟩, by decide +kernel⟩

theorem witness_RingConfigurationOnlyWhileDisabled :
    (dis.gw.linkUp = true ∧ dis.gw.enable = false) ∧
    (up.gw.linkUp = true ∧ up.gw.enable = true) :=
  ⟨by decide +kernel, by decide +kernel⟩

theorem witness_DoorbellsAndControlBits :
    (up.gw.linkUp = true ∧ 15#32 < up.gw.sqSize) ∧
    (up.gw.linkUp = true ∧ 15#32 < up.gw.cqSize) ∧
    (up.gw.linkUp = true ∧ ¬16#32 < up.gw.sqSize) ∧
    (up.gw.linkUp = true ∧ ¬16#32 < up.gw.cqSize) :=
  ⟨by decide +kernel, by decide +kernel, by decide +kernel, by decide +kernel⟩

theorem witness_DisabledRingsHoldStill :
    (dis.gw.enable = false ∧ dis.log.protWait = []) :=
  by decide +kernel

theorem witness_LinkDownAnswersNoRequest :
    (down.gw.linkUp = false ∧ ((∃ v, Instr.enableWrite true = Instr.enableWrite v) ∨ (∃ v, Instr.enableWrite true = Instr.irqEnWrite v) ∨ (∃ m,
    Instr.enableWrite true = Instr.gwErrClear m) ∨ (∃ v, Instr.enableWrite true = Instr.sqTailWrite v) ∨ (∃ v, Instr.enableWrite true =
    Instr.cqHeadWrite v) ∨ (∃ o w v, Instr.enableWrite true = Instr.ringConfigWrite o w v) ∨ ∃ o v, Instr.enableWrite true =
    Instr.registerWrite o v)) :=
  ⟨by decide +kernel, Or.inl ⟨true, rfl⟩⟩

end Rings

namespace Sessions
open B

def blank : Machine.State := { up with trust := { trust with lifecycle := .blank, ownerKey := 0, policy := 0, domain := 0 }, pins := { up.pins with ownerPresentN := false }, gw := { gw with sessions := [] } }
def blankAbs : Machine.State := { blank with pins := up.pins }
def mk (s : Machine.State) (ids : List (BitVec 3)) : Machine.State := { s with gw := { s.gw with sessions := ids.map (fun i => { ses with sid := i }) } }
def eph : Key := publicKey 3
def sg (s : Machine.State) (owner : Key) : Key := ecdsaSign 1 5 (ascii "ez1 open" ++ (wordBytes owner ++ wordBytes eph) ++ wordBytes (identityFp s))
def fpKey (s : Machine.State) : Key := BitVec.ofNat 768 (ownerFp s).toNat
def trip : Machine.State := { up with trust := { trust with tamperNow := 2 } }
def prov : Machine.State := { blank with gw := { gw with sessions := [{ ses with provisional := true }, {ses2 with provisional := true}] } }
def provN : Machine.State := { prov with gw := { prov.gw with sessions := [{ ses with provisional := true, owner := 5 }] } }
def provAbs : Machine.State := { prov with pins := { up.pins with ownerPresentN := true } }
def pol0 : BitVec 4096 := BitVec.ofNat 4096 (0x594C4F50 + 4 * 2^32)
def pol : BitVec 4096 := BitVec.ofNat 4096 (pol0.toNat + (ecdsaSign 1 7 ((wordBytes pol0).take 416)).toNat * 2^3328)
def pol1 : BitVec 4096 := BitVec.ofNat 4096 (0x594C4F50 + 3 * 2^32)
def polOld : BitVec 4096 := BitVec.ofNat 4096 (pol1.toNat + (ecdsaSign 1 7 ((wordBytes pol1).take 416)).toNat * 2^3328)
def tok (kind : Nat) (s : Machine.State) (exp arg : Nat) (pair : Bool) : BitVec 1536 :=
  let b := 0x4E4B4F54 + kind * 2^32 + (if pair then s.pair.record.primaryFp.toNat * 2^64 + s.pair.record.secondaryFp.toNat * 2^192 else (identityFp s).toNat * 2^64) + (ownerFp s).toNat * 2^320 + exp * 2^448 + arg * 2^512
  BitVec.ofNat 1536 (b + (ecdsaSign 1 9 ((wordBytes (BitVec.ofNat 1536 b)).take 96)).toNat * 2^768)
def v2 := { up with trust := { trust with debug := some (1, 2) } }

theorem witness_ClearReadsAreAnsweredInEveryState :
    (waits reqC up = false ∧ reqC.isSealed = false ∧ (nextAccepted up).all Accepted.formOk = true ∧ 64 + 8192 ≤ reqC.rcap.toNat) ∧
    (waits reqC up = false ∧ reqC.isSealed = false ∧ (nextAccepted up).all Accepted.formOk = true ∧ 128 ≤ reqC.rcap.toNat) ∧
    (waits reqC up = false ∧ reqC.isSealed = false ∧ (nextAccepted up).all Accepted.formOk = true ∧ 64 + 384 ≤ reqC.rcap.toNat) ∧
    (waits reqC up = false ∧ reqC.isSealed = false ∧ (nextAccepted up).all Accepted.formOk = true ∧ 64 + 280 ≤ reqC.rcap.toNat) ∧
    (waits reqC up = false ∧ reqC.isSealed = false ∧ (nextAccepted up).all Accepted.formOk = true ∧ 2 < (3#32).toNat ∧ 128 ≤ reqC.rcap.toNat) ∧
    (waits reqC up = false ∧ reqC.isSealed = false ∧ (nextAccepted up).all Accepted.formOk = true ∧ 64 + 262144 ≤ reqC.rcap.toNat ∧ (0#8).toNat ≤ 1 ∧ ((0#32).toNat = 0 ∨ 4096 < (0#32).toNat)) ∧
    (waits reqC up = false ∧ reqC.isSealed = false ∧ (nextAccepted up).all Accepted.formOk = true ∧ 64 + 262144 ≤ reqC.rcap.toNat ∧ (0#8).toNat ≤ 1 ∧ 1 ≤ (1#32).toNat ∧ (1#32).toNat ≤ 4096) ∧
    (waits reqC up = false ∧ reqC.isSealed = false ∧ (nextAccepted up).all Accepted.formOk = true ∧ 64 + 262144 ≤ reqC.rcap.toNat ∧ 1 < (2#8).toNat) :=
  ⟨by decide +kernel, by decide +kernel, by decide +kernel, by decide +kernel, by decide +kernel, by decide +kernel, by decide +kernel,
   by decide +kernel⟩

theorem witness_AttestSignsTheEvidence :
    (Starts 3 0 reqC true up) :=
  starts_of (by decide +kernel)

theorem witness_OpenSessionOpensOneOfFour :
    (Starts 4 0 reqC true (mk up [1, 3]) ∧ ((mk up [1, 3]).trust.tamperNow &&& 15 = 0 ∧ P384.onCurve eph = true ∧ ((mk up [1,
    3]).trust.lifecycle = Lifecycle.enrolled ∧ gKey = (mk up [1, 3]).trust.ownerKey ∧ BitVec.toNat (fpKey up) = BitVec.toNat (ownerFp (mk up
    [1, 3])) ∨ (mk up [1, 3]).trust.lifecycle ≠ Lifecycle.enrolled ∧ (mk up [1, 3]).pins.ownerPresentN = false ∧ gKey = fpKey up) ∧
    ecdsaVerify gKey (ascii "ez1 open" ++ (wordBytes (fpKey up) ++ wordBytes eph) ++ wordBytes (identityFp (mk up [1, 3]))) (sg up (fpKey up))
    = true ∧ 1 ≤ (2#3).toNat ∧ (2#3).toNat ≤ 4 ∧ session? (mk up [1, 3]) 2#3 = none ∧ (∀ (i : BitVec 3), 1 ≤ i.toNat → i.toNat < (2#3).toNat →
    session? (mk up [1, 3]) i ≠ none))) ∧
    (Starts 4 0 reqC true (mk up [1, 2, 3, 4]) ∧ ((mk up [1, 2, 3, 4]).trust.tamperNow &&& 15 = 0 ∧ P384.onCurve eph = true ∧ ((mk up [1, 2, 3,
    4]).trust.lifecycle = Lifecycle.enrolled ∧ gKey = (mk up [1, 2, 3, 4]).trust.ownerKey ∧ BitVec.toNat (fpKey up) = BitVec.toNat (ownerFp
    (mk up [1, 2, 3, 4])) ∨ (mk up [1, 2, 3, 4]).trust.lifecycle ≠ Lifecycle.enrolled ∧ (mk up [1, 2, 3, 4]).pins.ownerPresentN = false ∧ gKey
    = fpKey up) ∧ ecdsaVerify gKey (ascii "ez1 open" ++ (wordBytes (fpKey up) ++ wordBytes eph) ++ wordBytes (identityFp (mk up [1, 2, 3,
    4]))) (sg up (fpKey up)) = true ∧ (∀ (i : BitVec 3), 1 ≤ i.toNat → i.toNat ≤ 4 → session? (mk up [1, 2, 3, 4]) i ≠ none))) ∧
    (Starts 4 0 reqC true trip ∧ (trip.trust.tamperNow &&& 15 ≠ 0)) ∧
    (Starts 4 0 reqC true blankAbs ∧ (blankAbs.trust.tamperNow &&& 15 = 0 ∧ blankAbs.trust.lifecycle ≠ Lifecycle.enrolled ∧
    blankAbs.pins.ownerPresentN = true)) :=
  ⟨⟨starts_of (by decide +kernel), by decide +kernel⟩, ⟨starts_of (by decide +kernel), by decide +kernel⟩, ⟨starts_of (by decide +kernel),
   by decide +kernel⟩, ⟨starts_of (by decide +kernel), by decide +kernel⟩⟩

theorem witness_ProvisionalSessionsAcceptEnrolOnly :
    (req.isSealed = true ∧ (nextAccepted prov).any Accepted.closed = false ∧ 5 ≠ 16 ∧ 5 ≠ 6 ∧ 64 + replyBound 5 5 ≤ req.rcap.toNat ∧ (session? prov req.sid).any (fun x8 => decide
    (x8.provisional = true)) = true) :=
  by decide +kernel

theorem witness_EnrolBindsTheOwner :
    (Starts 16 0 req true prov ∧ (policyFormOk pol = true ∧ policySigned pol gKey = true ∧ prov.pins.ownerPresentN = false ∧ (session? prov
    req.sid).any (fun x8 => decide (x8.owner = gKey)) = true)) ∧
    (Starts 16 0 req true provN ∧ ((session? provN req.sid).any (fun x8 => decide (x8.owner ≠ gKey)) = true)) ∧
    (Starts 16 0 req true provAbs ∧ (policyFormOk pol = true ∧ policySigned pol gKey = true ∧ provAbs.pins.ownerPresentN = true ∧ (session?
    provAbs req.sid).any (fun x8 => decide (x8.owner = gKey)) = true)) :=
  ⟨⟨starts_of (by decide +kernel), by decide +kernel⟩, ⟨starts_of (by decide +kernel), by decide +kernel⟩, ⟨starts_of (by decide +kernel),
   by decide +kernel⟩⟩

theorem witness_OwnerPresentRiseClosesProvisional :
    (prov.pins.ownerPresentN = false ∧ List.Pairwise (fun a b => a.sid ≠ b.sid) prov.gw.sessions) :=
  by decide +kernel

theorem witness_CloseSessionClosesOneSession :
    (Starts 6 0 req true up ∧ (∀ (e : BitVec 32), up.trust.debug ≠ some (e, if 0#8 = 0 then req.sid else BitVec.setWidth 3 0#8)) ∧ ((0#8).toNat
    ≤ 4 ∧ session? up (if 0#8 = 0 then req.sid else BitVec.setWidth 3 0#8) ≠ none ∧ up.trust.debugWait = none ∧ up.log.markWait = [] ∧
    up.pair.role ≠ .primary)) ∧
    (Starts 6 0 req true v2 ∧ ((2#8).toNat ≤ 4 ∧ session? v2 (if 2#8 = 0 then req.sid else BitVec.setWidth 3 2#8) ≠ none ∧ v2.trust.debugWait = none ∧
    v2.log.markWait = [] ∧ (v2.trust.debug).any
    (fun x8 => decide (v2.trust.debug = some (x8.fst, if 2#8 = 0 then req.sid else BitVec.setWidth 3 2#8))) = true)) :=
  ⟨⟨starts_of (by decide +kernel), (by intro e h; rw [(by decide +kernel : up.trust.debug = none)] at h; cases h), by decide +kernel⟩,
   ⟨starts_of (by decide +kernel), by decide +kernel⟩⟩

theorem witness_RetireErasesTheBinding :
    (Starts 17 0 req (inState up [RunState.ready] && decide (up.pair.role = Role.solo) && maintNone up) up ∧ (tokenCheck 1 false (tok 1 up 0 0
    false) up = none)) :=
  ⟨starts_of (by decide +kernel), by decide +kernel⟩

theorem witness_PolicySetNeedsAHigherVersion :
    (Starts 20 0 req (inState up [RunState.ready]) up ∧ (policyFormOk pol = true ∧ policySigned pol up.trust.ownerKey = true ∧ policyVersion
    up.trust.policy < policyVersion pol)) ∧
    (Starts 20 0 req (inState up [RunState.ready]) up ∧ (policyFormOk polOld = true ∧ policySigned polOld up.trust.ownerKey = true ∧
    policyVersion polOld ≤ policyVersion up.trust.policy)) :=
  ⟨⟨starts_of (by decide +kernel), by decide +kernel⟩, ⟨starts_of (by decide +kernel), by decide +kernel⟩⟩

end Sessions

namespace Debug
open B

def tok (kind : Nat) (s : Machine.State) (exp arg : Nat) (pair : Bool) : BitVec 1536 :=
  let b := 0x4E4B4F54 + kind * 2^32 + (if pair then s.pair.record.primaryFp.toNat * 2^64 + s.pair.record.secondaryFp.toNat * 2^192 else (identityFp s).toNat * 2^64) + (ownerFp s).toNat * 2^320 + exp * 2^448 + arg * 2^512
  BitVec.ofNat 1536 (b + (ecdsaSign 1 9 ((wordBytes (BitVec.ofNat 1536 b)).take 96)).toNat * 2^768)
def prim : Machine.State := { running 0 with pair := { up.pair with role := .primary, record := ⟨3, 11, 12, ownerFp up, true⟩ } }
def dbg : Machine.State := { up with trust := { trust with debug := some (1, 1) } }
def dbgZ : Machine.State := { dbg with power := { dbg.power with state := .doze } }
def dbgP : Machine.State := { prim with trust := { trust with debug := some (1, 1) } }
def dbg2 : Machine.State := { up with trust := { trust with debug := some (100, 1) } }

theorem witness_DebugAccessOpensAndCloses :
    (Starts 112 0 req ((up.trust.debug).isNone && up.trust.debugWait.isNone && policyDebug up.trust.policy) up ∧ (up.pair.role = Role.solo ∧
    tokenCheck 3 false (tok 3 up 3 0 false) up = none)) ∧
    (Starts 112 0 req ((prim.trust.debug).isNone && prim.trust.debugWait.isNone && policyDebug prim.trust.policy) prim ∧ (prim.pair.role =
    Role.primary ∧ tokenCheck 3 true (tok 3 prim 3 0 true) prim = none ∧ (prim.seq.run).isSome = true)) ∧
    (Starts 113 0 req (dbg.trust.debug).isSome dbg ∧ (dbg.pair.role = Role.solo)) ∧
    (dbg.pair.role = Role.solo ∧ (dbg.trust.debug).any (fun x8 => decide (dbg.trust.debug = some (x8.fst, x8.snd) ∧ x8.fst.toNat * 3600 ≤
    dbg.log.opSeconds.toNat)) = true) ∧
    (dbg2.pair.role = Role.solo ∧ (dbg2.trust.debug).any (fun x8 => decide (dbg2.trust.debug = some (x8.fst, x8.snd) ∧ dbg2.log.opSeconds.toNat
    < x8.fst.toNat * 3600)) = true) :=
  ⟨⟨starts_of (by decide +kernel), by decide +kernel⟩, ⟨starts_of (by decide +kernel), by decide +kernel⟩, ⟨starts_of (by decide +kernel),
   by decide +kernel⟩, by decide +kernel, by decide +kernel⟩

theorem witness_DebugReadOnlyReads :
    (Starts 114 0 req (dbg.trust.debug).isSome dbg ∧ (dbg.gw.runstate ≠ .running ∧ dbg.power.state ≠ .doze ∧ (0#8).toNat < 64 ∧ (0#8).toNat < 144 ∧
    (0#8).toNat ≤ 1 ∧ (3#32).toNat ≤ 65536 ∧ (3#32).toNat + (3#32).toNat ≤ 24576 ∧ (3#32).toNat + (3#32).toNat ≤ 65536 ∧
    (3#32).toNat + (3#32).toNat ≤ 2 ^ 32)) ∧
    (Starts 114 0 req (dbgZ.trust.debug).isSome dbgZ ∧ dbgZ.gw.runstate ≠ .running ∧ dbgZ.power.state = .doze) ∧
    (Starts 114 0 req (dbgP.trust.debug).isSome dbgP ∧ inPair dbgP = true ∧ (0#8).toNat ≤ 2 ∧ 64 ≤ (127#8).toNat ∧ (127#8).toNat < 128 ∧
    (3#32).toNat + (3#32).toNat ≤ 24576) ∧
    (Starts 114 0 req (dbg.trust.debug).isSome dbg ∧ ((2 < (0#8).toNat ∨ (if inPair dbg = true then 128 else 64) ≤ (0#8).toNat ∨ 144 ≤
    (0#8).toNat ∨ 1 < (0#8).toNat ∨ 65536 < (65537#32).toNat))) :=
  ⟨⟨starts_of (by decide +kernel), by decide +kernel⟩, ⟨starts_of (by decide +kernel), by decide +kernel⟩, ⟨starts_of (by decide +kernel),
   by decide +kernel⟩, ⟨starts_of (by decide +kernel), by decide +kernel⟩⟩

theorem witness_ReadStateReturnsTheUnits :
    (Starts 8 0 req (inState (B.running 0) [RunState.job, RunState.running, RunState.halted]) (B.running 0) ∧ ((0#8 ≠ 1 ∧ 0#8 ≠ 7 ∨
    (0#32).toNat + (0#32).toNat ≤ 64) ∧ (selection (B.running 0) (0#8).toNat).any (fun x8 => decide (selection (B.running 0) (0#8).toNat =
    some (x8.fst, x8.snd) ∧ (0#32).toNat + (0#32).toNat ≤ x8.fst)) = true)) ∧
    (Starts 8 0 req (inState (B.running 0) [RunState.job, RunState.running, RunState.halted]) (B.running 0) ∧ ((selection (B.running 0)
    (0#8).toNat).any (fun x8 => decide (selection (B.running 0) (0#8).toNat = some (x8.fst, x8.snd) ∧ x8.fst < (0#32).toNat + (300#32).toNat))
    = true)) ∧
    (Starts 8 0 req (inState (B.running 0) [RunState.job, RunState.running, RunState.halted]) (B.running 0) ∧ (8 < (9#8).toNat)) ∧
    (Starts 8 0 req (inState prim [RunState.job, RunState.running, RunState.halted]) prim ∧ ((selection prim 7).any (fun x => decide
    ((60#32).toNat + (9#32).toNat ≤ x.1)) = true ∧ 64 < (60#32).toNat + (9#32).toNat)) :=
  ⟨⟨starts_of (by decide +kernel), by decide +kernel⟩, ⟨starts_of (by decide +kernel), by decide +kernel⟩, ⟨starts_of (by decide +kernel),
   by decide +kernel⟩, ⟨starts_of (by decide +kernel), by decide +kernel⟩⟩

theorem witness_WindowRegRegistersOneWindow :
    (Starts 59 0 req (inState up [RunState.ready, RunState.job, RunState.halted] && !(windowsInUse up).any fun w => decide (w.toNat =
    (1#32).toNat)) up ∧ ((1#32).toNat ≤ 255 ∧ 4096 ∣ (0#64).toNat ∧ 0 ≠ (1#32).toNat)) ∧
    (Starts 59 0 req (inState up [RunState.ready, RunState.job, RunState.halted] && !(windowsInUse up).any fun w => decide (w.toNat =
    (1#32).toNat)) up ∧ ((1#32).toNat ≤ 255 ∧ 4096 ∣ (0#64).toNat ∧ 0#64 = 0)) ∧
    (Starts 59 0 req (inState up [RunState.ready, RunState.job, RunState.halted] && !(windowsInUse up).any fun w => decide (w.toNat =
    (1#32).toNat)) up ∧ ((1#32).toNat ≤ 255 ∧ 4096 ∣ (0#64).toNat ∧ 4096#64 ≠ 0)) ∧
    (Starts 59 0 req (inState up [RunState.ready, RunState.job, RunState.halted] && !(windowsInUse up).any fun w => decide (w.toNat =
    (1#32).toNat)) up ∧ ((1#32).toNat ≤ 255 ∧ ¬4096 ∣ (4097#64).toNat)) ∧
    (Starts 59 0 req (inState up [RunState.ready, RunState.job, RunState.halted] && !(windowsInUse up).any fun w => decide (w.toNat =
    (256#32).toNat)) up ∧ (255 < (256#32).toNat)) :=
  ⟨⟨starts_of (by decide +kernel), by decide +kernel⟩, ⟨starts_of (by decide +kernel), by decide +kernel⟩, ⟨starts_of (by decide +kernel),
   by decide +kernel⟩, ⟨starts_of (by decide +kernel), by decide +kernel⟩, ⟨starts_of (by decide +kernel), by decide +kernel⟩⟩

end Debug

namespace Recorder
open B

def tok (kind : Nat) (s : Machine.State) (exp arg : Nat) (pair : Bool) : BitVec 1536 :=
  let b := 0x4E4B4F54 + kind * 2^32 + (if pair then s.pair.record.primaryFp.toNat * 2^64 + s.pair.record.secondaryFp.toNat * 2^192 else (identityFp s).toNat * 2^64) + (ownerFp s).toNat * 2^320 + exp * 2^448 + arg * 2^512
  BitVec.ofNat 1536 (b + (ecdsaSign 1 9 ((wordBytes (BitVec.ofNat 1536 b)).take 96)).toNat * 2^768)
def fullQ : Machine.State := { up with log := { log with queue := List.replicate 241 (mkRec 0 Code.logMark), nextSeq := 9 } }
def markw : Machine.State := { up with log := { log with markWait := [(req, 1#64, 1#192), (req2, 3, 4)] } }
def q2 : Machine.State := { up with log := { log with queue := [mkRec 0 Code.cleared, mkRec 0 Code.logMark] } }
def q3 : Machine.State := { up with log := { log with queue := [mkRec 0 Code.railFault, mkRec 0 Code.logMark] }, pair := { up.pair with role := .primary } }
def sbe : Machine.State := { up with log := { log with sbArea := false, sbPtr := 20 } }

theorem witness_LogMarkIsNeverLost :
    (Starts 18 0 req true up ∧ (up.log.loss = 0 ∧ up.log.ordinary < 240)) ∧
    (Starts 18 0 req true fullQ ∧ (fullQ.log.loss = 0 ∧ 240 ≤ fullQ.log.ordinary)) ∧
    (markw.log.loss = 0 ∧ markw.pins.aux = true ∧ markw.log.markWait = (req, 1#64, 1#192) :: markw.log.markWait.tail ∧ markw.log.ordinary < 240) :=
  ⟨⟨starts_of (by decide +kernel), by decide +kernel⟩, ⟨starts_of (by decide +kernel), by decide +kernel⟩, by decide +kernel⟩

theorem witness_LogClearRemovesTheRingBelowUpto :
    (Starts 19 0 req (inState up [RunState.ready, RunState.job]) up ∧ (tokenCheck 2 false (tok 2 up 0 2 false) up = none)) :=
  ⟨starts_of (by decide +kernel), by decide +kernel⟩

theorem witness_RecordWriteTakesTheNextSequence :
    (q2.pins.aux = true ∧ (q2.log.queue).head?.any (fun x8 => decide (q2.log.queue = x8 :: q2.log.queue.tail ∧ x8.isProt = true)) = true) ∧
    (q2.pins.aux = true ∧ q2.log.loss = 0 ∧ q2.log.protWait = [] ∧ (q2.log.queue).head?.any (fun x8 => decide (q2.log.queue = x8 ::
    q2.log.queue.tail)) = true) ∧
    (q2.pins.aux = true ∧ q2.pair.role ≠ Role.primary ∧ (q2.log.queue).head?.any (fun x8 => decide (q2.log.queue = x8 :: q2.log.queue.tail)) =
    true) ∧
    (q3.pins.aux = true ∧ (q3.log.queue).head?.any (fun x8 => decide (q3.log.queue = x8 :: q3.log.queue.tail ∧ x8.isProt = false)) = true) :=
  ⟨by decide +kernel, by decide +kernel, by decide +kernel, by decide +kernel⟩

theorem witness_SidebandReadsTheLog :
    (up.pins.aux = true ∧ (0#8).toNat ≤ 1) ∧
    (up.pins.aux = true ∧ (List.filter (fun r => decide (up.log.sbPtr.toNat ≤ r.seq.toNat)) (if up.log.sbArea = true then up.log.prot else
    up.log.ring)).head?.any (fun x8 => decide (List.filter (fun r => decide (up.log.sbPtr.toNat ≤ r.seq.toNat)) (if up.log.sbArea = true then
    up.log.prot else up.log.ring) = x8 :: (List.filter (fun r => decide (up.log.sbPtr.toNat ≤ r.seq.toNat)) (if up.log.sbArea = true then
    up.log.prot else up.log.ring)).tail)) = true) ∧
    (up.pins.aux = true) ∧
    ((up.pins.aux = false ∨ 1 < (2#8).toNat)) ∧
    (sbe.pins.aux = true ∧ List.filter (fun r => decide (sbe.log.sbPtr.toNat ≤ r.seq.toNat)) (if sbe.log.sbArea = true then sbe.log.prot else
    sbe.log.ring) = []) :=
  ⟨by decide +kernel, by decide +kernel, by decide +kernel, by decide +kernel, by decide +kernel⟩

theorem witness_SidebandThermalCommands :
    (up.pins.aux = true ∧ ((479#16).toNat < 30 * 16 ∨ 60 * 16 < (479#16).toNat ∨ (9#8).toNat < 10 ∨ 100 < (9#8).toNat)) ∧
    (up.pins.aux = true ∧ 30 * 16 ≤ (480#16).toNat ∧ (480#16).toNat ≤ 60 * 16 ∧ 10 ≤ (10#8).toNat ∧ (10#8).toNat ≤ 100) :=
  ⟨by decide +kernel, by decide +kernel⟩

theorem witness_OperatingCounters :
    (up.pins.aux = true) :=
  by decide +kernel

end Recorder

namespace Supply
open B

def aux0 : Machine.State := { up with pins := { up.pins with aux := false } }
def aux0b : Machine.State := { aux0 with trust := { trust with lifecycle := .blank } }
def rails0 : Machine.State := { up with pins := { up.pins with mainEn := false }, power := { up.power with rails := false, state := .standby, startup := 1 } }
def rails0n : Machine.State := { rails0 with power := { rails0.power with auxReady := false } }
def rails0l : Machine.State := { rails0 with power := { rails0.power with lockout := .untilDeassert } }
def heldM : Machine.State := { rails0n with pins := up.pins, power := { rails0n.power with mainHold := true } }
def pnr : Machine.State := { up with power := { up.power with rails := false } }
def strt : Machine.State := { up with power := { up.power with startup := 3 } }
def ldn : Machine.State := { up with gw := { gw with linkUp := false } }
def warm : Machine.State := { running 0 with gw := { (running 0).gw with warmPending := true, linkUp := false }, trust := { trust with debug := some (100,1) } }
def st (n : Nat) (s : Machine.State) : Machine.State := { s with power := { s.power with startup := n }, gw := { s.gw with runstate := .starting } }

theorem witness_AuxGoodBootsTheIsland :
    (aux0.pins.aux = false ∧ aux0.trust.lifecycle = Lifecycle.enrolled) ∧
    (aux0.pins.aux = false) ∧
    (aux0b.pins.aux = false ∧ aux0b.trust.lifecycle ≠ Lifecycle.enrolled) :=
  ⟨by decide +kernel, by decide +kernel, by decide +kernel⟩

theorem witness_AuxLostKeepsOnlyTheIsland :
    (up.pins.aux = true ∧ up.power.rails = true) ∧ (pnr.pins.aux = true ∧ pnr.power.rails = false) :=
  by decide +kernel

theorem witness_MainEnBringsRailsUpAndDown :
    (rails0.pins.aux = true ∧ rails0.pins.mainEn = false ∧ rails0.power.auxReady = true ∧ rails0.power.lockout = Lockout.none ∧
    rails0.power.rails = false) ∧
    (rails0n.pins.aux = true ∧ rails0n.pins.mainEn = false ∧ rails0n.power.auxReady = false ∧ rails0n.power.lockout = Lockout.none) ∧
    (rails0n.pins.aux = true ∧ rails0n.power.auxReady = false ∧ rails0n.power.mainHold = false) ∧
    (rails0l.pins.aux = true ∧ rails0l.pins.mainEn = false ∧ rails0l.power.lockout ≠ Lockout.none) ∧
    (heldM.pins.aux = true ∧ heldM.power.auxReady = false ∧ heldM.power.mainHold = true ∧ heldM.pins.mainEn = true ∧ heldM.power.lockout =
    Lockout.none ∧ heldM.power.rails = false) ∧
    (up.pins.aux = true ∧ up.pins.mainEn = true ∧ up.power.rails = true) :=
  ⟨by decide +kernel, by decide +kernel, by decide +kernel, by decide +kernel, by decide +kernel, by decide +kernel⟩

theorem witness_SupplyFaultsRunTheEmergencyDown :
    (up.pins.aux = true ∧ up.power.rails = true ∧ (35999 < 36000 ∨ 55000 < 35999)) ∧
    (up.pins.aux = true ∧ up.power.rails = true ∧ 38000 ≤ 50000 ∧ 50000 ≤ 50000) :=
  ⟨by decide +kernel, by decide +kernel⟩

theorem witness_PllLossFencesTheRegion :
    (up.regions.length = 64 ∧ up.pair.role = Role.solo ∧ up.seq.run = none ∧ (region up 0).clock = RegionClock.ready ∧ (region up 0).inService
    = true ∧ 1 ≠ 0) :=
  by decide +kernel

theorem witness_PcieLinkGoesDownAndUp :
    (up.pins.pcieRef = true) ∧
    (ldn.power.rails = true ∧ ldn.gw.linkUp = false) :=
  ⟨by decide +kernel, by decide +kernel⟩

theorem witness_PerstResetsByTheFullStrap :
    (up.pins.perstN = true ∧ up.power.rails = true ∧ up.power.startup = 6) ∧
    (up.pins.perstN = true ∧ up.power.rails = true) ∧
    (pnr.pins.perstN = true ∧ pnr.power.rails = false) ∧
    (strt.pins.perstN = true ∧ strt.power.rails = true ∧ strt.power.startup ≠ 6) :=
  ⟨by decide +kernel, by decide +kernel, by decide +kernel, by decide +kernel⟩

theorem witness_WarmResetKeepsTiersSlotsAndJob :
    (warm.gw.warmPending = true ∧ warm.power.rails = true ∧ warm.pair.role = Role.solo ∧ warm.gw.loadA = none ∧ warm.gw.loadB = none ∧
    warm.gw.lowering = none ∧ warm.gw.join = none ∧ warm.gw.seals = none ∧ warm.gw.image = none ∧ warm.gw.linkUp = false) :=
  by decide +kernel

theorem witness_StartUpStepsEnd :
    ((st 7 up).power.startup = 7) ∧
    ((st 2 up).power.startup = 2) :=
  ⟨by decide +kernel, by decide +kernel⟩

theorem witness_SelftestPutsRegionsInService :
    ((st 3 up).power.startup = 3 ∧ (st 3 up).regions.length = 64 ∧ ¬0 ∈ []) ∧
    ((st 3 up).power.startup = 3 ∧ (st 3 up).regions.length = 64 ∧ 1 ∈ [1, 3]) :=
  ⟨by decide +kernel, by decide +kernel⟩

end Supply

namespace Thermal
open B

def slp (s : Machine.State) : Machine.State := { s with power := { s.power with state := .sleep }, regions := List.replicate 64 { regionUp with clock := .gated } }
def wakeReq (s : Machine.State) : Machine.State := { s with power := { s.power with wakeReq := true }, gw := { s.gw with powerCmd := some (req2, 0) } }
def doz (s : Machine.State) : Machine.State := { s with power := { s.power with state := .doze }, regions := List.replicate 64 { regionUp with clock := .gated } }
def trp (s : Machine.State) : Machine.State := { s with thermal := { s.thermal with tripped := true } }
def temps (t : Int) : List Int := (List.range 64).map (fun (k : Nat) => if k = 5 then t else (400 + (k : Int)))
def ob (n m : Int) : Machine.State := { up with thermal := { up.thermal with outlet := n, integ := m } }
def aux0 : Machine.State := { up with pins := { up.pins with aux := false } }
def reading (b : Bool) : Sys2Proof.CoolantReading := { inlet := 20, outlet := 700, sensorBad := b }
def cr3 (tp : Int) (g : Bool) : Machine.State := { up with thermal := { up.thermal with granted := g, inlet := 640, flow := 1000, tp := tp } }

theorem witness_SleepAndWake :
    (Starts 96 0 req (powerAccepts 2 up) up ∧ (up.pair.role = Role.solo ∧ (0#8).toNat ≤ 1 ∧ up.seq.run = none)) ∧
    (Starts 96 0 req (powerAccepts 1 up) up ∧ (up.pair.role = Role.solo ∧ (0#8).toNat ≤ 1 ∧ retesting up = false ∧ up.power.state ≠ PowerState.sleep)) ∧
    (Starts 96 0 req (powerAccepts 1 (slp up)) (slp up) ∧ ((slp up).pair.role = Role.solo ∧ (0#8).toNat ≤ 1 ∧ (slp up).power.state =
    PowerState.sleep)) ∧
    (up.pair.role = Role.solo ∧ up.gw.runstate = RunState.ready ∧ (up.power.state = PowerState.doze ∨ up.power.state = PowerState.run) ∧
    up.gw.seals = none ∧ up.gw.powerCmd = none) ∧
    (Starts 96 0 req (powerAccepts 2 (B.running 0)) (B.running 0) ∧ ((B.running 0).pair.role = Role.solo ∧ (0#8).toNat ≤ 1 ∧ ((B.running
    0).seq.run).any (fun x8 => decide (x8.asleep = false)) = true)) ∧
    (Starts 96 0 req (powerAccepts 0 (slp up)) (slp up) ∧ ((slp up).pair.role = Role.solo ∧ (0#8).toNat ≤ 1 ∧ (slp up).power.state =
    PowerState.sleep)) ∧
    ((wakeReq (slp up)).pair.role = Role.solo ∧ (wakeReq (slp up)).power.state = PowerState.sleep ∧ (wakeReq (slp up)).power.wakeReq = true) ∧
    (Starts 96 0 req (powerAccepts 0 (doz up)) (doz up) ∧ ((doz up).pair.role = Role.solo ∧ (0#8).toNat ≤ 1 ∧ (doz up).power.state =
    PowerState.doze)) :=
  ⟨⟨starts_of (by decide +kernel), by decide +kernel⟩, ⟨starts_of (by decide +kernel), by decide +kernel⟩, ⟨starts_of (by decide +kernel), by decide +kernel⟩, by decide +kernel, ⟨starts_of
   (by decide +kernel), by decide +kernel⟩, ⟨starts_of (by decide +kernel), by decide +kernel⟩, by decide +kernel, ⟨starts_of
   (by decide +kernel), by decide +kernel⟩⟩

theorem witness_ResetWarmOrOneRegion :
    (Starts 97 0 req (resetAccepts 0 0 up) up ∧ (up.pair.role = Role.solo)) ∧
    (Starts 97 0 req (resetAccepts 1 (0#8).toNat up) up ∧ (up.pair.role = Role.solo ∧ (0#8).toNat < 64 ∧ up.regions.length = 64 ∧ 1 ≠
    (0#8).toNat)) ∧
    (Starts 97 0 req (resetAccepts (2#8).toNat (0#8).toNat up) up ∧ (up.pair.role = Role.solo ∧ 1 < (2#8).toNat)) :=
  ⟨⟨starts_of (by decide +kernel), by decide +kernel⟩, ⟨starts_of (by decide +kernel), by decide +kernel⟩, ⟨starts_of (by decide +kernel),
   by decide +kernel⟩⟩

theorem witness_TemperatureLimits :
    (up.power.rails = true ∧ (temps 300).length = 64 ∧ up.regions.length = 64 ∧ (List.foldl max 300 (temps 300) < 2000 ∨ up.thermal.tripped =
    false) ∧ 0 < 64) ∧
    (up.power.rails = true ∧ (temps 300).length = 64 ∧ up.regions.length = 64 ∧ up.thermal.tripped = false ∧ List.foldl max 300 (temps 300) <
    1600) ∧
    (up.power.rails = true ∧ (temps 300).length = 64 ∧ up.regions.length = 64 ∧ up.thermal.tripped = false ∧ 1680 ≤ List.foldl max 1700 (temps
    300) ∧ List.foldl max 1700 (temps 300) < 1840) ∧
    (up.power.rails = true ∧ (temps 1840).length = 64 ∧ up.regions.length = 64 ∧ up.thermal.tripped = false ∧ 1840 ≤ List.foldl max 300 (temps
    1840)) ∧
    ((trp up).power.rails = true ∧ (temps 2000).length = 64 ∧ (trp up).regions.length = 64 ∧ (trp up).thermal.tripped = true ∧ 2000 ≤
    List.foldl max 300 (temps 2000)) :=
  ⟨by decide +kernel, by decide +kernel, by decide +kernel, by decide +kernel, by decide +kernel⟩

theorem witness_PowerCapStepsClocks :
    (up.power.rails = true ∧ up.power.state = PowerState.run ∧ boostNow up = false ∧ 1450 ≤ (after (.powerCapTick 1450) up).thermal.capW ∧
    (after (.powerCapTick 1450) up).thermal.capW * 95 < 1450 * 100) ∧
    (up.power.rails = true ∧ up.power.state = PowerState.run ∧ boostNow up = false ∧ (after (.powerCapTick 1501) up).thermal.capW < 1501) :=
  ⟨by decide +kernel, by decide +kernel⟩

theorem witness_ThermalCreditHysteresis :
    (up.power.rails = true ∧ (after (.thermalCreditUpdate 1400) up).thermal.creditMs = none) ∧
    ((cr3 50000000 true).power.rails = true ∧ ((after (.thermalCreditUpdate 1400) (cr3 50000000 true)).thermal.creditMs).any (fun x8 => decide
    (2000 ≤ x8)) = true) ∧
    ((cr3 57000000 true).power.rails = true ∧ ((after (.thermalCreditUpdate 1400) (cr3 57000000 true)).thermal.creditMs).any (fun x8 => decide
    (500 ≤ x8 ∧ x8 < 2000)) = true) ∧
    ((cr3 58000000 true).power.rails = true ∧ ((after (.thermalCreditUpdate 1400) (cr3 58000000 true)).thermal.creditMs).any (fun x8 => decide
    (x8 < 500)) = true) :=
  ⟨by decide +kernel, by decide +kernel, by decide +kernel, by decide +kernel⟩

theorem witness_ValveDutyStaysInRange :
    ((trp up).thermal.loopOn = true ∧ (trp up).power.state ≠ PowerState.standby ∧ dutyForced (trp up) = true) ∧
    ((ob 1500 31000).thermal.loopOn = true ∧ (ob 1500 31000).power.state ≠ PowerState.standby ∧ dutyForced (ob 1500 31000) = false ∧ (ob 1500
    31000).thermal.dutyMin.toNat ≤ 100 ∧ 32000 < 81 * ((ob 1500 31000).thermal.outlet - ↑(ob 1500 31000).thermal.outletTarget.toNat) + (ob
    1500 31000).thermal.integ) :=
  ⟨by decide +kernel, by decide +kernel⟩

theorem witness_CoolantReadings :
    (up.pins.aux = true ∧ (reading true).sensorBad = true) ∧
    (up.pins.aux = true ∧ 1920 < ({ reading false with outlet := 1921 } : Sys2Proof.CoolantReading).outlet) :=
  by decide +kernel

/-- R377: between 17 °C and 20 °C a region that was stepping down goes on down, and one that was not goes up again; R387: a reading above
120 °C is a failed sensor. -/
theorem test_throttle_eases_down_to_17 :
    (region (after (.temperatureSample (temps 705) 300) { up with regions := List.replicate 64 { regionUp with throttled := true, easing := true } })
      5).clkStep = 16 ∧
    (region (after (.temperatureSample (temps 705) 300) { up with regions := List.replicate 64 { regionUp with throttled := true, clkStep := 10 } })
      5).clkStep = 11 ∧
    (after (.coolantConditionTest { reading false with outlet := 1921 }) up).thermal.duty = 1000 := by decide +kernel

theorem witness_TamperErasesEverything :
    (1#8 ≠ 0 ∧ up.pins.aux = true) ∧
    (1#8 ≠ 0 ∧ aux0.pins.aux = false) ∧
    (1#8 ≠ 0 ∧ req2 ∈ running (wakeReq up) ∧ req2.isSealed = true) :=
  ⟨by decide +kernel, by decide +kernel, by decide +kernel⟩

theorem witness_CellLowOncePerCrossing :
    (up.pins.aux = true ∧ (2599#16).toNat < 2600 ∧ up.trust.cellLow = false) ∧
    (up.pins.aux = true ∧ (2600 ≤ (2600#16).toNat ∨ up.trust.cellLow = true)) :=
  ⟨by decide +kernel, by decide +kernel⟩

end Thermal

namespace Queues
open B

def hostPut (s : Machine.State) (a : Nat) (bs : List Sys2Proof.Byte) : Machine.State := { s with mem := { s.mem with host := mwrite s.mem.host a bs } }
def idPkt : List Sys2Proof.Byte := packetHead false 0 1 32 0
def entry (tag addr len rcap : Nat) : List Sys2Proof.Byte := leBytes 64 (tag + len * 2^32 + addr * 2^64 + 0x9000 * 2^128 + rcap * 2^192)
def f1 : Machine.State := hostPut (hostPut up (0x1000 + 64) (entry 5 0x5000 32 0x100000)) 0x5000 idPkt
def f2 : Machine.State := hostPut up (0x1000 + 64) (entry 0xFFFF 0x5000 32 0x100000)
def p1 : Machine.State := up
def p2 : Machine.State := { up with gw := { gw with cqHead := 6, cqTail := 5 } }

theorem witness_OtherRegistersIgnoreWrites :
    (up.gw.linkUp = true ∧ (0#16).toNat ∉ [0x0C, 0x10, 0x20, 0x24, 0x28, 0x2C, 0x40, 0x44, 0x48, 0x4C] ∧
      ((0#16).toNat < 4096 ∨ 4128 ≤ (0#16).toNat)) ∧
    (up.gw.linkUp = true ∧ (0x50 ≤ (0x50#16).toNat ∧ (0x50#16).toNat < 0x1000 ∨ 0x1020 ≤ (0x50#16).toNat)) ∧
    (up.gw.linkUp = true ∧ (2#16).toNat % 4 ≠ 0) ∧
    (up.gw.linkUp = true ∧ 4096 ≤ (4096#16).toNat ∧ (4096#16).toNat < 4128 ∧ (4096#16).toNat % 8 = 0 ∧
      (4104 < (4096#16).toNat ∨ (4096#16).toNat + 8 ≤ 4104)) ∧
    (up.gw.linkUp = true ∧ 4096 ≤ (4100#16).toNat ∧ (4100#16).toNat < 4128 ∧ (4100#16).toNat % 4 = 0) :=
  ⟨by decide +kernel, by decide +kernel, by decide +kernel, by decide +kernel, by decide +kernel⟩

theorem witness_RegisterReadsShowTheirRegisters :
    (Rings.down.gw.linkUp = false) ∧ (up.gw.linkUp = true ∧ 0x54 ≤ 0xFFC ∧ 0xFFC < 0x1000 ∧ 0x1020 ≤ 0x1020) :=
  ⟨by decide +kernel, by decide +kernel⟩

theorem witness_SubmissionFetchChecksTheEntry :
    (f1.gw.linkUp = true ∧ f1.gw.enable = true ∧ f1.gw.sqHead ≠ f1.gw.sqTail ∧ f1.gw.outstanding < 256 ∧ BitVec.ofNat 16 (fld (ofLe (readMem f1
    3 (f1.gw.sqBase.toNat + 64 * f1.gw.sqHead.toNat) 64)) 0 16) ≠ 65535 ∧ fld (ofLe (readMem f1 3 (f1.gw.sqBase.toNat + 64 *
    f1.gw.sqHead.toNat) 64)) 16 16 = 0 ∧ fld (ofLe (readMem f1 3 (f1.gw.sqBase.toNat + 64 * f1.gw.sqHead.toNat) 64)) 224 288 = 0 ∧ headOk
    (readMem f1 3 (fld (ofLe (readMem f1 3 (f1.gw.sqBase.toNat + 64 * f1.gw.sqHead.toNat) 64)) 64 64) 32) (fld (ofLe (readMem f1 3
    (f1.gw.sqBase.toNat + 64 * f1.gw.sqHead.toNat) 64)) 32 32) = true ∧ fld (ofLe (readMem f1 3 (fld (ofLe (readMem f1 3 (f1.gw.sqBase.toNat +
    64 * f1.gw.sqHead.toNat) 64)) 64 64) 32)) 32 2 = 0 ∧ 1 ≤ fld (ofLe (readMem f1 3 (fld (ofLe (readMem f1 3 (f1.gw.sqBase.toNat + 64 *
    f1.gw.sqHead.toNat) 64)) 64 64) 32)) 48 8 ∧ fld (ofLe (readMem f1 3 (fld (ofLe (readMem f1 3 (f1.gw.sqBase.toNat + 64 *
    f1.gw.sqHead.toNat) 64)) 64 64) 32)) 48 8 ≤ 5 ∧ 64 + replyBound (fld (ofLe (readMem f1 3 (fld (ofLe (readMem f1 3 (f1.gw.sqBase.toNat + 64
    * f1.gw.sqHead.toNat) 64)) 64 64) 32)) 48 8) (ofLe (List.take 1 (readMem f1 3 (fld (ofLe (readMem f1 3 (f1.gw.sqBase.toNat + 64 *
    f1.gw.sqHead.toNat) 64)) 64 64 + 32) (fld (ofLe (readMem f1 3 (fld (ofLe (readMem f1 3 (f1.gw.sqBase.toNat + 64 * f1.gw.sqHead.toNat) 64))
    64 64) 32)) 64 32 - 32)))) ≤ (BitVec.ofNat 32 (fld (ofLe (readMem f1 3 (f1.gw.sqBase.toNat + 64 * f1.gw.sqHead.toNat) 64)) 192 32)).toNat) ∧
    (f2.gw.linkUp = true ∧ f2.gw.enable = true ∧ f2.gw.sqHead ≠ f2.gw.sqTail ∧ f2.gw.outstanding < 256 ∧ (BitVec.ofNat 16 (fld (ofLe (readMem
    f2 3 (f2.gw.sqBase.toNat + 64 * f2.gw.sqHead.toNat) 64)) 0 16) = 65535 ∨ fld (ofLe (readMem f2 3 (f2.gw.sqBase.toNat + 64 *
    f2.gw.sqHead.toNat) 64)) 16 16 ≠ 0 ∨ fld (ofLe (readMem f2 3 (f2.gw.sqBase.toNat + 64 * f2.gw.sqHead.toNat) 64)) 224 288 ≠ 0)) :=
  ⟨by decide +kernel, by decide +kernel⟩

theorem witness_CompletionPostWritesReplyThenEntry :
    ((if shortRuns p1 then p1 else passRefused p1).gw = p1.gw ∧ p1.gw.linkUp = true ∧ p1.gw.enable = true ∧ p1.log.protWait = [] ∧ cqRoom p1 = true ∧ p1.pair.role ≠ Role.secondary ∧
    (p1.gw.held).head?.any (fun x8 => decide (p1.gw.held = x8 :: p1.gw.held.tail ∧ x8.kind = 0 ∧ x8.reply ≠ [])) = true) ∧
    ((if shortRuns p2 then p2 else passRefused p2).gw = p2.gw ∧ p2.gw.linkUp = true ∧ p2.gw.enable = true ∧ p2.log.protWait = [] ∧ cqRoom p2 = false ∧ (p2.gw.held).head?.any (fun x8 => decide
    (p2.gw.held = x8 :: p2.gw.held.tail)) = true) :=
  ⟨by decide +kernel, by decide +kernel⟩

end Queues

namespace Links
open B

/-! Lengths of what AES-256-GCM makes under nonces that the spec leaves open -/

theorem rounds_length (n : Nat) : ∀ s ks : List Sys2Proof.Byte, (Aes.rounds n s ks).length = min 16 (ks.drop (16 * n)).length := by
  induction n with
  | zero => intro s ks; simp [Aes.rounds, xorBytes, Aes.shiftRows]
  | succ n ih => intro s ks; rw [Aes.rounds, ih, List.drop_drop]; congr 3; omega

theorem stream_one_length {ks : List Sys2Proof.Byte} (nonce : List Sys2Proof.Byte) (c : Nat) (h : ks.length = 240) :
    (Gcm.stream ks nonce 1 c).length = 16 := by
  simp [Gcm.stream, Aes.cipher, rounds_length, h]

theorem tag_ne_nil {ks : List Sys2Proof.Byte} (nonce aad ct : List Sys2Proof.Byte) (h : ks.length = 240) : Gcm.tag ks nonce aad ct ≠ [] := by
  intro e
  have := congrArg List.length e
  simp [Gcm.tag, xorBytes, Gcm.ofNat, stream_one_length nonce 1 h] at this
  revert this
  simp [leBytes]

theorem xor_xor : ∀ a b : List Sys2Proof.Byte, a.length ≤ b.length → xorBytes (xorBytes a b) b = a
  | [], _, _ => by simp [xorBytes]
  | x :: a, [], h => by simp at h
  | x :: a, y :: b, h => by
    have := xor_xor a b (by simpa using h)
    simp only [xorBytes, List.zipWith_cons_cons] at this ⊢
    rw [this, BitVec.xor_assoc, BitVec.xor_self, BitVec.xor_zero]

/-- What is sealed under a key opens under it. -/
theorem gcm_opens {key : BitVec 256} (nonce aad pt : List Sys2Proof.Byte) (hk : (Aes.roundKeys 8 (wordBytes key)).length = 240)
    (hp : pt.length = 16) : (gcmSeal key nonce aad pt).1.length = 16 ∧
      gcmOpen key nonce aad (gcmSeal key nonce aad pt).1 (gcmSeal key nonce aad pt).2 = some pt := by
  have hs := stream_one_length nonce 2 hk
  have hc : (gcmSeal key nonce aad pt).1.length = 16 := by simp [gcmSeal, xorBytes, hp, ceilDiv, hs]
  refine ⟨hc, ?_⟩
  unfold gcmOpen
  rw [hc]
  simp only [gcmSeal, if_true, hp]
  rw [xor_xor _ _ (by simp [ceilDiv, hs, hp])]

/-- What the peer sends under the key this end receives with opens here. -/
theorem confirm_opens {s : Machine.State} {n : Nat} (hk : (Aes.roundKeys 8 (wordBytes (port s n).rxKey)).length = 240)
    (ht : (confirmText s n).length = 16) : ∃ c, confirmOk s n c = true := by
  obtain ⟨h, e⟩ := gcm_opens Config.confirmNonce [] (confirmText s n) hk ht
  refine ⟨(gcmSeal (port s n).rxKey Config.confirmNonce [] (confirmText s n)).1 ++
    (gcmSeal (port s n).rxKey Config.confirmNonce [] (confirmText s n)).2, ?_⟩
  rw [confirmOk, List.take_left' h, List.drop_left' h, e, decide_eq_true_eq]

theorem confirm_empty {s : Machine.State} {n : Nat} (hk : (Aes.roundKeys 8 (wordBytes (port s n).rxKey)).length = 240) :
    confirmOk s n [] = false := by
  simp [confirmOk, gcmOpen, tag_ne_nil _ _ _ hk]

/-- No flits were given: the message stands alone. -/
theorem taken_none {p n : Nat} {fits : RxMsg → Bool} {s : Machine.State} (h : (port s p).state = .active ∧ (port s p).rxMsgs = []) :
    Taken p n fits s [] s := ⟨h.1, .inl ⟨h.2, rfl, rfl⟩⟩

/-- The message was brought by FLIT_RECEIVE, and is taken out. -/
theorem taken_some {p n : Nat} {fits : RxMsg → Bool} {s : Machine.State} (l : List RxMsg)
    (h : (port s p).state = .active ∧ (port s p).rxMsgs ≠ [] ∧ l = heldMsgs (port s p) fits n ∧ l.length = n) :
    Taken p n fits s l (onPort p (fun q => { q with rxMsgs := l.foldl List.erase q.rxMsgs }) s) :=
  ⟨h.1, .inr ⟨h.2.1, h.2.2.1, h.2.2.2, rfl⟩⟩

def setPort (s : Machine.State) (k : Nat) (f : Port → Port) : Machine.State := { s with fab := { s.fab with ports := modifyAt s.fab.ports k f } }
def hsAt (h : Handshake) : Machine.State := setPort up 0 (fun _ => { portOff with hs := h, peer := none, transcript := [([4], [5])], sentStep := [6], sent := [⟨3,2,false,false,0,9,none,.sleepNotice⟩, ⟨3,2,false,false,0,7,none,.sleepNotice⟩], queue := [⟨4,2,false,false,0,0,none,.sleepNotice⟩] })
def hsF (h : Handshake) (n : Nat) : Machine.State := setPort { up with job := Job.none } 0 (fun _ => { portOff with hs := h, fails := n })
def ev : Sys2Proof.PeerEvidence := { certOk := true, sigOk := true, enrolled := true, ownerFp := ownerFp up, identityFp := 55, version := 9, imageDigest := 3, lowerVer := 4, nonce := helloNonce [5] [4] }
def pk : Key := publicKey 3
def fl (x : Nat) : BitVec 512 := let b := BitVec.ofNat 512 x; BitVec.ofNat 512 (x + (crc32c ((wordBytes b).take 60)).toNat * 2^480)
/-- data flit: type 1, eom, seq -/
def flit (seq : Nat) (eom : Bool) (cr : Nat) : BitVec 512 := fl (1 + (if eom then 256 else 0) + 128 + seq * 2^12 + 2 * 2^24 + 3 * 2^36 + cr * 2^40 + 77 * 2^64)
def badFlit : BitVec 512 := BitVec.ofNat 512 (1 + 4 * 2^12)
def nk : Machine.State := setPort up 0 (fun q => { q with nak := true, nakSent := 2 })
def ret (l : List Nat) : Machine.State := setPort up 0 (fun q => { q with retrains := l })
def out1 : Out := { dst := 0, vc := 2, cls := false, reversed := false, part := 0, mseq := 0, flight := some 3, body := .sleepNotice }
def outMy (vc : Fin 4) : Out := { dst := 3, vc := vc, cls := false, reversed := false, part := 0, mseq := 0, flight := none, body := .copy { dst := 3, src := 1, half := 0, op := 1, txn := 4, addr := 16, ctx := 3, vc := 2, payload := [1,2] } }
/-- A flit that is a whole message under the receiving key: payload and CRC. -/
def whole (m : Sys2Proof.Msg) : BitVec 512 :=
  let r := gcmSeal 6 (msgNonce 8) (msgAad m.vc.val 1) (msgHead m ++ m.payload ++ zeros (20 - m.payload.length))
  fl (1 + m.vc.val * 16 + 128 + 256 + 4 * 2^12 + 2 * 2^24 + 3 * 2^36 + 7 * 2^40 + ofLe (r.1 ++ r.2) * 2^64)
def qd2 : Machine.State := setPort up 0 (fun q => { q with queue := [out1, { out1 with vc := 3 }] })
def qb (vc : Fin 4) : Machine.State := setPort up 0 (fun q => { q with queue := [outMy vc], credits := [] })
def thru : Sys2Proof.Msg := { dst := 3, src := 0, half := 0, op := 1, txn := 4, addr := 16, ctx := 3, vc := 2, payload := [1,2] }

theorem witness_LinkBringUpRunsItsSteps :
    (∀ h, 0 < (hsAt h).fab.ports.length ∧ 0 ≠ 6 ∧ (hsAt h).gw.links = []) ∧ (port (hsAt .train) 0).hs = .train ∧
    ((port (hsAt .hello) 0).hs = .hello ∧ (3#3).toNat = (0 + 3) % 6) ∧
    ((port (hsAt .hello) 0).hs = .hello ∧ 8#64 ≠ (hsAt .hello).fab.cfg.extractLsb' 64 64 ∧ (port (hsAt .hello) 0).fails < 2 ∧
      (port (hsAt .hello) 0).state = .off) ∧
    ((port (hsAt .evidence) 0).hs = .evidence ∧ (port (hsAt .evidence) 0).transcript = [([4], [5])] ∧ ev.nonce = helloNonce [5] [4] ∧
      ev.certOk = true ∧ ev.sigOk = true ∧ ev.enrolled = true ∧ ev.ownerFp = ownerFp (hsAt .evidence) ∧
      policyAccepts (hsAt .evidence).trust.policy ev.version ev.imageDigest = true) ∧
    ((port (hsAt .evidence) 0).hs = .evidence ∧ (port (hsAt .evidence) 0).transcript = [([4], [5])] ∧
      ({ ev with nonce := 0 } : Sys2Proof.PeerEvidence).nonce ≠ helloNonce [5] [4] ∧ (port (hsAt .evidence) 0).fails < 2 ∧
      (port (hsAt .evidence) 0).state = .off) ∧
    ((port (hsAt .agree) 0).hs = .agree ∧ P384.onCurve pk = true) ∧
    ((port (hsAt .confirm) 0).hs = .confirm ∧ ∃ c, confirmOk (hsAt .confirm) 0 c = true) ∧
    ((port (hsAt .resume) 0).hs = .resume ∧ ((port (hsAt .resume) 0).peer = none ∨ (port (hsAt .resume) 0).peer = (port (hsAt .resume)
      0).candidate)) ∧
    (port (hsAt .idle) 0).hs = .idle :=
  ⟨by intro h; cases h <;> decide +kernel, by decide +kernel, by decide +kernel, by decide +kernel, by decide +kernel, by decide +kernel,
   by decide +kernel, ⟨by decide +kernel, confirm_opens (by decide +kernel) (by decide +kernel)⟩, by decide +kernel, by decide +kernel⟩

theorem witness_ThreeFailedBringUpsFenceThePort :
    (confirmOk (hsF .confirm 0) 0 [] = false ∧ 0 < (hsF .confirm 0).fab.ports.length ∧ 0 ≠ 6 ∧ (hsF .confirm 0).gw.links = [] ∧
      (port (hsF .confirm 0) 0).queue = [] ∧ (hsF .confirm 0).job.ranks = 0 ∧ (port (hsF .confirm 0) 0).state = .off ∧
      (port (hsF .confirm 0) 0).hs = .confirm ∧ (port (hsF .confirm 0) 0).fails < 2) ∧
    (confirmOk (hsF .confirm 2) 0 [] = false ∧ 0 < (hsF .confirm 2).fab.ports.length ∧ 0 ≠ 6 ∧ (hsF .confirm 2).gw.links = [] ∧
      (port (hsF .confirm 2) 0).queue = [] ∧ (hsF .confirm 2).job.ranks = 0 ∧ (port (hsF .confirm 2) 0).state = .off ∧
      (port (hsF .confirm 2) 0).hs = .confirm ∧ 2 ≤ (port (hsF .confirm 2) 0).fails ∧ 1 ≠ 0) :=
  ⟨⟨confirm_empty (by decide +kernel), by decide +kernel⟩, ⟨confirm_empty (by decide +kernel), by decide +kernel⟩⟩

/-- The payload of a flit that begins its message. -/
def payloadOf (f : BitVec 512) : List Sys2Proof.Byte := ((wordBytes f).drop 8).take 52
def goodHead (f : BitVec 512) : Bool :=
  (crc32c ((wordBytes f).take 60)).toNat = bits f 480 32 && bits f 0 4 = 1 && bits f 9 3 = 0 && bits f 39 1 = 0 && bits f 48 16 = 0 && bitAt f 7

theorem witness_FlitsAreTakenInOrder :
    (0 < up.fab.ports.length ∧ (port up 0).state = .active ∧ (port up 0).dozeIn = false ∧ (port up 0).unacked = []) ∧
    (goodHead (whole thru) = true ∧ bits (whole thru) 12 12 = (port up 0).rxSeq.toNat ∧ bitAt (whole thru) 8 = true ∧
      (BitVec.ofNat 3 (bits (whole thru) 4 2 * 2 + bits (whole thru) 6 1)).toNat < 6 ∧
      openHeld (port up 0) (BitVec.ofNat 3 (bits (whole thru) 4 2 * 2 + bits (whole thru) 6 1)) (payloadOf (whole thru)) =
        some (msgHead thru ++ thru.payload ++ zeros 18)) ∧
    (goodHead (flit 4 false 3) = true ∧ bits (flit 4 false 3) 12 12 = (port up 0).rxSeq.toNat ∧ bitAt (flit 4 false 3) 8 = false) ∧
    (goodHead (flit 4 true 3) = true ∧ bits (flit 4 true 3) 12 12 = (port up 0).rxSeq.toNat ∧ bitAt (flit 4 true 3) 8 = true ∧
      openHeld (port up 0) (BitVec.ofNat 3 (bits (flit 4 true 3) 4 2 * 2 + bits (flit 4 true 3) 6 1)) (payloadOf (flit 4 true 3)) = none ∧
      (port up 0).tagFail = none ∧ (port up 0).retrains = []) ∧
    (goodHead (flit 5 true 2) = true ∧ bits (flit 5 true 2) 12 12 ≠ (port up 0).rxSeq.toNat) ∧
    (crc32c ((wordBytes badFlit).take 60)).toNat ≠ bits badFlit 480 32 ∧
    (0 < nk.fab.ports.length ∧ (port nk 0).state = .active ∧ (port nk 0).dozeIn = false ∧ (port nk 0).unacked = [] ∧ (port nk 0).nak = true) ∧
    (port up 0).nak = false :=
  ⟨by decide +kernel, by decide +kernel, by decide +kernel, by decide +kernel, by decide +kernel, by decide +kernel, by decide +kernel,
   by decide +kernel⟩

/-- A port with two flits to replay; a NAK flit has named the second. -/
def nakd (seen : Option (BitVec 12)) : Machine.State :=
  setPort up 0 (fun q => { q with unacked := [⟨1, none, 0, 11⟩, ⟨2, some 8, 6, 12⟩], nakSeen := seen, replaysMs := 63 })

theorem witness_NakReplaysFromItsSeq :
    (∀ seen, 0 < (nakd seen).fab.ports.length ∧ (port (nakd seen) 0).state = .active ∧ (port (nakd seen) 0).replaysMs < 64 ∧
      (∀ x ∈ (port (nakd seen) 0).unacked, x.resent < 7)) ∧
    (port (nakd (some 2)) 0).nakSeen = some 2 ∧ ((port (nakd none) 0).nakSeen = none ∧ (2#12) = 2) :=
  ⟨by intro seen; refine ⟨?_, ?_, ?_, ?_⟩ <;> exact of_decide_eq_true rfl, by decide +kernel, by decide +kernel⟩

theorem witness_SilenceRetrainsThePort :
    (0 < up.fab.ports.length ∧ (port up 0).state = PortState.active ∧ (List.filter (fun k => decide (up.log.opSeconds.toNat ≤ k + 60)) (port up
    0).retrains).length < 3 ∧ wanted up 0 = true ∧ sensed up 0 = true ∧ up.power.rails = true ∧ up.power.state ≠ PowerState.sleep ∧
    up.trust.lifecycle = Lifecycle.enrolled) ∧
    (0 < (ret [7190, 7195, 7140]).fab.ports.length ∧ (port (ret [7190, 7195, 7140]) 0).state = PortState.active ∧ 3 ≤ (List.filter (fun k =>
    decide ((ret [7190, 7195, 7140]).log.opSeconds.toNat ≤ k + 60)) (port (ret [7190, 7195, 7140]) 0).retrains).length ∧ 0 ≠ 6 ∧ (ret [7190,
    7195, 7140]).gw.links = [] ∧ (port (ret [7190, 7195, 7140]) 0).queue = [] ∧ 1 ≠ 0) :=
  ⟨by decide +kernel, by decide +kernel⟩

/-- `thru` as flits have brought it. -/
def heldRx : RxMsg := { buffer := 4, flits := 1, text := msgHead thru ++ thru.payload ++ zeros 18 }
def held1 : Machine.State := setPort up 0 (fun q => { q with rxMsgs := [heldRx] })

theorem witness_MessagesLeaveAndPassThrough :
    (0 < qd2.fab.ports.length ∧ (port qd2 0).state = PortState.active ∧ headOf (port qd2 0) 0 = none ∧ (port qd2 0).queue ≠ []) ∧
    (0 < up.fab.ports.length ∧ (port up 0).state = PortState.active ∧ (port up 0).queue = [] ∧ wantsDoze up 6 = false ∧
      (port (setPort up 0 (fun q => { q with dozeOut := true })) 0).queue = [] ∧
      (port (setPort up 0 (fun q => { q with dozeOut := true })) 0).dozeOut = true) ∧
    ((port held1 0).state = PortState.active ∧ (port held1 0).rxMsgs ≠ [] ∧ [heldRx] = heldMsgs (port held1 0) (msgHeld thru) 1 ∧
      [heldRx].length = 1) ∧
    (0 < up.fab.ports.length ∧ (port up 0).state = PortState.active ∧ (port up 0).rxMsgs = [] ∧ 0 ≠ 6 ∧ thru.dst ≠ myNode up ∧ (nextHop up thru.src thru.dst (some
    0)).isSome = true) ∧
    (0 < up.fab.ports.length ∧ (port up 0).state = PortState.active ∧ up.seq.run = none) ∧
    (0 < qd2.fab.ports.length ∧ (port qd2 0).state = PortState.active ∧ nextVc (port qd2 0) (sget qd2.fab.turn 0 2) = some 3 ∧ 5 ≠ 0 ∧ (headOf
    (port qd2 0) 3).isSome = true) ∧
    (0 < (qb 0).fab.ports.length ∧ (port (qb 0) 0).state = PortState.active ∧ vcReady (port (qb 0) 0) 0 = false ∧ (headOf (port (qb 0) 0)
    0).any (fun x8 => decide (Out.maker (qb 0) x8 = myNode (qb 0))) = true) :=
  ⟨by decide +kernel, by decide +kernel, by decide +kernel, by decide +kernel, by decide +kernel, by decide +kernel, by decide +kernel⟩

theorem witness_NoRouteHaltsTheRun :
    ((port (B.running 0) 0).state = PortState.active ∧ (B.running 0).seq.flight = [] ∧ (B.running 0).power.sleepReq = false ∧ (B.running
    0).trust.debugWait = none ∧ (B.running 0).gw.image = none ∧ ((B.running 0).seq.run).any (fun x8 => decide (x8.halting = none)) = true) :=
  by decide +kernel

end Links

namespace Copies
open B

def setPort (s : Machine.State) (k : Nat) (f : Port → Port) : Machine.State := { s with fab := { s.fab with ports := modifyAt s.fab.ports k f } }
def wrM : Sys2Proof.Msg := { dst := 1, src := 2, half := 0, op := 1, txn := 4, addr := 256, ctx := 3, vc := 2, payload := [1,2,3] }
def fl0 : Flight := { id := 4, row := 1, bits := 4, slot := false, issue := 0, stage := .peer, flags := 0, watch := [] }
def desc : BitVec 384 := BitVec.ofNat 384 (2 + 1 * 16 + 100*2^128 + 3 * 2^192 + 1 * 2^224)
def tx (left : Nat) (rd : Bool) : Machine.State := { up with fab := { up.fab with txns := [{ node := 2, txn := 4, flight := 4, lash := false, isRead := rd, desc := desc, left := left, data := [], again := [] }] }, seq := { up.seq with flight := [fl0] } }
def sense (n : Nat) : Machine.State := { (setPort up 2 (fun _ => portOff)) with pins := { up.pins with fabricSenseN := BitVec.ofNat 6 n } }
def dozeS (a b c : Bool) (st : PortState) : Machine.State := setPort up 0 (fun q => { q with state := st, dozeOut := a, waking := b, unacked := if c then [⟨1, some 3, 0, 0⟩] else [] , txMseq := 3})
def fenced : Machine.State := setPort (setPort up 1 (fun _ => { portOff with state := .fenced, fails := 3, retrains := [3] })) 2 (fun _ => portOff)
def allOff : Machine.State := { up with fab := { up.fab with ports := List.replicate 7 portOff } }
def goodCfg : BitVec 128 := BitVec.ofNat 128 (2 + 1 * 8 + 0 * 64 + 1 * 2^16 + 0x1B * 2^32 + 0xABCD * 2^64)
def badCfg : BitVec 128 := BitVec.ofNat 128 (7 + 7*8+7*64)

theorem witness_CopyMessagesReadAndWrite :
    ((port up 0).state = PortState.active ∧ up.fab.ports.length = 7 ∧ crosses up 0 wrM = false ∧ 0 ≠ 6 ∧ (nextHop up (myNode up) wrM.src
    none).isSome = true ∧ (messagePlace up 0 wrM.addr.toNat wrM.payload.length).isSome = true) ∧
    ((messagePlace up 0 wrM.addr.toNat wrM.ctx.toNat = some (0, 256) ∧ TierGood up 256 3) ∧ ((port up 0).state = PortState.active ∧
    up.fab.ports.length = 7 ∧ crosses up 0 wrM = false ∧ 0 ≠ 6 ∧ 0 < wrM.ctx.toNat ∧ wrM.vc ≠ 0 ∧ (nextHop up (myNode up) wrM.src none).isSome
    = true)) ∧
    ((port up 0).state = PortState.active ∧ (port up 0).rxMsgs = [] ∧ up.fab.ports.length = 7 ∧ (∀ (t : Txn), t ∈ up.fab.txns → t.txn ≠ 4#12)) ∧
    (up.mem.stagingBad = [] ∧ up.mem.sliceBad = []) ∧
    (∃ l u, Taken 0 1 (answerHeld 2 4) (tx 3 false) l u) ∧ (∃ l u, Taken 0 1 (answerHeld 2 4) (tx 1 false) l u) ∧
    (∃ l u, Taken 0 1 (answerHeld 4 4) (tx 3 true) l u) ∧ (tx 3 true).fab.txns.all (fun t => decide (t.again = [])) = true ∧
    ((port up 0).state = PortState.active ∧ up.fab.ports.length = 7 ∧ (port up 0).tagFail = none ∧ (port up 0).retrains = []) ∧
    ((port (tx 3 false) 0).state = PortState.active ∧ (tx 3 false).fab.ports.length = 7 ∧ ((tx 3 false).fab.txns).head?.any (fun x8 => decide
    ((tx 3 false).fab.txns = [x8] ∧ x8.txn = 4#12 ∧ x8.isRead = false ∧ x8.lash = decide (0 = 6) ∧ 1 < x8.left)) = true) ∧
    ((port (tx 1 false) 0).state = PortState.active ∧ (tx 1 false).fab.ports.length = 7 ∧ ((tx 1 false).seq.flight).head?.any (fun x7 => decide
    ((tx 1 false).seq.flight = [x7] ∧ x7.stage = Stage.peer)) = true ∧ ((tx 1 false).fab.txns).head?.any (fun x8 => decide ((tx 1
    false).fab.txns = [x8] ∧ x8.txn = 4#12 ∧ x8.isRead = false ∧ x8.lash = decide (0 = 6) ∧ x8.left = 1 ∧ ((tx 1 false).seq.flight).head?.any
    (fun x7 => decide (x7.id = x8.flight)) = true)) = true) ∧
    ((port (tx 3 true) 0).state = PortState.active ∧ (tx 3 true).fab.ports.length = 7 ∧ inPair (tx 3 true) = false ∧ 0 < [7, 8, 9].length ∧
    ((tx 3 true).seq.flight).head?.any (fun x7 => decide ((tx 3 true).seq.flight = [x7] ∧ x7.stage = Stage.peer)) = true ∧ ((tx 3
    true).fab.txns).head?.any (fun x8 => decide ((tx 3 true).fab.txns = [x8] ∧ x8.txn = 4#12 ∧ x8.isRead = true ∧ x8.lash = decide (0 = 6) ∧
    x8.desc ≠ 0 ∧ dSkind x8.desc = 2 ∧ dDkind x8.desc = 1 ∧ dNrun x8.desc = 1 ∧ dCfmt x8.desc = 0 ∧ x8.left = [7, 8, 9].length ∧ dRun x8.desc
    = [7, 8, 9].length ∧ x8.data = [] ∧ ((tx 3 true).seq.flight).head?.any (fun x7 => decide (x7.id = x8.flight)) = true)) = true) :=
  ⟨by decide +kernel, ⟨⟨by decide +kernel, tierGood_of (by decide +kernel)⟩, by decide +kernel⟩, by decide +kernel, by decide +kernel,
   ⟨_, _, Links.taken_none (by decide +kernel)⟩, ⟨_, _, Links.taken_none (by decide +kernel)⟩, ⟨_, _, Links.taken_none (by decide +kernel)⟩,
   by decide +kernel, by decide +kernel, by decide +kernel, by decide +kernel, by decide +kernel⟩

/-- A half of a pair whose lash port is up. -/
def half : Machine.State := setPort { up with pair := { up.pair with role := .primary } } 6 (fun _ => portUp)

theorem witness_LinkStatesFollowTheirEvents :
    (half.fab.ports.length = 7 ∧ (port half 6).state = .active ∧ inPair half = true ∧ half.power.state ≠ .sleep ∧ half.seq.run = none) ∧
    (inPair up = false) ∧
    (up.fab.ports.length = 7 ∧ bitAt up.pins.fabricSenseN 0 ≠ true ∧ 2 ≠ 0) ∧
    (up.fab.ports.length = 7 ∧ bitAt up.pins.fabricSenseN 0 ≠ true ∧ 1 ≠ 0) ∧
    (up.fab.ports.length = 7 ∧ up.pins.lashSenseN ≠ true ∧ 0 < 6) ∧
    (up.fab.ports.length = 7 ∧ up.power.rails = true ∧ up.gw.links = [] ∧ (∀ (q : Port), q ∈ up.fab.ports → q.queue = []) ∧ (port up 6).state =
    PortState.off ∧ 0 < 6) ∧
    (up.fab.ports.length = 7 ∧ ((port up 0).state = PortState.active ∨ (port up 0).state = PortState.doze) ∧ (port up 0).queue = []) ∧
    ((sense 4).fab.ports.length = 7 ∧ bitAt (sense 4).pins.fabricSenseN 2 ≠ false ∧ (port (sense 4) 2).state = PortState.off ∧ (port (sense 4)
    2).hs = Handshake.idle ∧ wanted (sense 4) 2 = true ∧ (sense 4).power.rails = true ∧ (sense 4).power.state ≠ PowerState.sleep ∧ (sense
    4).trust.lifecycle = Lifecycle.enrolled) ∧
    ((dozeS true false false PortState.active).fab.ports.length = 7 ∧ (port (dozeS true false false PortState.active) 0).state =
    PortState.active ∧ (port (dozeS true false false PortState.active) 0).dozeOut = true ∧ (port (dozeS true false false PortState.active)
    0).quiet = true) ∧
    ((dozeS true false true PortState.active).fab.ports.length = 7 ∧ (port (dozeS true false true PortState.active) 0).state = PortState.active
    ∧ (port (dozeS true false true PortState.active) 0).dozeOut = true ∧ (port (dozeS true false true PortState.active) 0).quiet = false) ∧
    ((dozeS true true false PortState.doze).fab.ports.length = 7 ∧ (port (dozeS true true false PortState.doze) 0).state = PortState.doze ∧
    (port (dozeS true true false PortState.doze) 0).waking = true) ∧
    ((dozeS true false false PortState.doze).fab.ports.length = 7 ∧ (port (dozeS true false false PortState.doze) 0).state = PortState.doze ∧
    (port (dozeS true false false PortState.doze) 0).waking = false) :=
  ⟨by decide +kernel, by decide +kernel, by decide +kernel, by decide +kernel, by decide +kernel, by decide +kernel, by decide +kernel, by decide +kernel, by decide +kernel,
   by decide +kernel, by decide +kernel, by decide +kernel⟩

def linking (s : Machine.State) : Machine.State := { s with gw := { s.gw with links := [(0, req2)] } }

theorem witness_LinkCommands :
    (waits req (linking up) = false ∧ (linking up).gw.links.any (fun x => x.1 = (0#8).toNat) = true ∧ gate 0x21 0 req true (linking up) =
    none ∧ gate 0x22 0 req true (linking up) = none) ∧
    (Starts 33 0 req (inState up [RunState.ready, RunState.job, RunState.halted] && linkFree up (0#8).toNat) up ∧ (up.fab.ports.length =
    7 ∧ up.gw.links = [] ∧ (0#8).toNat ≤ 5 ∧ 0#8 = 0 ∧ (port up (0#8).toNat).state ≠ PortState.fenced ∧ (port up (0#8).toNat).queue =
    [])) ∧
    (Starts 33 0 req (inState up [RunState.ready, RunState.job, RunState.halted] && linkFree up (0#8).toNat) up ∧ (up.fab.ports.length =
    7 ∧ up.gw.links = [] ∧ (0#8).toNat ≤ 5 ∧ 1#8 = 1 ∧ (port up (0#8).toNat).state = PortState.active)) ∧
    (Starts 33 0 req (inState up [RunState.ready, RunState.job, RunState.halted] && linkFree up (0#8).toNat) up ∧ (up.fab.ports.length =
    7 ∧ up.gw.links = [] ∧ (0#8).toNat ≤ 5 ∧ 2 < (5#8).toNat)) ∧
    (Starts 33 0 req (inState up [RunState.ready, RunState.job, RunState.halted] && linkFree up (6#8).toNat) up ∧ (up.fab.ports.length =
    7 ∧ up.gw.links = [] ∧ 5 < (6#8).toNat)) ∧
    (Starts 34 0 req (inState up [RunState.ready, RunState.job, RunState.halted] && linkFree up (0#8).toNat) up ∧ (up.fab.ports.length =
    7 ∧ up.gw.links = [] ∧ (0#8).toNat ≤ 5 ∧ (port up (0#8).toNat).state ≠ PortState.fenced)) ∧
    (Starts 34 0 req (inState up [RunState.ready, RunState.job, RunState.halted] && linkFree up (0#8).toNat) up ∧ (up.fab.ports.length =
    7 ∧ up.gw.links = [] ∧ (0#8).toNat ≤ 5 ∧ 1 ≠ (0#8).toNat)) ∧
    (Starts 34 0 req (inState up [RunState.ready, RunState.job, RunState.halted] && linkFree up (6#8).toNat) up ∧ (up.fab.ports.length =
    7 ∧ up.gw.links = [] ∧ 5 < (6#8).toNat)) ∧
    (Starts 33 0 req (inState fenced [RunState.ready, RunState.job, RunState.halted] && linkFree fenced (1#8).toNat) fenced ∧
    (fenced.fab.ports.length = 7 ∧ fenced.gw.links = [] ∧ (1#8).toNat ≤ 5 ∧ (0#8).toNat ≤ 2 ∧ (port fenced (1#8).toNat).state =
    PortState.fenced)) ∧
    (Starts 32 0 req (inState allOff [RunState.ready] && (List.range 6).all fun p => decide ((port allOff p).state = PortState.off))
    allOff ∧ (allOff.fab.ports.length = 7 ∧ allOff.gw.links = [] ∧ configOk goodCfg = true ∧ 0 < 7)) ∧
    (Starts 32 0 req (inState allOff [RunState.ready] && (List.range 6).all fun p => decide ((port allOff p).state = PortState.off))
    allOff ∧ (allOff.fab.ports.length = 7 ∧ allOff.gw.links = [] ∧ configOk badCfg = false)) :=
  ⟨by decide +kernel, ⟨starts_of (by decide +kernel), by decide +kernel⟩, ⟨starts_of (by decide +kernel), by decide +kernel⟩, ⟨starts_of
   (by decide +kernel), by decide +kernel⟩, ⟨starts_of (by decide +kernel), by decide +kernel⟩, ⟨starts_of (by decide +kernel), by
   decide +kernel⟩, ⟨starts_of (by decide +kernel), by decide +kernel⟩, ⟨starts_of (by decide +kernel), by decide +kernel⟩, ⟨starts_of
   (by decide +kernel), by decide +kernel⟩, ⟨starts_of (by decide +kernel), by decide +kernel⟩, ⟨starts_of (by decide +kernel), by
   decide +kernel⟩⟩

end Copies

namespace DataRows
open B

def rw' (k : Nat) (l : List (Nat × Nat)) : Row := BitVec.ofNat 1024 (k + 2^32 + l.foldl (fun x p => x + p.2 * 2^p.1) 0)
def rset : Nat × Nat := (64, 5)
def sref (a : Nat) : Nat := a + 255 * 2^18
def wPass : Row := rw' 1 [rset, (160, 1), (168, 0x11), (208, 1), (224, 1), (272,64), (288, 64), (304, 128), (320, 160), (336, 200), (368, 220), (424, 3), (512, 300)]
def wPassE : Row := rw' 1 [rset, (160, 1), (168, 0x11), (208, 1), (224, 1), (272,64), (288, 64), (304, 128), (320, 160), (336, 200), (368, 220), (424, 1), (464, 8), (512, 300)]
def wV (o : Nat) : Row := rw' 2 [rset, (128, o), (136, 8), (160, 1), (192, sref 0), (320, sref 100), (352, sref 200), (384, sref 300), (416, 16), (552, 0)]
def d1 : Nat := 1 + 1*16 + 1*2^64 + 4096*2^128 + 5*2^192 + 1*2^224
def wCopy : Row := rw' 4 [(128,1), (192, d1)]
def wQ : Row := rw' 3 [rset, (128, 1), (256, sref 0), (288, sref 100), (352, 8), (368, 1), (416, 32)]
def wC (o : Nat) : Row := rw' 5 [(128, o), (136, 8), (144, 0), (160, 2), (224, 512), (288, 1024), (352, 9)]
def wF (o : Nat) : Row := rw' 6 [(128, o)]
def ready (s : Machine.State) : Machine.State := { s with regions := List.replicate 64 { regionUp with clock := .ready } }
def slow (s : Machine.State) : Machine.State := { s with regions := (List.replicate 64 { regionUp with clock := .ready }).set 2 { regionUp with clock := .gated } }
def fly (n : Nat) (w : Row) : Machine.State := let s := running w
  { s with seq := { s.seq with flight := List.replicate n { id := 4, slot := false, row := 0, bits := 4, issue := 0, stage := .done, flags := 3, watch := [] } } }
def ctx (w : Row) : RowCtx := { id := 12, slot := false, row := 1, bits := w, issue := 0 }
def runC (w : Row) : Machine.State := let s := ready (running w); { s with seq := { s.seq with flight := [] } }
def runR (w : Row) : Machine.State := let s := ready (running 0); { s with seq := { s.seq with slotA := slotW .active [0, w, 0], flight := [] } }
def tl (c : Option (Nat × BitVec 128)) : Tile := { core := 2, region := 1, slot := 0, bank := 0, base := 0, nrows := 2, levels := 1, order := 0, counts := [1], closing := c }
def tiles (l : List Tile) (fl : List Flight) : Machine.State := let s := ready (running 0); { s with seq := { s.seq with tiles := l, flight := fl } }
def fA : Flight := { id := 4, slot := false, row := 1, bits := wPassE, issue := 0, stage := .drain, flags := 3, watch := [] }
def fB : Flight := { fA with id := 5, stage := .done, bits := BitVec.ofNat 1024 (2 + 2^32 + 3*2^8) }
def ab : BitVec 128 := accBits wPassE

theorem witness_SliceRowsWriteOnlyLocalMemory :
    ((runC wQ).mem.stagingBad = [] ∧ (runC wQ).mem.sliceBad = [] ∧ ((runC wQ).seq.run).any (fun x8 => decide (x8.halting = none)) = true) ∧
    ((runC wQ).mem.stagingBad = [] ∧ (runC wQ).mem.sliceBad = [] ∧ (∀ (r : Nat), r ∈ setList (rowRset (ctx wQ).bits) → (anchorsOf (ctx wQ).bits
    (readerOf (runC wQ) r)).isSome = true) ∧ ((runC wQ).seq.run).any (fun x8 => decide (x8.halting = none)) = true) :=
  ⟨by decide +kernel, by decide +kernel⟩

theorem witness_PassWritesOnlyAccumulators :
    ((runC wPass).mem.stagingBad = [] ∧ (runC wPass).mem.sliceBad = [] ∧ (runC wPass).mem.accBad = [] ∧ ((runC wPass).seq.run).any (fun x8 =>
    decide (x8.halting = none)) = true) :=
  by decide +kernel

theorem witness_TileDrainWritesStaging :
    (nextDrain (tiles [] []) 1 2 = none) ∧
    ((tiles [tl (some (4, ab))] [fA, fB]).mem.stagingBad = [] ∧ (tiles [tl (some (4, ab))] [fA, fB]).mem.accBad = [] ∧ (tiles [tl (some (4,
    ab))] [fA, fB]).fab.txns = [] ∧ sorted (tiles [tl (some (4, ab))] [fA, fB]).mem.acc = true ∧ (nextDrain (tiles [tl (some (4, ab))] [fA, fB]) 1 2).any (fun x8 => decide ((x8.closing).any (fun x7 =>
    decide (x8.closing = some (x7.fst, x7.snd))) = true)) = true) :=
  ⟨by decide +kernel, by decide +kernel⟩

theorem witness_CopyMovesOneRun :
    (TierGood (runC wCopy) (fld (dSaddr (descOf wCopy 0)) 0 42) (dRun (descOf wCopy 0)) ∧ (inPair (runC wCopy) = false ∧ (runC
    wCopy).mem.stagingBad = [] ∧ (runC wCopy).mem.sliceBad = [] ∧ (runC wCopy).fab.txns = [] ∧ (descs (ctx wCopy).bits).head?.any (fun x7 =>
    decide (descs (ctx wCopy).bits = [x7] ∧ dSkind x7 = 1 ∧ dDkind x7 = 1 ∧ dNrun x7 = 1 ∧ 0 < dRun x7)) = true ∧ ((runC wCopy).seq.run).any
    (fun x8 => decide (x8.halting = none)) = true)) :=
  ⟨tierGood_of (by decide +kernel), by decide +kernel⟩

/-- Two rows of one slice, the later done. -/
def fS : Flight := { fA with id := 4, stage := .drain, bits := wQ }
def fT : Flight := { fA with id := 5, stage := .done, bits := wQ }

theorem witness_RowCompletionTakesTheFlags :
    (inPair (tiles [] [fB]) = false ∧ (tiles [] [fB]).seq.watchWait = [] ∧ ((tiles [] [fB]).seq.run).any (fun x7 => decide (x7.halting = none ∧
    x7.restartAt = none)) = true ∧ ((tiles [] [fB]).seq.flight[0]?).any (fun x8 => decide (x8.stage = Stage.done ∧ awaitsAck (tiles [] [fB])
    x8.id = false ∧ sliceBefore (tiles [] [fB]) x8 = false ∧ x8.watch = [])) = true) ∧
    ((tiles [] [fS, fT]).seq.flight[1]?.any (fun x8 => decide (x8.stage = .done ∧ sliceBefore (tiles [] [fS, fT]) x8 = true)) = true) ∧
    ((tiles [] [fB]).seq.flight[1]? = none) :=
  ⟨by decide +kernel, by decide +kernel, by decide +kernel⟩

theorem witness_DataRowIssuesInPathOrder :
    (AtRow (runR wPass) arun wPass ∧ Unblocked (runR wPass) wPass ∧ (isData wPass = true ∧ (Claims.dataRow (.pass 0)).any (fun p => p.1 wPass) = true ∧
      (Claims.dataRow (.quant 0)).any (fun p => !p.1 wPass) = true)) ∧
    (AtRow (runR wQ) arun wQ ∧ Unblocked (runR wQ) wQ ∧ (isData wQ = true ∧ (Claims.dataRow (.quant 0)).any (fun p => p.1 wQ) = true)) ∧
    (AtRow (runR (wV 4)) arun (wV 4) ∧ Unblocked (runR (wV 4)) (wV 4) ∧ (isData (wV 4) = true ∧ (Claims.dataRow (.opt 0)).any (fun p => p.1 (wV 4)) = true)) ∧
    (AtRow (runR wCopy) arun wCopy ∧ Unblocked (runR wCopy) wCopy ∧ (isData wCopy = true ∧ (Claims.dataRow (.copy 0)).any (fun p => p.1 wCopy) = true)) ∧
    (AtRow (runR (wC 4)) arun (wC 4) ∧ Unblocked (runR (wC 4)) (wC 4) ∧ (isData (wC 4) = true ∧ (Claims.dataRow (.reshardRound 0)).any (fun p => p.1 (wC 4)) = true)) ∧
    (AtRow (runR (wF 2)) arun (wF 2) ∧ Unblocked (runR (wF 2)) (wF 2) ∧ (isData (wF 2) = true ∧ (Claims.dataRow (.ferryCombine 0)).any (fun p => p.1 (wF 2)) = true)) :=
  ⟨⟨atRow_of (by decide +kernel), unblocked_of (by decide +kernel), by decide +kernel⟩,
   ⟨atRow_of (by decide +kernel), unblocked_of (by decide +kernel), by decide +kernel⟩,
   ⟨atRow_of (by decide +kernel), unblocked_of (by decide +kernel), by decide +kernel⟩,
   ⟨atRow_of (by decide +kernel), unblocked_of (by decide +kernel), by decide +kernel⟩,
   ⟨atRow_of (by decide +kernel), unblocked_of (by decide +kernel), by decide +kernel⟩,
   ⟨atRow_of (by decide +kernel), unblocked_of (by decide +kernel), by decide +kernel⟩⟩

theorem witness_DataRowWaitsForItsRegions :
    AtRow (slow (runR wQ)) arun wQ ∧ ((Claims.dataRow (.quant 0)).any (fun p => p.1 wQ) = true ∧ isData wQ = true ∧ executes (slow (runR wQ)) wQ = true ∧
      (slow (runR wQ)).trust.sealing = false ∧ ∃ k ∈ setList (rowRset wQ), (region (slow (runR wQ)) k).clock ≠ .ready) :=
  ⟨atRow_of (by decide +kernel), by decide +kernel⟩

theorem witness_SixtyFourRowsInFlight :
    activeNow (fly 64 wQ) = some arun ∧ (fly 64 wQ).seq.held = [] ∧ arun.next < (slotOf (fly 64 wQ) arun.slot).rows.length ∧ 64 ≤ (fly 64 wQ).seq.flight.length ∧
      (Claims.dataRow (.quant 0)).any (fun p => p.1 (rowAt (fly 64 wQ) arun.slot arun.next)) = true ∧ isData (rowAt (fly 64 wQ) arun.slot arun.next) = true := by
  decide +kernel

end DataRows

namespace ControlRows
open B

def R (k : Nat) (l : List (Nat × Nat)) : Row := BitVec.ofNat 1024 (k + 2^32 + l.foldl (fun x p => x + p.2 * 2^p.1) 0)
def F (s : Machine.State) : Machine.State := { s with regions := List.replicate 64 regionUp, seq := { s.seq with flight := [] } }
def S0 (w : Row) : Machine.State := F (running w)
def lw0 : Lowered := { plan := default, snapshot := 0, barriers := [] }
def S1 (w : Row) (l : Option Lowered) (nx : Nat) (b : Nat) : Machine.State := let s := S0 w
  { s with seq := { s.seq with loops := [(1, 3), (2, 1)], watch := if nx = 7 then [] else s.seq.watch, slotA := { (slotW .active [0, w, 0]) with lowered := l }, run := some { arun with budget := b } } }
def gvr (h : List (Nat × BitVec 8)) (e : Watch) : Machine.State := let s := S0 (R 7 [(128,3),(136,2),(144,6),(160,0x3E000000),(192,0x3F000000)])
  { s with seq := { s.seq with hold := h, watch := [(3, e)] } }
def v2 := gvr [] { Watch.zero with err := 0x3F800000, energy := 0x40000000 }
def v3 := gvr [] { Watch.zero with err := 0x3F800001, energy := 0x40000000 }

theorem witness_NopAndLoopRows :
    (AtRow (S1 (R 0 []) none 0 3) arun (R 0 []) ∧ (rowKind (R 0 []) = 0)) ∧
    (AtRow (S1 (R 9 [(128, 1), (144, 4)]) none 0 3) arun (R 9 [(128, 1), (144, 4)]) ∧ (rowKind (R 9 [(128, 1), (144, 4)]) = 9)) ∧
    (AtRow (S1 (R 10 [(128, 1), (160, 0)]) none 0 3) arun (R 10 [(128, 1), (160, 0)]) ∧ (rowKind (R 10 [(128, 1), (160, 0)]) = 10 ∧ 1 < sget
    (S1 (R 10 [(128, 1), (160, 0)]) none 0 3).seq.loops (lReg (R 10 [(128, 1), (160, 0)])) 0)) ∧
    (AtRow (S1 (R 10 [(128, 2)]) none 0 3) arun (R 10 [(128, 2)]) ∧ (rowKind (R 10 [(128, 2)]) = 10 ∧ sget (S1 (R 10 [(128, 2)]) none 0
    3).seq.loops (lReg (R 10 [(128, 2)])) 0 ≤ 1)) :=
  ⟨⟨atRow_of (by decide +kernel), by decide +kernel⟩, ⟨atRow_of (by decide +kernel), by decide +kernel⟩, ⟨atRow_of (by decide +kernel),
   by decide +kernel⟩, ⟨atRow_of (by decide +kernel), by decide +kernel⟩⟩

theorem witness_BranchRow :
    (AtRow (S0 (R 8 [(128, 3), (136, 1), (144, 4), (152, 1), (160, 7)])) arun (R 8 [(128, 3), (136, 1), (144, 4), (152, 1), (160, 7)]) ∧
    (rowKind (R 8 [(128, 3), (136, 1), (144, 4), (152, 1), (160, 7)]) = 8)) :=
  ⟨atRow_of (by decide +kernel), by decide +kernel⟩

theorem witness_ConditionsTestTheirState :
    (bCond (R 8 []) = 0) ∧
    (bCond (R 8 [(128, 1), (136, 2)]) = 1) ∧
    (bCond (R 8 [(128, 2), (136, 2)]) = 2) ∧
    (bCond (R 8 [(128, 3), (136, 1), (144, 4)]) = 3) ∧
    (bCond (R 8 [(128, 4), (136, 1), (144, 4)]) = 4) ∧
    (bCond (R 8 [(128, 5), (136, 3)]) = 5) ∧
    (bCond (R 8 [(128, 6), (136, 3)]) = 6) ∧
    (bCond (R 8 [(128, 7), (192, 4), (224, 1)]) = 7) ∧
    (bCond (R 8 [(128, 8)]) = 8) :=
  ⟨by decide +kernel, by decide +kernel, by decide +kernel, by decide +kernel, by decide +kernel, by decide +kernel, by decide +kernel,
   by decide +kernel, by decide +kernel⟩

theorem witness_HaltRowEndsTheRun :
    (AtRow (S0 (R 15 [(160, 9)])) arun (R 15 [(160, 9)]) ∧ (rowKind (R 15 [(160, 9)]) = 15 ∧ (S0 (R 15 [(160, 9)])).power.sleepReq = false ∧
    (S0 (R 15 [(160, 9)])).trust.debugWait = none ∧ (S0 (R 15 [(160, 9)])).gw.stopCmd = none ∧ arun.req ≠ farReq ∧ (S0 (R 15 [(160, 9)])).gw.image = none ∧
    condHolds (S0 (R 15 [(160, 9)])) (R 15 [(160, 9)]) = true)) ∧
    (AtRow (S0 (R 15 [(128, 4), (136, 1), (144, 4), (160, 7)])) arun (R 15 [(128, 4), (136, 1), (144, 4), (160, 7)]) ∧ (rowKind (R 15 [(128,
    4), (136, 1), (144, 4), (160, 7)]) = 15 ∧ (S0 (R 15 [(128, 4), (136, 1), (144, 4), (160, 7)])).power.sleepReq = false ∧ (S0 (R 15 [(128,
    4), (136, 1), (144, 4), (160, 7)])).trust.debugWait = none ∧ (S0 (R 15 [(128, 4), (136, 1), (144, 4), (160, 7)])).gw.stopCmd = none ∧ (S0
    (R 15 [(128, 4), (136, 1), (144, 4), (160, 7)])).gw.image = none ∧ condHolds (S0 (R 15 [(128, 4), (136, 1), (144, 4), (160, 7)])) (R 15
    [(128, 4), (136, 1), (144, 4), (160, 7)]) = false ∧ bClr (R 15 [(128, 4), (136, 1), (144, 4), (160, 7)]) = false)) :=
  ⟨⟨atRow_of (by decide +kernel), by decide +kernel⟩, ⟨atRow_of (by decide +kernel), by decide +kernel⟩⟩

theorem witness_NotifyRowHoldsAnEntry :
    (AtRow (S0 (R 14 [(128, 77)])) arun (R 14 [(128, 77)]) ∧ (rowKind (R 14 [(128, 77)]) = 14)) :=
  ⟨atRow_of (by decide +kernel), by decide +kernel⟩

theorem witness_LocalBarrierRow :
    (AtRow (S1 (R 11 [(160, 9)]) none 0 3) arun (R 11 [(160, 9)]) ∧ (rowKind (R 11 [(160, 9)]) = 11 ∧ barJob (R 11 [(160, 9)]) = false ∧
    (slotOf (S1 (R 11 [(160, 9)]) none 0 3) arun.slot).lowered = none)) ∧
    (AtRow (S1 (R 11 [(160, 9)]) (some lw0) 0 3) arun (R 11 [(160, 9)]) ∧ (rowKind (R 11 [(160, 9)]) = 11 ∧ barJob (R 11 [(160, 9)]) = false ∧
    ((slotOf (S1 (R 11 [(160, 9)]) (some lw0) 0 3) arun.slot).lowered).isSome = true)) :=
  ⟨⟨atRow_of (by decide +kernel), by decide +kernel⟩, ⟨atRow_of (by decide +kernel), by decide +kernel⟩⟩

theorem witness_GovernRowSetsTheVerdict :
    (AtRow (gvr [(2, 3)] Watch.zero) arun (R 7 [(128, 3), (136, 2), (144, 6), (160, 1040187392), (192, 1056964608)]) ∧ (rowKind (R 7 [(128, 3),
    (136, 2), (144, 6), (160, 1040187392), (192, 1056964608)]) = 7 ∧ gJob (R 7 [(128, 3), (136, 2), (144, 6), (160, 1040187392), (192,
    1056964608)]) = false ∧ (gvr [(2, 3)] Watch.zero).seq.watchWait = [] ∧ (gvr [(2, 3)] Watch.zero).pair.role = Role.solo ∧ sget (gvr [(2,
    3)] Watch.zero).seq.hold (gVerdict (R 7 [(128, 3), (136, 2), (144, 6), (160, 1040187392), (192, 1056964608)])) 0 ≠ 0)) ∧
    (AtRow v2 arun (R 7 [(128, 3), (136, 2), (144, 6), (160, 1040187392), (192, 1056964608)]) ∧ (rowKind (R 7 [(128, 3), (136, 2), (144, 6),
    (160, 1040187392), (192, 1056964608)]) = 7 ∧ gJob (R 7 [(128, 3), (136, 2), (144, 6), (160, 1040187392), (192, 1056964608)]) = false ∧
    v2.seq.watchWait = [] ∧ v2.pair.role = Role.solo ∧ sget v2.seq.hold (gVerdict (R 7 [(128, 3), (136, 2), (144, 6), (160, 1040187392), (192,
    1056964608)])) 0 = 0 ∧ (if flt (fmul (gThi (R 7 [(128, 3), (136, 2), (144, 6), (160, 1040187392), (192, 1056964608)])) (sget v2.seq.watch
    (gWatch (R 7 [(128, 3), (136, 2), (144, 6), (160, 1040187392), (192, 1056964608)])) Watch.zero).energy).fst (sget v2.seq.watch (gWatch (R
    7 [(128, 3), (136, 2), (144, 6), (160, 1040187392), (192, 1056964608)])) Watch.zero).err = true then 1 else if flt (sget v2.seq.watch
    (gWatch (R 7 [(128, 3), (136, 2), (144, 6), (160, 1040187392), (192, 1056964608)])) Watch.zero).err (fmul (gTlo (R 7 [(128, 3), (136, 2),
    (144, 6), (160, 1040187392), (192, 1056964608)])) (sget v2.seq.watch (gWatch (R 7 [(128, 3), (136, 2), (144, 6), (160, 1040187392), (192,
    1056964608)])) Watch.zero).energy).fst = true then 0 else if v2.seq.a4.contains (gVerdict (R 7 [(128, 3), (136, 2), (144, 6), (160,
    1040187392), (192, 1056964608)])) = true then 0 else 1) = if v2.seq.a4.contains (gVerdict (R 7 [(128, 3), (136, 2), (144, 6), (160,
    1040187392), (192, 1056964608)])) = true then 0 else 1)) ∧
    (AtRow v3 arun (R 7 [(128, 3), (136, 2), (144, 6), (160, 1040187392), (192, 1056964608)]) ∧ (rowKind (R 7 [(128, 3), (136, 2), (144, 6),
    (160, 1040187392), (192, 1056964608)]) = 7 ∧ gJob (R 7 [(128, 3), (136, 2), (144, 6), (160, 1040187392), (192, 1056964608)]) = false ∧
    v3.seq.watchWait = [] ∧ v3.pair.role = Role.solo ∧ sget v3.seq.hold (gVerdict (R 7 [(128, 3), (136, 2), (144, 6), (160, 1040187392), (192,
    1056964608)])) 0 = 0 ∧ (if flt (fmul (gThi (R 7 [(128, 3), (136, 2), (144, 6), (160, 1040187392), (192, 1056964608)])) (sget v3.seq.watch
    (gWatch (R 7 [(128, 3), (136, 2), (144, 6), (160, 1040187392), (192, 1056964608)])) Watch.zero).energy).fst (sget v3.seq.watch (gWatch (R
    7 [(128, 3), (136, 2), (144, 6), (160, 1040187392), (192, 1056964608)])) Watch.zero).err = true then 1 else if flt (sget v3.seq.watch
    (gWatch (R 7 [(128, 3), (136, 2), (144, 6), (160, 1040187392), (192, 1056964608)])) Watch.zero).err (fmul (gTlo (R 7 [(128, 3), (136, 2),
    (144, 6), (160, 1040187392), (192, 1056964608)])) (sget v3.seq.watch (gWatch (R 7 [(128, 3), (136, 2), (144, 6), (160, 1040187392), (192,
    1056964608)])) Watch.zero).energy).fst = true then 0 else if v3.seq.a4.contains (gVerdict (R 7 [(128, 3), (136, 2), (144, 6), (160,
    1040187392), (192, 1056964608)])) = true then 0 else 1) ≠ if v3.seq.a4.contains (gVerdict (R 7 [(128, 3), (136, 2), (144, 6), (160,
    1040187392), (192, 1056964608)])) = true then 0 else 1)) :=
  ⟨⟨atRow_of (by decide +kernel), by decide +kernel⟩, ⟨atRow_of (by decide +kernel), by decide +kernel⟩, ⟨atRow_of (by decide +kernel),
   by decide +kernel⟩⟩

end ControlRows

namespace StepRows
open B

def R (k : Nat) (l : List (Nat × Nat)) : Row := BitVec.ofNat 1024 (k + 2^32 + l.foldl (fun x p => x + p.2 * 2^p.1) 0)
def F (s : Machine.State) : Machine.State := { s with regions := List.replicate 64 regionUp, seq := { s.seq with flight := [] } }
def S0 (w : Row) : Machine.State := F (running w)
def S1 (w : Row) (l : Option Lowered) (nx : Nat) (b : Nat) : Machine.State := let s := S0 w
  { s with seq := { s.seq with loops := [(1, 3), (2, 1)], watch := if nx = 7 then [] else s.seq.watch, slotA := { (slotW .active [0, w, 0]) with lowered := l }, run := some { arun with budget := b } } }
def hdr (sh dg ep st base len : Nat) : Nat := sh + dg * 2^32 + ep * 2^64 + base * 2^128 + st * 2^176 + len * 2^192
def epS (o : Nat) (h : Nat) : Machine.State := let s := S0 (R 13 [(128,o),(160,4),(192,256),(256,1)])
  let t := writeMem 0 256 (leBytes 32 h) (writeMem 0 0 [7] s)
  t
def eR (o : Nat) : Row := R 13 [(128,o),(160,4),(192,256),(256,1)]

theorem witness_EpochRowsReadAndAdvanceHeaders :
    (AtRow (epS 0 (hdr 1 2 3 1 0 10)) arun (eR 0) ∧ TierGood (epS 0 (hdr 1 2 3 1 0 10)) (eAddr (eR 0)) 32 ∧ (rowKind (eR 0) = 13 ∧ hdShard
    (ofLe (readMem (epS 0 (hdr 1 2 3 1 0 10)) 0 (eAddr (eR 0)) 32)) = eShard (eR 0) ∧ hdState (ofLe (readMem (epS 0 (hdr 1 2 3 1 0 10)) 0
    (eAddr (eR 0)) 32)) = 1 ∧ eOp (eR 0) = 0)) ∧
    (AtRow (epS 1 (hdr 1 2 3 1 0 10)) arun (eR 1) ∧ TierGood (epS 1 (hdr 1 2 3 1 0 10)) (eAddr (eR 1)) 32 ∧ (rowKind (eR 1) = 13 ∧ hdShard
    (ofLe (readMem (epS 1 (hdr 1 2 3 1 0 10)) 0 (eAddr (eR 1)) 32)) = eShard (eR 1) ∧ hdState (ofLe (readMem (epS 1 (hdr 1 2 3 1 0 10)) 0
    (eAddr (eR 1)) 32)) = 1 ∧ eOp (eR 1) = 1 ∧ (sget? (epS 1 (hdr 1 2 3 1 0 10)).seq.ledger (eEntry (eR 1))).any (fun x8 => decide (x8.shard =
    hdShard (ofLe (readMem (epS 1 (hdr 1 2 3 1 0 10)) 0 (eAddr (eR 1)) 32)) ∧ x8.digest = hdDigest (ofLe (readMem (epS 1 (hdr 1 2 3 1 0 10)) 0
    (eAddr (eR 1)) 32)) ∧ x8.epoch.toNat = hdEpoch (ofLe (readMem (epS 1 (hdr 1 2 3 1 0 10)) 0 (eAddr (eR 1)) 32)))) = true)) ∧
    (AtRow (epS 1 (hdr 1 2 4 1 0 10)) arun (eR 1) ∧ TierGood (epS 1 (hdr 1 2 4 1 0 10)) (eAddr (eR 1)) 32 ∧ (rowKind (eR 1) = 13 ∧ hdShard
    (ofLe (readMem (epS 1 (hdr 1 2 4 1 0 10)) 0 (eAddr (eR 1)) 32)) = eShard (eR 1) ∧ hdState (ofLe (readMem (epS 1 (hdr 1 2 4 1 0 10)) 0
    (eAddr (eR 1)) 32)) = 1 ∧ eOp (eR 1) = 1 ∧ (∀ (e : LedgerEntry), sget? (epS 1 (hdr 1 2 4 1 0 10)).seq.ledger (eEntry (eR 1)) = some e →
    e.shard ≠ hdShard (ofLe (readMem (epS 1 (hdr 1 2 4 1 0 10)) 0 (eAddr (eR 1)) 32)) ∨ e.digest ≠ hdDigest (ofLe (readMem (epS 1 (hdr 1 2 4 1
    0 10)) 0 (eAddr (eR 1)) 32)) ∨ e.epoch.toNat ≠ hdEpoch (ofLe (readMem (epS 1 (hdr 1 2 4 1 0 10)) 0 (eAddr (eR 1)) 32))))) ∧
    (AtRow (epS 2 (hdr 1 2 3 1 0 10)) arun (eR 2) ∧ TierGood (epS 2 (hdr 1 2 3 1 0 10)) (eAddr (eR 2)) 32 ∧ TierGood (epS 2 (hdr 1 2 3 1 0 10))
    (hdBase (ofLe (readMem (epS 2 (hdr 1 2 3 1 0 10)) 0 (eAddr (eR 2)) 32))) (hdLen (ofLe (readMem (epS 2 (hdr 1 2 3 1 0 10)) 0 (eAddr (eR 2))
    32))) ∧ (rowKind (eR 2) = 13 ∧ hdShard (ofLe (readMem (epS 2 (hdr 1 2 3 1 0 10)) 0 (eAddr (eR 2)) 32)) = eShard (eR 2) ∧ hdState (ofLe
    (readMem (epS 2 (hdr 1 2 3 1 0 10)) 0 (eAddr (eR 2)) 32)) = 1 ∧ eOp (eR 2) = 2 ∧ hdEpoch (ofLe (readMem (epS 2 (hdr 1 2 3 1 0 10)) 0
    (eAddr (eR 2)) 32)) + 1 ≠ 2 ^ 64)) :=
  ⟨⟨atRow_of (by decide +kernel), tierGood_of (by decide +kernel), by decide +kernel⟩, ⟨atRow_of (by decide +kernel), tierGood_of
   (by decide +kernel), by decide +kernel⟩, ⟨atRow_of (by decide +kernel), tierGood_of (by decide +kernel), by decide +kernel⟩, ⟨atRow_of
   (by decide +kernel), tierGood_of (by decide +kernel), tierGood_of (by decide +kernel), by decide +kernel⟩⟩

theorem witness_StepRowEndsTheRun :
    (AtRow (S1 (R 12 [(143, 1)]) none 0 3) arun (R 12 [(143, 1)]) ∧ (rowKind (R 12 [(143, 1)]) = 12 ∧ (sEnd (R 12 [(143, 1)]) = true ∨
    arun.stopAt = true ∨ arun.budget = 1) ∧ (S1 (R 12 [(143, 1)]) none 0 3).reshard.active = none ∧ (S1 (R 12 [(143, 1)]) none 0
    3).power.sleepReq = false ∧ (S1 (R 12 [(143, 1)]) none 0 3).trust.debugWait = none ∧ (S1 (R 12 [(143, 1)]) none 0 3).gw.stopCmd = none ∧ arun.req ≠ farReq ∧
    (S1 (R 12 [(143, 1)]) none 0 3).gw.image = none ∧ (∀ (g : Region), g ∈ (S1 (R 12 [(143, 1)]) none 0 3).regions → g.failing = []))) :=
  ⟨atRow_of (by decide +kernel), by decide +kernel⟩

theorem witness_StepRowBeginsTheNextStep :
    (AtRow (S1 (R 12 [(128, 2)]) none 7 3) arun (R 12 [(128, 2)]) ∧ (rowKind (R 12 [(128, 2)]) = 12 ∧ sEnd (R 12 [(128, 2)]) = false ∧
    arun.stopAt = false ∧ arun.budget ≠ 1 ∧ (S1 (R 12 [(128, 2)]) none 7 3).reshard.active = none ∧ armedSwap (S1 (R 12 [(128, 2)]) none 7 3)
    = none ∧ (S1 (R 12 [(128, 2)]) none 7 3).power.sleepReq = false ∧ (S1 (R 12 [(128, 2)]) none 7 3).trust.debugWait = none ∧ (S1 (R 12
    [(128, 2)]) none 7 3).gw.image = none ∧ (∀ (g : Region), g ∈ (S1 (R 12 [(128, 2)]) none 7 3).regions → g.failing = [] ∧ g.pendingFence =
    none ∧ g.returning = false) ∧ (S1 (R 12 [(128, 2)]) none 7 3).seq.watch = [] ∧ (S1 (R 12 [(128, 2)]) none 7 3).seq.watchWait = [])) ∧
    (∀ g ∈ (S1 (R 12 [(128, 2)]) none 7 3).regions, ∀ c, g.mode = .fenced c → g.sliver = []) :=
  ⟨⟨atRow_of (by decide +kernel), by decide +kernel⟩, fun g h c e => by
    rw [(List.all_eq_true.1 (by decide +kernel : (S1 (R 12 [(128, 2)]) none 7 3).regions.all (fun g => decide (g.mode = .service)) = true) g h
      |> of_decide_eq_true)] at e; cases e⟩

end StepRows

namespace Stops
open B

def R (k : Nat) (l : List (Nat × Nat)) : Row := BitVec.ofNat 1024 (k + 2^32 + l.foldl (fun x p => x + p.2 * 2^p.1) 0)
def F (s : Machine.State) : Machine.State := { s with regions := List.replicate 64 regionUp, seq := { s.seq with flight := [] } }
def S0 (w : Row) : Machine.State := F (running w)
def stpS : Machine.State := let s := S0 (R 12 [(143, 0)]); { s with seq := { s.seq with run := some { arun with stopAt := true } }, gw := { s.gw with stopCmd := some req } }
def stpR : ActiveRun := { arun with stopAt := true }

theorem witness_StopEndsTheRun :
    (AtRow (S0 (R 12 [])) arun (R 12 []) ∧ Starts 55 0 req (inState (S0 (R 12 [])) [RunState.running] && (S0 (R 12 [])).gw.powerCmd.isNone &&
    (S0 (R 12 [])).gw.stopCmd.isNone) (S0 (R 12 [])) ∧ ((S0 (R 12 [])).pair.role = Role.solo ∧ (S0 (R 12 [])).power.sleepReq = false ∧ (S0 (R
    12 [])).trust.debugWait = none ∧ (S0 (R 12 [])).gw.image = none ∧ arun.req ≠ farReq ∧ 0#8 = 0)) ∧
    (AtRow (S0 (R 12 [])) arun (R 12 []) ∧ Starts 55 0 req (inState (S0 (R 12 [])) [RunState.running] && (S0 (R 12 [])).gw.powerCmd.isNone &&
    (S0 (R 12 [])).gw.stopCmd.isNone) (S0 (R 12 [])) ∧ ((S0 (R 12 [])).pair.role = Role.solo ∧ (S0 (R 12 [])).power.sleepReq = false ∧ (S0 (R
    12 [])).trust.debugWait = none ∧ (S0 (R 12 [])).gw.image = none ∧ 1#8 = 1)) ∧
    (AtRow (S0 (R 12 [])) arun (R 12 []) ∧ Starts 55 0 req (inState (S0 (R 12 [])) [RunState.running] && (S0 (R 12 [])).gw.powerCmd.isNone &&
    (S0 (R 12 [])).gw.stopCmd.isNone) (S0 (R 12 [])) ∧ ((S0 (R 12 [])).pair.role = Role.solo ∧ (S0 (R 12 [])).power.sleepReq = false ∧ (S0 (R
    12 [])).trust.debugWait = none ∧ (S0 (R 12 [])).gw.image = none ∧ 1 < (2#8).toNat)) ∧
    (AtRow stpS stpR (R 12 []) ∧ (stpS.pair.role = Role.solo ∧ stpS.power.sleepReq = false ∧ stpS.trust.debugWait = none ∧ stpS.gw.image = none
    ∧ rowKind (R 12 []) = 12 ∧ stpR.stopAt = true ∧ stpS.reshard.active = none ∧ (∀ (g : Region), g ∈ stpS.regions → g.failing = []) ∧
    (stpS.gw.stopCmd).isSome = true)) :=
  ⟨⟨atRow_of (by decide +kernel), starts_of (by decide +kernel), by decide +kernel⟩, ⟨atRow_of (by decide +kernel), starts_of
   (by decide +kernel), by decide +kernel⟩, ⟨atRow_of (by decide +kernel), starts_of (by decide +kernel), by decide +kernel⟩, ⟨atRow_of
   (by decide +kernel), by decide +kernel⟩⟩

end Stops

namespace Members
open B

def R (k : Nat) (l : List (Nat × Nat)) : Row := BitVec.ofNat 1024 (k + 2^32 + l.foldl (fun x p => x + p.2 * 2^p.1) 0)
def F (s : Machine.State) : Machine.State := { s with regions := List.replicate 64 regionUp, seq := { s.seq with flight := [] } }
def job2 : Job := { B.job with groups := [] }
def J (s : Machine.State) : Machine.State := { s with job := job2 }
def wAR : Row := R 5 [(128,2),(136,8),(160,2),(224,512),(288,1024),(352,9)]
def fC : Flight := { id := 4, slot := false, row := 1, bits := wAR, issue := 0, stage := .collect, flags := 3, watch := [] }
def fl1 (x : Nat) : List Sys2Proof.Byte := wordBytes (BitVec.ofNat 32 x)
def m0 : CollectMsg := { group := 0, tag := 9, cop := 2, fmt := 8, count := 2, position := 0, sameTable := true, step := 17, attempt := 0, src := 1, txn := 4, data := fl1 0x3F800000 ++ fl1 0x40000000 }
def m1 : CollectMsg := { m0 with position := 1, data := fl1 0x3F800000 ++ fl1 0x7F800000 }
def cs (l : List Flight) (c : List CollectMsg) : Machine.State := let s := J (F (running 0)); { s with job := { job2 with contribs := c }, seq := { s.seq with flight := l } }
def v1 := { m1 with group := 1 }
/-- A primary whose slot holds the row on the secondary alone. -/
def farS : Machine.State := let s := cs [] []; { s with pair := { s.pair with role := .primary }, seq := { s.seq with slotA := slotW .active [0, BitVec.ofNat 1024 (wAR.toNat + 2^32), 0] } }
def v2 := { m1 with step := 16 }
def wB : Row := R 11 [(128,1),(160,9)]
def fBar : Flight := { fC with bits := wB, stage := .barrier }
def bs (w : Row) (l : List Flight) : Machine.State := let s := J (F (running w)); { s with seq := { s.seq with flight := l } }
def wG : Row := R 7 [(128,3),(136,2),(142,1),(144,6),(160,0x3E000000),(192,0x3F000000)]
def fG : Flight := { fC with bits := wG, stage := .govern }
def gs (l : List Flight) (sm : List (Nat × Nat × F32 × F32)) : Machine.State := let s := J (F (running wG)); { s with seq := { s.seq with flight := l }, job := { s.job with sums := sm } }
def note (n : List (Bool × BitVec 16 × BitVec 14)) (run : Bool) : Machine.State := let s := J (F (running 0)); { s with seq := { s.seq with run := if run then s.seq.run else none }, job := { s.job with notices := n } }

theorem witness_ContributionsWaitForTheirRow :
    (∃ l u, Taken 0 (bodyParts (.collect m1)) (opHeld 0x10) (cs [fC] [m0]) l u) ∧
    (∃ l u, Taken 0 (bodyParts (.collect m1)) (opHeld 0x10) farS l u) ∧
    (¬ (m1.step.toNat < farS.seq.step.toNat ∨ m1.step = farS.seq.step ∧ m1.attempt < attemptNow farS) ∧ contribFar farS 0 m1 = true) ∧
    (contribFar (cs [fC] [m0]) 0 v1 = false) ∧
    ((port (cs [fC] [m0]) 0).state = PortState.active ∧ ¬(v1.step.toNat < (cs [fC] [m0]).seq.step.toNat ∨ v1.step = (cs [fC] [m0]).seq.step ∧
    v1.attempt < attemptNow (cs [fC] [m0])) ∧ (∀ (f : Flight), f ∈ (cs [fC] [m0]).seq.flight → f.stage = Stage.collect → cGroup f.bits ≠
    v1.group.toNat)) ∧
    ((port (cs [fC] [m0]) 0).state = PortState.active ∧ (v2.step.toNat < (cs [fC] [m0]).seq.step.toNat ∨ v2.step = (cs [fC] [m0]).seq.step ∧
    v2.attempt < attemptNow (cs [fC] [m0]))) :=
  ⟨⟨_, _, Links.taken_none (by decide +kernel)⟩, ⟨_, _, Links.taken_none (by decide +kernel)⟩, by decide +kernel, by decide +kernel, by decide +kernel, by decide +kernel⟩

theorem witness_AllReduceAddsInTheCanonicalTree :
    (m1.position < groupLen (cs [fC] [m0]) 0 ∧ posPresent (cs [fC] [m0]) 0 m1.position = true ∧ m1.src = myNode (cs [fC] [m0])) ∧
    ((port (cs [fC] [m0]) 0).state = PortState.active ∧ (port (cs [fC] [m0]) 0).rxMsgs = [] ∧ inPair (cs [fC] [m0]) = false ∧ (cs [fC] [m0]).fab.txns = [] ∧ m1.step = (cs [fC]
    [m0]).seq.step ∧ m1.attempt = attemptNow (cs [fC] [m0]) ∧ ((cs [fC] [m0]).seq.flight).head?.any (fun x8 => decide ((cs [fC]
    [m0]).seq.flight = [x8] ∧ x8.stage = Stage.collect ∧ cCop x8.bits = 2 ∧ m1.group.toNat = cGroup x8.bits ∧ (∀ (k : Nat), k < groupLen (cs
    [fC] [m0]) (cGroup x8.bits) → posPresent (cs [fC] [m0]) (cGroup x8.bits) k = true → List.filter (fun c => decide (c.group.toNat = cGroup
    x8.bits) && decide (c.position = k) && decide (c.attempt = attemptNow (cs [fC] [m0]))) ((cs [fC] [m0]).job.contribs ++ [m1]) = [(fun k =>
    if k = 0 then m0 else m1) k] ∧ ((fun k => if k = 0 then m0 else m1) k).tag = cTag x8.bits ∧ ((fun k => if k = 0 then m0 else m1) k).cop =
    2 ∧ ((fun k => if k = 0 then m0 else m1) k).fmt.toNat = cFmt x8.bits ∧ ((fun k => if k = 0 then m0 else m1) k).count.toNat = cCount
    x8.bits ∧ ((fun k => if k = 0 then m0 else m1) k).sameTable = true))) = true) :=
  ⟨by decide +kernel, by decide +kernel⟩

theorem witness_JobBarrierWaitsForEveryMember :
    (AtRow (bs wB []) arun wB ∧ ((bs wB []).pair.role = Role.solo ∧ (bs wB []).job.started = true ∧ rowKind wB = 11 ∧ barJob wB = true ∧
    (slotOf (bs wB []) arun.slot).lowered = none ∧ (∀ (k : Nat), k ∈ otherMembers (bs wB []) (barGroup wB) → (nextHop (bs wB []) (myNode (bs
    wB [])) (rankNode (rankEntry (bs wB []) k)) none).isSome = true) ∧ (bs wB []).job.arrivals = [] ∧ otherPositions (bs wB []) (barGroup wB)
    ≠ [])) ∧
    ((bs wB []).pair.role = Role.solo ∧ (bs wB []).job.started = true ∧ (16#48).toNat < (bs wB []).seq.step.toNat) ∧
    ((bs wB []).pair.role = Role.solo ∧ (bs wB []).job.started = true ∧ (bs wB []).seq.step.toNat < (18#48).toNat ∧ (∀ (f : Flight), f ∈ (bs wB
    []).seq.flight → f.stage ≠ Stage.barrier)) ∧
    ((bs wB []).pair.role = Role.solo ∧ (bs wB []).job.started = true ∧ (∀ (f : Flight), f ∈ (bs wB []).seq.flight → f.stage ≠ Stage.barrier)) ∧
    ((bs 0 [fBar]).pair.role = Role.solo ∧ (bs 0 [fBar]).job.started = true ∧ 17#48 = (bs 0 [fBar]).seq.step ∧ ((bs 0 [fBar]).seq.run).any (fun
    x7 => decide (x7.halting = none ∧ x7.restartAt = none ∧ 0 = x7.attempt)) = true ∧ ((bs 0 [fBar]).seq.flight).head?.any (fun x8 => decide
    ((bs 0 [fBar]).seq.flight = [x8] ∧ x8.stage = Stage.barrier ∧ ((bs 0 [fBar]).seq.run).any (fun x7 => decide ((∀ (k : Nat), k ∈
    otherPositions (bs 0 [fBar]) (barGroup x8.bits) → (BitVec.ofNat 12 (barGroup x8.bits), barTag x8.bits, k, x7.attempt) ∈ (bs 0
    [fBar]).job.arrivals ++ [(0#12, 9#32, 1, 0)]))) = true)) = true) ∧
    ((bs 0 [fBar]).pair.role = Role.solo ∧ (bs 0 [fBar]).job.started = true ∧ (bs 0 [fBar]).power.sleepReq = false ∧ (bs 0
    [fBar]).trust.debugWait = none ∧ (bs 0 [fBar]).gw.image = none ∧ (bs 0 [fBar]).gw.stopCmd = none ∧ (∀ (k : Region), k ∈ (bs 0
    [fBar]).regions → k.pendingFence = none) ∧ (∀ k ∈ otherMembers (bs 0 [fBar]) 0, (nextHop (bs 0 [fBar]) (myNode (bs 0 [fBar])) (rankNode (rankEntry
    (bs 0 [fBar]) k)) none).isSome = true) ∧ ((bs 0 [fBar]).seq.run).any (fun x7 => decide (x7.halting = none)) = true ∧ ((bs 0
    [fBar]).seq.flight).head?.any (fun x8 => decide ((bs 0 [fBar]).seq.flight = [x8] ∧ x8.stage = Stage.barrier)) = true) :=
  ⟨⟨atRow_of (by decide +kernel), by decide +kernel⟩, by decide +kernel, by decide +kernel, by decide +kernel, by decide +kernel,
   by decide +kernel⟩

theorem witness_JobGovernorSumsEveryRank :
    (AtRow (gs [] []) arun wG ∧ ((gs [] []).pair.role = Role.solo ∧ (gs [] []).job.started = true ∧ rowKind wG = 7 ∧ gJob wG = true ∧ (gs []
    []).seq.watchWait = [] ∧ (∀ (j : Nat), j ∈ otherMembers (gs [] []) 0 → (nextHop (gs [] []) (myNode (gs [] [])) (rankNode (rankEntry (gs []
    []) j)) none).isSome = true) ∧ (gs [] []).job.sums = [] ∧ 1 ∈ otherMembers (gs [] []) 0)) ∧
    ((gs [] []).pair.role = Role.solo ∧ (gs [] []).job.started = true ∧ (16#48).toNat < (gs [] []).seq.step.toNat) ∧
    ((gs [] []).pair.role = Role.solo ∧ (gs [] []).job.started = true ∧ (gs [] []).seq.step.toNat < (18#48).toNat ∧ (∀ (f : Flight), f ∈ (gs []
    []).seq.flight → f.stage ≠ Stage.govern)) ∧
    ((gs [fG] [(0, 0, 1065353216, 1073741824)]).pair.role = Role.solo ∧ (gs [fG] [(0, 0, 1065353216, 1073741824)]).job.started = true ∧ 17#48 =
    (gs [fG] [(0, 0, 1065353216, 1073741824)]).seq.step ∧ ((gs [fG] [(0, 0, 1065353216, 1073741824)]).seq.run).any (fun x7 => decide
    (x7.halting = none ∧ x7.restartAt = none ∧ 0 = x7.attempt ∧ (∀ (k : Nat), k ∈ presentRanks (gs [fG] [(0, 0, 1065353216, 1073741824)]) →
    List.filter (fun y => decide (y.fst = x7.attempt) && decide (y.snd.fst = k)) ((gs [fG] [(0, 0, 1065353216, 1073741824)]).job.sums ++ [(0,
    1, 1048576000#32, 1048576000#32)]) = [(x7.attempt, k, ((fun k => if k = 0 then (1065353216, 1073741824) else (1048576000#32,
    1048576000#32)) k).fst, ((fun k => if k = 0 then (1065353216, 1073741824) else (1048576000#32, 1048576000#32)) k).snd)]))) = true ∧ ((gs
    [fG] [(0, 0, 1065353216, 1073741824)]).seq.flight).head?.any (fun x8 => decide ((gs [fG] [(0, 0, 1065353216, 1073741824)]).seq.flight =
    [x8] ∧ x8.stage = Stage.govern)) = true) :=
  ⟨⟨atRow_of (by decide +kernel), by decide +kernel⟩, by decide +kernel, by decide +kernel, by decide +kernel⟩

theorem witness_NoticesHaltOrRestartTheRun :
    ((note [] true).pair.role = Role.solo ∧ (note [] true).job.started = true ∧ ¬(false, 1#16, 2#14) ∈ (note [] true).job.notices ∧ (note []
    true).seq.flight = [] ∧ (note [] true).power.sleepReq = false ∧ (note [] true).trust.debugWait = none ∧ (note [] true).gw.image = none ∧
    ((note [] true).seq.run).any (fun x8 => decide (x8.halting = none)) = true) ∧
    ((note [] true).pair.role = Role.solo ∧ (note [] true).job.started = true ∧ (1#16).toNat ≠ (note [] true).job.myRank ∧ (∀ f ∈ (note [] true).seq.flight, f.stage ≠ .reshard) ∧ ¬(true, 1#16, 2#14)
    ∈ (note [] true).job.notices ∧ (note [] true).seq.flight = [] ∧ (note [] true).power.sleepReq = false ∧ (note [] true).trust.debugWait =
    none ∧ (note [] true).gw.image = none ∧ ((note [] true).seq.run).any (fun x8 => decide (x8.halting = none)) = true) ∧
    ((note [] true).pair.role = Role.solo ∧ (note [] true).job.started = true ∧ ((0#16).toNat = (note [] true).job.myRank ∨ (true, 0#16, 2#14)
    ∈ (note [] true).job.notices)) ∧
    ((note [] true).pair.role = Role.solo ∧ (note [] true).job.started = true ∧ (16#48 ≠ (note [] true).seq.step ∨ 0 ≤ attemptNow (note []
    true))) ∧
    ((note [] true).pair.role = Role.solo ∧ (note [] true).job.started = true ∧ (note [] true).seq.flight = [] ∧ 17#48 = (note []
    true).seq.step ∧ ((note [] true).seq.entryVerdict).isSome = true ∧ ((note [] true).seq.run).any (fun x8 => decide (x8.halting = none ∧
    x8.abandoning = none ∧ x8.attempt < 1)) = true) ∧
    ((note [] false).pair.role = Role.solo ∧ (note [] false).job.started = true ∧ ¬(false, 1#16, 2#14) ∈ (note [] false).job.notices ∧ (note []
    false).seq.run = none) ∧
    ((note [] false).pair.role = Role.solo ∧ (note [] false).job.started = true ∧ (1#16).toNat ≠ (note [] false).job.myRank ∧ ¬(true, 1#16,
    2#14) ∈ (note [] false).job.notices ∧ (note [] false).seq.run = none) ∧
    ((note [(false, 1, 2), (true, 1, 2)] true).pair.role = Role.solo ∧ (note [(false, 1, 2), (true, 1, 2)] true).job.started = true ∧ (false,
    1#16, 2#14) ∈ (note [(false, 1, 2), (true, 1, 2)] true).job.notices) :=
  ⟨by decide +kernel, by decide +kernel, by decide +kernel, by decide +kernel, by decide +kernel, by decide +kernel, by decide +kernel,
   by decide +kernel⟩

end Members

namespace Ferry
open B

def sref (a : Nat) : Nat := a + 255 * 2^18
def R (k : Nat) (l : List (Nat × Nat)) : Row := BitVec.ofNat 1024 (k + 2^32 + l.foldl (fun x p => x + p.2 * 2^p.1) 0)
def F (s : Machine.State) : Machine.State := { s with regions := List.replicate 64 regionUp, seq := { s.seq with flight := [] } }
def job2 : Job := { B.job with groups := [] }
def J (s : Machine.State) : Machine.State := { s with job := job2 }
def wAR : Row := R 5 [(128,2),(136,8),(160,2),(224,512),(288,1024),(352,9)]
def fC : Flight := { id := 4, slot := false, row := 1, bits := wAR, issue := 0, stage := .collect, flags := 3, watch := [] }
def wD : Row := R 6 [(128,0),(144,3),(160,2),(288,4),(320,8),(352,8),(256, sref 40)]
def wRet : Row := R 6 [(128,1),(144,3),(160,2),(288,4),(320,8),(352,8),(256, sref 40)]
def fD : Flight := { fC with bits := wD, stage := .dispatch }
def fR : Flight := { fC with bits := wRet, stage := .ferryReturn }
def fm : Sys2Proof.FerryMsg := { table := 3, isReturn := false, wave := false, position := 1, region := 2, token := 1, entry := 0, expert := 4, step := 17, attempt := 0, data := [1,2,3] }
def ht : HomeTable := { group := 0, entries := [1, 2] }
def fst0 : FerryState := { FerryState.start with awaited := [(4,false),(5,false)], admitted := [false, true], owed := [(0, 2,1,0),(0, 2,2,0)], arrivals := [(0, fm), (0, { fm with token := 0 }), (0, { fm with position := 0 }), (0, { fm with expert := 5})] }
def fs (l : List Flight) (z : FerryState) : Machine.State := let s := J (F (running 0)); { s with seq := { s.seq with flight := l }, job := { s.job with homes := [(3, ht)], ferryRow := wD, ferryNow := [(3, z)], ferry := [(3, ⟨1,2,3,4⟩)] } }
def ad (l : List (BitVec 7 × BitVec 32 × BitVec 3)) : Admission := { table := 3, wave := false, expert := 4, refused := l, step := 17, attempt := 0 }
def v2 := { fm with isReturn := true }
def v3 := { fm with step := 16 }
/-- A RETURN row in flight that is owed two pairs. -/
def fst1 : FerryState := { fst0 with returns := [(4, 0)] }
def v4 := { (fs [fD] fst0) with seq := { (fs [fD] fst0).seq with run := none } }

theorem witness_FerryMessagesReachTheirTable :
    (∀ z l m, (fs l z).job.started = true ∧ ∃ t u, Taken 0 (bodyParts (.ferry m)) (opHeld 0x20) (fs l z) t u) ∧
    (fm.step = (fs [] fst0).seq.step ∧ fm.attempt = attemptNow (fs [] fst0) ∧ fm.isReturn = false ∧ (fs [] fst0).seq.flight = []) ∧
    (v3.step.toNat < (fs [] fst0).seq.step.toNat) ∧
    (v2.step = (fs [] fst0).seq.step ∧ v2.attempt = attemptNow (fs [] fst0) ∧ v2.isReturn = true ∧
      (ferryState (fs [] fst0) v2.table.toNat).returns = [] ∧ ∀ f ∈ (fs [] fst0).seq.flight, f.stage ≠ .dispatch) ∧
    (v2.step = (fs [fR] fst1).seq.step ∧ v2.attempt = attemptNow (fs [fR] fst1) ∧ v2.isReturn = true ∧ (fs [fR] fst1).seq.flight = [fR] ∧
      fR.stage = .ferryReturn ∧ (ferryState (fs [fR] fst1) v2.table.toNat).returns = [(fR.id, 0)] ∧
      (0, v2.region, v2.token, v2.entry) ∈ (ferryState (fs [fR] fst1) v2.table.toNat).owed) ∧
    ((16#48).toNat < (fs [] fst0).seq.step.toNat ∧ 17#48 = (fs [] fst0).seq.step ∧ 0 = attemptNow (fs [] fst0)) ∧
    ((fs [fD] fst0).seq.flight = [fD] ∧ fD.stage = .dispatch ∧ fHomes fD.bits = (ad []).table.toNat ∧ (ad []).step = (fs [fD] fst0).seq.step ∧
      (ad []).attempt = attemptNow (fs [fD] fst0) ∧ (∀ v, (ferryState (fs [fD] fst0) (ad []).table.toNat).admitted.contains v = true) ∧
      (∃ x ∈ (ferryState (fs [fD] fst0) (ad []).table.toNat).awaited.erase ((ad []).expert, (ad []).wave), x.2 = false) ∧ (ad []).refused = [] ∧
      (ad [(2, 1, 0)]).refused = [(2, 1, 0)] ∧ fPolicy fD.bits = 0) :=
  ⟨fun z l m => ⟨rfl, _, _, Links.taken_none ⟨rfl, rfl⟩⟩, by decide +kernel, by decide +kernel, by decide +kernel, by decide +kernel,
   by decide +kernel, by decide +kernel⟩

theorem witness_AdmissionTakesTheLowestKeys :
    (v4.seq.run = none) :=
  by decide +kernel

end Ferry

namespace Reshards
open B

def R (k : Nat) (l : List (Nat × Nat)) : Row := BitVec.ofNat 1024 (k + 2^32 + l.foldl (fun x p => x + p.2 * 2^p.1) 0)
def F (s : Machine.State) : Machine.State := { s with regions := List.replicate 64 regionUp, seq := { s.seq with flight := [] } }
def wAR : Row := R 5 [(128,2),(136,8),(160,2),(224,512),(288,1024),(352,9)]
def fC : Flight := { id := 4, slot := false, row := 1, bits := wAR, issue := 0, stage := .collect, flags := 3, watch := [] }
def je (st : BitVec 2) (rd : Nat) : JournalEntry :=
  let e : JournalEntry := { rid := 6, round := BitVec.ofNat 16 rd, state := st, ttdig := 5, next := 2, slot := false, pcycle := 4, crc := 0 }
  { e with crc := crc32c (journalBody e) }
def rs (st : BitVec 2) (prep : Bool) (j : Job) (js : SMap JournalEntry) (lands : Bool) : Machine.State := let s := F (running 0)
  { s with gw := { s.gw with runstate := .halted }, job := j, seq := { s.seq with run := none, flight := [], slotA := { s.seq.slotA with state := .loaded }}, reshard := { Reshard.reset with active := some (6, 1, 2), prepared := prep, journalA := je st 1, journals := js, landed := if lands then [(256, 1)] else [] } }
def wRs : Row := R 5 [(128,4),(144,0),(224,512), (352, 6)]
def fRs : Flight := { fC with bits := wRs, stage := .reshard }
def rp (j : Job) (prep : Bool) (fl : List Flight) : Machine.State := let s := rs 1 prep j [] false; let b := running 0; { s with gw := b.gw, seq := { b.seq with flight := fl } }

theorem witness_ReshardRoundsCommitOrRollBack :
    ((rs 1 true soloJob [] false).pair.role = Role.solo ∧ (rs 1 true soloJob [] false).job.started = true ∧ (∀ (f : Flight), f ∈ (rs 1 true
    soloJob [] false).seq.flight → f.stage ≠ Stage.reshard)) ∧
    ((rs 1 true soloJob [] false).pair.role = Role.solo ∧ ((rs 1 true soloJob [] false).reshard.active = none ∨ (rs 1 true soloJob []
    false).reshard.prepared = true ∨ (rs 1 true soloJob [] false).reshard.incoming ≠ [] ∨ ∀ (f : Flight), f ∈ (rs 1 true soloJob []
    false).seq.flight → f.stage ≠ Stage.reshard)) ∧
    ((rs 1 true soloJob [] false).pair.role = Role.solo ∧ (rs 1 true soloJob [] false).job.started = true ∧ (rs 1 true soloJob []
    false).gw.resume = none ∧ (rs 1 true soloJob [] false).reshard.active ≠ none) ∧
    (Starts 58 0 req (inState (rs 1 true soloJob [] false) [RunState.halted] && runGroupFree (rs 1 true soloJob [] false) && resumable (rs 1
    true soloJob [] false) 6) (rs 1 true soloJob [] false) ∧ ((rs 1 true soloJob [] false).pair.role = Role.solo ∧ otherMembers (rs 1 true
    soloJob [] false) 0 = [] ∧ (rs 1 true soloJob [] false).reshard.journals = [] ∧ (rs 1 true soloJob [] false).reshard.landed = [] ∧ ((rs 1
    true soloJob [] false).reshard.active).any (fun x8 => decide ((rs 1 true soloJob [] false).reshard.active = some (x8.fst, x8.snd.fst,
    x8.snd.snd) ∧ (journalOf (rs 1 true soloJob [] false) x8.fst).state ≠ 2)) = true)) ∧
    (Starts 58 0 req (inState (rs 2 true soloJob [] false) [RunState.halted] && runGroupFree (rs 2 true soloJob [] false) && resumable (rs 2
    true soloJob [] false) 6) (rs 2 true soloJob [] false) ∧ ((rs 2 true soloJob [] false).pair.role = Role.solo ∧ otherMembers (rs 2 true
    soloJob [] false) 0 = [] ∧ (rs 2 true soloJob [] false).reshard.journals = [] ∧ ((rs 2 true soloJob [] false).reshard.active).any (fun x8
    => decide ((rs 2 true soloJob [] false).reshard.active = some (x8.fst, x8.snd.fst, x8.snd.snd) ∧ (journalOf (rs 2 true soloJob [] false)
    x8.fst).state = 2 ∧ (journalOf (rs 2 true soloJob [] false) x8.fst).round.toNat = x8.snd.fst)) = true)) ∧
    (Starts 58 0 req (inState (rs 1 true job [] false) [RunState.halted] && runGroupFree (rs 1 true job [] false) && resumable (rs 1 true job
    [] false) 6) (rs 1 true job [] false) ∧ ((rs 1 true job [] false).pair.role = Role.solo ∧ 1 ∈ otherMembers (rs 1 true job [] false) 0 ∧
    (∀ j ∈ otherMembers (rs 1 true job [] false) 0, (nextHop (rs 1 true job [] false) (myNode (rs 1 true job [] false)) (rankNode (rankEntry
    (rs 1 true job [] false) j)) none).isSome = true) ∧ (rs 1 true job [] false).reshard.journals = [] ∧ otherMembers (rs 1 true job [] false) 0 = [1] ∧ (rs 1 true job [] false).job.started =
    true ∧ (rs 1 true job [] false).reshard.prepared = true ∧ (rs 1 true job [] false).reshard.landed = [] ∧ (rs 1 true job []
    false).reshard.vacate = [] ∧ (je 2 1).state = 2 ∧ ((rs 1 true job [] false).reshard.active).any (fun x8 => decide ((rs 1 true job []
    false).reshard.active = some (x8.fst, x8.snd.fst, x8.snd.snd) ∧ (journalOf (rs 1 true job [] false) x8.fst).state = 1 ∧ (journalOf (rs 1
    true job [] false) x8.fst).round.toNat = x8.snd.fst ∧ (je 2 1).rid = x8.fst ∧ (je 2 1).round.toNat = x8.snd.fst)) = true)) ∧
    ((rp soloJob false [fRs]).pair.role = Role.solo ∧ (rp soloJob false [fRs]).reshard.prepared = false ∧ (rp soloJob false
    [fRs]).reshard.incoming = [] ∧ (rp soloJob false [fRs]).fab.txns = [] ∧ ((rp soloJob false [fRs]).seq.flight).head?.any (fun x7 => decide
    ((rp soloJob false [fRs]).seq.flight = [x7] ∧ x7.stage = Stage.reshard ∧ outgoingDone (rp soloJob false [fRs]) x7.bits = true ∧
    otherMembers (rp soloJob false [fRs]) (cGroup x7.bits) = [] ∧ otherPositions (rp soloJob false [fRs]) (cGroup x7.bits) = [])) = true ∧
    ((rp soloJob false [fRs]).reshard.active).any (fun x8 => decide ((rp soloJob false [fRs]).reshard.active = some (x8.fst, x8.snd.fst,
    x8.snd.snd))) = true) ∧
    ((rp job true [fRs]).pair.role = Role.solo ∧ (rp job true [fRs]).job.started = true ∧ (rp job true [fRs]).seq.flight = [fRs] ∧
    (rp job true [fRs]).reshard.active.isSome = true ∧ (rp job true [fRs]).seq.run = some arun ∧ arun.halting = none ∧
    (rp job true [fRs]).reshard.ready = [] ∧ 1 ∈ otherPositions (rp job true [fRs]) (cGroup fRs.bits) ∧ (7#40).toNat ≠ cCount fRs.bits) :=
  ⟨by decide +kernel, by decide +kernel, by decide +kernel, ⟨starts_of (by decide +kernel), by decide +kernel⟩, ⟨starts_of
   (by decide +kernel), by decide +kernel⟩, ⟨starts_of (by decide +kernel), by decide +kernel⟩, by decide +kernel, by decide +kernel⟩

end Reshards

namespace Jobs
open B

def R (k : Nat) (l : List (Nat × Nat)) : Row := BitVec.ofNat 1024 (k + 2^32 + l.foldl (fun x p => x + p.2 * 2^p.1) 0)
def F (s : Machine.State) : Machine.State := { s with regions := List.replicate 64 regionUp, seq := { s.seq with flight := [] } }
def je (st : BitVec 2) (rd : Nat) : JournalEntry :=
  let e : JournalEntry := { rid := 6, round := BitVec.ofNat 16 rd, state := st, ttdig := 5, next := 2, slot := false, pcycle := 4, crc := 0 }
  { e with crc := crc32c (journalBody e) }
def rs (st : BitVec 2) (prep : Bool) (j : Job) (js : SMap JournalEntry) (lands : Bool) : Machine.State := let s := F (running 0)
  { s with gw := { s.gw with runstate := .halted }, job := j, seq := { s.seq with run := none, flight := [], slotA := { s.seq.slotA with state := .loaded }}, reshard := { Reshard.reset with active := some (6, 1, 2), prepared := prep, journalA := je st 1, journals := js, landed := if lands then [(256, 1)] else [] } }
def rkE (n : Nat) : BitVec 64 := BitVec.ofNat 64 (n + 2^14)
def pj (src : Nat) (n : Nat) (det : Nat) (my : Nat) : Sys2Proof.JobParams := { seed := 5, determinism := BitVec.ofNat 8 det, source := BitVec.ofNat 8 src, timeout := 3, ranks := BitVec.ofNat 16 n, myRank := BitVec.ofNat 16 my, nGroup := 0, nHome := 0, reserved := 0, rankTable := (List.range n).map (fun k => rkE (k+1)), groups := [], homes := [] }
def em (s : Machine.State) : Machine.State := { s with seq := { s.seq with slotA := Slot.empty, slotB := Slot.empty, run := none } }
def clm (f l : Nat) : Claim := { node := 1, half := false, tensor := 3, first := f, last := l, slot := false, row := 2 }
def jn (p : Sys2Proof.JobParams) (h : List Nat) (c : List Claim) : JoinJob := { req := req, params := p, heard := h, claims := c, remapped := [] }
def sj (j : Option JoinJob) : Machine.State := let s := em up; { s with regions := List.replicate 64 regionUp, gw := { s.gw with join := j, runstate := .ready } }
def eJ (rs : RunState) (j : Job) : Machine.State := let s := em up; { s with job := j, gw := { s.gw with runstate := rs } }
def stepRow (n e : Nat) : Row := R 12 [(128, n), (143, e)]
def lr (st : SlotState) (rows : List Row) : Machine.State := let s := eJ .job B.soloJob; { s with regions := List.replicate 64 regionUp, seq := { s.seq with slotA := { state := st, rows := rows, digest := 5, entry := 0, lowered := none } } }
def fenceR (s : Machine.State) : Machine.State := { s with regions := (List.replicate 64 regionUp).set 2 { regionUp with mode := .fenced .selftest } }
def tripped (s : Machine.State) : Machine.State := { s with thermal := { s.thermal with tripped := true } }

theorem witness_JobStartJoinsTheMembers :
    (Claims.slotsEmpty (sj none) ∧ Starts 53 0 req (inState (sj none) [RunState.ready] && runGroupFree (sj none)) (sj none) ∧ ((sj
    none).pair.role = Role.solo ∧ (pj 0 1 0 0).source = 0 ∧ jobFieldsOk (pj 0 1 0 0) = true ∧ tablesOk (pj 0 1 0 0) = true ∧ (∀ k ∈ otherMembers (asJob (pj 0 1 0 0) (sj none)) 0, (nextHop (sj none) (myNode (sj none)) (rankNode (rankEntry
    (asJob (pj 0 1 0 0) (sj none)) k)) none).isSome = true) ∧ (sj
    none).gw.claimsHeld = [])) ∧
    (Claims.slotsEmpty (sj none) ∧ Starts 53 0 req (inState (sj none) [RunState.ready] && runGroupFree (sj none)) (sj none) ∧ ((sj
    none).pair.role = Role.solo ∧ (pj 0 2 3 0).source = 0 ∧ jobFieldsOk (pj 0 2 3 0) = false)) ∧
    (Claims.slotsEmpty (sj none) ∧ Starts 53 0 req (inState (sj none) [RunState.ready] && runGroupFree (sj none)) (sj none) ∧ ((sj
    none).pair.role = Role.solo ∧ (pj 0 1 0 1).source = 0 ∧ jobFieldsOk (pj 0 1 0 1) = true ∧ tablesOk (pj 0 1 0 1) = false)) ∧
    (Claims.slotsEmpty (sj none) ∧ ((sj none).pair.role = Role.solo ∧ (sj none).gw.join = none ∧ (sj none).power.rails = true)) ∧
    (Claims.slotsEmpty (sj (some (jn (pj 0 2 0 0) [] [clm 0 10]))) ∧ ((sj (some (jn (pj 0 2 0 0) [] [clm 0 10]))).pair.role = Role.solo ∧ ((sj
    (some (jn (pj 0 2 0 0) [] [clm 0 10]))).gw.join).any (fun x8 => decide (allHeard (sj (some (jn (pj 0 2 0 0) [] [clm 0 10]))) x8 = false))
    = true)) ∧
    (Claims.slotsEmpty (sj (some (jn (pj 0 2 0 0) [] [clm 0 10]))) ∧ ((sj (some (jn (pj 0 2 0 0) [] [clm 0 10]))).pair.role = Role.solo ∧ (sj
    (some (jn (pj 0 2 0 0) [] [clm 0 10]))).power.rails = true ∧ ((sj (some (jn (pj 0 2 0 0) [] [clm 0 10]))).gw.join).any (fun x8 => decide
    ((relaxedJob x8.params = true ∨ claimPair x8.claims [clm 12 20] = none))) = true)) ∧
    (Claims.slotsEmpty (sj (some (jn (pj 0 2 0 0) [] [clm 0 10]))) ∧ ((sj (some (jn (pj 0 2 0 0) [] [clm 0 10]))).pair.role = Role.solo ∧ (sj
    (some (jn (pj 0 2 0 0) [] [clm 0 10]))).power.rails = true ∧ ((sj (some (jn (pj 0 2 0 0) [] [clm 0 10]))).gw.join).any (fun x8 => decide
    (relaxedJob x8.params = false ∧ claimPair x8.claims [clm 11 20] = some (clm 0 10, clm 11 20))) = true)) ∧
    (Claims.slotsEmpty (sj (some (jn (pj 0 2 0 0) [1] [clm 0 10]))) ∧ ((sj (some (jn (pj 0 2 0 0) [1] [clm 0 10]))).pair.role = Role.solo ∧
    ((sj (some (jn (pj 0 2 0 0) [1] [clm 0 10]))).gw.join).any (fun x8 => decide (allHeard (sj (some (jn (pj 0 2 0 0) [1] [clm 0 10]))) x8 =
    true ∧ domainOf x8.params.rankTable ≤ 1024 ∧ x8.remapped = [])) = true)) :=
  ⟨⟨slotsEmpty_of (by decide +kernel), starts_of (by decide +kernel), by decide +kernel⟩, ⟨slotsEmpty_of (by decide +kernel), starts_of
   (by decide +kernel), by decide +kernel⟩, ⟨slotsEmpty_of (by decide +kernel), starts_of (by decide +kernel), by decide +kernel⟩,
   ⟨slotsEmpty_of (by decide +kernel), by decide +kernel⟩, ⟨slotsEmpty_of (by decide +kernel), by decide +kernel⟩, ⟨slotsEmpty_of
   (by decide +kernel), by decide +kernel⟩, ⟨slotsEmpty_of (by decide +kernel), by decide +kernel⟩, ⟨slotsEmpty_of (by decide +kernel),
   by decide +kernel⟩⟩

theorem witness_ClaimPairFindsAnOverlap :
    (claimPair [clm 0 10, clm 100 200] [clm 0 10, clm 100 200] = some (clm 0 10, clm 0 10)) :=
  by decide +kernel

theorem witness_JobEndAndRankAbsent :
    (Claims.slotsEmpty (eJ RunState.job job) ∧ Starts 56 0 req (inState (eJ RunState.job job) [RunState.job, RunState.halted] && runGroupFree
    (eJ RunState.job job)) (eJ RunState.job job) ∧ ((eJ RunState.job job).pair.role = Role.solo)) ∧
    (Claims.slotsEmpty (eJ RunState.job job) ∧ Starts 57 0 req (inState (eJ RunState.job job) [RunState.job, RunState.halted] && runGroupFree
    (eJ RunState.job job)) (eJ RunState.job job) ∧ ((eJ RunState.job job).pair.role = Role.solo ∧ ((0#16).toNat = (eJ RunState.job
    job).job.myRank ∨ (eJ RunState.job job).job.ranks ≤ (0#16).toNat))) ∧
    (Claims.slotsEmpty (eJ RunState.job job) ∧ Starts 57 0 req (inState (eJ RunState.job job) [RunState.job, RunState.halted] && runGroupFree
    (eJ RunState.job job)) (eJ RunState.job job) ∧ ((eJ RunState.job job).pair.role = Role.solo ∧ (1#16).toNat ≠ (eJ RunState.job
    job).job.myRank ∧ (1#16).toNat < (eJ RunState.job job).job.ranks ∧ (1#16).toNat < (eJ RunState.job job).job.rankTable.length ∧ (0#16 =
    65535 ∨ 0#16 ≠ 1#16 ∧ (0#16).toNat < (eJ RunState.job job).job.ranks ∧ rankPresent (rankEntry (eJ RunState.job job) (0#16).toNat) = true)
    ∧ 0 ≠ (1#16).toNat)) ∧
    (Claims.slotsEmpty (eJ RunState.job job) ∧ Starts 57 0 req (inState (eJ RunState.job job) [RunState.job, RunState.halted] && runGroupFree
    (eJ RunState.job job)) (eJ RunState.job job) ∧ ((eJ RunState.job job).pair.role = Role.solo ∧ (1#16).toNat ≠ (eJ RunState.job
    job).job.myRank ∧ (1#16).toNat < (eJ RunState.job job).job.ranks ∧ 1#16 ≠ 65535 ∧ (1#16 = 1#16 ∨ (eJ RunState.job job).job.ranks ≤
    (1#16).toNat ∨ rankPresent (rankEntry (eJ RunState.job job) (1#16).toNat) = false))) :=
  ⟨⟨slotsEmpty_of (by decide +kernel), starts_of (by decide +kernel), by decide +kernel⟩, ⟨slotsEmpty_of (by decide +kernel), starts_of
   (by decide +kernel), by decide +kernel⟩, ⟨slotsEmpty_of (by decide +kernel), starts_of (by decide +kernel), by decide +kernel⟩,
   ⟨slotsEmpty_of (by decide +kernel), starts_of (by decide +kernel), by decide +kernel⟩⟩

theorem witness_RunBeginsAtAnEntryRow :
    (waits req (tripped (lr SlotState.loaded [R 0 [], stepRow 1 0, R 0 [], stepRow 0 1])) = false ∧ (tripped (lr SlotState.loaded [R 0 [],
    stepRow 1 0, R 0 [], stepRow 0 1])).thermal.tripped = true ∧ gate 0x36 0 req true (tripped (lr SlotState.loaded [R 0 [], stepRow 1
    0, R 0 [], stepRow 0 1])) = none) ∧ (Starts 54 0 req (inState (lr SlotState.loaded [R 0 [], stepRow 1 0, R 0 [], stepRow 0 1])
    [RunState.job, RunState.halted] && runGroupFree (lr SlotState.loaded [R 0 [], stepRow 1 0, R 0 [], stepRow 0 1]) && !(lr
    SlotState.loaded [R 0 [], stepRow 1 0, R 0 [], stepRow 0 1]).thermal.tripped && onNamed 0#8 fun b => slotIs (lr SlotState.loaded [R
    0 [], stepRow 1 0, R 0 [], stepRow 0 1]) b [SlotState.loaded] && !slotBusy (lr SlotState.loaded [R 0 [], stepRow 1 0, R 0 [],
    stepRow 0 1]) b) (lr SlotState.loaded [R 0 [], stepRow 1 0, R 0 [], stepRow 0 1]) ∧ ((0#8).toNat ≤ 1 ∧ (lr SlotState.loaded [R 0 [],
    stepRow 1 0, R 0 [], stepRow 0 1]).gw.runstate = RunState.job ∧ (lr SlotState.loaded [R 0 [], stepRow 1 0, R 0 [], stepRow 0
    1]).pair.role = Role.solo ∧ (∀ (g : Region), g ∈ (lr SlotState.loaded [R 0 [], stepRow 1 0, R 0 [], stepRow 0 1]).regions → g.failing = [] ∧ g.pendingFence = none) ∧ (0#32).toNat ∈ entryRows (slotOf (lr SlotState.loaded [R 0 [], stepRow 1 0, R 0 [], stepRow 0 1]) (decide (0#8 =
    1))).rows ∧ fencedRow (lr SlotState.loaded [R 0 [], stepRow 1 0, R 0 [], stepRow 0 1]) (slotOf (lr SlotState.loaded [R 0 [], stepRow
    1 0, R 0 [], stepRow 0 1]) (decide (0#8 = 1))).rows = none)) ∧ (Starts 54 0 req (inState (lr SlotState.loaded [R 0 [], stepRow 1 0,
    R 0 [], stepRow 0 1]) [RunState.job, RunState.halted] && runGroupFree (lr SlotState.loaded [R 0 [], stepRow 1 0, R 0 [], stepRow 0
    1]) && !(lr SlotState.loaded [R 0 [], stepRow 1 0, R 0 [], stepRow 0 1]).thermal.tripped && onNamed 0#8 fun b => slotIs (lr
    SlotState.loaded [R 0 [], stepRow 1 0, R 0 [], stepRow 0 1]) b [SlotState.loaded] && !slotBusy (lr SlotState.loaded [R 0 [], stepRow
    1 0, R 0 [], stepRow 0 1]) b) (lr SlotState.loaded [R 0 [], stepRow 1 0, R 0 [], stepRow 0 1]) ∧ ((0#8).toNat ≤ 1 ∧ (lr
    SlotState.loaded [R 0 [], stepRow 1 0, R 0 [], stepRow 0 1]).gw.runstate = RunState.job ∧ (lr SlotState.loaded [R 0 [], stepRow 1 0,
    R 0 [], stepRow 0 1]).pair.role = Role.solo ∧ (∀ (g : Region), g ∈ (lr SlotState.loaded [R 0 [], stepRow 1 0, R 0 [], stepRow 0
    1]).regions → g.failing = [] ∧ g.pendingFence = none) ∧ (0#32).toNat ∈ entryRows (slotOf (lr SlotState.loaded [R 0 [], stepRow 1 0, R 0 [], stepRow 0 1])
    (decide (0#8 = 1))).rows ∧ 1 < (2#8).toNat)) ∧ (Starts 54 0 req (inState (lr SlotState.loaded [R 0 [], stepRow 1 0, R 0 [], stepRow
    0 1]) [RunState.job, RunState.halted] && runGroupFree (lr SlotState.loaded [R 0 [], stepRow 1 0, R 0 [], stepRow 0 1]) && !(lr
    SlotState.loaded [R 0 [], stepRow 1 0, R 0 [], stepRow 0 1]).thermal.tripped && onNamed 0#8 fun b => slotIs (lr SlotState.loaded [R
    0 [], stepRow 1 0, R 0 [], stepRow 0 1]) b [SlotState.loaded] && !slotBusy (lr SlotState.loaded [R 0 [], stepRow 1 0, R 0 [],
    stepRow 0 1]) b) (lr SlotState.loaded [R 0 [], stepRow 1 0, R 0 [], stepRow 0 1]) ∧ ((0#8).toNat ≤ 1 ∧ (lr SlotState.loaded [R 0 [],
    stepRow 1 0, R 0 [], stepRow 0 1]).gw.runstate = RunState.job ∧ (lr SlotState.loaded [R 0 [], stepRow 1 0, R 0 [], stepRow 0
    1]).pair.role = Role.solo ∧ (∀ (g : Region), g ∈ (lr SlotState.loaded [R 0 [], stepRow 1 0, R 0 [], stepRow 0 1]).regions → g.failing = [] ∧ g.pendingFence = none) ∧ ¬(3#32).toNat ∈ entryRows (slotOf (lr SlotState.loaded [R 0 [], stepRow 1 0, R 0 [], stepRow 0 1]) (decide (0#8 =
    1))).rows)) ∧ (Starts 54 0 req (inState (fenceR (lr SlotState.loaded [stepRow 1 0, R 1 [(64, 5)]])) [RunState.job, RunState.halted]
    && runGroupFree (fenceR (lr SlotState.loaded [stepRow 1 0, R 1 [(64, 5)]])) && !(fenceR (lr SlotState.loaded [stepRow 1 0, R 1 [(64,
    5)]])).thermal.tripped && onNamed 0#8 fun b => slotIs (fenceR (lr SlotState.loaded [stepRow 1 0, R 1 [(64, 5)]])) b
    [SlotState.loaded] && !slotBusy (fenceR (lr SlotState.loaded [stepRow 1 0, R 1 [(64, 5)]])) b) (fenceR (lr SlotState.loaded [stepRow
    1 0, R 1 [(64, 5)]])) ∧ ((0#8).toNat ≤ 1 ∧ (fenceR (lr SlotState.loaded [stepRow 1 0, R 1 [(64, 5)]])).gw.runstate = RunState.job ∧
    (fenceR (lr SlotState.loaded [stepRow 1 0, R 1 [(64, 5)]])).pair.role = Role.solo ∧ (∀ (g : Region), g ∈ (fenceR (lr
    SlotState.loaded [stepRow 1 0, R 1 [(64, 5)]])).regions → g.failing = [] ∧ g.pendingFence = none) ∧ (0#32).toNat ∈ entryRows (slotOf (fenceR (lr
    SlotState.loaded [stepRow 1 0, R 1 [(64, 5)]])) (decide (0#8 = 1))).rows ∧ (fencedRow (fenceR (lr SlotState.loaded [stepRow 1 0, R 1
    [(64, 5)]])) (slotOf (fenceR (lr SlotState.loaded [stepRow 1 0, R 1 [(64, 5)]])) (decide (0#8 = 1))).rows).isSome = true)) :=
  ⟨by decide+kernel, ⟨starts_of (by decide +kernel), by decide +kernel⟩, ⟨starts_of (by decide +kernel), by decide +kernel⟩, ⟨starts_of
   (by decide +kernel), by decide +kernel⟩, ⟨starts_of (by decide +kernel), by decide +kernel⟩⟩

end Jobs

namespace Slots
open B

def R (k : Nat) (l : List (Nat × Nat)) : Row := BitVec.ofNat 1024 (k + 2^32 + l.foldl (fun x p => x + p.2 * 2^p.1) 0)
def F (s : Machine.State) : Machine.State := { s with regions := List.replicate 64 regionUp, seq := { s.seq with flight := [] } }
def je (st : BitVec 2) (rd : Nat) : JournalEntry :=
  let e : JournalEntry := { rid := 6, round := BitVec.ofNat 16 rd, state := st, ttdig := 5, next := 2, slot := false, pcycle := 4, crc := 0 }
  { e with crc := crc32c (journalBody e) }
def rs (st : BitVec 2) (prep : Bool) (j : Job) (js : SMap JournalEntry) (lands : Bool) : Machine.State := let s := F (running 0)
  { s with gw := { s.gw with runstate := .halted }, job := j, seq := { s.seq with run := none, flight := [], slotA := { s.seq.slotA with state := .loaded }}, reshard := { Reshard.reset with active := some (6, 1, 2), prepared := prep, journalA := je st 1, journals := js, landed := if lands then [(256, 1)] else [] } }
def em (s : Machine.State) : Machine.State := { s with seq := { s.seq with slotA := Slot.empty, slotB := Slot.empty, run := none } }
def eJ (rs : RunState) (j : Job) : Machine.State := let s := em up; { s with job := j, gw := { s.gw with runstate := rs } }
def stepRow (n e : Nat) : Row := R 12 [(128, n), (143, e)]
def lr (st : SlotState) (rows : List Row) : Machine.State := let s := eJ .job B.soloJob; { s with regions := List.replicate 64 regionUp, seq := { s.seq with slotA := { state := st, rows := rows, digest := 5, entry := 0, lowered := none } } }
def ld (st : SlotState) (rows : List Row) (j : Option LoadJob) : Machine.State := let s := lr st rows; { s with gw := { s.gw with loadA := j } }
def okRows : List Row := [R 0 [], stepRow 0 1]
def lj (rows : List Row) : LoadJob := { req := req2, rows := rows, fetched := false }
def armS : Machine.State := let s := F (running (stepRow 0 1)); { s with seq := { s.seq with slotB := { state := .loaded, rows := [R 0 [], stepRow 1 0, stepRow 0 1], digest := 5, entry := 0, lowered := none }}}
def sec (k : Nat) : List Sys2Proof.Byte := leBytes 16 (k + 16 * 2^64)
def pl (mi : Nat) (ts : List Sys2Proof.PlanTensor) : Sys2Proof.Plan :=
  { (default : Sys2Proof.Plan) with bytes := leBytes 32 (0x4F4B4558 + 1*2^32 + mi * 2^40 + 80 * 2^64 + 3 * 2^96 + 1 * 2^128) ++ sec 1 ++ sec 2 ++ sec 6, tensors := ts, newest := 1, rankTable := [0] }
/-- A tensor of n elements of the format U8, at a level. -/
def pt (i lvl n : Nat) : Sys2Proof.PlanTensor := { (default : Sys2Proof.PlanTensor) with ident := BitVec.ofNat 32 i, dims := [1, n], format := 0x80, level := lvl }
def tu (i lvl al rd : Nat) : TensorUse := { ident := BitVec.ofNat 32 i, level := lvl, alloc := al, reads := rd, copied := 5, half := 0 }
/-- A candidate of one PASS row that serves a PRODUCT passage. -/
def prod : Sys2Proof.Passage := { (default : Sys2Proof.Passage) with ident := 7, kind := .product, shifts := some (0, 0), cover := 1 }
def PP : Sys2Proof.Plan := { pl 1 [] with passages := [prod], step := [some 7] }
def cand : Config.Lowering := { rows := [DataRows.wPass ||| BitVec.ofNat 1024 (2^426 + 2^434 + 8 * 2^464), stepRow 0 1], barriers := [], served := [some 7, none] }
def big := 0x5000000000
def T0 := [tu 1 1 100 5, tu 2 2 200 7]
def T2 := [tu 1 2 0xC000000000 5, tu 2 2 big 3, tu 3 2 big 7, tu 4 1 100 5]
/-- Too little near tier: two of three tensors spill. -/
def T4 := [tu 1 1 0x3000000000 5, tu 2 1 0x3000000000 3, tu 3 1 0x3000000000 7]
def P0 := pl 1 [pt 1 1 100, pt 2 2 200]
def P3 := pl 1 [pt 1 1 0x20000000000]
def LW (j : Option LowerJob) : Machine.State := let s := lr .empty []; { s with gw := { s.gw with lowering := j } }
def lwj (sl : Option Bool) (p : Sys2Proof.Plan) : LowerJob := { req := req2, slot := sl, plan := p, snapshot := BitVec.ofNat 1024 (2^464), window := none, offset := 0, length := 0, fetched := false }
/-- A plan as a blob of 64 bytes that no chunk opens. -/
def blobJob : LowerJob := { lwj (some false) P0 with window := some 2, length := 64 }
def LB : Machine.State := let s := LW (some blobJob); { s with mem := { s.mem with host := (List.range 64).map (fun k => (0x200000 + k, 0)) } }
def RG (f : Region → Region) : Machine.State := let s := F (running (R 1 [(64,2)])); { s with regions := s.regions.set 0 (f regionUp) }
def RI (f : Region → Region) : Machine.State := let s := eJ .job B.soloJob; { s with regions := (List.replicate 64 regionUp).set 3 (f regionUp) }
def v2 := RG (fun g => { g with clock := .gated, retest := true, mode := .slipway .regionReset })
def v3 := RG (fun g => { g with clock := .waking })
def v5 := RI (fun g => { g with mode := .slipway .regionReset, retest := true })
def ab : ActiveRun := { arun with abandoning := some { cause := Status.regionFenced, slot := false, row := 0, code := 0 } }
def AB (r : ActiveRun) (rows : List Row) : Machine.State := let s := F (running 0); { s with seq := { s.seq with run := some r, slotA := { s.seq.slotA with rows := rows, lowered := some { plan := P0, snapshot := 7, barriers := [] } } } }
def v7 : List Row × Lowered × List Nat := (okRows, { plan := P0, snapshot := 7, barriers := [] }, [])

theorem witness_SlotsAreLoadedArmedAndDiscarded :
    (Starts 50 0 req (onNamed (0#8) (slotFree (ld SlotState.loaded okRows none))) (ld SlotState.loaded okRows none) ∧ ((ld SlotState.loaded
    okRows none).pair.role = Role.solo ∧ (0#8).toNat ≤ 1 ∧ ((0#32).toNat = 0 ∨ 16384 < (0#32).toNat ∨ okRows.length ≠ (0#32).toNat))) ∧
    (Starts 50 0 req (onNamed (0#8) (slotFree (ld SlotState.loaded okRows none))) (ld SlotState.loaded okRows none) ∧ ((ld SlotState.loaded
    okRows none).pair.role = Role.solo ∧ (0#8).toNat ≤ 1 ∧ 1 ≤ (2#32).toNat ∧ (2#32).toNat ≤ 16384 ∧ okRows.length = (2#32).toNat)) ∧
    ((ld SlotState.loaded okRows none).pair.role = Role.solo ∧ (0#8).toNat ≤ 1 ∧ (if decide (0#8 = 1) = true then (ld SlotState.loaded okRows
    none).gw.loadB else (ld SlotState.loaded okRows none).gw.loadA) = none) ∧
    (Starts 52 0 req (onNamed 0#8 fun b => slotIs (ld SlotState.loaded okRows none) b [SlotState.loaded, SlotState.armed] && !slotBusy (ld
    SlotState.loaded okRows none) b) (ld SlotState.loaded okRows none) ∧ ((ld SlotState.loaded okRows none).pair.role = Role.solo ∧
    (0#8).toNat ≤ 1 ∧ (slotOf (ld SlotState.loaded okRows none) (decide (0#8 = 1))).state = SlotState.loaded)) ∧
    (Starts 52 0 req (onNamed 0#8 fun b => slotIs (ld SlotState.armed okRows none) b [SlotState.loaded, SlotState.armed] && !slotBusy (ld
    SlotState.armed okRows none) b) (ld SlotState.armed okRows none) ∧ ((ld SlotState.armed okRows none).pair.role = Role.solo ∧ (0#8).toNat ≤
    1 ∧ (slotOf (ld SlotState.armed okRows none) (decide (0#8 = 1))).state = SlotState.armed)) ∧
    (checkRows (ld .empty [] (some (lj okRows))) okRows = .ok [] ∧ ((ld SlotState.empty [] (some (lj okRows))).pair.role = Role.solo ∧
    (0#8).toNat ≤ 1 ∧ (if decide (0#8 = 1) = true then (ld SlotState.empty [] (some (lj okRows))).gw.loadB else (ld SlotState.empty [] (some
    (lj okRows))).gw.loadA).isSome = true)) ∧
    ((match checkRows (ld .empty [] (some (lj [R 0 []]))) [R 0 []] with | .error e => decide (e.1 ≠ Status.generatorOverlap) | .ok _ => false)
    = true ∧ ((ld SlotState.empty [] (some (lj okRows))).pair.role = Role.solo ∧ (0#8).toNat ≤ 1 ∧ (0#16, 0, 0).fst ≠ Status.generatorOverlap
    ∧ (if decide (0#8 = 1) = true then (ld SlotState.empty [] (some (lj okRows))).gw.loadB else (ld SlotState.empty [] (some (lj
    okRows))).gw.loadA).isSome = true)) ∧
    (Starts 51 0 req (inState armS [RunState.running] && onNamed 1#8 fun b => slotIs armS b [SlotState.loaded] && !slotBusy armS b) armS ∧
    (armS.pair.role = Role.solo ∧ (1#8).toNat ≤ 1 ∧ (0#32).toNat ∈ entryRows (slotOf armS (decide (1#8 = 1))).rows ∧ fencedRow armS (slotOf
    armS (decide (1#8 = 1))).rows = none)) ∧
    (Starts 51 0 req (inState armS [RunState.running] && onNamed 1#8 fun b => slotIs armS b [SlotState.loaded] && !slotBusy armS b) armS ∧
    (armS.pair.role = Role.solo ∧ (1#8).toNat ≤ 1 ∧ ¬(2#32).toNat ∈ entryRows (slotOf armS (decide (1#8 = 1))).rows)) :=
  ⟨⟨starts_of (by decide +kernel), by decide +kernel⟩, ⟨starts_of (by decide +kernel), by decide +kernel⟩, by decide +kernel, ⟨starts_of
   (by decide +kernel), by decide +kernel⟩, ⟨starts_of (by decide +kernel), by decide +kernel⟩, ⟨checkRows_of (by decide +kernel),
   by decide +kernel⟩, ⟨by decide +kernel, by decide +kernel⟩, ⟨starts_of (by decide +kernel), by decide +kernel⟩, ⟨starts_of
   (by decide +kernel), by decide +kernel⟩⟩

theorem witness_FootprintMovesTheRightTensors :
    (demandOf T0 false ≤ nearBytes ∧ demandOf T0 true ≤ farBytes) ∧ (footprintOf T0).tooLarge = false ∧
    ((footprintOf T4).tooLarge = false ∧ (footprintOf T4).spilled.map TensorUse.ident = [2]) ∧ (∀ t ∈ T4, 0 < t.alloc) ∧
    nearBytes + farBytes < demandOf T2 false + demandOf T2 true :=
  ⟨by decide +kernel, by decide +kernel, by decide +kernel, by decide +kernel, by decide +kernel⟩

theorem witness_PlansAreCheckedAndLowered :
    (Starts 48 0 req (inState (LW none) [RunState.ready, RunState.job, RunState.halted] && (LW none).gw.lowering.isNone) (LW none) ∧
      Starts 49 0 req ((LW none).gw.lowering.isNone && onNamed (0#8) (slotFree (LW none))) (LW none)) ∧
    ((LW none).pair.role = Role.solo ∧ planFault P0 = none ∧ (planFault (pl 3 [])).isSome = true ∧ (LW none).gw.lowering = none) ∧
    ((LW (some (lwj none P0))).pair.role = Role.solo ∧ (lwj none P0).window = none ∧ (lwj none P0).slot = none) ∧
    (footprint P3 (lwj none P3).snapshot).tooLarge = true ∧ (footprint P0 (lwj none P0).snapshot).tooLarge = false ∧
    ((checkRowsIn (snapServes (lwj none P0).snapshot) (LW (some (lwj none P0))) okRows).toOption = some []) ∧
    (LB.gw.lowering = some blobJob ∧ readBlob LB (windowAddr LB 2 0) (blobText 64) (chunkCount (blobText 64)) 0 = .inl 0) ∧
    (planPaired P0 ≠ snapPaired (BitVec.ofNat 1024 (2^40))) ∧
    (accepted PP (BitVec.ofNat 1024 (2^466)) (some cand) = .inl (cand.rows, cand.barriers) ∧ rowKind (nth cand.rows 0 0) = 1 ∧
      planRelaxed PP = false) :=
  ⟨⟨starts_of (by decide +kernel), starts_of (by decide +kernel)⟩, by decide +kernel, by decide +kernel, by decide +kernel,
   by decide +kernel, by decide +kernel, by decide +kernel, by decide +kernel, by decide +kernel⟩

theorem witness_RegionsWakeAndGate :
    (wakes (RG id) 0 = false) ∧
    ((region (RG id) 0).clock ≠ RegionClock.waking) ∧
    ((region (RG id) 0).clock = RegionClock.ready ∧ idle (RG id) 0 = true ∧ (RG id).gw.runstate = RunState.running) ∧
    (idle (RG id) 1 = false) ∧
    (wakes v2 0 = true) ∧
    ((region v3 0).clock = RegionClock.waking ∧ regionsUp v3 = true) :=
  ⟨by decide +kernel, by decide +kernel, by decide +kernel, by decide +kernel, by decide +kernel, by decide +kernel⟩

theorem witness_RegionsAreFencedAndReturned :
    (Starts 98 0 req (regionAccepts (F (B.running 0)) (0#8).toNat (0#8).toNat) (F (B.running 0)) ∧ ((F (B.running 0)).pair.role = Role.solo ∧
    (F (B.running 0)).regions.length = 64 ∧ (0#8).toNat < 64 ∧ 0#8 = 0 ∧ (F (B.running 0)).gw.runstate = RunState.running ∧ ((F (B.running
    0)).seq.run).isSome = true)) ∧
    (Starts 98 0 req (regionAccepts (F (B.running 0)) (0#8).toNat (3#8).toNat) (F (B.running 0)) ∧ ((F (B.running 0)).pair.role = Role.solo ∧
    (F (B.running 0)).regions.length = 64 ∧ (0#8).toNat < 64 ∧ 1 < (3#8).toNat)) ∧
    (Starts 98 0 req (regionAccepts (F (B.running 0)) (64#8).toNat (0#8).toNat) (F (B.running 0)) ∧ ((F (B.running 0)).pair.role = Role.solo ∧
    (F (B.running 0)).regions.length = 64 ∧ 64 ≤ (64#8).toNat)) ∧
    ((F (B.running 0)).pair.role = Role.solo ∧ (F (B.running 0)).regions.length = 64 ∧ (region (F (B.running 0)) 3).retest = false) ∧
    (Starts 98 0 req (regionAccepts (RI id) (0#8).toNat (0#8).toNat) (RI id) ∧ ((RI id).pair.role = Role.solo ∧ (RI id).regions.length = 64 ∧
    (0#8).toNat < 64 ∧ 0#8 = 0 ∧ (RI id).seq.run = none ∧ 1 ≠ (0#8).toNat)) ∧
    ((∃ c, (region v5 3).mode = RegionMode.slipway c ∧ c ≠ FenceCause.command) ∧ (v5.pair.role = Role.solo ∧ v5.regions.length = 64 ∧ (region
    v5 3).retest = true ∧ (region v5 3).clock = RegionClock.ready ∧ v5.gw.powerCmd = none ∧ v5.seq.run = none)) ∧
    (v5.pair.role = Role.solo ∧ v5.regions.length = 64 ∧ (region v5 3).retest = true ∧ (region v5 3).clock = RegionClock.ready ∧ v5.gw.powerCmd
    = none ∧ 0 ≠ 3) :=
  ⟨⟨starts_of (by decide +kernel), by decide +kernel⟩, ⟨starts_of (by decide +kernel), by decide +kernel⟩, ⟨starts_of (by decide +kernel),
   by decide +kernel⟩, by decide +kernel, ⟨starts_of (by decide +kernel), by decide +kernel⟩, ⟨⟨.regionReset, by decide +kernel⟩,
   by decide +kernel⟩, by decide +kernel⟩

theorem witness_AbandonedStepsRestartDegraded :
    ((AB arun okRows).pair.role = Role.solo ∧ ((AB arun okRows).seq.run).any (fun x8 => decide (x8.abandoning = none)) = true) ∧
    ((AB ab okRows).pair.role = Role.solo ∧ mayLowerAgain (AB ab okRows) = true ∧ (AB ab okRows).power.sleepReq = false ∧ (AB ab
    okRows).trust.debugWait = none ∧ (AB ab okRows).gw.image = none ∧ ((AB ab okRows).seq.run).any (fun x8 => decide ((slotOf (AB ab okRows)
    !x8.slot).state ≠ SlotState.armed ∧ ((slotOf (AB ab okRows) x8.slot).lowered).isSome = true ∧ (x8.abandoning).any (fun x7 => decide
    (x7.cause = Status.regionFenced)) = true)) = true) ∧
    ((AB ab okRows).pair.role = Role.solo ∧ mayLowerAgain (AB ab okRows) = true ∧ v7.snd.snd = [] ∧ (∀ k ∈ otherMembers (AB ab okRows) 0, (nextHop (AB ab okRows) (myNode (AB ab okRows)) (rankNode
    (rankEntry (AB ab okRows) k)) none).isSome = true) ∧ ((AB ab okRows).seq.entryVerdict).isSome =
    true ∧ ((AB ab okRows).seq.run).any (fun x8 => decide ((slotOf (AB ab okRows) !x8.slot).state ≠ SlotState.armed ∧ ((slotOf (AB ab okRows)
    x8.slot).lowered).isSome = true ∧ (x8.abandoning).isSome = true)) = true) :=
  ⟨by decide +kernel, by decide +kernel, by decide +kernel⟩

end Slots

namespace Seals
open B

def F (s : Machine.State) : Machine.State := { s with regions := List.replicate 64 regionUp, seq := { s.seq with flight := [] } }
def je (st : BitVec 2) (rd : Nat) : JournalEntry :=
  let e : JournalEntry := { rid := 6, round := BitVec.ofNat 16 rd, state := st, ttdig := 5, next := 2, slot := false, pcycle := 4, crc := 0 }
  { e with crc := crc32c (journalBody e) }
def rs (st : BitVec 2) (prep : Bool) (j : Job) (js : SMap JournalEntry) (lands : Bool) : Machine.State := let s := F (running 0)
  { s with gw := { s.gw with runstate := .halted }, job := j, seq := { s.seq with run := none, flight := [], slotA := { s.seq.slotA with state := .loaded }}, reshard := { Reshard.reset with active := some (6, 1, 2), prepared := prep, journalA := je st 1, journals := js, landed := if lands then [(256, 1)] else [] } }
def em (s : Machine.State) : Machine.State := { s with seq := { s.seq with slotA := Slot.empty, slotB := Slot.empty, run := none } }
def eJ (rs : RunState) (j : Job) : Machine.State := let s := em up; { s with regions := List.replicate 64 regionUp, job := j, gw := { s.gw with runstate := rs } }
def rng (a n : Nat) : BitVec 128 := BitVec.ofNat 128 (a + n * 2^64)
def q6 : Req := { req with seq := 9 }
def sj0 : SealJob := { req := req, kind := .seal, sealId := 7, sealNonce := 21, window := 1, offset := 0x100, ranges := [rng 0 256], chunk := 0, resume := 0, tag := 0, step := 17, fetched := false }
def S1' : Machine.State := let s := eJ .job B.soloJob; { s with gw := { s.gw with seals := some sj0 }, trust := { s.trust with sealing := true, checkpoint := some { job := sj0, chunk := 0, tag := 0 } } }
/-- The chunk that the seal of the tiers' first 256 bytes comes to. -/
def chunk0 : List Sys2Proof.Byte := leBytes 288 0x89f974a42cc28dd1560928960a5670826196f5c728f4a720a5a5893f4917b4b632c82bb8f893a3c9b212045e0176b1c9bab5ee60ae0b9e39b8718348ca367cec5b40374309dffb2aedfa2623309249529d96d045efded84ea2769a468f5c3768bb5d43fedf69c681bfb3a297a4fb31e039f04116b14ba9e4848a3869a07534c6ae5e5327ff1162622c54605862cc3f6cf781a76bd213df06d3c81bbe5b6d10fe954115c30e276cd6be108f79fbff558c510019cbf8bfbfbf9533a9ccae43e7f27a15771689dc9ed0ea17ad31536f4e8d57be3adb82f97b61184b29b79123c5a9ac1646ab3aa669c1e90de5d62dd8b505f7659bec2effdf799de8889049f358183c6d5a172c2bcc271b2cd2f02ed18eef00000000000000150000000100000000
def sj1 : SealJob := { sj0 with chunk := 1, tag := bytesWord 128 (chunk0.drop 272) }
def S2' : Machine.State := { S1' with gw := { S1'.gw with seals := some sj1 } }
def stopd : Machine.State := { S2' with gw := { S2'.gw with seals := none, runstate := .halted }, trust := { S2'.trust with sealing := false, checkpoint := some { job := sj1, chunk := 1, tag := sj1.tag } } }
/-- Its manifest, with a signature that UNSEAL does not read. -/
def mani : List Sys2Proof.Byte := leBytes 384 0xc0bddbe6a1ceb70ac0186ed05c726d9b0000000000000100000000000000000000000000000000000000000000000000000000000000000000000000000000000000000000000000000000000000000000000000000000000000000000000000000000000000000000000000000000000000000000000000000000000000000000000000000000000000000000000000000000000000000000000000000000000000000000000000000000000000000000000000000000040000000000001c20000000000000001189f974a42cc28dd1560928960a567082000000000000010000000000000000019ee64fc2b6c8dbc24a43434c202d8e6e8454b51139b79e321e99e9b999a12577000000000000001500000000000000070000010153464e4d
def headB : List Sys2Proof.Byte := leBytes 8 0x4C414553 ++ leBytes 8 7 ++ leBytes 8 21 ++ leBytes 8 1 ++ leBytes 32 352
def sealedCells : List Host.Cell := ((List.range 736).map (0x10100 + ·)).zip (headB ++ (chunk0 ++ mani))
def sealed (s : Machine.State) : Machine.State := { s with mem := { s.mem with host := sealedCells } }
def S3' : Machine.State := sealed (eJ .job B.soloJob)
def S3b : Machine.State := { S3' with trust := { S3'.trust with domain := 9 } }
def S4' : Machine.State := { S3' with gw := { S3'.gw with seals := some { sj1 with kind := .unseal, chunk := 0 } } }
def S4d : Machine.State := writeMem 3 (0x10140 + 40) [1,2,3] S4'

theorem witness_SealsWriteHeadChunksAndManifest :
    (Starts 64 0 req (inState (eJ RunState.job soloJob) [RunState.job, RunState.running, RunState.halted] && maintNone (eJ RunState.job
    soloJob) && (eJ RunState.job soloJob).gw.seals.isNone) (eJ RunState.job soloJob) ∧ (rangesOk (eJ RunState.job soloJob) [rng 0 256] = true
    ∧ (1#32).toNat ≤ 255 ∧ windowHolds (eJ RunState.job soloJob) (1#32).toNat (7#64).toNat (sealBytes [rng 0 256]) = true)) ∧
    (Starts 64 0 req (inState (eJ RunState.job soloJob) [RunState.job, RunState.running, RunState.halted] && maintNone (eJ RunState.job
    soloJob) && (eJ RunState.job soloJob).gw.seals.isNone) (eJ RunState.job soloJob) ∧ (rangesOk (eJ RunState.job soloJob) [] = false)) ∧
    (Starts 64 0 req (inState (eJ RunState.job soloJob) [RunState.job, RunState.running, RunState.halted] && maintNone (eJ RunState.job
    soloJob) && (eJ RunState.job soloJob).gw.seals.isNone) (eJ RunState.job soloJob) ∧ (rangesOk (eJ RunState.job soloJob) [rng 0 256] = true
    ∧ (255 < (256#32).toNat ∨ windowHolds (eJ RunState.job soloJob) (256#32).toNat (7#64).toNat (sealBytes [rng 0 256]) = false))) ∧
    ((eJ RunState.job soloJob).gw.seals = none) ∧
    (S1'.gw.linkUp = true ∧ (S1'.gw.seals).any (fun x8 => decide (x8.kind ≠ SealKind.unseal ∧ x8.chunk < sealChunks x8.ranges)) = true) ∧
    (S2'.gw.linkUp = true ∧ (S2'.gw.seals).any (fun x8 => decide (x8.kind ≠ SealKind.unseal ∧ sealChunks x8.ranges ≤ x8.chunk)) = true) ∧
    (Starts 65 0 q6 (inState stopd [RunState.job, RunState.halted] && maintNone stopd && stopd.gw.seals.isNone && (checkpointOf stopd
    7#64).isSome) stopd ∧ ((stopd.trust.checkpoint).any (fun x8 => decide (x8.job.sealId = 7#64 ∧ windowHolds stopd x8.job.window.toNat
    x8.job.offset.toNat (sealBytes x8.job.ranges) = true)) = true)) :=
  ⟨⟨starts_of (by decide +kernel), by decide +kernel⟩, ⟨starts_of (by decide +kernel), by decide +kernel⟩, ⟨starts_of (by decide +kernel),
   by decide +kernel⟩, by decide +kernel, by decide +kernel, by decide +kernel, ⟨starts_of (by decide +kernel), by decide +kernel⟩⟩

theorem witness_SealCheckpointWritesChunks :
    (TierGood S1' (rangeAddr (rng 0 256)) (rangeLen (rng 0 256)) ∧ (S1'.gw.linkUp = true ∧ inPair S1' = false ∧ (S1'.gw.seals).any (fun x8 =>
    decide (x8.kind ≠ SealKind.unseal ∧ x8.chunk = 0 ∧ (x8.ranges).head?.any (fun x7 => decide (x8.ranges = [x7] ∧ 0 < rangeLen x7 ∧ rangeLen
    x7 ≤ 65536)) = true)) = true)) :=
  ⟨tierGood_of (by decide +kernel), by decide +kernel⟩

/-- What UNSEAL finds at offset 0x100 of window 1. -/
def fs0 : FoundSeal := { head := ofLe headB, body := mani.take 272, tag := (mani.drop 272).take 16, whole := mani }
def uj : SealJob := { sj1 with kind := .unseal, chunk := 0 }
theorem seal_found : findSeal S3' 1 0x100 = some fs0 := by decide +kernel
theorem findSeal_trust (s : Machine.State) (t : Trust) (w o : Nat) : findSeal { s with trust := t } w o = findSeal s w o := rfl
theorem chunk_found : chunkAt S4' uj 0 = chunk0 := by decide +kernel
theorem chunk_spoilt : chunkAt S4d uj 0 = chunk0.take 40 ++ [1, 2, 3] ++ chunk0.drop 43 := by decide +kernel
theorem chunk_opens : openChunk (sealKey S4' 7 21) 21 0 true none (zeros 16) chunk0 = some (readMem S1' 0 0 256) := by decide +kernel
theorem chunk_fails : openChunk (sealKey S4d 7 21) 21 0 true none (zeros 16) (chunk0.take 40 ++ [1, 2, 3] ++ chunk0.drop 43) = none := by decide +kernel

theorem witness_UnsealOpensOnlyAValidSeal :
    (Starts 66 0 q6 (inState S3' [.ready, .job, .halted] && maintNone S3' && S3'.gw.seals.isNone) S3' ∧
      (windowHolds S3' 256 0x100 64 = false ∧ windowHolds S3' 1 0x100 64 = true ∧
        findSeal S3' 1 0x100 = some fs0 ∧ sealValid S3' fs0 = true ∧ (fsRanges fs0).all (rangeExists S3') = true)) ∧
    (Starts 66 0 q6 (inState S3b [.ready, .job, .halted] && maintNone S3b && S3b.gw.seals.isNone) S3b ∧
      (windowHolds S3b 1 0x100 64 = true ∧ findSeal S3b 1 0x100 = some fs0 ∧ sealValid S3b fs0 = false)) ∧
    (S4'.gw.seals = some uj ∧ uj.kind = .unseal ∧ S4'.gw.linkUp = true ∧ inPair S4' = false ∧ uj.ranges = [rng 0 256] ∧
      openChunk (sealKey S4' uj.sealId uj.sealNonce) uj.sealNonce 0 true none (zeros 16) (chunkAt S4' uj 0) = some (readMem S1' 0 0 256) ∧
      (readMem S1' 0 0 256).length = rangeLen (rng 0 256) ∧ wordBytes uj.tag = (chunkAt S4' uj 0).drop ((chunkAt S4' uj 0).length - 16)) ∧
    (S4d.gw.seals = some uj ∧ S4d.gw.linkUp = true ∧ inPair S4d = false ∧
      openChunk (sealKey S4d uj.sealId uj.sealNonce) uj.sealNonce 0 true none (zeros 16) (chunkAt S4d uj 0) = none) ∧
    S3'.gw.seals = none := by
  rw [chunk_found, chunk_spoilt]
  exact ⟨⟨starts_of (by decide +kernel), by decide +kernel, by decide +kernel, seal_found, by decide +kernel, by decide +kernel⟩,
    ⟨starts_of (by decide +kernel), by decide +kernel, (findSeal_trust S3' _ 1 _).trans seal_found, by decide +kernel⟩,
    ⟨by decide +kernel, rfl, by decide +kernel, by decide +kernel, rfl, chunk_opens, by decide +kernel, by decide +kernel⟩,
    ⟨by decide +kernel, by decide +kernel, by decide +kernel, chunk_fails⟩, by decide +kernel⟩
end Seals

namespace Images
open B

def F (s : Machine.State) : Machine.State := { s with regions := List.replicate 64 regionUp, seq := { s.seq with flight := [] } }
def je (st : BitVec 2) (rd : Nat) : JournalEntry :=
  let e : JournalEntry := { rid := 6, round := BitVec.ofNat 16 rd, state := st, ttdig := 5, next := 2, slot := false, pcycle := 4, crc := 0 }
  { e with crc := crc32c (journalBody e) }
def rs (st : BitVec 2) (prep : Bool) (j : Job) (js : SMap JournalEntry) (lands : Bool) : Machine.State := let s := F (running 0)
  { s with gw := { s.gw with runstate := .halted }, job := j, seq := { s.seq with run := none, flight := [], slotA := { s.seq.slotA with state := .loaded }}, reshard := { Reshard.reset with active := some (6, 1, 2), prepared := prep, journalA := je st 1, journals := js, landed := if lands then [(256, 1)] else [] } }
def em (s : Machine.State) : Machine.State := { s with seq := { s.seq with slotA := Slot.empty, slotB := Slot.empty, run := none } }
def eJ (rs : RunState) (j : Job) : Machine.State := let s := em up; { s with regions := List.replicate 64 regionUp, job := j, gw := { s.gw with runstate := rs } }
def q6 : Req := { req with seq := 9 }
def body : List Sys2Proof.Byte := [1,2,3,4]
def hd (ver lvl : Nat) : List Sys2Proof.Byte := leBytes 16 (0x45474D49 + ver * 2^32 + lvl * 2^64 + 4 * 2^96) ++ sha384 body
def im (ver lvl : Nat) : List Sys2Proof.Byte := let h := hd ver lvl; h ++ wordBytes (ecdsaSign 1 5 h) ++ wordBytes (ecdsaSign 1 6 h) ++ body
def gI : List Sys2Proof.Byte := im 6 2
def IB (j : Option ImageJob) (run : Bool) : Machine.State := let s := if run then F (running 0) else eJ .job B.soloJob; { s with gw := { s.gw with image := j, seals := none } }
def ij (b : List Sys2Proof.Byte) (a st : Bool) : ImageJob := { req := q6, activate := a, image := b, window := some 1, started := st }
def staged (run : Bool) : Machine.State := let s := IB none run; { s with trust := { s.trust with imageStaged := true, unconfirmed := some true } }
def act : Machine.State := let s := IB (some (ij [] true true)) false; let s := { s with gw := { s.gw with hold := true }, trust := { s.trust with imageStaged := true } }; setOtherImage (imgOf gI) s
def v1 := { (IB none false) with trust := { (IB none false).trust with unconfirmed := some false } }

theorem witness_ImagesAreStagedAndActivated :
    (Starts 80 0 q6 (maintNone (IB none false) && (IB none false).gw.image.isNone) (IB none false) ∧ ((IB none false).pair.role = Role.solo ∧
    (1#32).toNat ≤ 255 ∧ windowHolds (IB none false) (1#32).toNat (0#64).toNat (0#64).toNat = true)) ∧
    ((IB none false).pair.role = Role.solo ∧ (IB none false).gw.image = none ∧ (IB none false).trust.unconfirmed ≠ some (IB none
    false).trust.running) ∧
    ((IB (some (ij gI false true)) false).pair.role = Role.solo ∧ ((IB (some (ij gI false true)) false).gw.image).any (fun x8 => decide
    (x8.activate = false ∧ x8.req ≠ farReq ∧ imgFault (IB (some (ij gI false true)) false) x8.image = none)) = true) ∧
    ((IB (some (ij (im 3 2) false true)) false).pair.role = Role.solo ∧ ((IB (some (ij (im 3 2) false true)) false).gw.image).any (fun x8 =>
    decide (x8.activate = false ∧ x8.req ≠ farReq ∧ (imgFault (IB (some (ij (im 3 2) false true)) false) x8.image).isSome = true)) = true) ∧
    (Starts 81 0 q6 ((staged false).trust.imageStaged && (staged false).gw.image.isNone && (staged false).gw.seals.isNone && stagedAlike
    (staged false)) (staged false) ∧ ((staged false).pair.role = Role.solo ∧ (staged false).seq.run = none)) ∧
    (Starts 81 0 q6 ((staged true).trust.imageStaged && (staged true).gw.image.isNone && (staged true).gw.seals.isNone && stagedAlike (staged
    true)) (staged true) ∧ ((staged true).pair.role = Role.solo ∧ ((staged true).seq.run).any (fun x8 => decide (x8.asleep = false)) = true)) ∧
    (act.pair.role = Role.solo ∧ policyTakes act (otherImage act).header = true ∧ (act.gw.image).any (fun x8 => decide (x8.activate = true ∧
    x8.started = true ∧ x8.req ≠ farReq)) = true) ∧
    (v1.pair.role = Role.solo ∧ v1.gw.image = none ∧ v1.trust.unconfirmed = some v1.trust.running) :=
  ⟨⟨starts_of (by decide +kernel), by decide +kernel⟩, by decide +kernel, by decide +kernel, by decide +kernel, ⟨starts_of
   (by decide +kernel), by decide +kernel⟩, ⟨starts_of (by decide +kernel), by decide +kernel⟩, by decide +kernel, by decide +kernel⟩

end Images

namespace Pairs
open B

def R (k : Nat) (l : List (Nat × Nat)) : Row := BitVec.ofNat 1024 (k + 2^32 + l.foldl (fun x p => x + p.2 * 2^p.1) 0)
def F (s : Machine.State) : Machine.State := { s with regions := List.replicate 64 regionUp, seq := { s.seq with flight := [] } }
def je (st : BitVec 2) (rd : Nat) : JournalEntry :=
  let e : JournalEntry := { rid := 6, round := BitVec.ofNat 16 rd, state := st, ttdig := 5, next := 2, slot := false, pcycle := 4, crc := 0 }
  { e with crc := crc32c (journalBody e) }
def rs (st : BitVec 2) (prep : Bool) (j : Job) (js : SMap JournalEntry) (lands : Bool) : Machine.State := let s := F (running 0)
  { s with gw := { s.gw with runstate := .halted }, job := j, seq := { s.seq with run := none, flight := [], slotA := { s.seq.slotA with state := .loaded }}, reshard := { Reshard.reset with active := some (6, 1, 2), prepared := prep, journalA := je st 1, journals := js, landed := if lands then [(256, 1)] else [] } }
def em (s : Machine.State) : Machine.State := { s with seq := { s.seq with slotA := Slot.empty, slotB := Slot.empty, run := none } }
def eJ (rs : RunState) (j : Job) : Machine.State := let s := em up; { s with regions := List.replicate 64 regionUp, job := j, gw := { s.gw with runstate := rs } }
def q6 : Req := { req with seq := 9 }
def setPort (s : Machine.State) (k : Nat) (f : Port → Port) : Machine.State := { s with fab := { s.fab with ports := modifyAt s.fab.ports k f } }
def fpO : Fp := ownerFp up
def fpI : Fp := identityFp up
def prec (e : Nat) (l : Bool) : PairRecord := { epoch := BitVec.ofNat 64 e, primaryFp := fpI, secondaryFp := 77, ownerFp := fpO, lashed := l }
def P (r : Role) (f : Pair → Pair) (s : Machine.State) : Machine.State := { s with pair := f { Pair.reset with role := r, record := prec 5 true, keyEpoch := 3, keyId := 9, events := 4, tail := 8, peerRegions := 0xFF } }
def solo (j : Option LashJob) : Machine.State := let s := eJ .ready Job.none; { s with gw := { s.gw with lash := j } }
def lj (f : Option (BitVec 64 × BitVec 64)) (b p : Bool) : LashJob := { req := q6, partner := 77, primary := p, bringup := b, found := f }
def act6 (s : Machine.State) : Machine.State := setPort s 6 (fun _ => portUp)
def nosense (s : Machine.State) : Machine.State := { s with pins := { s.pins with lashSenseN := true } }
def si (st : SlotState) (rows : List Row) (d : Digest) : SlotItem := { state := BitVec.ofNat 2 st.code, rows := rows, digest := d }
def pi (e : Nat) (l : Bool) : PartnerItems := { record := prec e l, recordOk := (true, true), keyEpoch := 3, keyId := 9, keyOk := (true, true), events := 4, tail := 8, tailOk := (true, true), slotGen := 3, slotA := si .empty [] 0, slotB := si .empty [] 0, slotsOk := (true, true), regions := 0xF0, stranded := true }
def cmp (r : Role) (f : Pair → Pair) : Machine.State := act6 (P r (fun p => f { p with compareDue := true }) (solo none))
def v2 := { pi 5 true with record := { (pi 5 true).record with secondaryFp := 99 } }
def shr (w : Option WatchAdd) : PairShare := { slot := false, row := 1, issue := 0, flags := 0x10, watch := w }
def fRem : Flight := { id := 4, slot := false, row := 1, bits := R 2 [(8, 3), (64, 5)], issue := 0, stage := .remote, flags := 3, watch := [] }
def HP (r : Role) (fl : List Flight) (sent : Option (Bool × Nat)) : Machine.State := let s := act6 (F (running 0)); P r (fun p => { p with sent := sent, got := [(true, 3)] }) { s with seq := { s.seq with flight := fl } }
def HJ (r : Role) : Machine.State := act6 (P r id (eJ .job B.soloJob))
def v4 := { HJ .solo with pair := Pair.reset }
def v5 := { (HJ .stranded) with fab := up.fab }

theorem witness_PairsAreFormedAndParted :
    (Starts 35 0 q6 (mayLash (solo none)) (solo none) ∧ ((0#8).toNat ≤ 1 ∧ (solo none).pins.lashSenseN = false ∧ (port (solo none) 6).state =
    PortState.off ∧ (port (solo none) 6).hs = Handshake.idle ∧ (solo none).fab.ports.length = 7 ∧ (solo none).power.rails = true ∧ (solo
    none).power.state ≠ PowerState.sleep)) ∧
    (Starts 35 0 q6 (mayLash (solo none)) (solo none) ∧ (1 < (2#8).toNat)) ∧
    ((solo none).gw.lash = none) ∧
    (Starts 35 0 q6 (mayLash (nosense (solo none))) (nosense (solo none)) ∧ ((0#8).toNat ≤ 1 ∧ (nosense (solo none)).pins.lashSenseN = true)) ∧
    (((solo (some (lj none false true))).gw.lash).any (fun x8 => decide (x8.bringup = false)) = true) ∧
    (((solo (some (lj none false true))).gw.lash).any (fun x8 => decide (x8.found = none)) = true) ∧
    (((solo (some (lj none true true))).gw.lash).any (fun x8 => decide (x8.bringup = true)) = true) ∧
    ((port (act6 (solo (some (lj (some (9, 15)) true true)))) 6).state = PortState.active ∧ (act6 (solo (some (lj (some (9, 15)) true
    true)))).pair.role = Role.solo ∧ (act6 (solo (some (lj (some (9, 15)) true true)))).pair.record.epoch.toNat < 2 ^ 64 - 1 ∧ ((act6 (solo
    (some (lj (some (9, 15)) true true)))).gw.lash).any (fun x8 => decide (x8.primary = true ∧ (x8.found).any (fun x7 => decide (x8.found =
    some (x7.fst, x7.snd) ∧ x7.fst.toNat < 2 ^ 64 - 1)) = true)) = true) ∧
    ((port (act6 (solo (some (lj (some (2, 15)) true false)))) 6).state = PortState.active ∧ (act6 (solo (some (lj (some (2, 15)) true
    false)))).pair.role = Role.solo ∧ (act6 (solo (some (lj (some (2, 15)) true false)))).pair.record.epoch.toNat < 2 ^ 64 - 1 ∧ ((act6 (solo
    (some (lj (some (2, 15)) true false)))).gw.lash).any (fun x8 => decide (x8.primary = false ∧ (x8.found).any (fun x7 => decide (x8.found =
    some (x7.fst, x7.snd) ∧ x7.fst.toNat < 2 ^ 64 - 1)) = true)) = true) ∧
    ((act6 (solo (some (lj (some (2, 15)) true false)))).trust.debug = none ∧
      (act6 (solo (some (lj (some (2, 15)) true false)))).trust.debugWait = none) ∧
    (Starts 36 0 q6 (mayUnlash (act6 (P Role.primary id (solo none)))) (act6 (P Role.primary id (solo none))) ∧ (((act6 (P Role.primary id
    (solo none))).pair.role = Role.primary ∨ (act6 (P Role.primary id (solo none))).pair.role = Role.stranded ∨ (act6 (P Role.primary id (solo
    none))).pair.role = Role.secondary ∧ ∃ k, none = some k ∧ tokenCheck 4 true k (act6 (P Role.primary id (solo none))) = none) ∧ (act6 (P
    Role.primary id (solo none))).fab.ports.length = 7 ∧ (act6 (P Role.primary id (solo none))).trust.debugWait = none)) :=
  ⟨⟨starts_of (by decide +kernel), by decide +kernel⟩, ⟨starts_of (by decide +kernel), by decide +kernel⟩, by decide +kernel, ⟨starts_of
   (by decide +kernel), by decide +kernel⟩, by decide +kernel, by decide +kernel, by decide +kernel, by decide +kernel, by decide +kernel,
   by decide +kernel, ⟨starts_of (by decide +kernel), by decide +kernel⟩⟩

theorem witness_MirroredItemsAreCompared :
    ((cmp Role.stranded id).pair.compareDue = true ∧ (port (cmp Role.stranded id) 6).state = PortState.active ∧ (cmp Role.stranded id).gw.lash
    = none ∧ (cmp Role.stranded id).pair.role = Role.stranded ∧ (cmp Role.stranded id).pair.recordOk = true ∧ (pi 5 true).recordOk = (true,
    true) ∧ (pi 5 true).record = (cmp Role.stranded id).pair.record ∧ (pi 5 true).record.lashed = true ∧ (pi 5 true).keyOk = (true, true) ∧
    (pi 5 true).keyEpoch = (cmp Role.stranded id).pair.keyEpoch ∧ (pi 5 true).keyId = (cmp Role.stranded id).pair.keyId ∧ (pi 5 true).tailOk =
    (true, true) ∧ (pi 5 true).events = (cmp Role.stranded id).pair.events ∧ (pi 5 true).tail = (cmp Role.stranded id).pair.tail ∧ (pi 5
    true).slotsOk = (true, true) ∧ (pi 5 true).slotGen = (cmp Role.stranded id).seq.slotGen ∧ slotItemBytes (cmp Role.stranded id).seq.slotA.item ++
    slotItemBytes (cmp Role.stranded id).seq.slotB.item = slotItemBytes (pi 5 true).slotA ++ slotItemBytes (pi 5 true).slotB ∧
    (cmp Role.stranded id).pair.record.primaryFp = identityFp (cmp Role.stranded id)) ∧
    ((cmp Role.primary id).pair.compareDue = true ∧ (port (cmp Role.primary id) 6).state = PortState.active ∧ (cmp Role.primary id).gw.lash =
    none ∧ (cmp Role.primary id).pair.role = Role.primary ∧ (cmp Role.primary id).seq.run = none ∧ (cmp Role.primary id).pair.recordOk = true
    ∧ v2.recordOk = (true, true) ∧ v2.record.lashed = true ∧ v2.record.epoch = (cmp Role.primary id).pair.record.epoch ∧ recordBytes v2.record
    ≠ recordBytes (cmp Role.primary id).pair.record) ∧
    ((cmp Role.solo id).pair.compareDue = true ∧ (port (cmp Role.solo id) 6).state = PortState.active ∧ (cmp Role.solo id).gw.lash = none ∧
    (cmp Role.solo id).pair.role = Role.solo) :=
  ⟨by decide +kernel, by decide +kernel, by decide +kernel⟩

theorem witness_HalvesHearEachOther :
    (inPair (HP Role.primary [] none) = true ∧ (HP Role.primary [] none).pair.sent = none ∧ ((HP Role.primary [] none).seq.run).isSome = true) ∧
    (inPair (HP Role.primary [] none) = true ∧ (∀ (f : Flight), f ∈ (HP Role.primary [] none).seq.flight → f.stage ≠ Stage.remote) ∧ ((HP
    Role.primary [] none).seq.run).isSome = true) ∧
    (inPair (HP Role.secondary [fRem] (some (false, 1))) = true ∧ ((HP Role.secondary [fRem] (some (false, 1))).pair.sent).any (fun x7 =>
    decide ((HP Role.secondary [fRem] (some (false, 1))).pair.sent = some (x7.fst, (1#14).toNat))) = true ∧ ((HP Role.secondary [fRem] (some
    (false, 1))).seq.run).isSome = true) ∧
    (inPair (HP Role.secondary [fRem] (some (false, 1))) = true ∧ (shr none).watch = none ∧ (HP Role.secondary [fRem] (some (false,
    1))).seq.watchWait = [] ∧ ((HP Role.secondary [fRem] (some (false, 1))).seq.flight).head?.any (fun x7 => decide ((HP Role.secondary [fRem]
    (some (false, 1))).seq.flight = [x7] ∧ x7.stage = Stage.remote ∧ x7.slot = (shr none).slot ∧ x7.row = (shr none).row.toNat ∧ x7.issue =
    (shr none).issue ∧ x7.watch = [])) = true ∧ ((HP Role.secondary [fRem] (some (false, 1))).seq.run).any (fun x8 => decide (x8.halting =
    none ∧ x8.restartAt = none)) = true) ∧
    (inPair (HP Role.secondary [fRem] (some (false, 1))) = true ∧ (HP Role.secondary [fRem] (some (false, 1))).power.rails = true ∧ (HP
    Role.secondary [fRem] (some (false, 1))).pair.role = Role.secondary) ∧
    (inPair (HJ Role.primary) = true ∧ (HJ Role.primary).power.rails = true ∧ (HJ Role.primary).seq.run = none) ∧
    (v4.pair.role = Role.solo) ∧
    (v5.pair.role = Role.stranded ∧ (port v5 6).state = PortState.off ∧ (port v5 6).hs = Handshake.idle ∧ v5.power.rails = true ∧
    v5.power.state ≠ PowerState.sleep ∧ v5.trust.lifecycle = Lifecycle.enrolled ∧ v5.pins.lashSenseN = false) :=
  ⟨by decide +kernel, by decide +kernel, by decide +kernel, by decide +kernel, by decide +kernel, by decide +kernel, by decide +kernel,
   by decide +kernel⟩

end Pairs

namespace Compare
open B

/-- A primary and a secondary whose slot B is LOADED, in a run or in a job. -/
def lash (r : Role) (w : List PairWait) (s : Machine.State) : Machine.State :=
  { s with pair := { s.pair with role := r, record := Pairs.prec 5 true, wait := w }, fab := { s.fab with ports := s.fab.ports.set 6 portUp } }
def slotB : Slot := { state := .loaded, rows := [Slots.R 0 [], Slots.stepRow 1 0, Slots.stepRow 0 1], digest := 5, entry := 0, lowered := none }
def inRun (r : Role) (w : List PairWait) : Machine.State := lash r w Slots.armS
def inJob (w : List PairWait) : Machine.State :=
  let s := lash .primary w (Slots.lr .loaded [Slots.R 0 [], Slots.stepRow 1 0, Slots.stepRow 0 1]); { s with seq := { s.seq with run := none } }
def mir (s : Machine.State) : Mirrored := mirrored s false true
def armW : PairWait := .arm req true 0
def runW : PairWait := .run req false 0 5 0
def readW : PairWait := .read req 8 [1, 2]

theorem witness_PairCommandsCompareFirst :
    (Starts 51 0 req (inState (inRun .primary []) [RunState.running] && onNamed 1#8 (armable (inRun .primary []))) (inRun .primary []) ∧
      inPair (inRun .primary []) = true ∧ (inRun .primary []).power.rails = true ∧ (inRun .primary []).pair.role = .primary ∧
      (0#32).toNat ∈ entryRows (slotOf (inRun .primary []) (1#8 = 1)).rows ∧
      fencedRow (inRun .primary []) (slotOf (inRun .primary []) (1#8 = 1)).rows = none) ∧
    (Starts 54 0 req (inState (inJob []) [.job, .halted] && runGroupFree (inJob []) && !(inJob []).thermal.tripped &&
        onNamed 0#8 (armable (inJob []))) (inJob []) ∧ inPair (inJob []) = true ∧ (inJob []).power.rails = true ∧
      (0#32).toNat ∈ entryRows (slotOf (inJob []) (0#8 = 1)).rows ∧ fencedRow (inJob []) (slotOf (inJob []) (0#8 = 1)).rows = none) ∧
    (inPair (inRun .secondary []) = true ∧ (inRun .secondary []).power.rails = true ∧ (inRun .secondary []).pair.role = .secondary) ∧
    ((inRun .primary [armW]).pair.wait = [armW] ∧ (inRun .primary [armW]).pair.diverged = false ∧ (mir (inRun .primary [armW])).tail = none ∧
      (inRun .primary [armW]).gw.runstate = .running ∧ armable (inRun .primary [armW]) true = true) ∧
    ((inJob [runW]).pair.wait = [runW] ∧ (inJob [runW]).gw.runstate = .job ∧ (inJob [runW]).seq.run = none ∧
      (inJob [runW]).thermal.tripped = false ∧ armable (inJob [runW]) false = true ∧
      (∀ g ∈ (inJob [runW]).regions, g.failing = [] ∧ g.pendingFence = none) ∧ (inJob [runW]).pair.diverged = false) ∧
    (slotItemBytes (inJob [runW]).seq.slotA.item ++ slotItemBytes (inJob [runW]).seq.slotB.item ≠
      slotItemBytes Slot.empty.item ++ slotItemBytes Slot.empty.item) ∧
    ((inRun .primary [readW]).pair.wait = [readW] ∧ inPair (inRun .primary [readW]) = true) :=
  ⟨⟨starts_of (by decide +kernel), by decide +kernel⟩, ⟨starts_of (by decide +kernel), by decide +kernel⟩, by decide +kernel,
   by decide +kernel, by decide +kernel, by decide +kernel, by decide +kernel⟩

end Compare

namespace Forms
open B

/-- Port 0 in a step of its bring-up. -/
def hs (h : Handshake) : Machine.State := Links.setPort up 0 (fun q => { q with state := .off, hs := h })
def port0 (f : Port → Port) : Machine.State := Links.setPort up 0 f
def lashed : Machine.State := Compare.inRun .secondary []
def starting (n : Nat) : Machine.State := { up with power := { up.power with startup := n } }
def asleep : Machine.State := { up with power := { up.power with state := .sleep, wakeReq := true } }
def gated (f : Region → Region) : Machine.State := Slots.RG f
def marked : Machine.State := { up with log := { log with markWait := [(req, 1, 2)], queue := [] } }

/-- Events in states where they have their effect. -/
def happening : List (Machine.State × Instr) :=
  [(jobUp, .reshardPrepared), (jobUp, .barrierTimeout 1 2), (running 0, .rowComplete 0), (running 0, .tileDrain 0 0),
   (Slots.v2, .regionWakeStart 0), (Slots.v3, .regionReady 0), (Slots.RG id, .regionGate 0), (Slots.v5, .retestComplete 3 [] true),
   (up, .portDieFault false), (up, .fabricSenseChange 0 true), (up, .lashSenseChange true), (hs .train, .linkTrainComplete 0 true true),
   (hs .hello, .linkHello 0 5 2 3 [4]), (hs .evidence, .linkEvidence 0 Links.ev [4]), (hs .agree, .linkAgree 0 true 5 [4]),
   (hs .confirm, .linkConfirm 0 [4]), (hs .resume, .linkResume 0 4), (up, .flitReceive 0 0 none), (up, .nakReceive 0 3 true)] ++
  [(port0 (fun q => { q with nak := true }), .nakRepeat 0), (up, .peerSilence 0), (up, .messageSend 0 0 1),
   (jobUp, .admissionReply { table := 3, wave := false, expert := 4, refused := [], step := 17, attempt := 0 }),
   (jobUp, .ferryDone 3 false 0 17 0), (jobUp, .barrierArrival 1 2 0 17 0), (jobUp, .governSum 0 0 0 17 0), (up, .claimList 0 []),
   (jobUp, .reshardReady 6 1 ⟨0, 4⟩), (jobUp, .journalExchange 0 (Slots.je 1 1)), (jobUp, .lostNotice 0 2), (jobUp, .haltedNotice 0 2 5),
   (running 0, .restartNotice 17 1), (up, .sleepNotice 0), (up, .dozeRequest 0),
   (port0 (fun q => { q with state := .doze }), .linkWake 0), (port0 (fun q => { q with state := .doze, waking := true }), .linkWakeDone 0)] ++
  [(lashed, .pairRendezvous false 1), (lashed, .pairContribution (Pairs.shr none)), (lashed, .partnerWarmReset),
   (Pairs.cmp .primary id, .lashBringupComplete (Pairs.pi 5 true)), (Pairs.v5, .strandedRetry), (lashed, .pairForward (.reading [])),
   (Machine.State.reset, .auxGood true 2900 3 false), (up, .auxLost), (Machine.State.reset, .mainEnAssert), (up, .mainEnDeassert),
   ({ up with power := { up.power with auxReady := false } }, .mainHoldRelease), (up, .mainRange 40000 true), (up, .railFault 0 0 900),
   (up, .pllLossOfLock 0), (up, .linkRefclkFault), (up, .pcieRefclkLoss), ({ up with gw := { up.gw with linkUp := false } }, .pcieLinkUp),
   (up, .perstNFall false), ({ up with gw := { up.gw with warmPending := true } }, .warmResetEffect)] ++
  [(starting 7, .controlRestartDone), (starting 2, .memoryTrained none), (starting 3, .selftestDone [] [] []), (up, .idleSleep),
   (asleep, .sleepWakeDone), (up, .temperatureSample [] 50), (up, .powerCapTick 500), (up, .thermalCreditUpdate 500), (up, .valveLoopTick),
   (up, .flowUpdate 4), (up, .coolantConditionTest { inlet := 20, outlet := 700, sensorBad := false }), (up, .tamperTrip 1),
   (up, .cellLow 2000), (Sessions.prov, .ownerPresentRise), (up, .operatingSecond), (up, .counterCopy), (Debug.dbg, .debugExpiry), (up, .recordWrite),
   (marked, .logMarkQueued), (up, .logSelect 1 4 true), (up, .logNext true), (up, .logBounds true), (up, .thermalRead true),
   (up, .coolantSet 880 25 0 true), (up, .alertResponse)]

theorem witness_FormsCompleteWithTheirEffect :
    (Starts 0x11 0 req (inState up [.ready] && decide (up.pair.role = .solo) && maintNone up) up ∧
      tokenCheck 1 false (Sessions.tok 1 up 0 0 false) (start req up) = none) ∧
    (Starts 0x14 0 req (inState up [.ready]) up ∧ policyFormOk Sessions.pol = true ∧
      policySigned Sessions.pol up.trust.ownerKey = true ∧ policyVersion up.trust.policy < policyVersion Sessions.pol) ∧
    (Starts 0x38 0 req (inState jobUp2 [.job, .halted] && runGroupFree jobUp2) jobUp2 ∧
      ((1#16).toNat ≠ jobUp2.job.myRank ∧ (1#16).toNat < jobUp2.job.ranks ∧ standInOk jobUp2 1 0 = true ∧
        absentFault (markAbsent 1 0 (start req jobUp2)) = none)) ∧
    (Starts 0x3A 0 req (inState (Slots.rs 1 true soloJob [] false) [.halted] && runGroupFree (Slots.rs 1 true soloJob [] false) &&
      resumable (Slots.rs 1 true soloJob [] false) 6) (Slots.rs 1 true soloJob [] false)) ∧
    (Starts 0x61 0 req (resetAccepts 0 0 up) up ∧ Starts 0x61 0 req (resetAccepts 1 63 up) up ∧ (63#8).toNat < regionCount up) ∧
    (Starts 0x71 0 req (Debug.dbg.trust.debug).isSome Debug.dbg) ∧
    happening.all (fun x => (Claims.eventEffect x.1 x.2).any Prod.fst) = true ∧
    (Claims.eventEffect Machine.State.reset .auxLost).any (fun x => !x.1) = true ∧
    (∃ l u, Taken 0 1 (msgHeld Links.thru) Links.held1 l u) ∧ (∃ l u, Taken 0 1 (answerHeld 2 4) (Copies.tx 3 false) l u) ∧
    (mayLowerAgain (Slots.AB Slots.ab Slots.okRows) = true ∧ (Slots.AB Slots.ab Slots.okRows).seq.run = some Slots.ab ∧ up.seq.run = none ∧
      ({ up with seq := { up.seq with relower := some false } } : Machine.State).seq.relower = some false) :=
  ⟨⟨starts_of (by decide +kernel), by decide +kernel⟩, ⟨starts_of (by decide +kernel), by decide +kernel⟩,
   ⟨starts_of (by decide +kernel), by decide +kernel⟩, starts_of (by decide +kernel),
   ⟨starts_of (by decide +kernel), starts_of (by decide +kernel), by decide +kernel⟩, starts_of (by decide +kernel), by decide +kernel,
   by decide +kernel, ⟨_, _, Links.taken_some [Links.heldRx] (by decide +kernel)⟩, ⟨_, _, Links.taken_none (by decide +kernel)⟩, by decide +kernel⟩

end Forms

/-! ### The queue, the form of the state, and the table's bits -/

namespace Queue
open B

theorem test_idle_step : step up = .next up := rfl

theorem test_no_word_spells_a_command : decodeTableWord 64 5 = none ∧ up.withFetchWord 64 5 = up := ⟨rfl, rfl⟩

/-- EveryStepKeepsTheCanonicalForm has a state that meets it other than reset. -/
theorem witness_EveryStepKeepsTheCanonicalForm : Claims.Canonical up ∧ Claims.Canonical State.reset := by
  refine ⟨?_, ?_⟩ <;> simp only [Claims.Canonical] <;> decide +kernel

end Queue

/-! ### Well-formedness refuses an ill-formed term of each kind -/

namespace Wf
open B

def msg (n : Nat) : Msg := { dst := 1, src := 2, half := 0, op := 1, txn := 0, addr := 0, ctx := 0, vc := 2, payload := List.replicate n 0 }
def params (ranks : BitVec 16) : JobParams :=
  { seed := 1, determinism := 0, source := 0, timeout := 1, ranks := ranks, myRank := 0, nGroup := 0, nHome := 0, reserved := 0,
    rankTable := [5], groups := [], homes := [] }

theorem test_wf_accepts : Instr.wf (.writeMsg 1 (msg 3) true) = true ∧ Instr.wf (.jobStart req (params 1)) = true ∧
    Instr.wf (.ttLoad req 0 2 [0, 0]) = true ∧ Instr.wf (.rowComplete 63) = true ∧
    Instr.wf (.temperatureSample (List.replicate 64 480) 480) = true := by decide +kernel
theorem test_wf_payload : payloadWf (List.replicate 3072 0) = true ∧ Instr.wf (.writeMsg 1 (msg 3073) true) = false ∧
    Instr.wf (.readMsg 1 (msg 3073) true) = false ∧ Instr.wf (.messageForward 1 (msg 3073) true) = false ∧
    Instr.wf (.readData 1 2 3 0 ⟨List.replicate 3073 0, 0⟩) = false := by decide +kernel
theorem test_wf_job_counts : Instr.wf (.jobStart req (params 2)) = false ∧
    Instr.wf (.jobStart req { params 1 with nGroup := 1 }) = false ∧ Instr.wf (.jobStart req { params 1 with nHome := 1 }) = false := by
  decide +kernel
theorem test_wf_rows : Instr.wf (.ttLoad req 0 3 [0, 0]) = false := by decide +kernel
theorem test_wf_readings : Instr.wf (.temperatureSample (List.replicate 63 480) 480) = false := by decide +kernel
theorem test_wf_place : Instr.wf (.rowComplete 64) = false := by decide +kernel

end Wf

/-! ### The spec's worked examples -/

namespace Known

/-- spec/02_formats.md R28: −300 is 0xFED4. -/
theorem test_s16 : unpackCodes 5 1 [0xD4, 0xFE] = [-300] := by decide +kernel

/-- spec/02_formats.md, one group converted to S8: y at a step of 0.25, CLAMP clear. -/
theorem test_group_to_s8 :
    ([0x40200000, 0xC0200000, 0x42FF0000, 0xC3000000, 0x7FA00000, 0x7F800000, 0x80000000] : List F32).map (fun y => quantise y (-128) 127) =
      [⟨3, 0⟩, ⟨-3, 0⟩, ⟨127, flagSaturated⟩, ⟨-128, 0⟩, ⟨0, flagNanCode⟩, ⟨127, flagSaturated⟩, ⟨0, 0⟩] := by decide +kernel
/-- The same with CLAMP set: −32.0 saturates at −127. -/
theorem test_group_to_s8_clamp : quantise 0xC3000000 (-127) 127 = ⟨-127, flagSaturated⟩ := by decide +kernel
/-- 0x7F7F_F000 and 0x7F7F_7FFF narrow to the largest finite BF16, counted. -/
theorem test_bf16_saturates : (toBf16 0x7F7FF000).1 = 0x7F7F ∧ (toBf16 0x7F7F7FFF).1 = 0x7F7F ∧ (toBf16 0x7F7F7FFF).2 = flagSaturated := by
  decide +kernel
/-- An int8 gradient: y = 5.25 with the draws 0x3A_1C07 and 0x9C_0000. -/
theorem test_stochastic : quantiseSr 0x40A80000 (-128) 127 0x3A1C07 = ⟨6, 0⟩ ∧ quantiseSr 0x40A80000 (-128) 127 0x9C0000 = ⟨5, 0⟩ := by
  decide +kernel

/-- spec/03_quantiser.md, one activation super-group: A2 and the codes of groups 5, 2 and 9. -/
theorem test_dynamic_scales :
    intRule 0x21 false false = ⟨-127, 127, 127, 254, false, false⟩ ∧
      dynamicScales ⟨-127, 127, 127, 254, false, false⟩ false [[0x41C00000, 0], [0x40400000, 0], [0, 0x80000000]] =
        ⟨0x3A43, [⟨255, 0, .ordinary⟩, ⟨32, 0, .ordinary⟩, ⟨1, 0, .zero⟩]⟩ := by decide +kernel
/-- Group 2 codes as 126, −53, 21 and 3 at the step 0x3CC3_0000. -/
theorem test_group_codes :
    (ownStep 32 0x3A43).word = (0x3CC30000, 0) ∧ (ownStep 255 0x3A43).word = (0x3E423D00, 0) ∧
      ([0x40400000, 0xBFA00000, 0x3F000000, 0x3D73C000] : List F32).map
        (fun x => (codeElem ⟨-127, 127, 127, 254, false, false⟩ x (ownStep 32 0x3A43) 0 0).code) = [126, -53, 21, 3] := by decide +kernel

/-- spec/04_table_arithmetic.md, one lane through a B3 group pair: the three chunks' look-ups. -/
theorem test_sign_table :
    [0xB, 0x6, 0xC].map (fun k => signEntry k [12, -5, 7, 0]) = [0, -10, 0] ∧
      [0x5, 0xE, 0x9].map (fun k => signEntry k [-20, 3, 9, -1]) = [-13, 31, -33] ∧
      [0x3, 0xA, 0xF].map (fun k => signEntry k [6, 6, -10, 2]) = [20, 12, 4] := by decide +kernel
/-- The plane-scale words 0x0003, 0x0205 and 0x040B, and the group ends with k_w = 2. -/
theorem test_plane_scales :
    [0x0003, 0x0205, 0x040B].map pswValue = [3, 10, 44] ∧
      [-39, 210, -1452, 60, 120, 176].map (fun x => rndAway x 2) = [-10, 53, -363, 15, 30, 44] := by decide +kernel

/-- spec/05_accumulators.md, a split that is not aligned: canon(0, 4), and the sum split after three. -/
theorem test_canonical_tree :
    (canon [fr 0x3F800000, fr 0x33800000, fr 0x33800000, fr 0xBF800000]).1 = 0x33800000 ∧
      (Fr.add (canon [fr 0x3F800000, fr 0x33800000, fr 0x33800000]) (fr 0xBF800000)).1 = 0 := by decide +kernel
/-- spec/05_accumulators.md, a dot product with an overflowing and a NaN product: flags 0x05 and BF16 0x7FC0. -/
theorem test_special_dot_product :
    let f := canon ([(3, 0x3F00, 0x3F80), (3, 0x5F00, 0x5F80), (-9, 0x3E80, 0x3F80), (5, 0x7FC0, 0x3F80), (8, 0x3F00, 0x3F80), (3, 0x3E80, 0x3F80)].map
      (fun (x : Int × BitVec 16 × BitVec 16) => let s := scaleProduct x.2.1 x.2.2 0; let p := chainF x.1 s.1; (p.1, s.2 ||| p.2)))
    f = (qnan, flagNanIn ||| flagOverflow) ∧ (toBf16 f.1).1 = 0x7FC0 := by decide +kernel

/-- spec/06_vector_engine.md, one element through OPT: m, r and the master, and its stochastic BF16. -/
theorem test_opt_element :
    let o := optElem ⟨0x3F600000, 0x3F7C0000, 0x2B800000, 0x3D800000, 0x3A800000, 0x3F800000, 0x3F800000, 0x3F800000⟩
      (fr 0x3E100000) (fr 0x3D400000) (fr 0x3C800000) (fr 0x3F000000)
    (o.1.1 = 0x3D700000 ∧ o.2.1.1 = 0x3CC00000 ∧ o.2.2.1 = 0x3EFEBC00) ∧ (toBf16Sr 0x3EFEBC00 0x5A3C).1 = 0x3EFF ∧
      (toBf16Sr 0x3EFEBC00 0xBC00).1 = 0x3EFE := by decide +kernel

/-- spec/11_collectives.md, an absent leaf keeps a sign. -/
theorem test_absent_leaf :
    let z := some (fr 0x80000000)
    (canonP [z, z, z, none, z, z]).1 = 0x80000000 ∧ (canonP [z, z, z, some (fr 0), z, z]).1 = 0 := by decide +kernel

/-- spec/01_module.md: core (2, 30, 40) belongs to region 43. -/
theorem test_core_name : coreParam 43 (6 * 12 + 4) = [2, 30, 40] := by decide +kernel

/-- spec/16_power.md R382 and its example: the plate settles at 14.080 K over 40 °C at 1,430 W and 2 L/min, and the first credit is 17.68 s. -/
theorem test_credit :
    plateRise 1430 2000 = 14080000 ∧
      (creditOf { Thermal.reset with inlet := 640, flow := 2000 } 54080000).any (fun c => decide (17670 ≤ c ∧ c ≤ 17690)) = true := by decide +kernel

/-- The CRC-32C of "123456789" with the parameters of spec/10_fabric.md R223 is the CRC catalogue's 0xE306_9283. -/
theorem test_crc32c : crc32c (ascii "123456789") = 0xE3069283 := by decide +kernel
/-- SHA-384 of "abc", FIPS 180-4's example. -/
theorem test_sha384 : (sha384 (ascii "abc")).take 8 = [0xcb, 0x00, 0x75, 0x3f, 0x45, 0xa3, 0x5e, 0x8b] := by decide +kernel
/-- AES-128 of FIPS 197, appendix C.1. -/
theorem test_aes128 :
    aes128 ((List.range 16).map (BitVec.ofNat 8)) ((List.range 16).map (fun k => BitVec.ofNat 8 (17 * k))) =
      [0x69, 0xc4, 0xe0, 0xd8, 0x6a, 0x7b, 0x04, 0x30, 0xd8, 0xcd, 0xb7, 0x80, 0x70, 0xb4, 0xc5, 0x5a] := by decide +kernel
/-- AES-256 in GCM of nothing under a zero key and nonce, the mode's test case 13. -/
theorem test_gcm : (gcmSeal 0 (zeros 12) [] []).2 =
    [0x53, 0x0f, 0x8a, 0xfb, 0xc7, 0x45, 0x36, 0xb9, 0xa9, 0x63, 0xb4, 0xf1, 0xc4, 0xcb, 0x73, 0x8b] := by decide +kernel

end Known

end Sys2Proof.Tests
end

/-! ## O60: every step keeps the canonical form

`KeepsForm s t` (the model's own laws) composes, so a chain of operations keeps the form where each of its operations does. Below, each
operation `op` that `exec` can reach has one lemma, `KeepsForm.op : KeepsForm s t → KeepsForm s (op … t)`, so that its proof reads as
its definition does: `h.record.haltAt` for an operation that records and then halts. They stand in the order of the model's files. Only
the few that write memories, or build the lists of regions and ports anew, say anything about the form; `rest` and `restFab` answer for
the updates of every other field. -/

namespace Sys2Proof.Machine
section
variable {s t : State}

/-- Fields other than the memories, the regions and the fabric do not count. -/
theorem KeepsForm.rest {i pi po th sq jo re gw tr lo pa ba fr pe} (h : KeepsForm s t) :
    KeepsForm s ⟨i, pi, po, th, t.regions, t.mem, sq, jo, re, gw, tr, lo, t.fab, pa, ba, fr, pe⟩ :=
  ⟨h.tier, h.staging, h.slice, h.host, h.acc, h.regions, h.ports⟩

/-- Nor do the fabric's fields other than the ports. -/
theorem KeepsForm.restFab {i pi po th sq jo re gw tr lo pa ba fr pe cfg txns nx turn far asked} (h : KeepsForm s t) :
    KeepsForm s ⟨i, pi, po, th, t.regions, t.mem, sq, jo, re, gw, tr, lo,
      ⟨cfg, t.fab.ports, txns, nx, turn, far, asked⟩, pa, ba, fr, pe⟩ :=
  ⟨h.tier, h.staging, h.slice, h.host, h.acc, h.regions, h.ports⟩

theorem KeepsForm.ite {c : Prop} {_ : Decidable c} {a b : State} (ha : KeepsForm s a) (hb : KeepsForm s b) :
    KeepsForm s (if c then a else b) := by split; exacts [ha, hb]

/-- A conditional that goes on from the state only where its condition holds. -/
theorem KeepsForm.iteThen {c : Prop} {_ : Decidable c} {a : State} (h : KeepsForm s t) (ha : KeepsForm s t → KeepsForm s a) :
    KeepsForm s (if c then a else t) := .ite (ha h) h

/-- A conditional that goes on from the state only where its condition fails. -/
theorem KeepsForm.iteElse {c : Prop} {_ : Decidable c} {a : State} (h : KeepsForm s t) (ha : KeepsForm s t → KeepsForm s a) :
    KeepsForm s (if c then t else a) := .ite h (ha h)

/-- A fold keeps the form of the state its accumulator carries where each of its steps does. -/
theorem KeepsForm.foldlOn {α β : Type} (p : α → State) {l : List β} {f : α → β → α} {x : α} (h : KeepsForm s (p x))
    (hf : ∀ y b, KeepsForm s (p y) → KeepsForm s (p (f y b))) : KeepsForm s (p (l.foldl f x)) := by
  induction l generalizing x with
  | nil => exact h
  | cons b l ih => exact ih (hf x b h)

theorem KeepsForm.foldl {β : Type} {l : List β} {f : State → β → State} (h : KeepsForm s t)
    (hf : ∀ u b, KeepsForm s u → KeepsForm s (f u b)) : KeepsForm s (l.foldl f t) := h.foldlOn id hf

/-! ### The operations of Machine/Ops -/

theorem KeepsForm.raiseVec1 (h : KeepsForm s t) : KeepsForm s (Machine.raiseVec1 t) := .ite h.rest h

theorem KeepsForm.settled {u} (h : KeepsForm s t) : KeepsForm s (Machine.settled u t) := h.trans (keepsForm_settled u t)

theorem KeepsForm.draw (h : KeepsForm s t) : KeepsForm s (Machine.draw t).2 := h.rest

theorem KeepsForm.record {c l} (h : KeepsForm s t) : KeepsForm s (Machine.record c l t) := h.trans (keepsForm_record c l t)

theorem KeepsForm.pairEvent {c params} (h : KeepsForm s t) : KeepsForm s (Machine.pairEvent c params t) := by
  unfold Machine.pairEvent
  split
  · exact h
  · exact h.rest
  · exact h.record

theorem KeepsForm.orphanRuns {sid} (h : KeepsForm s t) : KeepsForm s (Machine.orphanRuns sid t) := h.rest

theorem KeepsForm.closeSession {sid} (h : KeepsForm s t) : KeepsForm s (Machine.closeSession sid t) := h.rest.orphanRuns

theorem KeepsForm.hold {c} (h : KeepsForm s t) : KeepsForm s (Machine.hold c t) := h.trans (keepsForm_hold c t)

theorem KeepsForm.completeClear {tag status} (h : KeepsForm s t) : KeepsForm s (Machine.completeClear tag status t) := h.hold

theorem KeepsForm.completeAs {q op st d p} (h : KeepsForm s t) : KeepsForm s (Machine.completeAs q op st d p t) :=
  h.trans (keepsForm_completeAs q op st d p t)

theorem KeepsForm.complete {q opcode payload} (h : KeepsForm s t) : KeepsForm s (Machine.complete q opcode payload t) := h.completeAs

theorem KeepsForm.refuse {q opcode status} (h : KeepsForm s t) : KeepsForm s (Machine.refuse q opcode status t) := h.completeAs

theorem KeepsForm.refuseField {q opcode param} (h : KeepsForm s t) : KeepsForm s (Machine.refuseField q opcode param t) := h.completeAs

theorem KeepsForm.passRefused (h : KeepsForm s t) : KeepsForm s (Machine.passRefused t) := h.rest

theorem KeepsForm.onRegion {r f} (h : KeepsForm s t) : KeepsForm s (Machine.onRegion r f t) := h.trans (keepsForm_onRegion r f t)

theorem KeepsForm.onRegions {f} (h : KeepsForm s t) : KeepsForm s (Machine.onRegions f t) := h.trans (keepsForm_onRegions f t)

theorem KeepsForm.wakeDoze (h : KeepsForm s t) : KeepsForm s (Machine.wakeDoze t) := .ite h.rest h

theorem KeepsForm.writeMem {sp a bs} (h : KeepsForm s t) :
    KeepsForm s (Machine.writeMem sp a bs t) := h.trans (keepsForm_writeMem t sp a bs)

theorem KeepsForm.loseRegion {r} (h : KeepsForm s t) : KeepsForm s (Machine.loseRegion r t) := h.trans (keepsForm_loseRegion r t)

theorem KeepsForm.loseAcc (h : KeepsForm s t) : KeepsForm s (Machine.loseAcc t) := h.trans (keepsForm_loseAcc t)

theorem KeepsForm.onPort {p f} (h : KeepsForm s t) : KeepsForm s (Machine.onPort p f t) := h.trans (keepsForm_onPort p f t)

theorem KeepsForm.enqueue {k dst vc fl b} (h : KeepsForm s t) : KeepsForm s (Machine.enqueue k dst vc fl b t) :=
  h.trans (keepsForm_enqueue k dst vc fl b t)

theorem KeepsForm.freeMsgs {p l} (h : KeepsForm s t) : KeepsForm s (Machine.freeMsgs p l t) := h.onPort

theorem KeepsForm.dropEarly {gone} (h : KeepsForm s t) : KeepsForm s (Machine.dropEarly gone t) := h.rest.foldl fun _ _ h => h.freeMsgs

theorem KeepsForm.sendNotice {dst b} (h : KeepsForm s t) :
    KeepsForm s (Machine.sendNotice dst b t) := h.trans (keepsForm_sendNotice dst b t)

theorem KeepsForm.tellGroup {g b} (h : KeepsForm s t) : KeepsForm s (Machine.tellGroup g b t) := h.trans (keepsForm_tellGroup g b t)

theorem KeepsForm.tellHalted {cause} (h : KeepsForm s t) : KeepsForm s (Machine.tellHalted cause t) :=
  h.tellGroup.foldl fun _ _ h => h.record.tellGroup

theorem KeepsForm.enqueueLash {vc flight b} (h : KeepsForm s t) : KeepsForm s (Machine.enqueueLash vc flight b t) :=
  .ite h.enqueue h

theorem KeepsForm.sendLash {b} (h : KeepsForm s t) : KeepsForm s (Machine.sendLash b t) := h.trans (keepsForm_sendLash b t)

theorem KeepsForm.onSlot {b f} (h : KeepsForm s t) : KeepsForm s (Machine.onSlot b f t) := .ite h.rest h.rest

theorem KeepsForm.compareFirst {w} (h : KeepsForm s t) : KeepsForm s (Machine.compareFirst w t) := h.rest.sendLash

theorem KeepsForm.sleepKeeps (h : KeepsForm s t) : KeepsForm s (Machine.sleepKeeps t) :=
  ⟨h.tier, fun _ => rfl, fun _ => rfl, h.host, fun _ => rfl, h.regions, h.ports⟩

theorem KeepsForm.enterSleep (h : KeepsForm s t) : KeepsForm s (Machine.enterSleep t) :=
  h.sleepKeeps.onRegions.trans (.of_eq rfl rfl List.length_mapIdx)

theorem KeepsForm.completePower (h : KeepsForm s t) : KeepsForm s (Machine.completePower t) := by
  unfold Machine.completePower
  split
  · exact h
  · exact h.rest.complete

theorem KeepsForm.completeStop (h : KeepsForm s t) : KeepsForm s (Machine.completeStop t) := by
  unfold Machine.completeStop
  split
  · exact h
  · exact h.rest.complete

theorem KeepsForm.enterDebug {expiry sid fp q} (h : KeepsForm s t) : KeepsForm s (Machine.enterDebug expiry sid fp q t) := by
  unfold Machine.enterDebug
  dsimp only
  split
  · exact h.rest.record.complete
  · exact h.rest.record

theorem KeepsForm.serveDebug (h : KeepsForm s t) : KeepsForm s (Machine.serveDebug t) := by
  unfold Machine.serveDebug
  split
  · exact h
  · exact h.enterDebug

theorem KeepsForm.beginActivate {j} (h : KeepsForm s t) : KeepsForm s (Machine.beginActivate j t) := h.rest

theorem KeepsForm.serveActivate (h : KeepsForm s t) : KeepsForm s (Machine.serveActivate t) := by
  unfold Machine.serveActivate
  split
  · exact .ite h.beginActivate h
  · exact h

theorem KeepsForm.boundaryRequests (h : KeepsForm s t) : KeepsForm s (Machine.boundaryRequests t) :=
  h.serveDebug.serveActivate.iteThen (·.enterSleep.completePower)

theorem KeepsForm.settleBoost (h : KeepsForm s t) : KeepsForm s (Machine.settleBoost t) := by
  unfold Machine.settleBoost
  split
  · exact .ite h.rest h
  · exact .ite h h.rest.onRegions
  · exact h

theorem KeepsForm.fenceMark {r cause cuts} (h : KeepsForm s t) : KeepsForm s (Machine.fenceMark r cause cuts t) :=
  h.onRegion.record.sendLash

theorem KeepsForm.returnRegions (h : KeepsForm s t) : KeepsForm s (Machine.returnRegions t) := .ite h.onRegions.sendLash h

theorem KeepsForm.idleFences (h : KeepsForm s t) : KeepsForm s (Machine.idleFences t) :=
  h.foldl fun _ _ h => by
    split
    · exact h.fenceMark
    · exact h

theorem KeepsForm.settleDoze (h : KeepsForm s t) : KeepsForm s (Machine.settleDoze t) := .ite h.rest h

theorem KeepsForm.noteRelower {b} (h : KeepsForm s t) : KeepsForm s (Machine.noteRelower b t) := .ite h.rest h

theorem KeepsForm.closeRun {r slot row status code} (h : KeepsForm s t) : KeepsForm s (Machine.closeRun r slot row status code t) :=
  (h.noteRelower.onSlot.rest.settleBoost.idleFences.returnRegions.settleDoze.iteElse (·.completeAs)).completeStop.boundaryRequests

theorem KeepsForm.clearWatch (h : KeepsForm s t) : KeepsForm s (Machine.clearWatch t) := h.rest

theorem KeepsForm.restoreStep {verdicts} (h : KeepsForm s t) : KeepsForm s (Machine.restoreStep verdicts t) := by
  unfold Machine.restoreStep
  dsimp only
  split
  · exact h.clearWatch.rest.iteThen (·.rest)
  · exact h.clearWatch.rest

theorem KeepsForm.restartNow {slot row} (h : KeepsForm s t) : KeepsForm s (Machine.restartNow slot row t) := h.restoreStep.rest

theorem KeepsForm.setAttempt {n} (h : KeepsForm s t) : KeepsForm s (Machine.setAttempt n t) := h.dropEarly.rest

theorem KeepsForm.cutWaits (h : KeepsForm s t) : KeepsForm s (Machine.cutWaits t) := h.restFab

theorem KeepsForm.finishHalt {r held} (h : KeepsForm s t) : KeepsForm s (Machine.finishHalt r held t) :=
  h.dropEarly.rest.loseAcc.closeRun.tellHalted

theorem KeepsForm.settleHalt (h : KeepsForm s t) : KeepsForm s (Machine.settleHalt t) := by
  unfold Machine.settleHalt
  split
  · exact h
  · refine .ite h ?_
    split
    · exact h.finishHalt
    · exact h.restartNow
    · exact h

theorem KeepsForm.haltWith {cause code row cuts} (h : KeepsForm s t) : KeepsForm s (Machine.haltWith cause code row cuts t) := by
  unfold Machine.haltWith
  split
  · exact h
  · exact .ite (.ite h.cutWaits.settleHalt h) (KeepsForm.ite h.cutWaits h).sendLash.rest.settleHalt

theorem KeepsForm.halt {cause} (h : KeepsForm s t) : KeepsForm s (Machine.halt cause t) := h.haltWith

theorem KeepsForm.haltAt {cause row} (h : KeepsForm s t) : KeepsForm s (Machine.haltAt cause row t) := h.haltWith

theorem KeepsForm.nameCore {r k} (h : KeepsForm s t) : KeepsForm s (Machine.nameCore r k t) := h.onRegion

theorem KeepsForm.haltPeer {cause} (h : KeepsForm s t) : KeepsForm s (Machine.haltPeer cause t) := h.haltWith

theorem KeepsForm.noRouteHere {dst p} (h : KeepsForm s t) : KeepsForm s (Machine.noRouteHere dst p t) := by
  refine .haltPeer ?_
  split
  · exact h.record.tellGroup
  · exact h.record

theorem KeepsForm.send {dst vc flight b} (h : KeepsForm s t) : KeepsForm s (Machine.send dst vc flight b t) := by
  unfold Machine.send
  split
  · exact h.enqueue
  · exact .ite h h.noRouteHere

theorem KeepsForm.sendAll {g b} (h : KeepsForm s t) : KeepsForm s (Machine.sendAll g b t) := h.foldl fun _ _ h => h.send

theorem KeepsForm.chargeModule {c ns} (h : KeepsForm s t) : KeepsForm s (Machine.chargeModule c ns t) := h.rest

theorem KeepsForm.chargeRegionCycles {c r cycles} (h : KeepsForm s t) : KeepsForm s (Machine.chargeRegionCycles c r cycles t) :=
  .ite h.rest h

theorem KeepsForm.charge {c rset ns} (h : KeepsForm s t) : KeepsForm s (Machine.charge c rset ns t) :=
  .ite (.ite h.chargeModule (h.foldl (fun _ _ h => h.chargeRegionCycles))) h.chargeModule

/-! ### The operations of Machine/Trust -/

theorem KeepsForm.identitySign {msg} (h : KeepsForm s t) : KeepsForm s (Machine.identitySign msg t).2 := h.draw

theorem KeepsForm.setOtherImage {i} (h : KeepsForm s t) : KeepsForm s (Machine.setOtherImage i t) := .ite h.rest h.rest

theorem KeepsForm.evidence {nonce} (h : KeepsForm s t) : KeepsForm s (Machine.evidence t nonce).2 := by
  unfold Machine.evidence
  dsimp only
  exact h.identitySign

theorem KeepsForm.endDebug {cause} (h : KeepsForm s t) : KeepsForm s (Machine.endDebug cause t) := by
  unfold Machine.endDebug
  split
  · exact h.rest
  · exact h.rest.record

theorem KeepsForm.endSessionDebug {sid} (h : KeepsForm s t) : KeepsForm s (Machine.endSessionDebug sid t) := by
  unfold Machine.endSessionDebug
  dsimp only
  split
  · exact .ite (KeepsForm.ite h.sendLash h).endDebug h
  · exact .ite (h.completeClear.iteThen (·.sendLash)).endDebug h
  · exact h

theorem KeepsForm.endSession {sid} (h : KeepsForm s t) : KeepsForm s (Machine.endSession sid t) := h.endSessionDebug.closeSession

theorem KeepsForm.endSessions (h : KeepsForm s t) : KeepsForm s (Machine.endSessions t) := h.foldl fun _ _ h => h.endSession

theorem KeepsForm.authRecord {cause sid seq opcode} (h : KeepsForm s t) : KeepsForm s (Machine.authRecord cause sid seq opcode t) :=
  h.record

theorem KeepsForm.bootImage (h : KeepsForm s t) : KeepsForm s (Machine.bootImage t) := by
  unfold Machine.bootImage
  split
  · exact h.rest
  · exact h.rest.record

/-! ### The operations of Machine/Reset -/

theorem KeepsForm.journalPut {e} (h : KeepsForm s t) : KeepsForm s (Machine.journalPut e t) := h.rest

theorem KeepsForm.voidReshard (h : KeepsForm s t) : KeepsForm s (Machine.voidReshard t) := by
  unfold Machine.voidReshard
  split
  · exact h
  · exact h.journalPut.record.rest

theorem KeepsForm.volatileLoss (h : KeepsForm s t) : KeepsForm s (Machine.volatileLoss t) :=
  ⟨fun _ => rfl, fun _ => rfl, fun _ => rfl, h.host, fun _ => rfl,
    (List.length_map _).trans h.regions, (List.length_map _).trans h.ports⟩

theorem KeepsForm.coldStart (h : KeepsForm s t) : KeepsForm s (Machine.coldStart t) := h.endDebug.voidReshard.rest.bootImage

theorem KeepsForm.standby (h : KeepsForm s t) : KeepsForm s (Machine.standby t) := h.volatileLoss.rest

theorem KeepsForm.emergencyDown (h : KeepsForm s t) : KeepsForm s (Machine.emergencyDown t) := h.standby.rest

theorem KeepsForm.coldReset (h : KeepsForm s t) : KeepsForm s (Machine.coldReset t) := h.volatileLoss.coldStart.rest

theorem KeepsForm.cutSeal (h : KeepsForm s t) : KeepsForm s (Machine.cutSeal t) := by
  unfold Machine.cutSeal
  split
  · exact .ite h h.rest.refuse
  · exact h

theorem KeepsForm.cutWait (h : KeepsForm s t) : KeepsForm s (Machine.cutWait t) := h.rest.foldl fun _ _ h => h.refuse

theorem KeepsForm.strand (h : KeepsForm s t) : KeepsForm s (Machine.strand t) :=
  .ite h h.cutWait.rest.onPort.record.endDebug.cutSeal.haltPeer

theorem KeepsForm.cutImage (h : KeepsForm s t) : KeepsForm s (Machine.cutImage t) := by
  unfold Machine.cutImage
  split
  · exact .ite h h.setOtherImage
  · exact h

/-- Every range that leaves the tiers leaves them sorted. -/
theorem sorted_dropRanges (l : List (BitVec 128)) (m : List Host.Cell) (h : Memory.wf m = true) :
    Memory.wf (l.foldl (fun t r => sdelRange t (bits r 0 42) (bits r 0 42 + bits r 64 64)) m) = true := by
  induction l generalizing m with
  | nil => exact h
  | cons r l ih => exact ih _ (sorted_sdelRange _ _ _ h)

theorem KeepsForm.dropRanges {l} (h : KeepsForm s t) : KeepsForm s (Machine.dropRanges l t) :=
  ⟨fun w => sorted_dropRanges l _ (h.tier w), h.staging, h.slice, h.host, h.acc, h.regions, h.ports⟩

theorem KeepsForm.cutUnseal (h : KeepsForm s t) : KeepsForm s (Machine.cutUnseal t) := by
  unfold Machine.cutUnseal
  split
  · exact .ite h.dropRanges h
  · exact h

theorem KeepsForm.warmReset (h : KeepsForm s t) : KeepsForm s (Machine.warmReset t) :=
  (h.endDebug.cutImage.cutUnseal.loseAcc.dropEarly.rest.iteThen (·.bootImage)).iteThen (·.tellHalted)

theorem KeepsForm.completeAllClear {status} (h : KeepsForm s t) : KeepsForm s (Machine.completeAllClear status t) := by
  unfold Machine.completeAllClear
  extract_lets shown
  have hs : KeepsForm s shown := h.foldl fun _ _ h => by
    split
    · exact h.hold
    · exact h.completeClear
  exact hs.foldl fun _ _ h => h.completeClear

theorem KeepsForm.fenceNow {r cause} (h : KeepsForm s t) : KeepsForm s (Machine.fenceNow r cause t) := by
  unfold Machine.fenceNow
  split
  · exact h.fenceMark
  · exact .ite (.ite h.fenceMark.rest h.fenceMark.halt) h.fenceMark

theorem KeepsForm.fenceLater {r cause} (h : KeepsForm s t) : KeepsForm s (Machine.fenceLater r cause t) :=
  .ite h.onRegion h.fenceNow

theorem KeepsForm.takeSpareFrom {r k n} (h : KeepsForm s t) : KeepsForm s (Machine.takeSpareFrom r k n t) := by
  induction n generalizing t with
  | zero => exact h.record.fenceLater
  | succ n ih =>
    unfold Machine.takeSpareFrom
    split
    · exact h.record.fenceLater
    · exact .ite h.draw.onRegion.record (ih h.draw.rest)

theorem KeepsForm.takeSpare {r k} (h : KeepsForm s t) : KeepsForm s (Machine.takeSpare r k t) := h.takeSpareFrom

theorem KeepsForm.serveSpares (h : KeepsForm s t) : KeepsForm s (Machine.serveSpares t) :=
  h.foldl fun _ _ h => h.onRegion.foldl fun _ _ h => h.takeSpare

theorem KeepsForm.sliverMaps (h : KeepsForm s t) : KeepsForm s (Machine.sliverMaps t) := h.onRegions.serveSpares

theorem KeepsForm.servePendingFences (h : KeepsForm s t) : KeepsForm s (Machine.servePendingFences t) :=
  h.foldl fun _ _ h => by
    split
    · exact h.fenceNow
    · exact h

theorem KeepsForm.tamperRecord {flags} (h : KeepsForm s t) : KeepsForm s (Machine.tamperRecord flags t) := .ite h h.rest.rest

theorem KeepsForm.zeroise {sensors} (h : KeepsForm s t) : KeepsForm s (Machine.zeroise sensors t) :=
  h.endDebug.restFab.voidReshard.volatileLoss.rest.foldl fun _ _ h => h.completeClear

/-! ### The operations of Machine/Rings -/

theorem KeepsForm.onGw {f} (h : KeepsForm s t) : KeepsForm s (Machine.onGw f t) := h.trans (keepsForm_onGw f t)

theorem KeepsForm.gwErr {bit} (h : KeepsForm s t) : KeepsForm s (Machine.gwErr bit t) := h.onGw

theorem KeepsForm.setEnable {value} (h : KeepsForm s t) : KeepsForm s (Machine.setEnable value t) :=
  .ite h.onGw (.ite h (.ite h.onGw ((h.iteElse (·.gwErr)).iteElse (·.gwErr))))

theorem KeepsForm.setTail {value} (h : KeepsForm s t) : KeepsForm s (Machine.setTail value t) := .ite h.gwErr h.onGw

theorem KeepsForm.setCqHead {value} (h : KeepsForm s t) : KeepsForm s (Machine.setCqHead value t) := .ite h.gwErr h.onGw

theorem KeepsForm.setRing {offset wide value} (h : KeepsForm s t) : KeepsForm s (Machine.setRing offset wide value t) := by
  refine .ite h.gwErr ?_
  split
  · exact h.onGw
  · exact h.onGw
  · exact h.onGw.iteThen (·.setTail)
  · exact h.onGw
  · exact h.onGw
  · exact h.onGw.iteThen (·.setCqHead)
  · exact h

theorem KeepsForm.clearErr {mask} (h : KeepsForm s t) : KeepsForm s (Machine.clearErr mask t) := h.onGw

theorem KeepsForm.setWord {offset v} (h : KeepsForm s t) : KeepsForm s (Machine.setWord offset v t) := by
  unfold Machine.setWord
  split
  · exact h.clearErr
  · exact h.onGw.setEnable
  · exact h.setTail
  · exact h.setCqHead
  · exact .ite h.setRing (.ite h.onGw h)

theorem KeepsForm.setRegister {offset wide value} (h : KeepsForm s t) : KeepsForm s (Machine.setRegister offset wide value t) :=
  .ite h (h.setWord.iteThen (·.setWord))

theorem KeepsForm.accept {a} (h : KeepsForm s t) : KeepsForm s (Machine.accept a t) := h.onGw

theorem KeepsForm.refuseFetch {q c} (h : KeepsForm s t) : KeepsForm s (Machine.refuseFetch q c t) := h.accept

theorem KeepsForm.refuseClear {q status} (h : KeepsForm s t) : KeepsForm s (Machine.refuseClear q status t) := h.refuseFetch

theorem KeepsForm.acceptPacket {q op params formOk} (h : KeepsForm s t) : KeepsForm s (Machine.acceptPacket q op params formOk t) :=
  .ite h.refuseFetch (.ite h.refuseFetch h.accept)

theorem KeepsForm.checkPacket {q head body} (h : KeepsForm s t) : KeepsForm s (Machine.checkPacket q head body t) := by
  unfold Machine.checkPacket
  dsimp only
  refine .ite (.ite h.acceptPacket h.refuseClear) ?_
  split
  · exact h.refuseClear
  · split
    · exact h.authRecord.refuseClear
    · exact .ite h.authRecord.refuseClear h.onGw.acceptPacket

theorem KeepsForm.fetchEntry {entryOk hOk rOk} (h : KeepsForm s t) : KeepsForm s (Machine.fetchEntry entryOk hOk rOk t) :=
  .ite h.onGw.gwErr (.ite h.onGw.refuseClear (.ite h.onGw.gwErr.refuseClear
    (.ite h.onGw.refuseClear (.ite h.onGw.gwErr.refuseClear h.onGw.checkPacket))))

theorem KeepsForm.notifyEntry {c} (h : KeepsForm s t) : KeepsForm s (Machine.notifyEntry t c).2 := by
  unfold Machine.notifyEntry
  dsimp only
  split
  · exact h
  · dsimp only
    exact h.onGw

theorem KeepsForm.noteDone (h : KeepsForm s t) : KeepsForm s (Machine.noteDone t) := h.rest

theorem KeepsForm.postOne {c replyOk entryOk} (h : KeepsForm s t) : KeepsForm s (Machine.postOne c replyOk entryOk t) := by
  unfold Machine.postOne
  extract_lets isNote failed replied r written last advanced
  have hr : KeepsForm s replied := .ite h.gwErr (.ite h.writeMem h)
  have he : KeepsForm s r.2 := by
    by_cases hn : c.kind = 1
    · simpa [r, isNote, hn] using hr.notifyEntry
    · simpa [r, isNote, hn] using hr
  have ha : KeepsForm s advanced := he.writeMem.onGw
  exact .ite hr.onGw.gwErr (.ite ha.noteDone ha)

theorem KeepsForm.postReplyOnly {c replyOk} (h : KeepsForm s t) : KeepsForm s (Machine.postReplyOnly c replyOk t) := by
  unfold Machine.postReplyOnly
  exact (KeepsForm.ite h.writeMem (.ite h.gwErr h)).onGw

/-! ### The operations of Machine/Gate -/

theorem KeepsForm.check {q op ok st f} (h : KeepsForm s t) (hf : ∀ u, KeepsForm s u → KeepsForm s (f u)) :
    KeepsForm s (Machine.check q op ok st f t) := .ite (hf t h) h.refuse

theorem KeepsForm.checkField {q op p ok f} (h : KeepsForm s t) (hf : ∀ u, KeepsForm s u → KeepsForm s (f u)) :
    KeepsForm s (Machine.checkField q op p ok f t) := .ite (hf t h) h.refuseField

/-! ### The operations of Machine/Session -/

theorem KeepsForm.reply {q op payload} (h : KeepsForm s t) : KeepsForm s (Machine.reply q op payload t) := h.complete

theorem KeepsForm.openNow {q sid key params ephemeral} (h : KeepsForm s t) : KeepsForm s (Machine.openNow q sid key params ephemeral t) :=
  h.draw.identitySign.onGw.reply

theorem KeepsForm.openSession {q owner ephemeral signature} (h : KeepsForm s t) :
    KeepsForm s (Machine.openSession q owner ephemeral signature t) := by
  refine .ite h.refuse ?_
  refine .ite h.refuse ?_
  refine .ite h.refuseField ?_
  refine .ite h.authRecord.refuse ?_
  split
  · exact h.refuse
  · exact h.openNow

theorem KeepsForm.closeNow {q sid} (h : KeepsForm s t) : KeepsForm s (Machine.closeNow q sid t) :=
  h.checkField fun _ h => h.reply.endSession

theorem KeepsForm.enrolNow {q owner domain policy} (h : KeepsForm s t) : KeepsForm s (Machine.enrolNow q owner domain policy t) :=
  h.draw.rest.onGw.record.reply

theorem KeepsForm.enrol {q owner domain policy} (h : KeepsForm s t) : KeepsForm s (Machine.enrol q owner domain policy t) :=
  .ite h.refuseField (.ite h.refuseField (.ite h.authRecord.refuse (.ite h.refuse h.enrolNow)))

theorem KeepsForm.tokenRefused {q op st} (h : KeepsForm s t) : KeepsForm s (Machine.tokenRefused q op st t) :=
  .ite h.refuseField (KeepsForm.ite h.authRecord h).refuse

theorem KeepsForm.withToken {q op kind own tok f} (h : KeepsForm s t) (hf : ∀ u, KeepsForm s u → KeepsForm s (f u)) :
    KeepsForm s (Machine.withToken q op kind own tok f t) := by
  unfold Machine.withToken
  split
  · exact h.tokenRefused
  · exact hf t h

theorem KeepsForm.retireNow (h : KeepsForm s t) : KeepsForm s (Machine.retireNow t) := h.record.restFab.coldReset

theorem KeepsForm.policySet {q policy} (h : KeepsForm s t) : KeepsForm s (Machine.policySet q policy t) :=
  .ite h.refuseField (.ite h.authRecord.refuse (.ite h.refuse h.rest.record.reply))

theorem KeepsForm.markNow {q hostTime note} (h : KeepsForm s t) : KeepsForm s (Machine.markNow q hostTime note t) := h.rest.reply

theorem KeepsForm.logMark {q hostTime note} (h : KeepsForm s t) : KeepsForm s (Machine.logMark q hostTime note t) :=
  .ite h.markNow h.rest

theorem KeepsForm.clearLog {q upto fp} (h : KeepsForm s t) : KeepsForm s (Machine.clearLog q upto fp t) := h.rest.record.reply

theorem KeepsForm.askOther {q op own f} (h : KeepsForm s t) : KeepsForm s (Machine.askOther q op own f t) := h.rest.sendLash

theorem KeepsForm.readState {q sel first count} (h : KeepsForm s t) : KeepsForm s (Machine.readState q sel first count t) := by
  unfold Machine.readState
  split
  · exact h.refuseField
  · exact h.checkField fun _ h => .ite h.askOther h.reply

theorem KeepsForm.debugOpen {q token} (h : KeepsForm s t) : KeepsForm s (Machine.debugOpen q token t) :=
  .ite h.sendLash.rest h.sendLash.enterDebug

theorem KeepsForm.accFault {row r k bank tileRow slot} (h : KeepsForm s t) : KeepsForm s (Machine.accFault row r k bank tileRow slot t) :=
  h.record.nameCore.haltWith

theorem KeepsForm.debugParity {r core target bank first length} (h : KeepsForm s t) :
    KeepsForm s (Machine.debugParity r core target bank first length t) := by
  unfold Machine.debugParity
  split
  · exact h
  · exact h.accFault

theorem KeepsForm.scanned {target r core bank first length} (h : KeepsForm s t) :
    KeepsForm s (Machine.scanned target r core bank first length t).2 :=
  h.debugParity.draw

theorem KeepsForm.debugRead {q target r core bank first length} (h : KeepsForm s t) :
    KeepsForm s (Machine.debugRead q target r core bank first length t) :=
  .ite h.refuseField (.ite h.wakeDoze.askOther h.wakeDoze.scanned.reply)

theorem KeepsForm.windowReg {q window base size} (h : KeepsForm s t) : KeepsForm s (Machine.windowReg q window base size t) :=
  .ite h.refuseField (.ite h.refuseField h.onGw.reply)

/-! ### The operations of Machine/Supply -/

theorem KeepsForm.onPower {f} (h : KeepsForm s t) : KeepsForm s (Machine.onPower f t) := h.rest

theorem KeepsForm.onPins {f} (h : KeepsForm s t) : KeepsForm s (Machine.onPins f t) := h.rest

theorem KeepsForm.onThermal {f} (h : KeepsForm s t) : KeepsForm s (Machine.onThermal f t) := h.rest

theorem KeepsForm.bringUp {p} (h : KeepsForm s t) : KeepsForm s (Machine.bringUp p t) := .ite h.onPort h

theorem KeepsForm.bringUpAll (h : KeepsForm s t) : KeepsForm s (Machine.bringUpAll t) := h.foldl fun _ _ h => h.bringUp

theorem KeepsForm.cellCheck {flags mv} (h : KeepsForm s t) : KeepsForm s (Machine.cellCheck flags mv t) := h.rest.iteThen (·.rest)

theorem KeepsForm.auxRecords {deferred cell} (h : KeepsForm s t) : KeepsForm s (Machine.auxRecords deferred cell t) :=
  (h.rest.tamperRecord.rest.iteThen (·.rest)).cellCheck.bootImage.record

theorem KeepsForm.auxGood {islandOk cell slotId ownerPresentN} (h : KeepsForm s t) :
    KeepsForm s (Machine.auxGood islandOk cell slotId ownerPresentN t) := by
  unfold Machine.auxGood
  exact (h.rest.iteElse (·.zeroise)).auxRecords.onPower

theorem KeepsForm.auxLost (h : KeepsForm s t) : KeepsForm s (Machine.auxLost t) := (KeepsForm.ite h.emergencyDown h.standby).rest

theorem KeepsForm.startMain (h : KeepsForm s t) : KeepsForm s (Machine.startMain t) := h.coldStart.rest.bringUpAll

theorem KeepsForm.mainEnAssert (h : KeepsForm s t) : KeepsForm s (Machine.mainEnAssert t) :=
  .ite h.onPins.startMain (h.onPins.iteThen (·.onPower))

theorem KeepsForm.mainHoldRelease (h : KeepsForm s t) : KeepsForm s (Machine.mainHoldRelease t) :=
  h.onPower.iteThen (·.startMain)

theorem KeepsForm.mainEnDeassert (h : KeepsForm s t) : KeepsForm s (Machine.mainEnDeassert t) := by
  unfold Machine.mainEnDeassert
  exact (h.onPins.iteThen (·.standby)).onPower

theorem KeepsForm.mainRange {mv lasted} (h : KeepsForm s t) : KeepsForm s (Machine.mainRange mv lasted t) :=
  .ite h.onThermal.onThermal (.ite (h.onThermal.iteElse (·.onThermal))
    ((h.onThermal.iteElse (·.record)).onThermal.iteThen (·.emergencyDown)))

theorem KeepsForm.railFault {rail phase mv} (h : KeepsForm s t) : KeepsForm s (Machine.railFault rail phase mv t) := by
  unfold Machine.railFault
  exact h.record.emergencyDown.onPower

theorem KeepsForm.pllLossOfLock {r} (h : KeepsForm s t) : KeepsForm s (Machine.pllLossOfLock r t) :=
  .ite h.record.fenceNow h.record.onRegion

theorem KeepsForm.resetEndpoint (h : KeepsForm s t) : KeepsForm s (Machine.resetEndpoint t) := h.onGw

theorem KeepsForm.perstNFall {fullStrap} (h : KeepsForm s t) : KeepsForm s (Machine.perstNFall fullStrap t) :=
  .ite h.onPins.resetEndpoint (.ite h.onPins.resetEndpoint.coldReset.bringUpAll
    (.ite h.onPins.resetEndpoint.onGw h.onPins.resetEndpoint.onGw))

theorem KeepsForm.postAll {n} (h : KeepsForm s t) : KeepsForm s (Machine.postAll n t) := by
  induction n generalizing t with
  | zero => exact h
  | succ n ih =>
    unfold Machine.postAll
    split
    · exact h
    · exact .ite (ih h.postOne) h

theorem KeepsForm.warmPosts (h : KeepsForm s t) : KeepsForm s (Machine.warmPosts t) :=
  .ite h.completeAllClear.postAll.onGw.raiseVec1 h

theorem KeepsForm.warmNow (h : KeepsForm s t) : KeepsForm s (Machine.warmNow t) := h.sendLash.warmPosts.warmReset

theorem KeepsForm.controlRestartDone (h : KeepsForm s t) : KeepsForm s (Machine.controlRestartDone t) := h.onPower.onGw.settleDoze

theorem KeepsForm.newMemKeys (h : KeepsForm s t) : KeepsForm s (Machine.newMemKeys t) :=
  ⟨h.tier, h.staging, h.slice, h.host, h.acc, h.regions, h.ports⟩

theorem KeepsForm.memoryTrained {failed} (h : KeepsForm s t) : KeepsForm s (Machine.memoryTrained failed t) := by
  unfold Machine.memoryTrained
  split
  · exact h.record.onPower
  · exact h.onPower.newMemKeys

theorem KeepsForm.selftestBand {cores spares slices band} (h : KeepsForm s t) :
    KeepsForm s (Machine.selftestBand cores spares slices band t) :=
  ((h.foldl (fun _ _ h => h.onRegion.record)).foldl (fun _ _ h => h.onRegion.record)).foldl fun _ _ h => h.onRegion

theorem KeepsForm.selftestDone {cores spares slices} (h : KeepsForm s t) : KeepsForm s (Machine.selftestDone cores spares slices t) :=
  (h.rest.foldl (fun _ _ h => h.selftestBand)).onPower.onGw.settleDoze

theorem KeepsForm.enterDoze (h : KeepsForm s t) : KeepsForm s (Machine.enterDoze t) := h.onRegions.onPower

theorem KeepsForm.powerTo {q target} (h : KeepsForm s t) : KeepsForm s (Machine.powerTo q target t) := by
  unfold Machine.powerTo
  split
  · exact .ite h.onGw.onPower h.onPower.reply
  · exact .ite h.onPower.onGw h.onPower.enterDoze.reply
  · exact .ite h.onGw.onPower h.enterSleep.reply

theorem KeepsForm.tellPower {target boostEn} (h : KeepsForm s t) : KeepsForm s (Machine.tellPower target boostEn t) := h.sendLash

theorem KeepsForm.powerCommand {q target boostEn} (h : KeepsForm s t) : KeepsForm s (Machine.powerCommand q target boostEn t) :=
  .ite h.refuseField (.ite h.refuseField h.tellPower.onPower.powerTo)

theorem KeepsForm.sleepWakeDone (h : KeepsForm s t) : KeepsForm s (Machine.sleepWakeDone t) := by
  unfold Machine.sleepWakeDone
  exact h.onPower.rest.onRegions.bringUpAll.completePower

theorem KeepsForm.resetRegion {r} (h : KeepsForm s t) : KeepsForm s (Machine.resetRegion r t) := h.loseRegion.onRegion.sendLash

theorem KeepsForm.resetCommand {q kind r} (h : KeepsForm s t) : KeepsForm s (Machine.resetCommand q kind r t) :=
  .ite h.refuseField (.ite h.refuseField (.ite h.reply.onGw (KeepsForm.ite h.wakeDoze.resetRegion h.sendLash).reply))

/-! ### The operations of Machine/Recorder -/

theorem KeepsForm.onLog {f} (h : KeepsForm s t) : KeepsForm s (Machine.onLog f t) := h.rest

theorem KeepsForm.alertFor {r} (h : KeepsForm s t) : KeepsForm s (Machine.alertFor r t) := .ite h.onPins h

theorem KeepsForm.pairTail {r} (h : KeepsForm s t) : KeepsForm s (Machine.pairTail r t) := .ite h.rest.sendLash h

theorem KeepsForm.recordWrite (h : KeepsForm s t) : KeepsForm s (Machine.recordWrite t) := by
  unfold Machine.recordWrite
  split
  · exact h
  · exact h.onLog.alertFor.pairTail

theorem KeepsForm.markQueued (h : KeepsForm s t) : KeepsForm s (Machine.markQueued t) := by
  unfold Machine.markQueued
  split
  · exact h
  · exact h.onLog.markNow

theorem KeepsForm.smbReply {bs} (h : KeepsForm s t) : KeepsForm s (Machine.smbReply bs t) := h.onGw

theorem KeepsForm.logNext (h : KeepsForm s t) : KeepsForm s (Machine.logNext t) := by
  unfold Machine.logNext
  split
  · exact h.onLog.smbReply
  · exact h.smbReply

theorem KeepsForm.coolantDuty (h : KeepsForm s t) : KeepsForm s (Machine.coolantDuty t) := .ite h.onThermal h

theorem KeepsForm.tamperRestart (h : KeepsForm s t) : KeepsForm s (Machine.tamperRestart t) := h.coldReset.rest

theorem KeepsForm.tamperTrip {sensors} (h : KeepsForm s t) : KeepsForm s (Machine.tamperTrip sensors t) :=
  .ite (h.zeroise.rest.tamperRecord.iteThen (·.tamperRestart)) h.zeroise.rest

theorem KeepsForm.ownerRise (h : KeepsForm s t) : KeepsForm s (Machine.ownerRise t) :=
  .ite h.onPins (h.onPins.foldl (fun _ _ h => h.endSession))

/-! ### The operations of Machine/Thermal -/

theorem KeepsForm.slowAll (h : KeepsForm s t) : KeepsForm s (Machine.slowAll t) := h.onRegions

theorem KeepsForm.throttleDown {r b d} (h : KeepsForm s t) : KeepsForm s (Machine.throttleDown r b d t) :=
  (h.iteElse (·.record)).onRegion.chargeRegionCycles.iteThen (·.fenceLater)

theorem KeepsForm.throttleUp {r} (h : KeepsForm s t) : KeepsForm s (Machine.throttleUp r t) :=
  h.onRegion.iteThen (·.chargeRegionCycles)

theorem KeepsForm.throttleRegion {r} (h : KeepsForm s t) : KeepsForm s (Machine.throttleRegion r t) := by
  refine .ite h ?_
  split
  · exact .ite h.throttleDown (.ite h.throttleUp h)
  · exact .ite h.throttleUp h

theorem KeepsForm.thermalTrip {sensor tj} (h : KeepsForm s t) : KeepsForm s (Machine.thermalTrip sensor tj t) :=
  h.onPins.onThermal.record.halt.onRegions

theorem KeepsForm.hotCheck {tj} (h : KeepsForm s t) : KeepsForm s (Machine.hotCheck tj t) :=
  .ite (KeepsForm.ite h h.record).onThermal.slowAll (.ite h.onThermal (.ite h.slowAll h))

theorem KeepsForm.temperatureSample {regions others} (h : KeepsForm s t) : KeepsForm s (Machine.temperatureSample regions others t) :=
  .ite (h.onRegions.onThermal.iteThen (·.emergencyDown)) (.ite h.onRegions.onThermal.thermalTrip
    (h.onRegions.onThermal.hotCheck.foldl fun _ _ h => h.throttleRegion).settleBoost)

theorem KeepsForm.capStep {watts cap} (h : KeepsForm s t) : KeepsForm s (Machine.capStep watts cap t) :=
  .ite (h.foldl (fun _ _ h => h.onRegion)) (.ite (h.foldl (fun _ _ h => h.onRegion)) h)

theorem KeepsForm.powerCapTick {watts} (h : KeepsForm s t) : KeepsForm s (Machine.powerCapTick watts t) := by
  unfold Machine.powerCapTick
  exact h.onThermal.settleBoost.onThermal.capStep.onThermal

theorem KeepsForm.thermalCreditUpdate {watts} (h : KeepsForm s t) : KeepsForm s (Machine.thermalCreditUpdate watts t) := h.rest.settleBoost

theorem KeepsForm.settleDuty (h : KeepsForm s t) : KeepsForm s (Machine.settleDuty t) :=
  .ite h.coolantDuty (.ite h.onThermal h)

theorem KeepsForm.testCondition {reading c} (h : KeepsForm s t) : KeepsForm s (Machine.testCondition reading c t) := by
  unfold Machine.testCondition
  exact (KeepsForm.ite h.record h).onThermal

theorem KeepsForm.coolantTest {reading} (h : KeepsForm s t) : KeepsForm s (Machine.coolantTest reading t) :=
  ((h.onThermal.foldl fun _ _ h => h.testCondition).settleDuty.iteThen (·.slowAll)).settleBoost

/-! ### The operations of Machine/Issue -/

theorem KeepsForm.onSeq {f} (h : KeepsForm s t) : KeepsForm s (Machine.onSeq f t) := h.trans (keepsForm_onSeq f t)

theorem KeepsForm.onRun {f} (h : KeepsForm s t) : KeepsForm s (Machine.onRun f t) := h.onSeq

theorem KeepsForm.addFlight {c stage flags watch} (h : KeepsForm s t) : KeepsForm s (Machine.addFlight c stage flags watch t) :=
  .ite h.onSeq h

theorem KeepsForm.noteSpans {l} (h : KeepsForm s t) : KeepsForm s (Machine.noteSpans l t) := h.onSeq

theorem KeepsForm.noteWrites {w} (h : KeepsForm s t) : KeepsForm s (Machine.noteWrites w t) := .ite h h.noteSpans

theorem KeepsForm.issueRow {c eff} (h : KeepsForm s t) (hf : ∀ c u, KeepsForm s u → KeepsForm s (eff c u)) :
    KeepsForm s (Machine.issueRow c eff t) := .ite (hf _ _ h.noteWrites) h.noteWrites.addFlight

theorem KeepsForm.chargeOpt {c w dt} (h : KeepsForm s t) : KeepsForm s (Machine.chargeOpt c w dt t) := by
  unfold Machine.chargeOpt
  split
  · exact h.charge
  · exact h

theorem KeepsForm.takePath {r w} (h : KeepsForm s t) : KeepsForm s (Machine.takePath r w t).2 := by
  unfold Machine.takePath
  dsimp only
  exact h.onSeq

theorem KeepsForm.waitHere {c w dt} (h : KeepsForm s t) : KeepsForm s (Machine.waitHere c w dt t) := h.charge.onRun

theorem KeepsForm.pathData {r w dt eff} (h : KeepsForm s t) (hf : ∀ c u, KeepsForm s u → KeepsForm s (eff c u)) :
    KeepsForm s (Machine.pathData r w dt eff t) := by
  unfold Machine.pathData
  dsimp only
  split
  · exact h.waitHere
  · split
    · exact h.chargeOpt.takePath.onSeq
    · exact (h.chargeOpt.takePath.iteThen (·.chargeOpt)).issueRow hf

theorem KeepsForm.releaseHeld {slot r dt eff} (h : KeepsForm s t) (hf : ∀ c u, KeepsForm s u → KeepsForm s (eff c u)) :
    KeepsForm s (Machine.releaseHeld slot r dt eff t) := h.charge.onSeq.issueRow hf

theorem KeepsForm.stayHeld {held c dt} (h : KeepsForm s t) : KeepsForm s (Machine.stayHeld held c dt t) := by
  unfold Machine.stayHeld
  exact h.charge.onSeq

theorem KeepsForm.chargeRefetch {is dt} (h : KeepsForm s t) : KeepsForm s (Machine.chargeRefetch is dt t) := .ite h.chargeModule h

theorem KeepsForm.dataEvent {is dt eff} (h : KeepsForm s t) (hf : ∀ c u, KeepsForm s u → KeepsForm s (eff c u)) :
    KeepsForm s (Machine.dataEvent is dt eff t) := by
  unfold Machine.dataEvent
  dsimp only
  split
  · exact h.chargeRefetch
  · split
    · exact h.chargeRefetch.releaseHeld hf
    · refine .ite (h.chargeRefetch.pathData hf) ?_
      split
      · exact h.chargeRefetch.stayHeld
      · exact h.chargeRefetch

theorem KeepsForm.showItems {w} (h : KeepsForm s t) : KeepsForm s (Machine.showItems w t) := .ite h.sendLash h

theorem KeepsForm.rendezvousSent {w slot row} (h : KeepsForm s t) : KeepsForm s (Machine.rendezvousSent w slot row t) :=
  .ite h h.rest.showItems.sendLash

theorem KeepsForm.lockstepLost {slot row other} (h : KeepsForm s t) : KeepsForm s (Machine.lockstepLost slot row other t) :=
  h.pairEvent.haltPeer

theorem KeepsForm.controlEvent {is dt wait eff} (h : KeepsForm s t) (hf : ∀ c r u, KeepsForm s u → KeepsForm s (eff c r u)) :
    KeepsForm s (Machine.controlEvent is dt wait eff t) := by
  unfold Machine.controlEvent
  dsimp only
  split
  · exact h
  · refine .ite h ?_
    split
    · exact h.waitHere
    · refine .ite ?_ ?_
      · split
        · exact h.rendezvousSent.waitHere
        · refine .ite ?_ h.rendezvousSent.lockstepLost
          split
          · exact h.rendezvousSent.waitHere
          · exact hf _ _ _ h.rendezvousSent.chargeOpt.rest.onRun
      · split
        · exact h.waitHere
        · exact hf _ _ _ h.chargeOpt.rest.onRun

theorem KeepsForm.setNext {k} (h : KeepsForm s t) : KeepsForm s (Machine.setNext k t) := h.onRun

theorem KeepsForm.controlFlight {c stage} (h : KeepsForm s t) : KeepsForm s (Machine.controlFlight c stage t) := h.onSeq.addFlight

theorem KeepsForm.flushWatch {n} (h : KeepsForm s t) : KeepsForm s (Machine.flushWatch n t) := by
  induction n generalizing t with
  | zero => exact h
  | succ n ih =>
    unfold Machine.flushWatch
    split
    · exact h
    · exact ih h.onSeq

theorem KeepsForm.settleWatch (h : KeepsForm s t) : KeepsForm s (Machine.settleWatch t) := h.flushWatch

theorem KeepsForm.driftEntry {k} (h : KeepsForm s t) : KeepsForm s (Machine.driftEntry k t) :=
  .ite h (h.onSeq.iteThen (·.pairEvent))

theorem KeepsForm.driftTest (h : KeepsForm s t) : KeepsForm s (Machine.driftTest t) := (h.foldl (fun _ _ h => h.driftEntry)).clearWatch

theorem KeepsForm.orFreg {w flags} (h : KeepsForm s t) : KeepsForm s (Machine.orFreg w flags t) := .ite h h.onSeq

theorem KeepsForm.keepCopy {w} (h : KeepsForm s t) : KeepsForm s (Machine.keepCopy w t) := .ite h.onSeq h

theorem KeepsForm.finishRow {f other} (h : KeepsForm s t) : KeepsForm s (Machine.finishRow f other t) :=
  h.onSeq.orFreg.onSeq.keepCopy.settleWatch.settleHalt

theorem KeepsForm.dropShare {p} (h : KeepsForm s t) : KeepsForm s (Machine.dropShare p t) := h.rest

theorem KeepsForm.completeRow {f} (h : KeepsForm s t) : KeepsForm s (Machine.completeRow f t) := by
  refine .ite h.finishRow ?_
  refine .ite ?_ h.sendLash.finishRow
  split
  · exact h.sendLash.dropShare.finishRow
  · exact h.sendLash.onSeq

theorem KeepsForm.remoteComplete {f} (h : KeepsForm s t) : KeepsForm s (Machine.remoteComplete f t) := by
  unfold Machine.remoteComplete
  split
  · exact h.dropShare.finishRow
  · exact h

theorem KeepsForm.rowComplete {place} (h : KeepsForm s t) : KeepsForm s (Machine.rowComplete place t) := by
  unfold Machine.rowComplete
  split
  · exact .ite h.completeRow (.ite h.remoteComplete h)
  · exact h

/-! ### The operations of Machine/Copy -/

theorem KeepsForm.readUnit {u} (h : KeepsForm s t) : KeepsForm s (Machine.readUnit u t).2 := by
  unfold Machine.readUnit
  dsimp only
  split
  · exact h
  · split
    · exact h
    · exact KeepsForm.record ⟨h.tier, h.staging, h.slice, h.host, h.acc, h.regions, h.ports⟩

theorem KeepsForm.readUnits {n u} (h : KeepsForm s t) : KeepsForm s (Machine.readUnits n u t).2 := by
  induction n generalizing u t with
  | zero => exact h
  | succ n ih =>
    unfold Machine.readUnits
    dsimp only
    split
    · exact ih h.readUnit
    · exact h.readUnit

theorem KeepsForm.readTier {a n} (h : KeepsForm s t) : KeepsForm s (Machine.readTier a n t).2.2 := by
  unfold Machine.readTier
  dsimp only
  split
  · exact h
  · split
    · exact h.readUnits
    · exact h.readUnits

theorem KeepsForm.stagingFault {row r k unit} (h : KeepsForm s t) : KeepsForm s (Machine.stagingFault row r k unit t) :=
  h.record.nameCore.haltAt

theorem KeepsForm.sliceFault {row r unit} (h : KeepsForm s t) : KeepsForm s (Machine.sliceFault row r unit t) :=
  h.record.onRegion.haltAt.iteThen (·.fenceLater)

theorem KeepsForm.tierFault {row tensor unit} (h : KeepsForm s t) : KeepsForm s (Machine.tierFault row tensor unit t) := h.record.haltAt

theorem KeepsForm.blobFault {row d off} (h : KeepsForm s t) : KeepsForm s (Machine.blobFault row d off t) := h.record.haltAt

theorem KeepsForm.sendCopy {vc lash node op txn addr len payload} (h : KeepsForm s t) :
    KeepsForm s (Machine.sendCopy vc lash node op txn addr len payload t) :=
  .ite (.ite h.enqueueLash h.haltPeer) h.send

theorem KeepsForm.onTxns {f} (h : KeepsForm s t) : KeepsForm s (Machine.onTxns f t) := h.restFab

theorem KeepsForm.openTxn {flight lash node isRead d} (h : KeepsForm s t) :
    KeepsForm s (Machine.openTxn flight lash node isRead d t).2 := by
  unfold Machine.openTxn
  split
  · exact h
  · exact h.restFab

theorem KeepsForm.addLeft {txn n} (h : KeepsForm s t) : KeepsForm s (Machine.addLeft txn n t) := h.onTxns

theorem KeepsForm.writeRemote {flight d lash node addr bs} (h : KeepsForm s t) :
    KeepsForm s (Machine.writeRemote flight d lash node addr bs t) :=
  h.openTxn.foldl fun _ _ h => h.sendCopy.addLeft

theorem KeepsForm.readRemote {flight d lash node addr i off n} (h : KeepsForm s t) :
    KeepsForm s (Machine.readRemote flight d lash node addr i off n t) :=
  h.openTxn.foldl fun _ _ h => h.sendCopy.addLeft

theorem KeepsForm.landPiece {flight d i off v} (h : KeepsForm s t) : KeepsForm s (Machine.landPiece flight d i off v t) := by
  unfold Machine.landPiece
  split
  · exact h.writeMem
  · exact h.writeRemote
  · exact h

theorem KeepsForm.landCopy {flight d i off bs} (h : KeepsForm s t) : KeepsForm s (Machine.landCopy flight d i off bs t) :=
  h.foldl fun _ _ h => h.landPiece

theorem KeepsForm.hostFault {row d p} (h : KeepsForm s t) : KeepsForm s (Machine.hostFault row d p t) := h.record.haltAt

theorem KeepsForm.writeHostRun {d i bs} (h : KeepsForm s t) : KeepsForm s (Machine.writeHostRun d i bs t) := by
  unfold Machine.writeHostRun
  split
  · exact h.draw.writeMem
  · exact h

theorem KeepsForm.readHostRun {c d i w off n k} (h : KeepsForm s t) : KeepsForm s (Machine.readHostRun c d i w off n k t).2 := by
  induction n generalizing k t with
  | zero => exact h
  | succ n ih =>
    unfold Machine.readHostRun
    split
    · exact h.blobFault
    · exact ih h.landCopy

theorem KeepsForm.copyPiece {c d i off n} (h : KeepsForm s t) : KeepsForm s (Machine.copyPiece c d i off n t).2 := by
  unfold Machine.copyPiece
  dsimp only
  split
  · split
    · exact h.readTier.landCopy
    · exact h.readTier.landCopy.tierFault
  · exact h.landCopy
  · exact h.readRemote
  · exact h.readHostRun

theorem KeepsForm.untilHalt {α : Type} {f : α → State → Bool × State} {l} (h : KeepsForm s t)
    (hf : ∀ x u, KeepsForm s u → KeepsForm s (f x u).2) : KeepsForm s (Machine.untilHalt f l t).2 := by
  induction l generalizing t with
  | nil => exact h
  | cons x l ih =>
    unfold Machine.untilHalt
    dsimp only
    split
    · exact ih (hf x t h)
    · exact hf x t h

theorem KeepsForm.keepData {txn off bs} (h : KeepsForm s t) : KeepsForm s (Machine.keepData txn off bs t) := h.onTxns

theorem KeepsForm.gatherPiece {c d i off n} (h : KeepsForm s t) : KeepsForm s (Machine.gatherPiece c d i off n t).2 := by
  unfold Machine.gatherPiece
  split
  · dsimp only
    split
    · exact h.readTier.openTxn.keepData
    · exact h.readTier.tierFault
  · exact h.copyPiece

theorem KeepsForm.gatherRun {c d i} (h : KeepsForm s t) : KeepsForm s (Machine.gatherRun c d i t).2 := by
  unfold Machine.gatherRun
  dsimp only
  split
  · exact h.untilHalt fun _ _ h => h.gatherPiece
  · split
    · split
      · exact h.readTier.writeHostRun
      · exact h.readTier.tierFault
    · exact h.writeHostRun
    · exact h

theorem KeepsForm.copyRun {c d i} (h : KeepsForm s t) : KeepsForm s (Machine.copyRun c d i t).2 := by
  unfold Machine.copyRun
  split
  · exact h.gatherRun
  · split
    · exact h.copyPiece
    · exact h.untilHalt fun _ _ h => h.copyPiece

theorem KeepsForm.copyDesc {c d} (h : KeepsForm s t) : KeepsForm s (Machine.copyDesc c d t).2 := h.untilHalt fun _ _ h => h.copyRun

theorem KeepsForm.recopy {c d i off} (h : KeepsForm s t) : KeepsForm s (Machine.recopy c d i off t).2 := by
  unfold Machine.recopy
  dsimp only
  split
  · exact h.readRemote
  · split
    · split
      · exact h.hostFault
      · split
        · exact h.blobFault
        · exact h.landCopy
    · exact h
  · exact h.copyPiece

theorem KeepsForm.mendStaging {c l n} (h : KeepsForm s t) : KeepsForm s (Machine.mendStaging c l n t).2 := by
  induction n generalizing t with
  | zero => exact h
  | succ n ih =>
    unfold Machine.mendStaging
    split
    · exact h
    · split
      · exact h.stagingFault
      · dsimp only
        split
        · exact ih h.recopy
        · exact h.recopy

theorem KeepsForm.withSram {c l eff} (h : KeepsForm s t) (hf : ∀ u, KeepsForm s u → KeepsForm s (eff u)) :
    KeepsForm s (Machine.withSram c l eff t) := by
  unfold Machine.withSram
  split
  · exact h.sliceFault
  · dsimp only
    split
    · exact hf _ h.mendStaging
    · exact h.mendStaging.addFlight
    · exact h.mendStaging

theorem KeepsForm.dropTxns {flight} (h : KeepsForm s t) : KeepsForm s (Machine.dropTxns flight t) := h.onTxns

theorem KeepsForm.copyEffect {c} (h : KeepsForm s t) : KeepsForm s (Machine.copyEffect c t) := by
  unfold Machine.copyEffect
  split
  · exact h.hostFault
  · exact h.withSram fun _ h => .ite (h.untilHalt fun _ _ h => h.copyDesc).dropTxns (h.untilHalt fun _ _ h => h.copyDesc).addFlight

/-! ### The operations of Machine/Compute -/

/-- A push into a tile's words leaves the accumulators sorted. -/
theorem sorted_pushOne {era phys tile pos n count f m} (h : sorted m.1 = true) : sorted (pushOne era phys tile pos n count f m).1 = true :=
  sorted_sput _ _ _ h

/-- A fold whose steps keep a sorted map sorted keeps it. -/
theorem sorted_foldl_fst {α β γ : Type} {l : List β} {f : SMap α × γ → β → SMap α × γ} {m : SMap α × γ}
    (h : sorted m.1 = true)
    (hf : ∀ m b, sorted m.1 = true → sorted (f m b).1 = true) : sorted (l.foldl f m).1 = true := by
  induction l generalizing m with
  | nil => exact h
  | cons b l ih => exact ih (hf m b h)

/-- A PASS row's pushes on one core leave the accumulators sorted. -/
theorem sorted_passCore {p rd era phys tile m} (h : sorted m = true) : sorted (passCore p rd era phys tile m).1 = true :=
  sorted_foldl_fst h fun _ _ h => sorted_foldl_fst h fun _ _ h => sorted_foldl_fst h fun _ _ h => sorted_pushOne h

theorem KeepsForm.passOn {id w rk x} (h : KeepsForm s x.2) : KeepsForm s (Machine.passOn id w rk x).2 := by
  unfold Machine.passOn
  dsimp only
  exact KeepsForm.onSeq ⟨h.tier, h.staging, h.slice, h.host, fun w => sorted_passCore (h.acc w), h.regions, h.ports⟩

theorem KeepsForm.passCharges {w} (h : KeepsForm s t) : KeepsForm s (Machine.passCharges w t) :=
  h.foldl fun _ _ h => h.chargeRegionCycles.chargeRegionCycles

theorem KeepsForm.passEffect {c} (h : KeepsForm s t) : KeepsForm s (Machine.passEffect c t) := by
  unfold Machine.passEffect
  refine h.withSram fun _ h => ?_
  dsimp only
  split
  · exact h.accFault
  · exact (h.passCharges.foldlOn Prod.snd fun _ _ h => h.passOn).addFlight

/-- Words put into a sorted map leave it sorted. -/
theorem sorted_foldl_sput {α : Type} (l : List (Nat × α)) (m : SMap α) (h : sorted m = true) :
    sorted (l.foldl (fun m p => sput m p.1 p.2) m) = true := by
  induction l generalizing m with
  | nil => exact h
  | cons p l ih => exact ih _ (sorted_sput _ _ _ h)

theorem KeepsForm.putAcc {ws} (h : KeepsForm s t) : KeepsForm s (Machine.putAcc ws t) :=
  ⟨h.tier, h.staging, h.slice, h.host, fun w => sorted_foldl_sput ws _ (h.acc w), h.regions, h.ports⟩

theorem KeepsForm.drainOne {a phys tile pos x} (h : KeepsForm s x.2) : KeepsForm s (Machine.drainOne a phys tile pos x).2 := by
  unfold Machine.drainOne
  dsimp only
  exact h.putAcc.writeMem.writeMem

theorem KeepsForm.dropTile {txn id flags} (h : KeepsForm s t) : KeepsForm s (Machine.dropTile txn id flags t) := h.onSeq

theorem KeepsForm.cutRow {id} (h : KeepsForm s t) : KeepsForm s (Machine.cutRow id t) := h.onSeq.settleHalt

theorem KeepsForm.tileDrain {r k} (h : KeepsForm s t) : KeepsForm s (Machine.tileDrain r k t) := by
  unfold Machine.tileDrain
  split
  · exact h
  · refine .ite h ?_
    dsimp only
    split
    · exact h.mendStaging
    · exact h.mendStaging.cutRow
    · split
      · exact h.mendStaging.accFault.cutRow
      · refine KeepsForm.dropTile ?_
        refine KeepsForm.foldlOn (x := (_, _)) Prod.snd h.mendStaging fun _ _ h => ?_
        exact h.drainOne

theorem KeepsForm.writeRegion {r ws} (h : KeepsForm s t) : KeepsForm s (Machine.writeRegion r ws t) :=
  h.foldl fun _ _ h => h.foldl fun _ _ h => h.writeMem

theorem KeepsForm.slicesDone {c outs} (h : KeepsForm s t) : KeepsForm s (Machine.slicesDone c outs t) :=
  (h.foldl (fun _ _ h => h.writeRegion)).addFlight

theorem KeepsForm.quantEffect {c} (h : KeepsForm s t) : KeepsForm s (Machine.quantEffect c t) := by
  unfold Machine.quantEffect
  exact h.withSram fun _ h => h.slicesDone

theorem KeepsForm.anchorFault {row r w} (h : KeepsForm s t) : KeepsForm s (Machine.anchorFault row r w t) := h.record.haltAt

theorem KeepsForm.vectorEffect {c} (h : KeepsForm s t) : KeepsForm s (Machine.vectorEffect c t) := by
  unfold Machine.vectorEffect
  exact h.withSram fun _ h => by
    split
    · exact h.anchorFault
    · exact h.withSram fun _ h => h.slicesDone

theorem KeepsForm.vectorEvent {op dt} (h : KeepsForm s t) : KeepsForm s (Machine.vectorEvent op dt t) :=
  h.dataEvent fun _ _ h => h.vectorEffect

/-! ### The operations of Machine/Link -/

theorem KeepsForm.portRecord {c p} (h : KeepsForm s t) : KeepsForm s (Machine.portRecord c p t) := h.record

theorem KeepsForm.noRouteBack {src dst p} (h : KeepsForm s t) : KeepsForm s (Machine.noRouteBack src dst p t) := h.record.sendNotice

theorem KeepsForm.sendOther {p o} (h : KeepsForm s t) : KeepsForm s (Machine.sendOther p t o) :=
  .ite (.ite h.noRouteHere h.noRouteBack) h.onPort

theorem KeepsForm.reroute {p} (h : KeepsForm s t) : KeepsForm s (Machine.reroute p t) :=
  .ite h (h.onPort.foldl (fun _ _ h => h.sendOther))

theorem KeepsForm.completeLinks {p} (h : KeepsForm s t) : KeepsForm s (Machine.completeLinks p t) := h.onGw.foldl fun _ _ h => h.complete

theorem KeepsForm.failLash {status} (h : KeepsForm s t) : KeepsForm s (Machine.failLash status t) := by
  unfold Machine.failLash
  split
  · exact h
  · exact h.onGw.refuse.onPort

theorem KeepsForm.fencePort {p} (h : KeepsForm s t) : KeepsForm s (Machine.fencePort p t) :=
  .ite h.portRecord.onPort.completeLinks.failLash.strand h.portRecord.onPort.completeLinks.reroute

theorem KeepsForm.takeLost {position node} (h : KeepsForm s t) : KeepsForm s (Machine.takeLost position node t) :=
  .ite h h.rest.record.haltPeer

theorem KeepsForm.lostNeighbour {p} (h : KeepsForm s t) : KeepsForm s (Machine.lostNeighbour p t) := by
  unfold Machine.lostNeighbour
  dsimp only
  split
  · exact h.tellGroup.takeLost
  · exact h

theorem KeepsForm.bringFail {p rec status} (h : KeepsForm s t) : KeepsForm s (Machine.bringFail p rec status t) := by
  unfold Machine.bringFail
  extract_lets recorded off
  have hr : KeepsForm s recorded := by
    cases rec with
    | none => exact h
    | some _ => exact h.portRecord
  have ho : KeepsForm s off := hr.onPort
  exact .ite (.ite ho.failLash (.ite ho (.ite ho.strand ho.bringUp))) (.ite ho.fencePort.lostNeighbour ho.completeLinks.bringUp)

theorem KeepsForm.retrain {p c} (h : KeepsForm s t) : KeepsForm s (Machine.retrain p c t) :=
  .ite h.portRecord.onPort.fencePort h.portRecord.onPort.bringUp

theorem KeepsForm.tagFailure {p} (h : KeepsForm s t) : KeepsForm s (Machine.tagFailure p t) :=
  .ite h.onPort.portRecord.fencePort h.onPort.retrain

theorem KeepsForm.takeHeld {p ok fits n f} (h : KeepsForm s t) (hf : ∀ l u, KeepsForm s u → KeepsForm s (f l u)) :
    KeepsForm s (Machine.takeHeld p ok fits n f t) :=
  .ite h (.ite (.ite (hf _ _ h) h.tagFailure) (.ite (hf _ _ h.onPort) h))

theorem KeepsForm.takeMsg {p ok fits n f} (h : KeepsForm s t) (hf : ∀ u, KeepsForm s u → KeepsForm s (f u)) :
    KeepsForm s (Machine.takeMsg p ok fits n f t) := h.takeHeld fun _ _ h => hf _ h.freeMsgs

theorem KeepsForm.fabricSense {p level} (h : KeepsForm s t) : KeepsForm s (Machine.fabricSense p level t) := h.onPins.bringUp

theorem KeepsForm.narrowLash (h : KeepsForm s t) : KeepsForm s (Machine.narrowLash t) := by
  refine .ite ?_ h
  split
  · exact .ite (.ite h h.onPort.record) h.onPort.strand
  · exact h.onPort.strand

theorem KeepsForm.portDieFault {die} (h : KeepsForm s t) : KeepsForm s (Machine.portDieFault die t) :=
  (h.foldl (fun _ _ h => .ite h h.fencePort)).onPort.narrowLash

theorem KeepsForm.trainComplete {p low high} (h : KeepsForm s t) : KeepsForm s (Machine.trainComplete p low high t) := by
  unfold Machine.trainComplete
  split
  · exact .ite h.bringFail h
  · exact (h.onPort.iteElse fun h => .ite h.record h.portRecord).iteThen (·.onGw)

theorem KeepsForm.heard {p next own peer} (h : KeepsForm s t) : KeepsForm s (Machine.heard p next own peer t) := h.onPort

theorem KeepsForm.evidenceText {own peer} (h : KeepsForm s t) : KeepsForm s (Machine.evidenceText own peer t).2 := by
  unfold Machine.evidenceText
  dsimp only
  exact h.evidence

theorem KeepsForm.sendEvidence {p msg} (h : KeepsForm s t) : KeepsForm s (Machine.sendEvidence p msg t) := h.evidenceText.heard.onPort

theorem KeepsForm.hello {p fabricId node peerPort msg} (h : KeepsForm s t) : KeepsForm s (Machine.hello p fabricId node peerPort msg t) :=
  .ite h.sendEvidence (.ite h.bringFail h.bringFail)

theorem KeepsForm.sendAgree {p} (h : KeepsForm s t) : KeepsForm s (Machine.sendAgree p t) := h.draw.identitySign.onPort

theorem KeepsForm.peerEvidence {p e msg} (h : KeepsForm s t) : KeepsForm s (Machine.peerEvidence p e msg t) := by
  unfold Machine.peerEvidence
  split
  · exact h.bringFail
  · exact h.heard.onPort.sendAgree

theorem KeepsForm.agree {p sigOk peerKey msg} (h : KeepsForm s t) : KeepsForm s (Machine.agree p sigOk peerKey msg t) :=
  .ite h.bringFail h.heard.onPort

theorem KeepsForm.linkConfirm {p c} (h : KeepsForm s t) : KeepsForm s (Machine.linkConfirm p c t) := .ite h.onPort h.bringFail

theorem KeepsForm.newPeer {p} (h : KeepsForm s t) : KeepsForm s (Machine.newPeer p t) :=
  .ite h (h.onPort.portRecord.iteThen (·.haltPeer))

theorem KeepsForm.resume {p expected} (h : KeepsForm s t) : KeepsForm s (Machine.resume p expected t) :=
  (h.newPeer.onPort.rest.iteThen (·.rest)).portRecord.completeLinks

theorem KeepsForm.sendNak {p} (h : KeepsForm s t) : KeepsForm s (Machine.sendNak p t) := h.onPort

theorem KeepsForm.tryDoze {p} (h : KeepsForm s t) : KeepsForm s (Machine.tryDoze p t) := .ite h.onPort h

theorem KeepsForm.takeData {p f} (h : KeepsForm s t) : KeepsForm s (Machine.takeData p f t) := by
  unfold Machine.takeData
  refine .ite ?_ h.onPort
  split
  · exact h.onPort
  · exact h.tagFailure

theorem KeepsForm.takeLink {p f} (h : KeepsForm s t) : KeepsForm s (Machine.takeLink p f t) := h.onPort

theorem KeepsForm.goodFlit {p f} (h : KeepsForm s t) : KeepsForm s (Machine.goodFlit p f t) :=
  .ite (.ite (h.takeLink.onPort.iteThen (·.takeData)) (.ite h h.sendNak)) (h.takeLink.iteThen (·.onPort))

theorem KeepsForm.checkFlit {p f} (h : KeepsForm s t) : KeepsForm s (Machine.checkFlit p f t) :=
  .ite h.onPort.sendNak (.ite h.retrain h.goodFlit.tryDoze)

theorem KeepsForm.flitReceive {p f corrected} (h : KeepsForm s t) : KeepsForm s (Machine.flitReceive p f corrected t) := by
  unfold Machine.flitReceive
  split
  · exact h.onPort.sendNak
  · exact h.onPort.checkFlit

theorem KeepsForm.nakReceive {p seq newMs} (h : KeepsForm s t) : KeepsForm s (Machine.nakReceive p seq newMs t) :=
  h.onPort.iteThen (·.retrain)

theorem KeepsForm.startMsg {p vc o} (h : KeepsForm s t) : KeepsForm s (Machine.startMsg p vc o t) := h.onPort.iteElse (·.restFab)

theorem KeepsForm.fillLink {p} (h : KeepsForm s t) : KeepsForm s (Machine.fillLink p t) :=
  .ite h (.ite h.onPort.tryDoze h.onPort)

theorem KeepsForm.chargeVc {vc dt o} (h : KeepsForm s t) : KeepsForm s (Machine.chargeVc vc dt o t) := by
  unfold Machine.chargeVc
  split
  · exact h
  · refine .ite h.chargeModule ?_
    split
    · exact h.chargeModule
    · exact h.chargeModule.foldl fun _ _ h => h.chargeRegionCycles

theorem KeepsForm.messageSend {p vc dt} (h : KeepsForm s t) : KeepsForm s (Machine.messageSend p vc dt t) := by
  unfold Machine.messageSend
  dsimp only
  split
  · exact .ite h.chargeVc (.ite h.fillLink h)
  · exact .ite h.startMsg (.ite h h.chargeVc)

theorem KeepsForm.forwardMsg {p m} (h : KeepsForm s t) : KeepsForm s (Machine.forwardMsg p m t) := by
  unfold Machine.forwardMsg
  split
  · exact h.enqueue
  · exact h.noRouteBack

theorem KeepsForm.messageForward {p m} (h : KeepsForm s t) : KeepsForm s (Machine.messageForward p m t) :=
  .ite (.ite h h.forwardMsg) (.ite h.enqueueLash h)

theorem KeepsForm.sleepNotice {p} (h : KeepsForm s t) : KeepsForm s (Machine.sleepNotice p t) := h.onPort.reroute

theorem KeepsForm.partnerSleeps (h : KeepsForm s t) : KeepsForm s (Machine.partnerSleeps t) :=
  .ite h.enterSleep.sleepNotice h.sleepNotice

theorem KeepsForm.dozeRequest {p} (h : KeepsForm s t) : KeepsForm s (Machine.dozeRequest p t) := h.onPort.tryDoze

theorem KeepsForm.fabricConfig {q c} (h : KeepsForm s t) : KeepsForm s (Machine.fabricConfig q c t) := by
  unfold Machine.fabricConfig
  refine h.checkField fun u h => ?_
  dsimp only
  refine KeepsForm.reply (KeepsForm.bringUpAll (h.trans (.of_eq rfl rfl ?_)))
  exact List.length_mapIdx

theorem KeepsForm.linkOff {p hold} (h : KeepsForm s t) : KeepsForm s (Machine.linkOff p hold t) := h.onPort

theorem KeepsForm.linkCtl {q p action} (h : KeepsForm s t) : KeepsForm s (Machine.linkCtl q p action t) :=
  .ite (h.iteElse (·.linkOff)).reply (.ite h.reply (.ite h.reply (h.onPort.iteThen (·.onPort)).onGw.bringUp))

theorem KeepsForm.linkUnfence {q p} (h : KeepsForm s t) : KeepsForm s (Machine.linkUnfence q p t) := h.onPort.bringUp.reply

/-! ### The operations of Machine/Collect -/

theorem KeepsForm.readSpace {id a n} (h : KeepsForm s t) : KeepsForm s (Machine.readSpace id a n t).2.2 := by
  refine KeepsForm.foldlOn (fun x : List Byte × Option Nat × State => x.2.2) h fun x p h => ?_
  split
  · exact h
  · split
    · exact h.readTier
    · exact h.draw

theorem KeepsForm.askFar {id l} (h : KeepsForm s t) : KeepsForm s (Machine.askFar id l t) :=
  h.openTxn.foldl fun _ _ h => h.foldl fun _ _ h => h.sendCopy.addLeft

theorem KeepsForm.withSpace {c a n eff} (h : KeepsForm s t) (hf : ∀ u, KeepsForm s u → KeepsForm s (eff u)) :
    KeepsForm s (Machine.withSpace c a n eff t) := .ite h.askFar.addFlight (hf t h)

theorem KeepsForm.writeSpace {flight a bs} (h : KeepsForm s t) : KeepsForm s (Machine.writeSpace flight a bs t) :=
  h.foldl fun _ _ h => by
    split
    · exact h.writeMem
    · exact h.writeRemote
    · exact h

theorem KeepsForm.rankLost {row g p} (h : KeepsForm s t) : KeepsForm s (Machine.rankLost row g p t) := h.record.haltAt

theorem KeepsForm.setStage {id st} (h : KeepsForm s t) : KeepsForm s (Machine.setStage id st t) := h.onSeq

theorem KeepsForm.collectiveMismatch {f p} (h : KeepsForm s t) : KeepsForm s (Machine.collectiveMismatch f p t) := h.record.haltWith

theorem KeepsForm.finishCollect {f} (h : KeepsForm s t) : KeepsForm s (Machine.finishCollect f t) := by
  unfold Machine.finishCollect
  exact h.rest.writeSpace.onSeq

theorem KeepsForm.settleCollect {g} (h : KeepsForm s t) : KeepsForm s (Machine.settleCollect g t) := by
  unfold Machine.settleCollect
  split
  · exact h.collectiveMismatch
  · exact h.foldl fun _ _ h => .ite h.finishCollect h

theorem KeepsForm.contribTaken {p l m} (h : KeepsForm s t) : KeepsForm s (Machine.contribTaken p l m t) := h.freeMsgs.sendCopy

theorem KeepsForm.releaseEarly {g} (h : KeepsForm s t) : KeepsForm s (Machine.releaseEarly g t) :=
  h.foldl fun _ _ h => h.rest.contribTaken

theorem KeepsForm.sendPart {c w p data rank} (h : KeepsForm s t) : KeepsForm s (Machine.sendPart c w p data t rank) := h.restFab.send

theorem KeepsForm.collectEffect {c} (h : KeepsForm s t) : KeepsForm s (Machine.collectEffect c t) := by
  unfold Machine.collectEffect
  dsimp only
  split
  · exact h.rankLost
  · refine .ite h.addFlight (h.withSpace fun _ h => ?_)
    split
    · exact h.readSpace.tierFault
    · refine .ite ?_ ?_
      · exact (h.readSpace.foldl fun _ _ h => h.foldl fun _ _ h => h.sendPart).dropTxns
      · exact (h.readSpace.foldl fun _ _ h => h.foldl fun _ _ h => h.sendPart).rest.addFlight.releaseEarly.settleCollect

theorem KeepsForm.collectEvent {cop dt} (h : KeepsForm s t) : KeepsForm s (Machine.collectEvent cop dt t) :=
  h.dataEvent fun _ _ h => h.collectEffect

theorem KeepsForm.takeContrib {p m l} (h : KeepsForm s t) : KeepsForm s (Machine.takeContrib p m l t) :=
  .ite h.freeMsgs (.ite h.freeMsgs.enqueueLash (.ite h.rest.contribTaken.settleCollect h.rest.rest))

theorem KeepsForm.putStates {st l} (h : KeepsForm s t) : KeepsForm s (Machine.putStates st l t) :=
  (h.foldl (fun _ _ h => h.writeSpace)).noteSpans

theorem KeepsForm.pullPart {vc txn a off n} (h : KeepsForm s t) : KeepsForm s (Machine.pullPart vc txn a off n t) :=
  h.foldl fun _ _ h => h.sendCopy.addLeft

theorem KeepsForm.pullOwn {c m txn a x p} (h : KeepsForm s x.2) : KeepsForm s (Machine.pullOwn c m txn a x p).2 := by
  unfold Machine.pullOwn
  split
  · exact h
  · split
    · dsimp only
      split
      · exact h.readTier.tierFault
      · exact h.readTier.keepData
    · exact h.pullPart

theorem KeepsForm.pullCopy {c m x src} (h : KeepsForm s x.2) : KeepsForm s (Machine.pullCopy c m x src).2 := by
  unfold Machine.pullCopy
  dsimp only
  split
  · exact h
  · split
    · exact h.restFab.foldlOn (x := (_, _)) Prod.snd fun _ _ h => h.pullOwn
    · exact h.restFab.pullPart

theorem KeepsForm.staleShard {row shard entry recorded epoch} (h : KeepsForm s t) :
    KeepsForm s (Machine.staleShard row shard entry recorded epoch t) :=
  h.record.haltAt

theorem KeepsForm.landMove {id row m} (h : KeepsForm s t) : KeepsForm s (Machine.landMove id row m t) := by
  refine .ite h ?_
  split
  · exact h.onTxns.staleShard
  · exact h.onTxns.record.haltAt
  · exact h.onTxns.writeSpace.rest

theorem KeepsForm.settleReshard (h : KeepsForm s t) : KeepsForm s (Machine.settleReshard t) := by
  unfold Machine.settleReshard
  split
  · split
    · exact h.collectiveMismatch
    · exact .ite h.setStage h
  · exact h

theorem KeepsForm.keepList {id} (h : KeepsForm s t) : KeepsForm s (Machine.keepList id t) := by
  unfold Machine.keepList
  split
  · exact h.restFab
  · exact h

theorem KeepsForm.pullMoves {c : RowCtx} {moves : List (BitVec 384)} {x : Bool × State} (h : KeepsForm s x.2) :
    KeepsForm s (moves.foldl (fun x m => (moveSources x.2 m).foldl (Machine.pullCopy c m) x) x).2 :=
  h.foldlOn Prod.snd fun _ _ h => h.foldlOn Prod.snd fun _ _ h => h.pullCopy

theorem KeepsForm.startRound {c} (h : KeepsForm s t) : KeepsForm s (Machine.startRound c t) := by
  unfold Machine.startRound
  dsimp only
  refine .ite ?_ ?_
  · exact (KeepsForm.pullMoves (x := (_, _)) h.keepList.rest).dropTxns
  · exact ((KeepsForm.pullMoves (x := (_, _)) h.keepList.rest).addFlight.foldl fun _ _ h => h.landMove).settleReshard

theorem KeepsForm.reshardEffect {c} (h : KeepsForm s t) : KeepsForm s (Machine.reshardEffect c t) := h.withSpace fun _ h => h.startRound

theorem KeepsForm.sendGroup {g flight b} (h : KeepsForm s t) : KeepsForm s (Machine.sendGroup g flight b t) := h.foldl fun _ _ h => h.send

theorem KeepsForm.sayReady {rid round f} (h : KeepsForm s t) : KeepsForm s (Machine.sayReady rid round f t) :=
  .ite (.ite h.sendLash (.ite h.sendGroup h)) h.sendGroup

theorem KeepsForm.prepare (h : KeepsForm s t) : KeepsForm s (Machine.prepare t) := by
  unfold Machine.prepare
  split
  · exact .ite h.journalPut.rest.sayReady.settleReshard h
  · exact h

theorem KeepsForm.echo {b} (h : KeepsForm s t) : KeepsForm s (Machine.echo b t) := .ite h.sendLash h

theorem KeepsForm.reshardReady {rid round position count} (h : KeepsForm s t) :
    KeepsForm s (Machine.reshardReady rid round position count t) := by
  unfold Machine.reshardReady
  dsimp only
  split
  · exact h.rest.echo
  · exact .ite (h.rest.iteThen (·.sayReady.settleReshard)) h.rest.echo.settleReshard

theorem KeepsForm.commitRound {slot next} (h : KeepsForm s t) : KeepsForm s (Machine.commitRound slot next t) := by
  unfold Machine.commitRound
  split
  · exact h
  · exact .ite h h.putStates.putStates.journalPut.record.rest

/-! ### The operations of Machine/Ferry -/

theorem KeepsForm.onFerryOf {attempt table f} (h : KeepsForm s t) : KeepsForm s (Machine.onFerryOf attempt table f t) := h.rest

theorem KeepsForm.onFerry {table f} (h : KeepsForm s t) : KeepsForm s (Machine.onFerry table f t) := h.onFerryOf

theorem KeepsForm.onCount {table f} (h : KeepsForm s t) : KeepsForm s (Machine.onCount table f t) := h.rest

theorem KeepsForm.settleReturns {table} (h : KeepsForm s t) : KeepsForm s (Machine.settleReturns table t) :=
  h.foldl fun _ _ h => .ite h h.onFerry.setStage

theorem KeepsForm.landOutput {m} (h : KeepsForm s t) : KeepsForm s (Machine.landOutput m t) := by
  unfold Machine.landOutput
  dsimp only
  split
  · exact h.onFerry
  · exact h.writeMem.onFerry

theorem KeepsForm.deliver {m} (h : KeepsForm s t) : KeepsForm s (Machine.deliver m t) :=
  .ite h.onFerryOf (.ite h.landOutput.settleReturns h.onFerry)

theorem KeepsForm.ferrySend {id rank half b f} (h : KeepsForm s t) (hf : ∀ u, KeepsForm s u → KeepsForm s (f u)) :
    KeepsForm s (Machine.ferrySend id rank half b f t) := .ite (.ite (hf t h) h.enqueueLash) h.send

theorem KeepsForm.sendPair {id w expert wave home pair} (h : KeepsForm s t) : KeepsForm s (Machine.sendPair id w expert wave home pair t) :=
  h.onFerry.ferrySend fun _ h => h.deliver

theorem KeepsForm.dropPair {table pair} (h : KeepsForm s t) : KeepsForm s (Machine.dropPair table pair t) := by
  unfold Machine.dropPair
  exact h.onFerry.onCount

theorem KeepsForm.startPair {id w r token i} (h : KeepsForm s t) : KeepsForm s (Machine.startPair id w r token i t) := by
  refine .ite h ?_
  split
  · exact h.onFerry.onCount.sendPair
  · exact h.onFerry.onCount.sendPair
  · exact h.onFerry.dropPair

theorem KeepsForm.sendDone {id w wave} (h : KeepsForm s t) : KeepsForm s (Machine.sendDone id w wave t) :=
  h.onFerry.foldl fun _ _ h => .ite h (h.foldl (fun _ _ h => .ite h (.ite h (h.ferrySend (fun _ h => h)))))

theorem KeepsForm.takeReply {id w a} (h : KeepsForm s t) : KeepsForm s (Machine.takeReply id w a t) :=
  h.onFerry.foldl fun _ _ h => by
    split
    · exact h.sendPair
    · exact h.dropPair

theorem KeepsForm.admitHome {id w wave home} (h : KeepsForm s t) : KeepsForm s (Machine.admitHome id w wave t home) :=
  h.writeMem.onCount.foldl fun _ _ h => h.ferrySend fun _ h => h.takeReply

theorem KeepsForm.admitWave {id w wave} (h : KeepsForm s t) : KeepsForm s (Machine.admitWave id w wave t) :=
  .ite (h.onFerry.foldl (fun _ _ h => h.admitHome)) h

theorem KeepsForm.endWave0 {id w} (h : KeepsForm s t) : KeepsForm s (Machine.endWave0 id w t) := .ite h.onFerry.sendDone h

theorem KeepsForm.endDispatch {id w} (h : KeepsForm s t) : KeepsForm s (Machine.endDispatch id w t) := .ite h.onFerry.setStage h

theorem KeepsForm.settleDispatch {table} (h : KeepsForm s t) : KeepsForm s (Machine.settleDispatch table t) := by
  unfold Machine.settleDispatch
  split
  · exact h
  · exact h.admitWave.endWave0.admitWave.endDispatch

theorem KeepsForm.dispatchEffect {c} (h : KeepsForm s t) : KeepsForm s (Machine.dispatchEffect c t) := by
  unfold Machine.dispatchEffect
  exact h.withSram fun _ h =>
    (h.rest.onFerry.foldl fun _ _ h => h.foldl fun _ _ h => h.foldl fun _ _ h => h.startPair).sendDone.iteElse (·.addFlight.settleDispatch)

theorem KeepsForm.ferryMessage {m} (h : KeepsForm s t) : KeepsForm s (Machine.ferryMessage m t) := .ite h h.deliver.settleDispatch

theorem KeepsForm.admissionReply {a} (h : KeepsForm s t) : KeepsForm s (Machine.admissionReply a t) := by
  refine .ite h ?_
  split
  · exact h.takeReply.settleDispatch
  · exact h

theorem KeepsForm.ferryDone {table wave position step attempt} (h : KeepsForm s t) :
    KeepsForm s (Machine.ferryDone table wave position step attempt t) :=
  .ite h h.onFerryOf.settleDispatch

theorem KeepsForm.returnSlot {id w d r slot} (h : KeepsForm s t) : KeepsForm s (Machine.returnSlot id w d r slot t) :=
  .ite h (h.ferrySend (fun _ h => h.deliver))

theorem KeepsForm.returnEffect {c} (h : KeepsForm s t) : KeepsForm s (Machine.returnEffect c t) := by
  unfold Machine.returnEffect
  exact h.withSram fun _ h =>
    ((h.onFerry.addFlight.foldl fun _ _ h => h.landOutput).foldl fun _ _ h => h.foldl fun _ _ h => h.returnSlot).settleReturns

theorem KeepsForm.combineEffect {c} (h : KeepsForm s t) : KeepsForm s (Machine.combineEffect c t) := by
  unfold Machine.combineEffect
  exact h.withSram fun _ h => (h.foldl (fun _ _ h => h.writeMem)).addFlight

/-! ### The operations of Machine/Control -/

theorem KeepsForm.pastRow {c} (h : KeepsForm s t) : KeepsForm s (Machine.pastRow c t) := h.setNext

theorem KeepsForm.leaveFlight {id} (h : KeepsForm s t) : KeepsForm s (Machine.leaveFlight id t) := h.onSeq.settleHalt

theorem KeepsForm.afterTest {w} (h : KeepsForm s t) : KeepsForm s (Machine.afterTest w t) := .ite h.onSeq h

theorem KeepsForm.branchEffect {c} (h : KeepsForm s t) : KeepsForm s (Machine.branchEffect c t) := h.afterTest.setNext

theorem KeepsForm.timetableHalt {slot row layer code} (h : KeepsForm s t) : KeepsForm s (Machine.timetableHalt slot row layer code t) :=
  h.pairEvent

theorem KeepsForm.haltEffect {c} (h : KeepsForm s t) : KeepsForm s (Machine.haltEffect c t) :=
  .ite h.afterTest.timetableHalt.haltWith h.afterTest.pastRow

theorem KeepsForm.loopEffect {c} (h : KeepsForm s t) : KeepsForm s (Machine.loopEffect c t) := h.onSeq.pastRow

theorem KeepsForm.endloopEffect {c} (h : KeepsForm s t) : KeepsForm s (Machine.endloopEffect c t) :=
  .ite h.onSeq.pastRow h.onSeq.setNext

theorem KeepsForm.settleBarrier (h : KeepsForm s t) : KeepsForm s (Machine.settleBarrier t) := by
  unfold Machine.settleBarrier
  split
  · exact h
  · exact .ite h.rest.leaveFlight h

theorem KeepsForm.noteCommit {c} (h : KeepsForm s t) : KeepsForm s (Machine.noteCommit c t) := .ite h.onRun h

theorem KeepsForm.barrierEffect {c} (h : KeepsForm s t) : KeepsForm s (Machine.barrierEffect c t) :=
  h.noteCommit.pastRow.iteElse fun h => (h.controlFlight.iteElse (·.sendGroup)).settleBarrier

theorem KeepsForm.barrierArrival {g tag position step attempt} (h : KeepsForm s t) :
    KeepsForm s (Machine.barrierArrival g tag position step attempt t) :=
  .ite h h.rest.echo.settleBarrier

theorem KeepsForm.barrierTimeout {g tag} (h : KeepsForm s t) : KeepsForm s (Machine.barrierTimeout g tag t) := by
  unfold Machine.barrierTimeout
  split
  · exact h
  · exact h.pairEvent.onSeq.haltAt

theorem KeepsForm.setVerdict {k v} (h : KeepsForm s t) : KeepsForm s (Machine.setVerdict k v t) := h.onSeq

theorem KeepsForm.govern {w err en} (h : KeepsForm s t) : KeepsForm s (Machine.govern w err en t) :=
  .ite h.onSeq (.ite h h.setVerdict.onSeq.pairEvent)

theorem KeepsForm.finishGovern {f} (h : KeepsForm s t) : KeepsForm s (Machine.finishGovern f t) := h.rest.govern.leaveFlight

theorem KeepsForm.settleGovernors {n} (h : KeepsForm s t) : KeepsForm s (Machine.settleGovernors n t) := by
  induction n generalizing t with
  | zero => exact h
  | succ n ih =>
    unfold Machine.settleGovernors
    split
    · exact h
    · exact .ite (ih h.finishGovern) h

theorem KeepsForm.settleGovern (h : KeepsForm s t) : KeepsForm s (Machine.settleGovern t) := h.settleGovernors

theorem KeepsForm.governEffect {c} (h : KeepsForm s t) : KeepsForm s (Machine.governEffect c t) :=
  .ite h.pastRow.govern (h.pastRow.rest.controlFlight.iteElse (·.sendGroup)).settleGovern

theorem KeepsForm.governSum {position err en step attempt} (h : KeepsForm s t) :
    KeepsForm s (Machine.governSum position err en step attempt t) :=
  .ite h h.rest.echo.settleGovern

theorem KeepsForm.notifyEffect {c r} (h : KeepsForm s t) : KeepsForm s (Machine.notifyEffect c r t) :=
  h.pastRow.iteElse (·.hold.controlFlight)

theorem KeepsForm.noteLedger {c shard digest epoch} (h : KeepsForm s t) : KeepsForm s (Machine.noteLedger c shard digest epoch t) :=
  (KeepsForm.ite h.onSeq h).sendLash.pastRow

theorem KeepsForm.advanceHeader {c header} (h : KeepsForm s t) : KeepsForm s (Machine.advanceHeader c header t) := by
  unfold Machine.advanceHeader
  dsimp only
  split
  · exact h.readSpace.tierFault
  · exact h.readSpace.writeSpace.noteSpans.noteLedger

theorem KeepsForm.advance {c header} (h : KeepsForm s t) : KeepsForm s (Machine.advance c header t) :=
  .ite h.staleShard (.ite (h.withSpace (fun _ h => h.advanceHeader)).onSeq h.advanceHeader)

theorem KeepsForm.checkEntry {c header} (h : KeepsForm s t) : KeepsForm s (Machine.checkEntry c header t) := by
  unfold Machine.checkEntry
  split
  · exact .ite h.noteLedger h.staleShard
  · exact h.staleShard

theorem KeepsForm.epochEffect {c} (h : KeepsForm s t) : KeepsForm s (Machine.epochEffect c t) := by
  refine .ite h.controlFlight ?_
  split
  · exact h.readSpace.tierFault
  · refine .ite h.readSpace.staleShard ?_
    split
    · exact h.readSpace.noteLedger
    · exact h.readSpace.checkEntry
    · exact h.readSpace.advance

theorem KeepsForm.takeLedger {slot row shard digest epoch} (h : KeepsForm s t) :
    KeepsForm s (Machine.takeLedger slot row shard digest epoch t) := by
  unfold Machine.takeLedger
  split
  · exact h
  · exact (KeepsForm.ite h.onSeq h).setNext.leaveFlight

theorem KeepsForm.epochEvent {op dt} (h : KeepsForm s t) : KeepsForm s (Machine.epochEvent op dt t) :=
  h.controlEvent fun _ _ _ h => h.epochEffect

theorem KeepsForm.stepRegisters (h : KeepsForm s t) : KeepsForm s (Machine.stepRegisters t) := h.driftTest.onSeq

theorem KeepsForm.stepPending {slot next} (h : KeepsForm s t) : KeepsForm s (Machine.stepPending slot next t) :=
  h.commitRound.serveDebug.serveActivate.iteThen (·.onRun.enterSleep.completePower)

theorem KeepsForm.swapTo {b} (h : KeepsForm s t) : KeepsForm s (Machine.swapTo b t) := by
  unfold Machine.swapTo
  exact h.onSlot.onSlot.onSeq

theorem KeepsForm.saveEntry (h : KeepsForm s t) : KeepsForm s (Machine.saveEntry t) := h.onSeq

theorem KeepsForm.beginStep {slot row} (h : KeepsForm s t) : KeepsForm s (Machine.beginStep slot row t) :=
  (KeepsForm.ite h h.rest).onRun.saveEntry

theorem KeepsForm.stepEffect {c r} (h : KeepsForm s t) : KeepsForm s (Machine.stepEffect c r t) :=
  .ite h.stepRegisters.sliverMaps.onSeq.stepPending.rest.closeRun
    (h.stepRegisters.sliverMaps.onSeq.stepPending.onRun.iteElse (·.swapTo)).beginStep.servePendingFences.returnRegions

/-! ### The operations of Machine/Fabric -/

theorem KeepsForm.answer {p m op addr ctx payload} (h : KeepsForm s t) : KeepsForm s (Machine.answer p m op addr ctx payload t) :=
  h.sendCopy

theorem KeepsForm.writeHere {p m} (h : KeepsForm s t) : KeepsForm s (Machine.writeHere p m t) := by
  refine .ite h.messageForward ?_
  split
  · exact h.writeMem.answer
  · exact h

theorem KeepsForm.giveUnit {again u} (h : KeepsForm s t) : KeepsForm s (Machine.giveUnit again u t).2 := by
  unfold Machine.giveUnit
  dsimp only
  split
  · exact h
  · split
    · exact ⟨h.tier, h.staging, h.slice, h.host, h.acc, h.regions, h.ports⟩
    · exact h

theorem KeepsForm.giveUnits {again n u} (h : KeepsForm s t) : KeepsForm s (Machine.giveUnits again n u t).2 := by
  induction n generalizing u t with
  | zero => exact h
  | succ n ih =>
    unfold Machine.giveUnits
    dsimp only
    split
    · exact ih h.giveUnit
    · exact h.giveUnit

theorem KeepsForm.giveTier {again a n} (h : KeepsForm s t) : KeepsForm s (Machine.giveTier again a n t).2 := by
  unfold Machine.giveTier
  split
  · exact h
  · exact h.giveUnits

theorem KeepsForm.giveBytes {p m place bs bad} (h : KeepsForm s t) : KeepsForm s (Machine.giveBytes p m place bs bad t) :=
  .ite (.ite h h.answer) (KeepsForm.ite h h.answer).answer

theorem KeepsForm.giveFromTier {p m again place key n} (h : KeepsForm s t) : KeepsForm s (Machine.giveFromTier p m again place key n t) :=
  (h.giveTier.iteThen (·.rest)).giveBytes

theorem KeepsForm.giveStaging {p m place key n k} (h : KeepsForm s t) : KeepsForm s (Machine.giveStaging p m place key n k t) := by
  induction k generalizing t with
  | zero => exact h.giveBytes
  | succ k ih =>
    unfold Machine.giveStaging
    split
    · exact h.giveBytes
    · split
      · exact h.nameCore.giveBytes
      · dsimp only
        split
        · exact ih h.recopy
        · exact h.recopy.restFab
        · exact h.recopy.giveBytes

theorem KeepsForm.readHere {p m} (h : KeepsForm s t) : KeepsForm s (Machine.readHere p m t) := by
  unfold Machine.readHere
  dsimp only
  refine .ite h.messageForward ?_
  split
  · exact h
  · exact h.giveFromTier
  · exact h.giveStaging
  · exact .ite h.giveBytes h.giveBytes

/-- An effect of data rows that keeps the form. -/
def EffectKeepsForm (eff : RowCtx → State → State) : Prop := ∀ s c t, KeepsForm s t → KeepsForm s (eff c t)

theorem effectKeepsForm_dataEffect (w : Row) : EffectKeepsForm (dataEffect w) := by
  unfold dataEffect
  split
  · exact fun _ _ _ h => h.passEffect
  · exact fun _ _ _ h => h.vectorEffect
  · exact fun _ _ _ h => h.quantEffect
  · exact fun _ _ _ h => h.copyEffect
  · split
    · exact fun _ _ _ h => h.reshardEffect
    · exact fun _ _ _ h => h.collectEffect
  · exact fun _ _ _ h => h.epochEffect
  · split
    · exact fun _ _ _ h => h.dispatchEffect
    · split
      · exact fun _ _ _ h => h.returnEffect
      · exact fun _ _ _ h => h.combineEffect

theorem KeepsForm.dataEffect {w c} (h : KeepsForm s t) : KeepsForm s (Machine.dataEffect w c t) := effectKeepsForm_dataEffect w s c t h

theorem KeepsForm.resumeRow {f} (h : KeepsForm s t) : KeepsForm s (Machine.resumeRow f t) := h.onRun.dataEffect.onRun.onSeq.settleHalt

theorem KeepsForm.dropFetch {id} (h : KeepsForm s t) : KeepsForm s (Machine.dropFetch id t) := h.onTxns

theorem KeepsForm.settleTxns {id} (h : KeepsForm s t) : KeepsForm s (Machine.settleTxns id t) := by
  refine .ite h ?_
  split
  · exact h
  · exact .ite h.setStage (.ite h.resumeRow.dropFetch h)

theorem KeepsForm.dropTxn {txn} (h : KeepsForm s t) : KeepsForm s (Machine.dropTxn txn t) := h.onTxns

theorem KeepsForm.writeDone {p txn} (h : KeepsForm s t) : KeepsForm s (Machine.writeDone p txn t) := by
  unfold Machine.writeDone
  split
  · exact h
  · exact h.onTxns.iteThen (·.dropTxn.settleTxns)

theorem KeepsForm.writeGathered {txn} (h : KeepsForm s t) : KeepsForm s (Machine.writeGathered txn t) :=
  h.foldl fun _ _ h => .ite h.writeHostRun h

theorem KeepsForm.landRead {txn offset data f} (h : KeepsForm s t) : KeepsForm s (Machine.landRead txn offset data f t) :=
  .ite h.keepData.landMove (.ite h.keepData (.ite h.keepData h.landCopy))

theorem KeepsForm.serveAsked (h : KeepsForm s t) : KeepsForm s (Machine.serveAsked t) :=
  .ite h (h.restFab.foldl (fun _ _ h => h.readHere))

theorem KeepsForm.landCtl {txn offset data} (h : KeepsForm s t) : KeepsForm s (Machine.landCtl txn offset data t) :=
  .ite (KeepsForm.ite h.restFab h.landCopy).dropTxn.serveAsked (.ite h.restFab h.landCopy)

theorem KeepsForm.farFault {a tensor} (h : KeepsForm s t) : KeepsForm s (Machine.farFault t a tensor) :=
  .ite h.record (.ite h.record h.record)

theorem KeepsForm.readFault {txn f a bad tensor} (h : KeepsForm s t) : KeepsForm s (Machine.readFault txn f a bad tensor t) := by
  unfold Machine.readFault
  dsimp only
  split
  · exact h.farFault.dropTxns.onSeq.haltAt
  · exact .ite (h.farFault.restFab.dropTxns.foldl (fun _ _ h => h.giveBytes)) h.farFault.onTxns

theorem KeepsForm.readMore {txn vc a place n} (h : KeepsForm s t) : KeepsForm s (Machine.readMore txn vc a place n t) :=
  .ite h h.sendCopy

theorem KeepsForm.readBad {txn f offset bad} (h : KeepsForm s t) : KeepsForm s (Machine.readBad txn f offset bad t) :=
  .ite h.readFault h.onTxns.readMore.readMore

theorem KeepsForm.readAgain {txn f offset} (h : KeepsForm s t) : KeepsForm s (Machine.readAgain txn f offset t) := .ite h.record h

theorem KeepsForm.readData {p txn offset data} (h : KeepsForm s t) : KeepsForm s (Machine.readData p txn offset data t) := by
  unfold Machine.readData
  split
  · exact h
  · split
    · exact .ite h.dropTxn h.onTxns.readAgain.landCtl
    · extract_lets again txn2 landed
      have hl : KeepsForm s landed := h.readAgain.onTxns.landRead
      refine .ite hl ?_
      split
      · exact hl
      · exact (KeepsForm.ite hl (KeepsForm.ite hl.writeGathered hl).dropTxn).settleTxns

theorem KeepsForm.takeReadData {p txn offset data} (h : KeepsForm s t) : KeepsForm s (Machine.takeReadData p txn offset data t) := by
  refine .ite h.readData ?_
  split
  · exact h
  · exact h.readBad

/-! ### The operations of Machine/Load -/

theorem KeepsForm.bumpGen (h : KeepsForm s t) : KeepsForm s (Machine.bumpGen t) := h.onSeq

theorem KeepsForm.noteRemaps {b rows} (h : KeepsForm s t) : KeepsForm s (Machine.noteRemaps b rows t) :=
  h.foldl fun _ _ h => h.onSeq.pairEvent

theorem KeepsForm.fillSlot {b rows lowered remaps} (h : KeepsForm s t) : KeepsForm s (Machine.fillSlot b rows lowered remaps t) :=
  h.onSlot.onSeq.bumpGen.noteRemaps

theorem KeepsForm.overlapRecord {b e} (h : KeepsForm s t) : KeepsForm s (Machine.overlapRecord b e t) := .ite h.pairEvent h

theorem KeepsForm.refuseLoad {q op b e} (h : KeepsForm s t) : KeepsForm s (Machine.refuseLoad q op b e t) := h.overlapRecord.completeAs

theorem KeepsForm.sourceOk {q op p src f} (h : KeepsForm s t) (hf : ∀ u, KeepsForm s u → KeepsForm s (f u)) :
    KeepsForm s (Machine.sourceOk q op p src f t) := by
  unfold Machine.sourceOk
  split
  · split
    · exact h.completeAs
    · exact hf t h
  · exact h.checkField hf

theorem KeepsForm.startLowering {q slot p src} (h : KeepsForm s t) : KeepsForm s (Machine.startLowering q slot p src t) := h.onGw

theorem KeepsForm.withPlan {j op f} (h : KeepsForm s t) (hf : ∀ p u, KeepsForm s u → KeepsForm s (f p u)) :
    KeepsForm s (Machine.withPlan j op f t) := by
  unfold Machine.withPlan
  -- the blob's reading stays closed: the kernel would go into its count of chunks
  obtain ⟨read, hr⟩ : ∃ read, read = readBlob := ⟨_, rfl⟩
  rw [← hr]
  split
  · exact hf _ t h
  · dsimp only
    split
    · exact h.record.refuse
    · split
      · exact h.completeAs
      · exact hf _ t h

theorem KeepsForm.checkPlanDone {j} (h : KeepsForm s t) : KeepsForm s (Machine.checkPlanDone j t) := by
  unfold Machine.checkPlanDone
  exact h.onGw.withPlan fun _ _ h => h.completeAs

theorem KeepsForm.tellLoad {b rows lowered} (h : KeepsForm s t) : KeepsForm s (Machine.tellLoad b rows lowered t) := h.sendLash

theorem KeepsForm.endLowering {j b p result} (h : KeepsForm s t) : KeepsForm s (Machine.endLowering j b p result t) := by
  unfold Machine.endLowering
  split
  · exact h.completeAs
  · split
    · exact h.onSlot.refuseLoad
    · exact h.fillSlot.tellLoad.complete

theorem KeepsForm.lowerDone {j b} (h : KeepsForm s t) : KeepsForm s (Machine.lowerDone j b t) := by
  unfold Machine.lowerDone
  exact h.onGw.withPlan fun _ _ h => .ite h.refuse (.ite h.endLowering (KeepsForm.ite h h.askFar).onGw)

theorem KeepsForm.ttLoad {q b rows} (h : KeepsForm s t) : KeepsForm s (Machine.ttLoad q b rows t) := by
  unfold Machine.ttLoad
  exact h.onSlot.onGw

theorem KeepsForm.ttLoadDone {b j} (h : KeepsForm s t) : KeepsForm s (Machine.ttLoadDone b j t) := by
  unfold Machine.ttLoadDone
  dsimp only
  split
  · exact h.onGw.refuseLoad
  · exact h.onGw.fillSlot.tellLoad.complete

theorem KeepsForm.ttLoadStep {b j} (h : KeepsForm s t) : KeepsForm s (Machine.ttLoadStep b j t) :=
  .ite h.ttLoadDone (.ite h h.askFar.onGw)

theorem KeepsForm.regionCheck {q op b f} (h : KeepsForm s t) (hf : ∀ u, KeepsForm s u → KeepsForm s (f u)) :
    KeepsForm s (Machine.regionCheck q op b f t) := by
  unfold Machine.regionCheck
  split
  · exact h.completeAs
  · exact hf t h

theorem KeepsForm.armSlot {b entry} (h : KeepsForm s t) : KeepsForm s (Machine.armSlot b entry t) := h.onSlot.bumpGen

theorem KeepsForm.armNow {q b entry} (h : KeepsForm s t) : KeepsForm s (Machine.armNow q b entry t) := h.armSlot.sendLash.complete

theorem KeepsForm.ttArm {q b entry} (h : KeepsForm s t) : KeepsForm s (Machine.ttArm q b entry t) :=
  h.checkField fun _ h => h.regionCheck fun _ h => .ite h.compareFirst h.armNow

theorem KeepsForm.discardSlot {b} (h : KeepsForm s t) : KeepsForm s (Machine.discardSlot b t) := h.onSlot.bumpGen

theorem KeepsForm.ttDiscard {q b} (h : KeepsForm s t) : KeepsForm s (Machine.ttDiscard q b t) := h.discardSlot.sendLash.complete

/-! ### The operations of Machine/Job -/

theorem KeepsForm.takeClaims {rank l} (h : KeepsForm s t) : KeepsForm s (Machine.takeClaims rank l t) := by
  unfold Machine.takeClaims
  split
  · exact h.onGw
  · split
    · exact h.onGw.refuseLoad
    · exact h.onGw

theorem KeepsForm.asJob {p} (h : KeepsForm s t) : KeepsForm s (Machine.asJob p t) := h.rest

theorem KeepsForm.startJoin {q p} (h : KeepsForm s t) : KeepsForm s (Machine.startJoin q p t) :=
  h.asJob.sendAll.rest.onGw.foldl fun _ _ h => .ite h.takeClaims h

theorem KeepsForm.jobStart {q p} (h : KeepsForm s t) : KeepsForm s (Machine.jobStart q p t) := by
  refine .ite h.refuseField ?_
  refine .ite h.refuse ?_
  refine .ite h.refuseField ?_
  split
  · exact h.refuseLoad
  · exact h.startJoin

theorem KeepsForm.installJob {p remapped} (h : KeepsForm s t) : KeepsForm s (Machine.installJob p remapped t) :=
  .ite (h.rest.loseAcc.foldl (fun _ _ h => h.noteRemaps)).pairEvent (h.rest.loseAcc.foldl (fun _ _ h => h.noteRemaps))

theorem KeepsForm.jobJoined {j} (h : KeepsForm s t) : KeepsForm s (Machine.jobJoined j t) := h.installJob.sendLash.complete

theorem KeepsForm.beforeRun {b entry} (h : KeepsForm s t) : KeepsForm s (Machine.beforeRun b entry t) := .ite h.restoreStep h

theorem KeepsForm.beginRun {q b entry steps boost} (h : KeepsForm s t) : KeepsForm s (Machine.beginRun q b entry steps boost t) :=
  h.beforeRun.saveEntry.onSlot.rest.onSeq.onGw.wakeDoze.settleBoost

theorem KeepsForm.startSpares (h : KeepsForm s t) : KeepsForm s (Machine.startSpares t) := h.serveSpares.servePendingFences

theorem KeepsForm.runNow {q b entry steps boost} (h : KeepsForm s t) : KeepsForm s (Machine.runNow q b entry steps boost t) :=
  h.sendLash.beginRun.startSpares

theorem KeepsForm.runCommand {q b entry steps boost} (h : KeepsForm s t) : KeepsForm s (Machine.runCommand q b entry steps boost t) :=
  h.checkField fun _ h => h.checkField fun _ h => h.regionCheck fun _ h => .ite h.compareFirst h.runNow

theorem KeepsForm.stopNow (h : KeepsForm s t) : KeepsForm s (Machine.stopNow t) := by
  unfold Machine.stopNow
  split
  · exact h
  · exact h.timetableHalt.halt

theorem KeepsForm.stopBoundary (h : KeepsForm s t) : KeepsForm s (Machine.stopBoundary t) := by
  unfold Machine.stopBoundary
  split
  · exact h
  · exact .ite h.onGw.closeRun h.onRun

theorem KeepsForm.stopRun {now} (h : KeepsForm s t) : KeepsForm s (Machine.stopRun now t) := .ite h.stopNow h.stopBoundary

theorem KeepsForm.endJob (h : KeepsForm s t) : KeepsForm s (Machine.endJob t) := h.dropEarly.rest.onGw

theorem KeepsForm.markAbsent {rank standIn} (h : KeepsForm s t) : KeepsForm s (Machine.markAbsent rank standIn t) := h.rest

theorem KeepsForm.rankAbsent {q rank standIn} (h : KeepsForm s t) : KeepsForm s (Machine.rankAbsent q rank standIn t) :=
  h.checkField (fun _ h => h.checkField fun _ h => by
    split
    · exact h.completeAs
    · exact h.markAbsent.sendLash.reply)

theorem KeepsForm.noteDivergent {rank} (h : KeepsForm s t) : KeepsForm s (Machine.noteDivergent rank t) := by
  unfold Machine.noteDivergent
  split
  · exact h
  · split
    · exact h
    · exact h.draw.record

theorem KeepsForm.takeHalted {rank node status} (h : KeepsForm s t) : KeepsForm s (Machine.takeHalted rank node status t) :=
  .ite (.ite h.haltPeer h) (.ite h (h.rest.iteThen (·.noteDivergent)).echo.record.haltPeer)

theorem KeepsForm.takeRestart {attempt} (h : KeepsForm s t) : KeepsForm s (Machine.takeRestart attempt t) := by
  unfold Machine.takeRestart
  dsimp only
  split
  · exact h.cutWaits.setAttempt
  · exact .ite h.cutWaits.setAttempt.settleHalt h.cutWaits.setAttempt.onSeq.settleHalt

theorem KeepsForm.rollBack {rid} (h : KeepsForm s t) : KeepsForm s (Machine.rollBack rid t) := h.putStates.record.rest

theorem KeepsForm.resolveRound {rid commit} (h : KeepsForm s t) : KeepsForm s (Machine.resolveRound rid commit t) :=
  .ite h.rest (.ite h.rest.commitRound h.rest.rollBack)

theorem KeepsForm.finishResume {j} (h : KeepsForm s t) : KeepsForm s (Machine.finishResume j t) := h.onGw.resolveRound.sendLash.complete

theorem KeepsForm.settleResume (h : KeepsForm s t) : KeepsForm s (Machine.settleResume t) := by
  unfold Machine.settleResume
  split
  · exact h
  · exact .ite h.finishResume h

theorem KeepsForm.startResume {q rid} (h : KeepsForm s t) : KeepsForm s (Machine.startResume q rid t) :=
  .ite h.onGw.sendLash h.onGw.sendAll.settleResume

theorem KeepsForm.answerJournal {position rid} (h : KeepsForm s t) : KeepsForm s (Machine.answerJournal position rid t) :=
  .ite h.send h

theorem KeepsForm.journalExchange {position e} (h : KeepsForm s t) : KeepsForm s (Machine.journalExchange position e t) :=
  (h.rest.iteThen (·.sendAll)).answerJournal.settleResume

/-! ### The operations of Machine/Regions -/

theorem KeepsForm.regionReady {r} (h : KeepsForm s t) : KeepsForm s (Machine.regionReady r t) := h.onRegion

theorem KeepsForm.regionAct {r fence} (h : KeepsForm s t) : KeepsForm s (Machine.regionAct r fence t) :=
  .ite h.fenceLater.settleDoze h.wakeDoze.onRegion

theorem KeepsForm.regionActFar {r fence} (h : KeepsForm s t) : KeepsForm s (Machine.regionActFar r fence t) := h.rest.sendLash

theorem KeepsForm.regionCtl {q r action} (h : KeepsForm s t) : KeepsForm s (Machine.regionCtl q r action t) :=
  h.checkField fun _ h => h.checkField fun _ h => (KeepsForm.ite h.regionAct h.regionActFar).reply

theorem KeepsForm.armOwn {src b next} (h : KeepsForm s t) : KeepsForm s (Machine.armOwn src b next t) := h.armSlot.sendLash

theorem KeepsForm.armReturned {txn} (h : KeepsForm s t) : KeepsForm s (Machine.armReturned txn t) := by
  unfold Machine.armReturned
  split
  · exact h
  · split
    · exact h
    · refine .ite h ?_
      refine .ite h.armOwn ?_
      split
      · exact h
      · exact h.fillSlot.tellLoad.armOwn

theorem KeepsForm.retestFail {r failed sliceOk} (h : KeepsForm s t) : KeepsForm s (Machine.retestFail r failed sliceOk t) :=
  h.onRegion.record

theorem KeepsForm.retestPass {r} (h : KeepsForm s t) : KeepsForm s (Machine.retestPass r t) :=
  .ite h.onRegion.returnRegions h.onRegion.armReturned

theorem KeepsForm.afterRetest (h : KeepsForm s t) : KeepsForm s (Machine.afterRetest t) := .ite h.enterDoze.completePower h

theorem KeepsForm.retestComplete {r failed sliceOk} (h : KeepsForm s t) : KeepsForm s (Machine.retestComplete r failed sliceOk t) :=
  (KeepsForm.ite h.retestPass h.retestFail).afterRetest

theorem KeepsForm.abandonHalt (h : KeepsForm s t) : KeepsForm s (Machine.abandonHalt t) := by
  unfold Machine.abandonHalt
  split
  · exact h.haltWith
  · exact h

theorem KeepsForm.restartIn {b entry attempt} (h : KeepsForm s t) : KeepsForm s (Machine.restartIn b entry attempt t) :=
  h.swapTo.setAttempt.restartNow

theorem KeepsForm.disarm {b} (h : KeepsForm s t) : KeepsForm s (Machine.disarm b t) := .ite h.discardSlot.sendLash h

theorem KeepsForm.endDegraded {run result} (h : KeepsForm s t) : KeepsForm s (Machine.endDegraded run result t) := by
  unfold Machine.endDegraded
  dsimp only
  split
  · exact h.abandonHalt
  · exact h.fillSlot.tellLoad.sendLash.sendAll.restartIn

theorem KeepsForm.degradedRestart {run} (h : KeepsForm s t) : KeepsForm s (Machine.degradedRestart run t) := h.disarm.endDegraded

theorem KeepsForm.relowerIdle {b} (h : KeepsForm s t) : KeepsForm s (Machine.relowerIdle b t) := by
  refine .ite h.onSeq ?_
  split
  · exact h.onSeq
  · exact h.onSeq.fillSlot.tellLoad

/-! ### The operations of Machine/Seal -/

theorem KeepsForm.readPieces {l} (h : KeepsForm s t) : KeepsForm s (Machine.readPieces l t).2.2 := by
  induction l generalizing t with
  | nil => exact h
  | cons p l ih =>
    unfold Machine.readPieces
    dsimp only
    split
    · exact h.readSpace
    · exact ih h.readSpace

theorem KeepsForm.writePieces {l bs} (h : KeepsForm s t) : KeepsForm s (Machine.writePieces l bs t) := by
  induction l generalizing bs t with
  | nil => exact h
  | cons p l ih => exact ih h.writeSpace

theorem KeepsForm.manifest {j} (h : KeepsForm s t) : KeepsForm s (Machine.manifest j t).2 := by
  unfold Machine.manifest
  dsimp only
  exact h.identitySign

theorem KeepsForm.writeWindow {j off bs} (h : KeepsForm s t) : KeepsForm s (Machine.writeWindow j off bs t) := h.writeMem

theorem KeepsForm.onSeal {j} (h : KeepsForm s t) : KeepsForm s (Machine.onSeal j t) := h.onGw

theorem KeepsForm.endSeal (h : KeepsForm s t) : KeepsForm s (Machine.endSeal t) := h.rest.onSeal

theorem KeepsForm.startSeal {j} (h : KeepsForm s t) : KeepsForm s (Machine.startSeal j t) := h.rest.onSeal

theorem KeepsForm.sealTiers {q ident window offset l} (h : KeepsForm s t) : KeepsForm s (Machine.sealTiers q ident window offset l t) :=
  h.checkField fun _ h => h.checkField fun _ h => h.draw.startSeal.writeWindow

theorem KeepsForm.sealResume {q c} (h : KeepsForm s t) : KeepsForm s (Machine.sealResume q c t) := h.checkField fun _ h => h.startSeal

theorem KeepsForm.writeChunk {j} (h : KeepsForm s t) : KeepsForm s (Machine.writeChunk j t).2.2 := by
  unfold Machine.writeChunk
  dsimp only
  split
  · exact h.readPieces
  · exact h.readPieces.writeWindow

theorem KeepsForm.writeChunks {n j} (h : KeepsForm s t) : KeepsForm s (Machine.writeChunks n j t).2.2 := by
  induction n generalizing j t with
  | zero => exact h
  | succ n ih =>
    unfold Machine.writeChunks
    dsimp only
    split
    · exact h.writeChunk
    · exact ih h.writeChunk

theorem KeepsForm.sealParity {j unit} (h : KeepsForm s t) : KeepsForm s (Machine.sealParity j unit t) := h.record.endSeal.refuse

theorem KeepsForm.sealCheckpoint {j} (h : KeepsForm s t) : KeepsForm s (Machine.sealCheckpoint j t) := by
  unfold Machine.sealCheckpoint
  dsimp only
  split
  · exact h.writeChunks.sealParity
  · exact h.writeChunks.startSeal

theorem KeepsForm.sealStep {j} (h : KeepsForm s t) : KeepsForm s (Machine.sealStep j t) :=
  .ite h.sealCheckpoint (KeepsForm.ite h h.askFar).onSeal

theorem KeepsForm.sealComplete {j} (h : KeepsForm s t) : KeepsForm s (Machine.sealComplete j t) :=
  h.manifest.writeWindow.endSeal.record.complete

theorem KeepsForm.unsealFail {q digest written} (h : KeepsForm s t) : KeepsForm s (Machine.unsealFail q digest written t) :=
  h.record.completeAs

theorem KeepsForm.unsealTiers {q window offset} (h : KeepsForm s t) : KeepsForm s (Machine.unsealTiers q window offset t) :=
  h.checkField fun _ h => by
    split
    · exact h.unsealFail
    · exact .ite h.unsealFail (.ite h.refuseField h.onSeal)

theorem KeepsForm.openChunks {j n k prev} (h : KeepsForm s t) : KeepsForm s (Machine.openChunks j n k prev t).2.2 := by
  induction n generalizing k prev t with
  | zero => exact h
  | succ n ih =>
    unfold Machine.openChunks
    dsimp only
    split
    · exact h
    · exact ih h.writePieces

theorem KeepsForm.unsealComplete {j} (h : KeepsForm s t) : KeepsForm s (Machine.unsealComplete j t) := by
  rw [Machine.unsealComplete]
  split
  · exact h.openChunks.onSeal.record.complete
  · exact h.openChunks.onSeal.dropRanges.unsealFail
  · exact h.openChunks.onSeal.dropRanges.unsealFail

/-! ### The operations of Machine/Image -/

theorem KeepsForm.onImage {j} (h : KeepsForm s t) : KeepsForm s (Machine.onImage j t) := h.onGw

theorem KeepsForm.startStage {q window b} (h : KeepsForm s t) : KeepsForm s (Machine.startStage q window b t) :=
  h.rest.setOtherImage.onImage

theorem KeepsForm.imageStage {q window offset length} (h : KeepsForm s t) : KeepsForm s (Machine.imageStage q window offset length t) :=
  h.checkField fun _ h => h.sendLash.startStage

theorem KeepsForm.finish {q op status payload} (h : KeepsForm s t) : KeepsForm s (Machine.finish q op status payload t) :=
  .ite h h.completeAs

theorem KeepsForm.stageComplete {j} (h : KeepsForm s t) : KeepsForm s (Machine.stageComplete j t) := by
  unfold Machine.stageComplete
  dsimp only
  split
  · exact h.onImage.record.finish
  · exact (h.onImage.rest.setOtherImage.iteThen (·.sendLash)).finish

theorem KeepsForm.startActivate {q} (h : KeepsForm s t) : KeepsForm s (Machine.startActivate q t) := .ite h.onGw h.beginActivate

theorem KeepsForm.endActivate (h : KeepsForm s t) : KeepsForm s (Machine.endActivate t) := h.rest.onGw

theorem KeepsForm.confirm (h : KeepsForm s t) : KeepsForm s (Machine.confirm t) := h.rest.record

theorem KeepsForm.activated {q} (h : KeepsForm s t) : KeepsForm s (Machine.activated q t) := h.rest.endActivate.confirm.finish

theorem KeepsForm.reverted {q} (h : KeepsForm s t) : KeepsForm s (Machine.reverted q t) := h.rest.endActivate.record.finish

theorem KeepsForm.bootCheck {ok} (h : KeepsForm s t) : KeepsForm s (Machine.bootCheck ok t) := .ite h.confirm h.rest.record

theorem KeepsForm.activateReject {q} (h : KeepsForm s t) : KeepsForm s (Machine.activateReject q t) :=
  h.rest.setOtherImage.endActivate.record.finish

theorem KeepsForm.firmwareStartCheck {ok q} (h : KeepsForm s t) : KeepsForm s (Machine.firmwareStartCheck ok q t) :=
  .ite h.activateReject (.ite h.activated h.reverted)

/-! ### The operations of Machine/Pair -/

theorem KeepsForm.onPair {f} (h : KeepsForm s t) : KeepsForm s (Machine.onPair f t) := h.trans (keepsForm_onPair f t)

theorem KeepsForm.lash {q partner role} (h : KeepsForm s t) : KeepsForm s (Machine.lash q partner role t) :=
  h.checkField fun _ h => h.check fun _ h => h.onGw.bringUp

theorem KeepsForm.formPair {j epoch regions} (h : KeepsForm s t) : KeepsForm s (Machine.formPair j epoch regions t) :=
  h.onPair.onSeq.pairEvent.onGw.complete.iteThen (·.endSessions)

theorem KeepsForm.takeSlot {b i} (h : KeepsForm s t) : KeepsForm s (Machine.takeSlot b i t) := .ite h.onSlot h.onSlot

theorem KeepsForm.takeItem {i item} (h : KeepsForm s t) : KeepsForm s (Machine.takeItem i item t) := by
  unfold Machine.takeItem
  split
  · exact h.onPair
  · exact h.onPair
  · exact h.onPair
  · exact h.onSeq.takeSlot.takeSlot

theorem KeepsForm.diverge {m} (h : KeepsForm s t) : KeepsForm s (Machine.diverge m t) := h.onPair.record.haltPeer

theorem KeepsForm.recordLost (h : KeepsForm s t) : KeepsForm s (Machine.recordLost t) := h.record.haltPeer.strand

theorem KeepsForm.repair {i ms} (h : KeepsForm s t) : KeepsForm s (Machine.repair i ms t) :=
  h.foldl fun _ _ h => by
    split
    · exact h.takeItem.pairEvent
    · exact h.pairEvent
    · exact h

theorem KeepsForm.agreeItems {i ms} (h : KeepsForm s t) : KeepsForm s (Machine.agreeItems i ms t) :=
  (h.iteThen (·.takeItem)).onPair.repair.onPair.iteThen (·.onPair.pairEvent)

theorem KeepsForm.compareItems {i} (h : KeepsForm s t) : KeepsForm s (Machine.compareItems i t) := by
  refine .ite h.strand.record.onPort ?_
  refine .ite h.recordLost ?_
  split
  · exact h.diverge
  · exact h.agreeItems

theorem KeepsForm.settleItems {mine other} (h : KeepsForm s t) : KeepsForm s (Machine.settleItems mine other t) := by
  unfold Machine.settleItems
  dsimp only
  split
  · exact h.diverge
  · exact h.repair

theorem KeepsForm.afterCompare {w} (h : KeepsForm s t) : KeepsForm s (Machine.afterCompare w t) := by
  refine .ite h.refuse ?_
  split
  · exact h.check fun _ h => h.checkField fun _ h => h.regionCheck fun _ h => h.armNow
  · exact h.check fun _ h => h.checkField fun _ h => h.regionCheck fun _ h => h.runNow
  · exact h

theorem KeepsForm.dropWait (h : KeepsForm s t) : KeepsForm s (Machine.dropWait t) := h.onPair

theorem KeepsForm.endCompare {mine other} (h : KeepsForm s t) : KeepsForm s (Machine.endCompare mine other t) := by
  unfold Machine.endCompare
  dsimp only
  split
  · exact h.settleItems.dropWait.afterCompare
  · exact h.settleItems

theorem KeepsForm.takeCompare {other echo} (h : KeepsForm s t) : KeepsForm s (Machine.takeCompare other echo t) := by
  unfold Machine.takeCompare
  split
  · exact h.endCompare
  · exact h.sendLash.settleItems

theorem KeepsForm.takeReading {data} (h : KeepsForm s t) : KeepsForm s (Machine.takeReading data t) := by
  unfold Machine.takeReading
  split
  · exact h.dropWait.reply
  · exact h

theorem KeepsForm.giveDebug {target r core bank first length} (h : KeepsForm s t) :
    KeepsForm s (Machine.giveDebug target r core bank first length t) :=
  h.wakeDoze.scanned.sendLash

theorem KeepsForm.lashFound {j i} (h : KeepsForm s t) : KeepsForm s (Machine.lashFound j i t) := h.onGw

theorem KeepsForm.lashBringup {i} (h : KeepsForm s t) : KeepsForm s (Machine.lashBringup i t) := by
  unfold Machine.lashBringup
  dsimp only
  split
  · exact h.onPair.lashFound
  · exact h.onPair.iteElse (·.compareItems)

theorem KeepsForm.unlashRecord (h : KeepsForm s t) : KeepsForm s (Machine.unlashRecord t) := h.rest

theorem KeepsForm.unlashHalf (h : KeepsForm s t) : KeepsForm s (Machine.unlashHalf t) := h.onSeq.onPort.unlashRecord.onPair.endSessions

theorem KeepsForm.sendUnlash (h : KeepsForm s t) : KeepsForm s (Machine.sendUnlash t) := .ite h.onPort h

theorem KeepsForm.unlashNow {q} (h : KeepsForm s t) : KeepsForm s (Machine.unlashNow q t) := h.sendUnlash.reply.unlashHalf

theorem KeepsForm.unlash {q token} (h : KeepsForm s t) : KeepsForm s (Machine.unlash q token t) := by
  refine .ite ?_ h.unlashNow
  split
  · exact h.withToken fun _ h => h.unlashNow
  · exact h.refuseField

theorem KeepsForm.rendezvous {slot row} (h : KeepsForm s t) : KeepsForm s (Machine.rendezvous slot row t) := by
  unfold Machine.rendezvous
  dsimp only
  split
  · exact h.onPair.iteThen (·.lockstepLost)
  · exact h.onPair

theorem KeepsForm.takeShare {p} (h : KeepsForm s t) : KeepsForm s (Machine.takeShare p t) := by
  unfold Machine.takeShare
  split
  · exact h.finishRow
  · exact h.onPair

theorem KeepsForm.farPower {target boostEn} (h : KeepsForm s t) : KeepsForm s (Machine.farPower target boostEn t) := by
  unfold Machine.farPower
  dsimp only
  split
  · exact h.onPower.onPower
  · exact h.onPower.onPower.iteElse (·.enterDoze)
  · exact .ite h.onPower.onPower h.onPower.enterSleep

theorem KeepsForm.farLoad {b rows l} (h : KeepsForm s t) : KeepsForm s (Machine.farLoad b rows l t) := h.fillSlot

theorem KeepsForm.farRestart {b entry attempt} (h : KeepsForm s t) : KeepsForm s (Machine.farRestart b entry attempt t) :=
  h.cutWaits.setAttempt.swapTo.onSeq.settleHalt

theorem KeepsForm.farRegions {word fenced} (h : KeepsForm s t) : KeepsForm s (Machine.farRegions word fenced t) := by
  unfold Machine.farRegions
  dsimp only
  split
  · exact h.onPair
  · exact .ite h.onPair.armReturned (.ite h.onPair (.ite h.onPair.onSeq h.onPair.halt))

theorem KeepsForm.farRecord {r} (h : KeepsForm s t) : KeepsForm s (Machine.farRecord r t) := by
  unfold Machine.farRecord
  exact h.rest.onPair

theorem KeepsForm.farResume {rid commit} (h : KeepsForm s t) : KeepsForm s (Machine.farResume rid commit t) := by
  unfold Machine.farResume
  split
  · exact h.sendLash
  · exact h.resolveRound

theorem KeepsForm.farDebug {expiry fp} (h : KeepsForm s t) : KeepsForm s (Machine.farDebug expiry fp t) := .ite h.rest h.enterDebug

theorem KeepsForm.forwarded {f} (h : KeepsForm s t) : KeepsForm s (Machine.forwarded f t) := by
  unfold Machine.forwarded
  split
  · exact h.unlashHalf
  · exact h.farPower
  · exact h.onPower.settleBoost
  · exact h.takeCompare
  · exact h.sendLash
  · exact h.giveDebug
  · exact h.takeReading
  · exact h.farLoad
  · exact h.armSlot
  · exact h.discardSlot
  · exact h.installJob
  · exact h.endJob
  · exact h.markAbsent
  · exact h.beginRun.startSpares
  · exact h.stopRun
  · exact h.farResume
  · exact h.farRestart
  · exact h.regionAct
  · exact h.wakeDoze.resetRegion
  · exact h.takeLedger
  · exact h.farDebug
  · exact h.endDebug
  · exact h.startStage
  · exact h.onPair
  · exact h.startActivate
  · exact h.farRecord
  · exact h.farRegions

/-! ### Outcomes -/

/-- Where the outcome is a next state, that state keeps the form. -/
def OutcomeKeepsForm (s : State) (o : Host.Outcome State Fault Refusal) : Prop := ∀ t, o = .next t → KeepsForm s t

namespace OutcomeKeepsForm
variable {s t : State} {f : State → State}

theorem same : OutcomeKeepsForm s (.next s) := fun _ h => by cases h; exact .refl s

theorem done (h : KeepsForm s t) : OutcomeKeepsForm s (Machine.done s t) := fun _ e => by cases e; exact h.settled

theorem command {op page q own} (hf : ∀ u v, KeepsForm u v → KeepsForm u (f v)) :
    OutcomeKeepsForm s (Machine.command op page q own f s) :=
  fun _ e => keepsForm_command _ _ _ _ _ _ _ (hf _ _ (.refl _)) e

theorem event {c} (hf : ∀ u v, KeepsForm u v → KeepsForm u (f v)) : OutcomeKeepsForm s (Machine.event c f s) :=
  fun _ e => keepsForm_event _ _ _ _ (hf _ _ (.refl _)) e

theorem bar0 (hf : ∀ u v, KeepsForm u v → KeepsForm u (f v)) : OutcomeKeepsForm s (Machine.bar0 f s) := by
  cases hl : s.gw.linkUp with
  | true => rw [bar0_up f s hl]; exact done (hf _ _ (.refl _))
  | false => rw [bar0_down f s hl]; exact same

end OutcomeKeepsForm

theorem execGetStatus_keepsForm {s : State} {q page} : OutcomeKeepsForm s (execGetStatus q page s) := by
  unfold execGetStatus
  refine .command fun _ _ h => ?_
  split
  · exact h.reply
  · exact h.reply
  · exact h.reply
  · exact h.refuseField

theorem execAttest_keepsForm {s : State} {q nonce} : OutcomeKeepsForm s (execAttest q nonce s) := by
  unfold execAttest
  refine .command fun _ _ h => ?_
  dsimp only
  exact h.evidence.reply

theorem execSealResume_keepsForm {s : State} {q sealId} : OutcomeKeepsForm s (execSealResume q sealId s) := by
  unfold execSealResume
  refine .command fun _ _ h => ?_
  split
  · exact h.sealResume
  · exact h

theorem execSubmissionFetch_keepsForm {s : State} {entryOk hOk rOk} : OutcomeKeepsForm s (execSubmissionFetch entryOk hOk rOk s) := by
  unfold execSubmissionFetch
  split
  · exact .done ((KeepsForm.refl s).fetchEntry)
  · exact .same

theorem execCompletionPost_keepsForm {s : State} {replyOk entryOk} : OutcomeKeepsForm s (execCompletionPost replyOk entryOk s) := by
  have shown : KeepsForm s (if shortRuns s then s else passRefused s) := .ite (.refl s) (KeepsForm.refl s).passRefused
  unfold execCompletionPost
  extract_lets t
  split
  · exact .same
  · split
    · exact .done (.ite shown.postReplyOnly shown.postOne)
    · exact .same

theorem execLowerDone_keepsForm {s : State} : OutcomeKeepsForm s (execLowerDone s) := by
  unfold execLowerDone
  split
  · split
    · exact .event fun _ _ h => h.lowerDone
    · exact .same
  · exact .same

theorem execCheckPlanDone_keepsForm {s : State} : OutcomeKeepsForm s (execCheckPlanDone s) := by
  unfold execCheckPlanDone
  split
  · exact .event fun _ _ h => h.checkPlanDone
  · exact .same

theorem execTtLoadDone_keepsForm {s : State} {slot} : OutcomeKeepsForm s (execTtLoadDone slot s) := by
  unfold execTtLoadDone
  split
  · exact .event fun _ _ h => h.ttLoadStep
  · exact .same

theorem execJobStartJoined_keepsForm {s : State} : OutcomeKeepsForm s (execJobStartJoined s) := by
  unfold execJobStartJoined
  split
  · exact .event fun _ _ h => h.jobJoined
  · exact .same

theorem execJoinTimeout_keepsForm {s : State} : OutcomeKeepsForm s (execJoinTimeout s) := by
  unfold execJoinTimeout
  split
  · exact .event fun _ _ h => h.onGw.refuse
  · exact .same

theorem execSealCheckpoint_keepsForm {s : State} : OutcomeKeepsForm s (execSealCheckpoint s) := by
  unfold execSealCheckpoint
  split
  · exact .event fun _ _ h => h.sealStep
  · exact .same

theorem execSealComplete_keepsForm {s : State} : OutcomeKeepsForm s (execSealComplete s) := by
  unfold execSealComplete
  split
  · exact .event fun _ _ h => h.sealComplete
  · exact .same

theorem execUnsealComplete_keepsForm {s : State} : OutcomeKeepsForm s (execUnsealComplete s) := by
  unfold execUnsealComplete
  split
  · exact .event fun _ _ h => h.unsealComplete
  · exact .same

theorem execImageStageComplete_keepsForm {s : State} : OutcomeKeepsForm s (execImageStageComplete s) := by
  unfold execImageStageComplete
  split
  · exact .event fun _ _ h => h.stageComplete
  · exact .same

theorem execFirmwareStartCheck_keepsForm {s : State} {ok} : OutcomeKeepsForm s (execFirmwareStartCheck ok s) := by
  unfold execFirmwareStartCheck
  split
  · exact .event fun _ _ h => h.firmwareStartCheck
  · exact .event fun _ _ h => h.bootCheck

theorem execLashExpiry_keepsForm {s : State} : OutcomeKeepsForm s (execLashExpiry s) := by
  unfold execLashExpiry
  split
  · exact .event fun _ _ h => h.failLash
  · exact .same

theorem execPairFormed_keepsForm {s : State} : OutcomeKeepsForm s (execPairFormed s) := by
  unfold execPairFormed
  split
  · split
    · exact .event fun _ _ h => h.formPair
    · exact .same
  · exact .same

theorem execDegradedRestart_keepsForm {s : State} : OutcomeKeepsForm s (execDegradedRestart s) := by
  unfold execDegradedRestart
  split
  · exact .event fun _ _ h => h.degradedRestart
  · exact .event fun _ _ h => h.relowerIdle
  · exact .same

theorem execSleepNotice_keepsForm {s : State} {p} : OutcomeKeepsForm s (execSleepNotice p s) := by
  unfold execSleepNotice
  refine .event fun _ _ h => ?_
  split
  · exact h.partnerSleeps
  · exact h.sleepNotice

/-- Every command keeps the form. -/
theorem exec_keepsForm (i : Instr) (s : State) : OutcomeKeepsForm s (exec i s) := by
  unfold exec
  cases i with
  | identify _ => exact .command fun _ _ h => h.reply
  | getStatus _ _ => exact execGetStatus_keepsForm
  | attest _ _ => exact execAttest_keepsForm
  | openSession _ _ _ _ => exact .command fun _ _ h => h.openSession
  | logRead _ _ _ _ => exact .command fun _ _ h => h.checkField fun _ h => h.checkField fun _ h => h.reply
  | closeSession _ _ => exact .command fun _ _ h => h.closeNow
  | readState _ _ _ _ => exact .command fun _ _ h => h.readState
  | enrol _ _ _ _ => exact .command fun _ _ h => h.enrol
  | retire _ _ => exact .command fun _ _ h => h.withToken fun _ h => h.retireNow
  | logMark _ _ _ => exact .command fun _ _ h => h.logMark
  | logClear _ _ => exact .command fun _ _ h => h.withToken fun _ h => h.clearLog
  | policySet _ _ => exact .command fun _ _ h => h.policySet
  | fabricConfig _ _ => exact .command fun _ _ h => h.fabricConfig
  | linkCtl _ _ _ => exact .command fun _ _ h => h.checkField fun _ h => h.checkField fun _ h => h.linkCtl
  | linkUnfence _ _ => exact .command fun _ _ h => h.checkField fun _ h => h.linkUnfence
  | lash _ _ _ => exact .command fun _ _ h => h.lash
  | unlash _ _ => exact .command fun _ _ h => h.unlash
  | checkPlan _ _ _ => exact .command fun _ _ h => h.sourceOk fun _ h => h.startLowering
  | lower _ _ _ _ => exact .command fun _ _ h => h.checkField fun _ h => h.sourceOk fun _ h => h.startLowering
  | ttLoad _ _ _ _ => exact .command fun _ _ h => h.checkField fun _ h => h.checkField fun _ h => h.ttLoad
  | ttArm _ _ _ => exact .command fun _ _ h => h.checkField fun _ h => h.ttArm
  | ttDiscard _ _ => exact .command fun _ _ h => h.checkField fun _ h => h.ttDiscard
  | jobStart _ _ => exact .command fun _ _ h => h.jobStart
  | run _ _ _ _ _ => exact .command fun _ _ h => h.checkField fun _ h => h.runCommand
  | stop _ _ => exact .command fun _ _ h => h.checkField fun _ h => h.onGw.sendLash.stopRun
  | jobEnd _ => exact .command fun _ _ h => h.endJob.sendLash.reply
  | rankAbsent _ _ _ => exact .command fun _ _ h => h.rankAbsent
  | reshardResume _ _ => exact .command fun _ _ h => h.startResume
  | windowReg _ _ _ _ => exact .command fun _ _ h => h.windowReg
  | sealTiers _ _ _ _ _ => exact .command fun _ _ h => h.sealTiers
  | sealResume _ _ => exact execSealResume_keepsForm
  | unsealTiers _ _ _ => exact .command fun _ _ h => h.unsealTiers
  | imageStage _ _ _ _ => exact .command fun _ _ h => h.imageStage
  | imageActivate _ => exact .command fun _ _ h => h.sendLash.startActivate
  | power _ _ _ => exact .command fun _ _ h => h.powerCommand
  | reset _ _ _ => exact .command fun _ _ h => h.resetCommand
  | regionCtl _ _ _ => exact .command fun _ _ h => h.regionCtl
  | debugOpen _ _ => exact .command fun _ _ h => h.withToken fun _ h => h.debugOpen
  | debugClose _ => exact .command fun _ _ h => h.sendLash.endDebug.reply
  | debugRead _ _ _ _ _ _ _ => exact .command fun _ _ h => h.debugRead
  | enableWrite _ => exact .bar0 fun _ _ h => h.setEnable
  | irqEnWrite _ => exact .bar0 fun _ _ h => h.onGw
  | gwErrClear _ => exact .bar0 fun _ _ h => h.clearErr
  | sqTailWrite _ => exact .bar0 fun _ _ h => h.setTail
  | cqHeadWrite _ => exact .bar0 fun _ _ h => h.setCqHead
  | ringConfigWrite _ _ _ => exact .bar0 fun _ _ h => h.setRing
  | registerWrite _ _ => exact .bar0 fun _ _ h => h.setRegister
  | submissionFetch _ _ _ => exact execSubmissionFetch_keepsForm
  | completionPost _ _ => exact execCompletionPost_keepsForm
  | lowerDone => exact execLowerDone_keepsForm
  | checkPlanDone => exact execCheckPlanDone_keepsForm
  | ttLoadDone _ => exact execTtLoadDone_keepsForm
  | jobStartJoined => exact execJobStartJoined_keepsForm
  | joinTimeout => exact execJoinTimeout_keepsForm
  | sealCheckpoint => exact execSealCheckpoint_keepsForm
  | sealComplete => exact execSealComplete_keepsForm
  | unsealComplete => exact execUnsealComplete_keepsForm
  | imageStageComplete => exact execImageStageComplete_keepsForm
  | firmwareStartCheck _ => exact execFirmwareStartCheck_keepsForm
  | lashExpiry => exact execLashExpiry_keepsForm
  | pairFormed => exact execPairFormed_keepsForm
  | nop _ => exact .event fun _ _ h => h.controlEvent fun _ _ _ h => h.pastRow
  | pass _ => exact .event fun _ _ h => h.dataEvent fun _ _ h => h.passEffect
  | quant _ => exact .event fun _ _ h => h.dataEvent fun _ _ h => h.quantEffect
  | copy _ => exact .event fun _ _ h => h.dataEvent fun _ _ h => h.copyEffect
  | vectorCombine _ => exact .event fun _ _ h => h.vectorEvent
  | merge _ => exact .event fun _ _ h => h.vectorEvent
  | norm _ => exact .event fun _ _ h => h.vectorEvent
  | route _ => exact .event fun _ _ h => h.vectorEvent
  | opt _ => exact .event fun _ _ h => h.vectorEvent
  | sgrad _ => exact .event fun _ _ h => h.vectorEvent
  | rebuild _ => exact .event fun _ _ h => h.vectorEvent
  | reduceScatter _ => exact .event fun _ _ h => h.collectEvent
  | allGather _ => exact .event fun _ _ h => h.collectEvent
  | allReduce _ => exact .event fun _ _ h => h.collectEvent
  | broadcast _ => exact .event fun _ _ h => h.collectEvent
  | reshardRound _ => exact .event fun _ _ h => h.dataEvent fun _ _ h => h.reshardEffect
  | reshardPrepared => exact .event fun _ _ h => h.prepare
  | dispatch _ => exact .event fun _ _ h => h.dataEvent fun _ _ h => h.dispatchEffect
  | ferryReturn _ => exact .event fun _ _ h => h.dataEvent fun _ _ h => h.returnEffect
  | ferryCombine _ => exact .event fun _ _ h => h.dataEvent fun _ _ h => h.combineEffect
  | govern _ => exact .event fun _ _ h => h.controlEvent fun _ _ _ h => h.governEffect
  | branch _ => exact .event fun _ _ h => h.controlEvent fun _ _ _ h => h.branchEffect
  | loop _ => exact .event fun _ _ h => h.controlEvent fun _ _ _ h => h.loopEffect
  | endloop _ => exact .event fun _ _ h => h.controlEvent fun _ _ _ h => h.endloopEffect
  | barrier _ => exact .event fun _ _ h => h.controlEvent fun _ _ _ h => h.barrierEffect
  | barrierTimeout _ _ => exact .event fun _ _ h => h.barrierTimeout
  | stepRow _ => exact .event fun _ _ h => h.controlEvent fun _ _ _ h => h.stepEffect
  | epochRecord _ => exact .event fun _ _ h => h.epochEvent
  | epochCheck _ => exact .event fun _ _ h => h.epochEvent
  | epochAdvance _ => exact .event fun _ _ h => h.epochEvent
  | notify _ => exact .event fun _ _ h => h.controlEvent fun _ _ _ h => h.notifyEffect
  | halt _ => exact .event fun _ _ h => h.controlEvent fun _ _ _ h => h.haltEffect
  | rowComplete _ => exact .event fun _ _ h => h.rowComplete
  | tileDrain _ _ => exact .event fun _ _ h => h.tileDrain
  | regionWakeStart _ => exact .event fun _ _ h => h.onRegion
  | regionReady _ => exact .event fun _ _ h => h.regionReady
  | regionGate _ => exact .event fun _ _ h => h.onRegion.settleDoze
  | degradedRestart => exact execDegradedRestart_keepsForm
  | retestComplete _ _ _ => exact .event fun _ _ h => h.retestComplete
  | portDieFault _ => exact .event fun _ _ h => h.portDieFault
  | fabricSenseChange _ _ => exact .event fun _ _ h => h.fabricSense
  | lashSenseChange _ => exact .event fun _ _ h => h.onPins.bringUp
  | linkTrainComplete _ _ _ => exact .event fun _ _ h => .ite h.onPower h.trainComplete
  | linkHello _ _ _ _ _ => exact .event fun _ _ h => h.hello
  | linkEvidence _ _ _ => exact .event fun _ _ h => h.peerEvidence
  | linkAgree _ _ _ _ => exact .event fun _ _ h => h.agree
  | linkConfirm _ _ => exact .event fun _ _ h => h.linkConfirm
  | linkResume _ _ => exact .event fun _ _ h => h.resume
  | flitReceive _ _ _ => exact .event fun _ _ h => h.flitReceive
  | nakReceive _ _ _ => exact .event fun _ _ h => h.nakReceive
  | nakRepeat _ => exact .event fun _ _ h => h.sendNak
  | peerSilence _ => exact .event fun _ _ h => h.retrain
  | messageSend _ _ _ => exact .event fun _ _ h => h.messageSend
  | messageForward _ _ _ => exact .event fun _ _ h => h.takeMsg fun _ h => h.messageForward
  | writeMsg _ _ _ => exact .event fun _ _ h => h.takeMsg fun _ h => h.writeHere
  | writeDone _ _ _ => exact .event fun _ _ h => h.takeMsg fun _ h => h.writeDone
  | readMsg _ _ _ => exact .event fun _ _ h => h.takeMsg fun _ h => h.readHere
  | readData _ _ _ _ _ => exact .event fun _ _ h => h.takeMsg fun _ h => h.takeReadData
  | collectMessage _ _ _ => exact .event fun _ _ h => h.takeHeld fun _ _ h => h.takeContrib
  | ferryMessage _ _ _ => exact .event fun _ _ h => h.takeMsg fun _ h => h.ferryMessage
  | admissionReply _ => exact .event fun _ _ h => h.admissionReply
  | ferryDone _ _ _ _ _ => exact .event fun _ _ h => h.ferryDone
  | barrierArrival _ _ _ _ _ => exact .event fun _ _ h => h.barrierArrival
  | governSum _ _ _ _ _ => exact .event fun _ _ h => h.governSum
  | claimList _ _ => exact .event fun _ _ h => h.takeClaims
  | reshardReady _ _ _ => exact .event fun _ _ h => h.reshardReady
  | journalExchange _ _ => exact .event fun _ _ h => h.journalExchange
  | lostNotice _ _ => exact .event fun _ _ h => h.echo.takeLost
  | haltedNotice _ _ _ => exact .event fun _ _ h => h.takeHalted
  | restartNotice _ _ => exact .event fun _ _ h => h.echo.takeRestart
  | sleepNotice _ => exact execSleepNotice_keepsForm
  | dozeRequest _ => exact .event fun _ _ h => h.dozeRequest
  | linkWake _ => exact .event fun _ _ h => h.onPort
  | pairRendezvous _ _ => exact .event fun _ _ h => h.rendezvous
  | pairContribution _ => exact .event fun _ _ h => h.takeShare
  | partnerWarmReset => exact .event fun _ _ h => h.warmPosts.warmReset
  | lashBringupComplete _ => exact .event fun _ _ h => h.lashBringup
  | strandedRetry => exact .event fun _ _ h => h.bringUp
  | auxGood _ _ _ _ => exact .event fun _ _ h => h.auxGood
  | auxLost => exact .event fun _ _ h => h.auxLost
  | mainEnAssert => exact .event fun _ _ h => h.mainEnAssert
  | mainEnDeassert => exact .event fun _ _ h => h.mainEnDeassert
  | mainRange _ _ => exact .event fun _ _ h => h.mainRange
  | railFault _ _ _ => exact .event fun _ _ h => h.railFault
  | pllLossOfLock _ => exact .event fun _ _ h => h.pllLossOfLock
  | linkRefclkFault => exact .event fun _ _ h => h.record.emergencyDown
  | pcieRefclkLoss => exact .event fun _ _ h => h.onPins.onGw
  | perstNFall _ => exact .event fun _ _ h => h.perstNFall
  | pcieLinkUp => exact .event fun _ _ h => h.onPins.onGw
  | warmResetEffect => exact .event fun _ _ h => h.warmNow
  | controlRestartDone => exact .event fun _ _ h => h.controlRestartDone
  | memoryTrained _ => exact .event fun _ _ h => h.memoryTrained
  | selftestDone _ _ _ => exact .event fun _ _ h => h.selftestDone
  | idleSleep => exact .event fun _ _ h => h.enterSleep
  | sleepWakeDone => exact .event fun _ _ h => h.sleepWakeDone
  | temperatureSample _ _ => exact .event fun _ _ h => h.temperatureSample
  | powerCapTick _ => exact .event fun _ _ h => h.powerCapTick
  | thermalCreditUpdate _ => exact .event fun _ _ h => h.thermalCreditUpdate
  | valveLoopTick => exact .event fun _ _ h => h.onThermal
  | flowUpdate _ => exact .event fun _ _ h => h.onThermal
  | coolantConditionTest _ => exact .event fun _ _ h => h.coolantTest
  | tamperTrip _ => exact .done (.ite (KeepsForm.refl s).rest (KeepsForm.refl s).tamperTrip)
  | cellLow _ => exact .event fun _ _ h => h.cellCheck
  | ownerPresentRise => exact .event fun _ _ h => h.ownerRise
  | operatingSecond => exact .event fun _ _ h => h.onLog
  | counterCopy => exact .event fun _ _ h => h.onLog
  | debugExpiry => exact .event fun _ _ h => h.sendLash.endDebug
  | recordWrite => exact .event fun _ _ h => h.recordWrite
  | logMarkQueued => exact .event fun _ _ h => h.markQueued
  | logSelect _ _ _ => exact .event fun _ _ h => h.onLog.smbReply
  | logNext _ => exact .event fun _ _ h => h.logNext
  | logBounds _ => exact .event fun _ _ h => h.onPins.smbReply
  | thermalRead _ => exact .event fun _ _ h => h.smbReply
  | coolantSet _ _ _ _ => exact .event fun _ _ h => h.onThermal.coolantDuty.smbReply
  | alertResponse => exact .event fun _ _ h => h.smbReply
  | noRouteMessage _ _ _ _ => exact .event fun _ _ h => h.takeMsg fun _ h => h.noRouteHere
  | linkWakeDone _ => exact .event fun _ _ h => h.onPort
  | mainHoldRelease => exact .event fun _ _ h => h.mainHoldRelease
  | pairForward _ => exact .event fun _ _ h => h.forwarded

/-! ### The step -/

theorem canonical_of_keepsForm {s t : State} (hc : Claims.Canonical s) (h : KeepsForm s t) : Claims.Canonical t := by
  obtain ⟨tier, staging, slice, host, acc, regions, ports⟩ := hc
  exact ⟨h.tier tier, h.staging staging, h.slice slice, h.host host, h.acc acc, h.regions.trans regions, h.ports.trans ports⟩

theorem step_keepsForm {s t : State} (h : step s = .next t) : KeepsForm s t := by
  cases hp : s.pending with
  | nil => cases (step_empty s hp).symm.trans h; exact .refl s
  | cons c rest => exact (KeepsForm.refl s).rest.trans (exec_keepsForm c _ t ((step_front c rest s hp).symm.trans h))

end

/-- Settles O60: an invariant of `step`, from the lemma that says it of `exec`. -/
theorem everyStepKeepsTheCanonicalForm : Obligations.EveryStepKeepsTheCanonicalForm :=
  fun _ _ hc h => canonical_of_keepsForm hc (step_keepsForm h)

end Sys2Proof.Machine

/-! ## O28: a half that follows its partner into SLEEP signals vector 1

The clause of the sleep notice on the lash port has the half enter SLEEP with `t.gw = s.gw`. But POWER_STATE is a field of GW_STATUS, and a
change of GW_STATUS raises vector 1 where GW_IRQ_EN is set (R294), so `gw.vec1` counts one more. -/

namespace Sys2Proof.Machine

theorem settled_vec1 {s t : State} (hst : gwStatus s ≠ gwStatus t) (irq : t.gw.irqEn = true) :
    (settled s t).gw.vec1 = t.gw.vec1 + 1 := by simp [settled, raiseVec1, hst, irq]

/-- An idle half of a pair in RUN with its lash port ACTIVE and its interrupts enabled. -/
def idleHalf : State :=
  { State.reset with
    power := { State.reset.power with state := .run }
    pair := { State.reset.pair with role := .primary }
    gw := { State.reset.gw with irqEn := true }
    fab := { State.reset.fab with ports := List.replicate 7 { Port.reset with state := .active } } }

theorem exec_sleepNotice_lash {s : State} (active : (port s 6).state = .active) :
    exec (.sleepNotice 6) s = .next (settled s (partnerSleeps s)) :=
  event_holds (c := (port s 6).state = .active || (port s 6).state = .doze) (by simp [active]) partnerSleeps s

theorem vec1_sleepNotice_idleHalf : (settled idleHalf (partnerSleeps idleHalf)).gw.vec1 = idleHalf.gw.vec1 + 1 := by
  have asleep : gwStatus idleHalf ≠ gwStatus (partnerSleeps idleHalf) := by decide +kernel
  have irq : (partnerSleeps idleHalf).gw.irqEn = true := by decide +kernel
  have kept : (partnerSleeps idleHalf).gw.vec1 = idleHalf.gw.vec1 := by decide +kernel
  rw [settled_vec1 asleep irq, kept]

/-- Refutes O28: the partner's sleep notice takes `idleHalf` into SLEEP, which changes GW_STATUS, so vector 1 is raised and `gw` is not
what it was. -/
theorem not_linkStatesFollowTheirEvents : ¬ Obligations.LinkStatesFollowTheirEvents := by
  intro h
  obtain ⟨-, -, -, -, partner, -, -⟩ := h idleHalf (by decide +kernel)
  have active : (port idleHalf 6).state = .active := by decide +kernel
  obtain ⟨t, ht, -, -, -, -, -, -, gw⟩ := partner (.inl active) (by decide +kernel) (by decide +kernel) (by decide +kernel)
  cases (exec_sleepNotice_lash active).symm.trans ht
  have raised := vec1_sleepNotice_idleHalf
  rw [gw] at raised
  exact absurd raised (Nat.succ_ne_self _).symm

end Sys2Proof.Machine

/-! ## O44: JOB_START joins the members and checks their claims

The claim lists travel on routed messages, and a message that joins a queue changes neither the states of the ports nor the tables, so
that a route that stands for each member at the start stands for each while the lists go out (`foldl_send_routed`). With both slots EMPTY
no own claim, remap or fault exists. Beyond that every clause is the model's function with its condition known, and GW_STATUS changes
only where the job is in place. -/

namespace Sys2Proof.Machine

/-! ### Overlapping claims, spec/02_formats.md R57 -/

theorem claimsOverlap_iff (a b : Claim) : claimsOverlap a b = true ↔ a.node = b.node ∧ a.half = b.half ∧ a.tensor = b.tensor ∧
    a.first / 4 ≤ b.last / 4 ∧ b.first / 4 ≤ a.last / 4 := by
  simp [claimsOverlap, and_assoc]

theorem claimPair_eq_none_iff (own others : List Claim) :
    claimPair own others = none ↔ ∀ a ∈ own, ∀ b ∈ others, claimsOverlap a b ≠ true := by
  simp [claimPair, List.findSome?_eq_none_iff, List.find?_eq_none]

/-- A pair that is reported is of an own claim and another's that overlap. -/
theorem overlap_of_claimPair {own others : List Claim} {a b : Claim} (h : claimPair own others = some (a, b)) :
    a ∈ own ∧ b ∈ others ∧ claimsOverlap a b = true := by
  obtain ⟨x, hx, hf⟩ := List.exists_of_findSome?_eq_some h
  obtain ⟨y, hy, hxy⟩ := Option.map_eq_some_iff.mp hf
  cases hxy
  exact ⟨hx, List.mem_of_find?_eq_some hy, List.find?_some hy⟩

theorem claimPairFindsAnOverlap : Claims.ClaimPairFindsAnOverlap := by
  intro own others
  refine ⟨?_, fun a b h => ?_⟩
  · simp only [claimPair_eq_none_iff, Ne, claimsOverlap_iff]
  · obtain ⟨ha, hb, hab⟩ := overlap_of_claimPair h
    exact ⟨ha, hb, (claimsOverlap_iff a b).mp hab⟩

/-! ### Routes while messages join the queues -/

/-- A change of a port that keeps its state and its peer's notice keeps it as available as it was. -/
theorem unavailable_onPort (p k : Nat) (f : Port → Port) (s : State) (hf : ∀ q, unavailable (f q) = unavailable q) :
    unavailable (port (onPort p f s) k) = unavailable (port s k) := by
  by_cases hk : k = p
  · subst hk
    by_cases hl : k < s.fab.ports.length
    · rw [port_onPort_same s k f hl, hf]
    · have out : port (onPort k f s) k = port s k := by
        unfold port nth
        rw [List.getD_eq_default _ _ (by simp [onPort]; omega), List.getD_eq_default _ _ (by omega)]
      rw [out]
  · rw [port_onPort_other s p k f hk]

@[simp] theorem nextHop_enqueue (h : Hop) (dst : BitVec 14) (vc : Fin 4) (fl : Option Nat) (b : Body) (s : State) (x y : BitVec 14)
    (arrived : Option Nat) : nextHop (enqueue h dst vc fl b s) x y arrived = nextHop s x y arrived := by
  unfold nextHop
  simp only [show ∀ k, unavailable (port (enqueue h dst vc fl b s) k) = unavailable (port s k) from
    fun k => unavailable_onPort _ k _ s fun _ => rfl]
  rfl

/-- Routes depend on the fabric alone. -/
theorem nextHop_congr {s t : State} (h : t.fab = s.fab) (src dst : BitVec 14) (arrived : Option Nat) :
    nextHop t src dst arrived = nextHop s src dst arrived := by
  simp [nextHop, port, myNode, h]

/-- Messages to ranks that each have a route change the fabric alone. -/
theorem foldl_send_routed (b : Body) (l : List Nat) (s : State)
    (h : ∀ k ∈ l, (nextHop s (myNode s) (rankNode (rankEntry s k)) none).isSome = true) :
    ∃ fab, l.foldl (fun s r => send (rankNode (rankEntry s r)) 3 none b s) s = { s with fab := fab } := by
  induction l generalizing s with
  | nil => exact ⟨s.fab, rfl⟩
  | cons k l ih =>
    obtain ⟨hop, hhop⟩ := Option.isSome_iff_exists.mp (h k List.mem_cons_self)
    obtain ⟨fab, hfab⟩ := ih (enqueue hop (rankNode (rankEntry s k)) 3 none b s) fun j hj => by
      rw [nextHop_enqueue]; exact h j (List.mem_cons_of_mem k hj)
    exact ⟨fab, by rw [List.foldl_cons, send_routed _ _ _ _ _ _ hhop, hfab]; rfl⟩

theorem sendAll_routed (g : Nat) (b : Body) (s : State)
    (h : ∀ k ∈ otherMembers s g, (nextHop s (myNode s) (rankNode (rankEntry s k)) none).isSome = true) :
    ∃ fab, sendAll g b s = { s with fab := fab } := foldl_send_routed b _ s h

/-! ### JOB_START, R308 -/

@[simp] theorem start_claimsHeld (q : Req) (s : State) : (start q s).gw.claimsHeld = s.gw.claimsHeld := by
  simp only [start]; split <;> rfl

theorem loadedSlots_eq_nil {s : State} (h : Claims.slotsEmpty s) : loadedSlots s = [] := by
  simp [loadedSlots, slotIs, slotOf, h.1, h.2, Slot.empty]

/-- Parameters whose tables are given natively need no slot and stand as they are. -/
theorem sourceSlot_native {p : JobParams} (h : p.source = 0) : sourceSlot p = none := by simp [sourceSlot, h]

theorem sourceLowered_native {p : JobParams} (h : p.source = 0) (s : State) : sourceLowered s p = true := by
  simp [sourceLowered, sourceSlot_native h]

theorem resolved_native {p : JobParams} (h : p.source = 0) (s : State) : resolved s p = p := by simp [resolved, sourceSlot_native h]

theorem jobStart_badField {p : JobParams} (h : jobFieldsOk p = false) (q : Req) (s : State) :
    jobStart q p s = refuseField q 0x35 (badJobField p) s := by simp [jobStart, h]

theorem jobStart_badTables {p : JobParams} (fields : jobFieldsOk p = true) (native : p.source = 0) (h : tablesOk p = false) (q : Req)
    (s : State) : jobStart q p s = refuseField q 0x35 (if p.myRank.toNat < p.ranks.toNat then 9 else 5) s := by
  simp [jobStart, fields, sourceLowered_native native, resolved_native native, h]

theorem jobStart_joins {p : JobParams} (fields : jobFieldsOk p = true) (native : p.source = 0) (tables : tablesOk p = true) (q : Req)
    {s : State} (h : Claims.slotsEmpty s) : jobStart q p s = startJoin q p s := by
  have noFault : jobFault (asJob p s) = none := by simp [jobFault, loadedSlots_eq_nil (s := asJob p s) h]
  simp [jobStart, fields, sourceLowered_native native, resolved_native native, tables, noFault]

/-- Without a LOADED slot or an early list the start only sends and waits. -/
theorem startJoin_empty (q : Req) (p : JobParams) {s : State} (h : Claims.slotsEmpty s) (early : s.gw.claimsHeld = [])
    (routed : ∀ k ∈ otherMembers (asJob p s) 0, (nextHop s (myNode s) (rankNode (rankEntry (asJob p s) k)) none).isSome = true) :
    ∃ fab, startJoin q p s = { s with
      fab := fab, gw := { s.gw with join := some { req := q, params := p, heard := [], claims := [], remapped := [] }, claimsHeld := [] } } := by
  have slots : loadedSlots (asJob p s) = [] := loadedSlots_eq_nil (s := asJob p s) h
  have claims : ownClaims (asJob p s) = [] := by rw [ownClaims, slots]; rfl
  have remaps : jobRemaps (asJob p s) = [] := by rw [jobRemaps, slots]; rfl
  obtain ⟨fab, sent⟩ := sendAll_routed 0 (.claims []) (asJob p s) routed
  exact ⟨fab, by simp only [startJoin, claims, remaps, sent, early, List.foldl_nil]; rfl⟩

/-! ### The members are heard -/

@[simp] theorem settled_join (s t : State) : (settled s t).gw.join = t.gw.join := by rw [settled_gw]

theorem relaxedJob_strict {p : JobParams} (h : domainOf p.rankTable ≤ 1024) : relaxedJob p = decide (p.determinism = 1) := by
  simp [relaxedJob, Nat.not_lt.mpr h]

/-- Without remaps, and with a domain that forces none, the job is put in place and no record is written. -/
theorem installJob_strict {p : JobParams} (h : domainOf p.rankTable ≤ 1024) (s : State) :
    installJob p [] s = loseAcc { s with
      job := jobOf p, reshard := s.reshard.ended, seq := (installJob p [] s).seq, gw := { s.gw with runstate := .job, join := none } } := by
  simp only [installJob, if_neg (Nat.not_lt.mpr h)]; rfl

/-- A module outside a pair has nobody to pass the job to: it completes its JOB_START. -/
theorem jobJoined_strict {s : State} (solo : s.pair.role = .solo) {j : JoinJob} (h : domainOf j.params.rankTable ≤ 1024)
    (remapped : j.remapped = []) :
    jobJoined j s = complete j.req 0x35 ([BitVec.ofNat 8 (b2n (relaxedJob j.params))] ++ leBytes 2 j.heard.length ++
      leBytes 4 (domainOf j.params.rankTable)) (installJob j.params [] s) := by
  have alone : inPair (installJob j.params [] s) = false := by rw [installJob_strict h]; simp [inPair, solo]
  have job : (installJob j.params [] s).job = jobOf j.params := by rw [installJob_strict h]; rfl
  rw [jobJoined, remapped, sendLash_alone _ _ alone, job]; rfl

/-- The sequencer of a new job: step 0, verdicts A8, counters and ledgers clear, the watch entries' DRIFT bits and the slots as they were. -/
theorem installJob_seq {p : JobParams} (h : domainOf p.rankTable ≤ 1024) (s : State) :
    (installJob p [] s).seq.step = 0 ∧ (installJob p [] s).seq.a4 = [] ∧ (installJob p [] s).seq.hold = [] ∧
      (installJob p [] s).seq.watch =
        (s.seq.watch.filter (fun x => x.2.drift)).map (fun x => (x.1, { Watch.zero with drift := true })) ∧
      (installJob p [] s).seq.ledger = [] ∧ (installJob p [] s).seq.stallR = [] ∧ (installJob p [] s).seq.stallM = [] ∧
      (installJob p [] s).seq.slotA = s.seq.slotA := by
  simp only [installJob, if_neg (Nat.not_lt.mpr h)]
  exact ⟨rfl, rfl, rfl, rfl, rfl, rfl, rfl, rfl⟩

/-! ### Outcomes -/

section
variable {s : State} {j : JoinJob} (joining : s.gw.join = some j)
include joining

theorem execJobStartJoined_waits (h : allHeard s j = false) : exec .jobStartJoined s = .next s := by
  rw [exec, execJobStartJoined, joining]; exact event_waits h _ s

theorem execJobStartJoined_heard (h : allHeard s j = true) : exec .jobStartJoined s = .next (settled s (jobJoined j s)) := by
  rw [exec, execJobStartJoined, joining]; exact event_holds h _ s

/-- At the timeout the start is refused, which no register shows. -/
theorem execJoinTimeout_refuses : exec .joinTimeout s = .next { s with gw := { s.gw with
    join := none, held := s.gw.held ++ [completionOf s j.req 0x35 Status.joinTimeout 0 []] } } := by
  rw [exec, execJoinTimeout, joining]
  refine (event_holds rfl _ s).trans (congrArg _ (settled_eq ?_))
  exact gwStatus_congr rfl rfl rfl rfl rfl rfl rfl rfl rfl

theorem takeClaims_heard {l : List Claim} (h : relaxedJob j.params = true ∨ claimPair j.claims l = none) (k : Nat) :
    takeClaims k l s = onGw (fun g => { g with join := some { j with heard := insertOnce k j.heard } }) s := by
  have unrefused : (if relaxedJob j.params then none else claimPair j.claims l) = none := by
    rcases h with h | h <;> simp [h]
  simp only [takeClaims, joining, unrefused]

theorem takeClaims_overlap {l : List Claim} {a b : Claim} (strict : relaxedJob j.params = false) (h : claimPair j.claims l = some (a, b))
    (k : Nat) : takeClaims k l s = refuseLoad j.req 0x35 a.slot (Status.generatorOverlap, a.row.toNat, b.row.toNat)
      (onGw (fun g => { g with join := none }) s) := by
  simp [takeClaims, joining, strict, h]

end

/-- A refused start of a module outside a pair leaves the record and the completion, and is no longer in progress. -/
theorem refuseLoad_overlap {s : State} (solo : s.pair.role = .solo) (q : Req) (slot : Bool) (m n : Nat) :
    refuseLoad q 0x35 slot (Status.generatorOverlap, m, n) (onGw (fun g => { g with join := none }) s) = { s with
      gw := { s.gw with
        join := none, held := s.gw.held ++ [completionOf s q 0x35 Status.generatorOverlap (rowDetail slot m n) []] }
      log := s.log.push (s.log.stamp Code.generatorOverlap 0 (slotByte slot ++ leBytes 2 m ++ leBytes 2 n)) } := by
  simp only [refuseLoad, overlapRecord, if_true, pairEvent, onGw_pair, solo]; rfl

/-- A claim list that arrives is taken, and no field of GW_STATUS with it. -/
theorem execClaimList_takes {s : State} (rails : s.power.rails = true) (k : Nat) (l : List Claim) (g : Gangway) (r : Recorder)
    (h : takeClaims k l s = { s with gw := g, log := r }) (status : g.runstate = s.gw.runstate) (sessions : g.sessions = s.gw.sessions) :
    exec (.claimList k l) s = .next { s with gw := g, log := r } := by
  rw [exec, execClaimList, event_holds rails, h]
  exact congrArg _ (settled_eq (gwStatus_congr status rfl rfl rfl rfl rfl rfl rfl sessions))

/-! ### The clauses -/

section
variable {s : State} {q : Req} {p : JobParams} (starts : Starts 0x35 0 q (inState s [.ready] && runGroupFree s) s)
include starts

theorem execJobStart_starts : exec (.jobStart q p) s = .next (settled s (jobStart q p (start q s))) := by
  rw [exec, execJobStart, command_starts starts]

theorem execJobStart_joins (empty : Claims.slotsEmpty s) (native : p.source = 0) (fields : jobFieldsOk p = true)
    (tables : tablesOk p = true) (early : s.gw.claimsHeld = [])
    (routed : ∀ k ∈ otherMembers (asJob p s) 0, (nextHop s (myNode s) (rankNode (rankEntry (asJob p s) k)) none).isSome = true) :
    ∃ t, exec (.jobStart q p) s = .next t ∧
      t.gw.join = some { req := q, params := p, heard := [], claims := [], remapped := [] } ∧ t.gw.held = (start q s).gw.held ∧
      t.gw.runstate = s.gw.runstate ∧ t.job = s.job ∧ t.seq = s.seq ∧ t.mem = s.mem ∧ t.log = s.log ∧ t.trust = s.trust := by
  have empty' : Claims.slotsEmpty (start q s) := by simpa [Claims.slotsEmpty] using empty
  have node : myNode (start q s) = myNode s := by simp [myNode]
  obtain ⟨fab, joined⟩ := startJoin_empty q p empty' (by simp [early]) fun k hk => by
    rw [nextHop_congr (start_fab q s), node]
    exact routed k hk
  refine ⟨_, execJobStart_starts starts, ?_⟩
  rw [jobStart_joins fields native tables q empty', joined]
  simp
end

/-- The job is in place once every other present member has been heard. -/
theorem execJobStartJoined_installs {s : State} {j : JoinJob} (solo : s.pair.role = .solo) (joining : s.gw.join = some j)
    (heard : allHeard s j = true) (h : domainOf j.params.rankTable ≤ 1024) (remapped : j.remapped = []) :
    ∃ t, exec .jobStartJoined s = .next t ∧ t.gw.runstate = .job ∧ t.gw.join = none ∧ t.job = jobOf j.params ∧
      t.job.relaxed = decide (j.params.determinism = 1) ∧ t.seq.step = 0 ∧ t.seq.a4 = [] ∧ t.seq.hold = [] ∧
      t.seq.watch = (s.seq.watch.filter (fun x => x.2.drift)).map (fun x => (x.1, { Watch.zero with drift := true })) ∧
      t.seq.ledger = [] ∧ t.seq.stallR = [] ∧ t.seq.stallM = [] ∧ t.seq.slotA = s.seq.slotA ∧
      t.mem = { s.mem with acc := [], accBad := [], era := s.mem.era + 1 } ∧ t.log = s.log ∧
      t.gw.held = s.gw.held ++ [completionOf s j.req 0x35 Status.ok 0 ([BitVec.ofNat 8 (b2n t.job.relaxed)] ++
        leBytes 2 j.heard.length ++ leBytes 4 (domainOf j.params.rankTable))] := by
  have done : exec .jobStartJoined s = _ := execJobStartJoined_heard joining heard
  rw [jobJoined_strict solo h remapped] at done
  obtain ⟨step, a4, hold, watch, ledger, stallR, stallM, slotA⟩ := installJob_seq h s
  have placed := installJob_strict h s
  have sessions : (installJob j.params [] s).gw.sessions = s.gw.sessions := by rw [placed]; rfl
  refine ⟨_, done, ?_⟩
  simp only [complete, completeAs, completionOf_congr sessions, settled_runstate, settled_join, settled_job, settled_seq, settled_mem,
    settled_log, settled_held, hold_gw, hold_job, hold_seq, hold_mem, hold_log]
  rw [placed]
  exact ⟨rfl, rfl, rfl, relaxedJob_strict h, step, a4, hold, watch, ledger, stallR, stallM, slotA, rfl, rfl, rfl⟩

theorem jobStartJoinsTheMembersClaim : Claims.JobStartJoinsTheMembers := by
  intro s solo empty
  refine ⟨fun q p starts native => ⟨?_, ?_, ?_⟩, fun j joining => ⟨?_, ?_, ?_, ?_, ?_⟩, fun idle => ⟨?_, ?_, ?_⟩⟩
  · exact fun bad => command_replies starts _ (jobStart_badField bad q _)
  · exact fun fields bad => command_replies starts _ (jobStart_badTables fields native bad q _)
  · exact execJobStart_joins starts empty native
  · exact execJobStartJoined_waits joining
  · exact execJobStartJoined_installs solo joining
  · exact ⟨_, execJoinTimeout_refuses joining, rfl⟩
  · exact fun k l rails h => execClaimList_takes rails k l _ s.log (takeClaims_heard joining h k) rfl rfl
  · intro k l a b rails strict h
    have refused := (takeClaims_overlap joining strict h k).trans (refuseLoad_overlap solo _ _ _ _)
    exact ⟨_, execClaimList_takes rails k l _ _ refused rfl rfl, rfl, rfl, rfl, rfl, rfl⟩
  · rw [exec, execJobStartJoined, idle]
  · rw [exec, execJoinTimeout, idle]
  · exact fun k l rails => execClaimList_takes rails k l _ s.log (by rw [takeClaims, idle]; rfl) rfl rfl

/-- Settles O44: the exchange of claim lists clause by clause, and the search for a pair of overlapping claims. -/
theorem jobStartJoinsTheMembers : Obligations.JobStartJoinsTheMembers :=
  ⟨jobStartJoinsTheMembersClaim, claimPairFindsAnOverlap⟩

end Sys2Proof.Machine

/-! ## O36: a governor sets the verdict

A governor is a control row that finds nothing in flight, so it takes its place at once (`controlEvent_atRow`), and a governor of this
module then is `govern` of its entry's sums: a hold that counts down, a verdict that stays, or a change with its hold and its record. A JOB
governor first adds its own sums, and `settleGovern` leaves it in flight for as long as a present rank's sums are missing; when the last
have come it completes it with the two trees over the ranks. No field of GW_STATUS changes on the way. -/

namespace Sys2Proof.Machine

/-! ### A control row takes its place -/

/-- A control row that waits for nothing takes effect where the sequencer stands. -/
theorem controlEvent_atRow {s : State} {r : ActiveRun} {w : Row} (h : AtRow s r w) {is : Row → Bool} (kind : is w = true)
    {wait : Row → State → Option Cause} (ready : wait w s = none) (dt : Nat) (eff : RowCtx → ActiveRun → State → State) :
    controlEvent is dt wait eff s = eff (issuing r w s) r (goesOnAt r r.next s) := by
  obtain ⟨held, flight, protWait, -⟩ := h.free
  obtain ⟨solo, sent, got⟩ := h.alone
  obtain ⟨-, -, -, -, waitCause⟩ := h.issuing
  have unstopped : stopCause s = none := by simp [stopCause, flight, protWait]
  have unsent : ({ s.pair with sent := none, got := s.pair.got.drop 1 } : Pair) = s.pair := by rw [got, List.drop_nil, ← sent, ← got]
  have unwaiting : ({ r with waitCause := none, gap := rowGap w } : ActiveRun) = { r with gap := rowGap w } := by rw [← waitCause]
  have standing : onRun (fun x => { x with waitCause := none, gap := rowGap w })
      { s with pair := { s.pair with sent := none, got := s.pair.got.drop 1 } } = goesOnAt r r.next s := by
    rw [unsent, goesOnAt, h.row, ← unwaiting, onRun, onSeq, h.run, Option.map_some]
  simp only [controlEvent, AtRow.active h, h.row, h.place, kind, held, unstopped, ready, solo, waitCause, chargeOpt, standing,
    decide_true, Bool.and_true, Bool.not_true, Bool.false_or, List.isEmpty_nil, Bool.false_eq_true, if_false]
  rfl

theorem governWait_atRow {s : State} {r : ActiveRun} {w : Row} (h : AtRow s r w) (noWatchWait : s.seq.watchWait = []) :
    governWait w s = none := by
  obtain ⟨-, flight, -, -⟩ := h.free
  simp [governWait, verdictHeld, flight, noWatchWait]

theorem exec_govern_atRow {s : State} {r : ActiveRun} {w : Row} (h : AtRow s r w) (kind : rowKind w = 7)
    (noWatchWait : s.seq.watchWait = []) (dt : Nat) :
    exec (.govern dt) s = .next (settled s (governEffect (issuing r w s) (goesOnAt r r.next s))) := by
  rw [exec, execGovern, event_holds rfl, controlEvent_atRow h (by simp [kind]) (governWait_atRow h noWatchWait)]

/-! ### The function of R89 -/

theorem contains_insertOnce (k : Nat) (l : List Nat) : (insertOnce k l).contains k = true := by
  unfold insertOnce; split <;> simp_all

/-- The register holds A4 exactly where 0 was set. -/
theorem setVerdict_contains_iff (k v : Nat) (s : State) : (setVerdict k v s).seq.a4.contains k = true ↔ v = 0 := by
  by_cases h : v = 0
  · simp only [setVerdict, h, onSeq_seq, if_true, contains_insertOnce]
  · simp [setVerdict, h]

/-- A verdict changes: the register, its hold, and the record PRECISION_CHANGE. -/
def changeVerdict (w : Row) (old new : Nat) (err en : F32) (s : State) : State :=
  pairEvent Code.precisionChange ([BitVec.ofNat 8 (gVerdict w), BitVec.ofNat 8 old, BitVec.ofNat 8 new] ++ leBytes 8 s.seq.step.toNat ++
    wordBytes err ++ wordBytes en)
    (onSeq (fun q => { q with hold := sput q.hold (gVerdict w) (gHold w) }) (setVerdict (gVerdict w) new s))

section
variable {w : Row} {err en : F32} {s : State}

theorem govern_of_hold (h : sget s.seq.hold (gVerdict w) 0 ≠ 0) : govern w err en s =
    onSeq (fun q => { q with hold := sput q.hold (gVerdict w) (sget s.seq.hold (gVerdict w) 0 - 1) }) s := if_pos h

theorem govern_of_same (h : sget s.seq.hold (gVerdict w) 0 = 0)
    (same : newVerdict w (verdictOf s (gVerdict w)) err en = verdictOf s (gVerdict w)) : govern w err en s = s := by
  simp only [govern, h, same, ne_eq, not_true, if_true, if_false]

theorem govern_of_change (h : sget s.seq.hold (gVerdict w) 0 = 0)
    (change : newVerdict w (verdictOf s (gVerdict w)) err en ≠ verdictOf s (gVerdict w)) : govern w err en s =
    changeVerdict w (verdictOf s (gVerdict w)) (newVerdict w (verdictOf s (gVerdict w)) err en) err en s := by
  simp only [govern, h, change, ne_eq, not_true, if_false]
  rfl

/-- A hold that counts down, a verdict that stays, or a change. -/
theorem govern_cases (w : Row) (err en : F32) (s : State) :
    sget s.seq.hold (gVerdict w) 0 ≠ 0 ∨
    (sget s.seq.hold (gVerdict w) 0 = 0 ∧ newVerdict w (verdictOf s (gVerdict w)) err en = verdictOf s (gVerdict w)) ∨
    (sget s.seq.hold (gVerdict w) 0 = 0 ∧ newVerdict w (verdictOf s (gVerdict w)) err en ≠ verdictOf s (gVerdict w)) := by
  tauto

end

/-- A record changes the recorder alone. -/
theorem pairEvent_eq (c : RecCode) (ps : List Byte) (s : State) : pairEvent c ps s = { s with log := (pairEvent c ps s).log } := by
  unfold pairEvent; split <;> rfl

section
variable (w : Row) (old new : Nat) (err en : F32) (s : State)

theorem changeVerdict_seq : (changeVerdict w old new err en s).seq =
    { (setVerdict (gVerdict w) new s).seq with hold := sput s.seq.hold (gVerdict w) (gHold w) } := pairEvent_seq _ _ _

theorem changeVerdict_eq : changeVerdict w old new err en s =
    { s with seq := (changeVerdict w old new err en s).seq, log := (changeVerdict w old new err en s).log } := by
  rw [changeVerdict_seq, changeVerdict, pairEvent_eq]; rfl

theorem changeVerdict_log {s : State} (solo : s.pair.role = .solo) : (changeVerdict w old new err en s).log =
    s.log.push (s.log.stamp Code.precisionChange 0 ([BitVec.ofNat 8 (gVerdict w), BitVec.ofNat 8 old, BitVec.ofNat 8 new] ++
      leBytes 8 s.seq.step.toNat ++ wordBytes err ++ wordBytes en)) := by
  simp only [changeVerdict, pairEvent, onSeq_pair, setVerdict, solo]; rfl

theorem changeVerdict_withJob (j : Job) :
    changeVerdict w old new err en { s with job := j } = { changeVerdict w old new err en s with job := j } := by
  cases h : s.pair.role <;> simp only [changeVerdict, pairEvent, onSeq_pair, setVerdict, h] <;> rfl

end

/-- What `govern` may change: verdicts, holds and the recorder. -/
theorem govern_eq (w : Row) (err en : F32) (s : State) : govern w err en s = { s with
    seq := { s.seq with a4 := (govern w err en s).seq.a4, hold := (govern w err en s).seq.hold }
    log := (govern w err en s).log } := by
  rcases govern_cases w err en s with held | ⟨free, same⟩ | ⟨free, change⟩
  · rw [govern_of_hold held]; rfl
  · rw [govern_of_same free same]
  · rw [govern_of_change free change, changeVerdict_eq, changeVerdict_seq]; rfl

@[simp] theorem gwStatus_govern (w : Row) (err en : F32) (s : State) : gwStatus (govern w err en s) = gwStatus s := by
  rw [govern_eq]; rfl

/-- The state of the job is neither read nor written. -/
theorem govern_withJob (w : Row) (err en : F32) (s : State) (j : Job) :
    govern w err en { s with job := j } = { govern w err en s with job := j } := by
  rcases govern_cases w err en s with held | ⟨free, same⟩ | ⟨free, change⟩
  · rw [govern_of_hold held]; exact govern_of_hold held
  · rw [govern_of_same free same]; exact govern_of_same free same
  · rw [govern_of_change free change]
    exact (govern_of_change (s := { s with job := j }) free change).trans (changeVerdict_withJob w _ _ err en s j)

/-! ### A governor of this module -/

/-- A governor of this module completes as it issues. -/
theorem exec_govern_local {s : State} {r : ActiveRun} {w : Row} (h : AtRow s r w) (kind : rowKind w = 7) (own : gJob w = false)
    (noWatchWait : s.seq.watchWait = []) (dt : Nat) :
    exec (.govern dt) s = .next (govern w (sget s.seq.watch (gWatch w) Watch.zero).err (sget s.seq.watch (gWatch w) Watch.zero).energy
      (goesOnAt r (r.next + 1) s)) := by
  have effect : governEffect (issuing r w s) (goesOnAt r r.next s) = govern w (sget s.seq.watch (gWatch w) Watch.zero).err
      (sget s.seq.watch (gWatch w) Watch.zero).energy (goesOnAt r (r.next + 1) s) := by
    simp only [governEffect, issuing, own, Bool.not_false, if_true]
    rfl
  rw [exec_govern_atRow h kind noWatchWait, effect]
  exact congrArg _ (settled_eq (gwStatus_govern _ _ _ (goesOnAt r (r.next + 1) s)))

theorem governRowSetsTheVerdict : Claims.GovernRowSetsTheVerdict := by
  intro s r w dt e old new h kind own noWatchWait solo entry oldVerdict verdict
  subst entry oldVerdict verdict
  have governed := exec_govern_local h kind own noWatchWait dt
  have run : (goesOnAt r (r.next + 1) s).seq.run = some { r with next := r.next + 1, gap := rowGap w } := by rw [goesOnAt, h.row]
  refine ⟨fun held => ?_, fun free same => ?_, fun free change => ⟨_, governed, ?_⟩⟩
  · rw [governed, govern_of_hold (s := goesOnAt r (r.next + 1) s) held, ← run]; rfl
  · rw [governed, govern_of_same (s := goesOnAt r (r.next + 1) s) free same]
  · rw [govern_of_change (s := goesOnAt r (r.next + 1) s) free change, changeVerdict_eq, changeVerdict_seq,
      changeVerdict_log (s := goesOnAt r (r.next + 1) s) _ _ _ _ _ solo]
    exact ⟨setVerdict_contains_iff _ _ _, rfl, rfl, run, rfl, rfl, rfl⟩

/-! ### JOB governors: sums of the ranks -/

/-- The sums of a rank come in after those there are. -/
def addSum (x : Nat × Nat × F32 × F32) (s : State) : State := { s with job := { s.job with sums := s.job.sums ++ [x] } }

theorem govern_addSum (w : Row) (err en : F32) (x : Nat × Nat × F32 × F32) (s : State) :
    govern w err en (addSum x s) = { govern w err en s with job := (addSum x s).job } := govern_withJob w err en s _

theorem sumOf_eq_none {s : State} {k : Nat} (h : ∀ x ∈ s.job.sums, x.2.1 ≠ k) : sumOf s k = none := by
  simp only [sumOf, Option.map_eq_none_iff, List.find?_eq_none]
  intro x hx
  simp [h x hx]

theorem sumOf_of_filter {s : State} {k : Nat} {v : F32 × F32}
    (h : s.job.sums.filter (fun y => y.1 = attemptNow s && y.2.1 = k) = [(attemptNow s, k, v)]) : sumOf s k = some v := by
  rw [sumOf, ← List.head?_filter, h]; rfl

theorem mem_presentRanks_of_otherMembers {s : State} {k : Nat} (h : k ∈ otherMembers s 0) : k ∈ presentRanks s ∧ k ≠ s.job.myRank := by
  simp only [otherMembers, groupRanks, if_true, List.mem_filter, Bool.and_eq_true, bne_iff_ne] at h
  obtain ⟨rank, other, present⟩ := h
  exact ⟨List.mem_filter.mpr ⟨rank, present⟩, other⟩

/-- A row leaves the flight of a run that goes on. -/
theorem leaveFlight_last {s : State} {f : Flight} {r : ActiveRun} (flight : s.seq.flight = [f]) (run : s.seq.run = some r)
    (going : r.halting = none) (staying : r.restartAt = none) : leaveFlight f.id s = onSeq (fun q => { q with flight := [] }) s := by
  have left : onSeq (fun q => { q with flight := q.flight.filter (fun h => h.id != f.id) }) s =
      onSeq (fun q => { q with flight := [] }) s := by simp [onSeq, flight]
  rw [leaveFlight, left]
  simp [settleHalt, run, going, staying]

/-! ### Settling a JOB governor, R90 -/

theorem settleGovern_of_noGovernor {s : State} (h : ∀ f ∈ s.seq.flight, f.stage ≠ .govern) : settleGovern s = s := by
  have unfound : s.seq.flight.find? (fun f => f.stage = .govern) = none := by simpa using h
  rw [settleGovern]
  cases s.seq.flight.length with
  | zero => rfl
  | succ n => rw [settleGovernors, unfound]

section
variable {s : State} {f : Flight} (flight : s.seq.flight = [f]) (stage : f.stage = .govern)
include flight stage

theorem settleGovern_of_missing {k : Nat} (present : k ∈ presentRanks s) (missing : sumOf s k = none) : settleGovern s = s := by
  have incomplete : ((presentRanks s).all fun p => (sumOf s p).isSome) = false := List.all_eq_false.mpr ⟨k, present, by simp [missing]⟩
  simp [settleGovern, settleGovernors, flight, stage, incomplete]

theorem settleGovern_of_complete (complete : ∀ k ∈ presentRanks s, (sumOf s k).isSome = true) : settleGovern s = finishGovern f s := by
  have all : ((presentRanks s).all fun p => (sumOf s p).isSome) = true := List.all_eq_true.mpr complete
  simp [settleGovern, settleGovernors, flight, stage, all]

end

/-- A sum of one value of every present rank in the canonical tree over the job's ranks. -/
def rankSum (s : State) (v : Nat → F32) : F32 :=
  (canonP ((List.range s.job.ranks).map (fun k => if rankPresent (rankEntry s k) then some (fr (v k)) else none))).1

theorem rankSum_of_sumOf {s : State} {x : Nat → F32 × F32} (sums : ∀ k ∈ presentRanks s, sumOf s k = some (x k)) (g : F32 × F32 → F32) :
    (canonP ((List.range s.job.ranks).map (fun p => if rankPresent (rankEntry s p) then (sumOf s p).map (fun v => fr (g v)) else none))).1 =
      rankSum s (fun k => g (x k)) := by
  refine congrArg (fun l => (canonP l).1) (List.map_congr_left fun p hp => ?_)
  split
  · next present => rw [sums p (List.mem_filter.mpr ⟨hp, present⟩)]; rfl
  · rfl

theorem finishGovern_eq {s : State} {f : Flight} {r : ActiveRun} {x : Nat → F32 × F32} (flight : s.seq.flight = [f])
    (run : s.seq.run = some r) (going : r.halting = none) (staying : r.restartAt = none)
    (sums : ∀ k ∈ presentRanks s, sumOf s k = some (x k)) :
    finishGovern f s = onSeq (fun q => { q with flight := [] })
      { govern f.bits (rankSum s fun k => (x k).1) (rankSum s fun k => (x k).2) s with job := { s.job with sums := dropSums s } } := by
  simp only [finishGovern, rankSum_of_sumOf sums, govern_withJob]
  refine leaveFlight_last ?_ ?_ going staying
  · rw [govern_eq]; exact flight
  · rw [govern_eq]; exact run

/-! ### A JOB governor issues -/

/-- A control row of a run that goes on stays in flight. -/
theorem controlFlight_going {c : RowCtx} {stage : Stage} {s : State} {r : ActiveRun} (run : s.seq.run = some r)
    (going : r.halting = none) : controlFlight c stage s =
      onSeq (fun q => { q with nextId := q.nextId + 1, flight := q.flight ++ [inFlight c stage 0 []] }) s := by
  simp only [controlFlight, addFlight, onSeq_seq, run, Option.any_some, going, Option.isNone_none, if_true]
  rfl

/-- This module's sums for a JOB governor: those of the watch entry that the row names. -/
def ownSums (r : ActiveRun) (w : Row) (s : State) : Nat × Nat × F32 × F32 :=
  (r.attempt, s.job.myRank, (sget s.seq.watch (gWatch w) Watch.zero).err, (sget s.seq.watch (gWatch w) Watch.zero).energy)

/-- The state in which a JOB governor waits for the other ranks: its own sums are in and it is in flight. -/
def awaitSums (r : ActiveRun) (w : Row) (s : State) : State :=
  onSeq (fun q => { q with nextId := q.nextId + 1, flight := q.flight ++ [inFlight (issuing r w s) .govern 0 []] })
    (addSum (ownSums r w s) (goesOnAt r (r.next + 1) s))

/-- A module that is not the secondary half of a pair sends its sums to the other ranks. -/
def tellSums (x : Nat × Nat × F32 × F32) (s : State) : State :=
  if s.pair.role = .secondary then s
  else sendGroup 0 none (.govern x.2.1 x.2.2.1 x.2.2.2 s.seq.step (attemptNow s)) s

theorem tellSums_routed {s : State} (solo : s.pair.role = .solo)
    (routed : ∀ k ∈ otherMembers s 0, (nextHop s (myNode s) (rankNode (rankEntry s k)) none).isSome = true) (x : Nat × Nat × F32 × F32) :
    ∃ fab, tellSums x s = { s with fab := fab } := by
  rw [tellSums, if_neg (by simp [solo])]
  exact foldl_send_routed _ _ s routed

theorem governEffect_job {r : ActiveRun} {w : Row} (going : r.halting = none) (job : gJob w = true) (s : State) :
    governEffect (issuing r w s) (goesOnAt r r.next s) = settleGovern (tellSums (ownSums r w s) (awaitSums r w s)) := by
  have waiting : controlFlight (issuing r w s) .govern (addSum (ownSums r w s) (goesOnAt r (r.next + 1) s)) = awaitSums r w s :=
    controlFlight_going rfl going
  rw [governEffect, if_neg (by simp [issuing, job])]
  exact congrArg (fun u => settleGovern (tellSums (ownSums r w s) u)) waiting

/-- A JOB governor waits for every other present rank. -/
theorem exec_govern_job {s : State} {r : ActiveRun} {w : Row} {k : Nat} (h : AtRow s r w) (kind : rowKind w = 7) (job : gJob w = true)
    (solo : s.pair.role = .solo) (noWatchWait : s.seq.watchWait = [])
    (routed : ∀ j ∈ otherMembers s 0, (nextHop s (myNode s) (rankNode (rankEntry s j)) none).isSome = true)
    (unheard : s.job.sums = []) (other : k ∈ otherMembers s 0) (dt : Nat) :
    ∃ fab, exec (.govern dt) s = .next { awaitSums r w s with fab := fab } := by
  obtain ⟨-, going, -⟩ := h.issuing
  obtain ⟨-, flight, -, -⟩ := h.free
  obtain ⟨present, notMe⟩ := mem_presentRanks_of_otherMembers other
  obtain ⟨fab, sent⟩ := tellSums_routed (s := awaitSums r w s) solo routed (ownSums r w s)
  refine ⟨fab, ?_⟩
  have missing : sumOf { awaitSums r w s with fab := fab } k = none := sumOf_eq_none fun x hx => by
    have own : x ∈ s.job.sums ++ [ownSums r w s] := hx
    rw [unheard, List.nil_append, List.mem_singleton] at own
    exact own ▸ notMe.symm
  have here : (awaitSums r w s).seq.flight = [inFlight (issuing r w s) .govern 0 []] := by simp [awaitSums, addSum, goesOnAt, flight]
  have waiting : settleGovern { awaitSums r w s with fab := fab } = { awaitSums r w s with fab := fab } :=
    settleGovern_of_missing here rfl present missing
  rw [exec_govern_atRow h kind noWatchWait, governEffect_job going job, sent, waiting]
  exact congrArg _ (settled_eq rfl)

/-! ### The sums of a rank arrive -/

theorem governSum_of_older {s : State} {step : BitVec 48} {attempt : Nat} (h : older s step attempt = true) (position : Nat)
    (err en : F32) : governSum position err en step attempt s = s := if_pos h

theorem governSum_of_current {s : State} {step : BitVec 48} {attempt : Nat} (h : older s step attempt = false)
    (solo : s.pair.role = .solo) (position : Nat) (err en : F32) :
    governSum position err en step attempt s = settleGovern (addSum (attempt, position, err, en) s) := by
  simp only [governSum, h, Bool.false_eq_true, if_false, echo, solo]
  rfl

theorem older_of_earlier {s : State} {step : BitVec 48} (h : step.toNat < s.seq.step.toNat) (attempt : Nat) :
    older s step attempt = true := by
  simp [older, h]

theorem older_of_later {s : State} {step : BitVec 48} (h : s.seq.step.toNat < step.toNat) (attempt : Nat) :
    older s step attempt = false := by
  have other : step ≠ s.seq.step := fun e => by rw [e] at h; exact lt_irrefl _ h
  simp [older, other, h.le]

theorem older_of_now (s : State) : older s s.seq.step (attemptNow s) = false := by simp [older]

theorem exec_governSum {s : State} (started : s.job.started = true) (position : Nat) (err en : F32) (step : BitVec 48) (attempt : Nat) :
    exec (.governSum position err en step attempt) s = .next (settled s (governSum position err en step attempt s)) :=
  event_holds started _ s

/-- The last sums complete the governor in flight. -/
theorem exec_governSum_completes {s : State} {f : Flight} {r : ActiveRun} {x : Nat → F32 × F32} {position : Nat} {err en : F32}
    (solo : s.pair.role = .solo) (started : s.job.started = true) (flight : s.seq.flight = [f]) (stage : f.stage = .govern)
    (run : s.seq.run = some r) (going : r.halting = none) (staying : r.restartAt = none)
    (heard : ∀ k ∈ presentRanks s, (s.job.sums ++ [(r.attempt, position, err, en)]).filter (fun y => y.1 = r.attempt && y.2.1 = k) =
      [(r.attempt, k, (x k).1, (x k).2)]) :
    ∃ j, exec (.governSum position err en s.seq.step r.attempt) s = .next (onSeq (fun q => { q with flight := [] })
      { govern f.bits (rankSum s fun k => (x k).1) (rankSum s fun k => (x k).2) s with job := j }) := by
  have now : attemptNow s = r.attempt := by simp [attemptNow, run]
  have sums : ∀ k ∈ presentRanks s, sumOf (addSum (r.attempt, position, err, en) s) k = some (x k) :=
    fun k hk => sumOf_of_filter (by rw [show attemptNow (addSum _ s) = r.attempt from now]; exact heard k hk)
  have effect : governSum position err en s.seq.step r.attempt s = finishGovern f (addSum (r.attempt, position, err, en) s) := by
    rw [governSum_of_current (now ▸ older_of_now s) solo]
    exact settleGovern_of_complete flight stage fun k hk => by rw [sums k hk]; rfl
  have finished := finishGovern_eq (s := addSum (r.attempt, position, err, en) s) flight run going staying sums
  rw [govern_addSum] at finished
  refine ⟨{ s.job with sums := dropSums (addSum (r.attempt, position, err, en) s) }, ?_⟩
  rw [exec_governSum started, effect, finished]
  exact congrArg _ (settled_eq (by rw [govern_eq]; rfl))

theorem jobGovernorSumsEveryRank : Claims.JobGovernorSumsEveryRank := by
  intro s solo started
  refine ⟨fun r w dt k h kind job noWatchWait routed unheard other => ?_, fun position err en step attempt => ⟨?_, ?_, ?_⟩⟩
  · obtain ⟨fab, done⟩ := exec_govern_job h kind job solo noWatchWait routed unheard other dt
    obtain ⟨-, flight, -, -⟩ := h.free
    refine ⟨_, done, ?_, ?_, rfl, rfl, rfl⟩
    · simp only [awaitSums, onSeq, addSum, goesOnAt, h.row, flight, List.nil_append]
    · simp only [awaitSums, onSeq, addSum, ownSums, goesOnAt, unheard, List.nil_append]
  · intro earlier
    rw [exec_governSum started, governSum_of_older (older_of_earlier earlier attempt), settled_self]
  · intro later noGovernor
    rw [exec_governSum started, governSum_of_current (older_of_later later attempt) solo,
      settleGovern_of_noGovernor (s := addSum _ s) noGovernor]
    exact congrArg _ (settled_eq rfl)
  · rintro f r x E N flight stage run going staying rfl rfl heard rfl rfl
    obtain ⟨j, done⟩ := exec_governSum_completes solo started flight stage run going staying heard
    refine ⟨_, done, rfl, rfl, ?_, ?_, ?_⟩ <;> rw [govern_eq] <;> rfl

/-- Settles O36: a governor of this module by the cases of `govern`, a JOB governor by what it waits for. -/
theorem governorsSetTheVerdict : Obligations.GovernorsSetTheVerdict := ⟨governRowSetsTheVerdict, jobGovernorSumsEveryRank⟩

end Sys2Proof.Machine

/-! ## O59: the reset state has the values of the spec and the canonical form -/

namespace Sys2Proof.Machine

/-- All seven ports of the module as it leaves manufacture, and all its regions, are in their reset state. -/
theorem region_reset (r : Nat) : region State.reset r = Region.reset := by
  by_cases h : r < 64
  · exact List.getD_replicate _ h
  · exact List.getD_eq_default _ _ (by simpa [State.reset] using h)

theorem port_reset (p : Nat) : port State.reset p = Port.reset := by
  by_cases h : p < 7
  · exact List.getD_replicate _ h
  · exact List.getD_eq_default _ _ (by simpa [State.reset, Fabric.reset] using h)

theorem resetIsCanonical : Claims.ResetIsCanonical := ⟨rfl, rfl, rfl, rfl, rfl, rfl, rfl⟩

/-- A module that leaves manufacture shows no bit of GW_STATUS. -/
theorem gwStatus_reset : gwStatus State.reset = 0 := by decide +kernel

theorem resetState : Claims.ResetState := by
  refine ⟨rfl, rfl, rfl, rfl, rfl, rfl, rfl, rfl, rfl, rfl, rfl, rfl, rfl, rfl, rfl, fun r _ => ?_, fun p _ => ?_, rfl, rfl, rfl, rfl,
    gwStatus_reset⟩
  · rw [region_reset]; exact ⟨rfl, rfl⟩
  · rw [port_reset]; rfl

/-- Settles O59: every register of the state after manufacture is a constant of `State.reset`. -/
theorem resetLeavesTheStatedValues : Obligations.ResetLeavesTheStatedValues := ⟨resetIsCanonical, resetState⟩

end Sys2Proof.Machine

/-! ## O33: NOP, LOOP, ENDLOOP and NOTIFY rows

Each of these rows takes its place at once (`controlEvent_atRow`), and what it then does changes registers of the sequencer alone, or for
a NOTIFY also the entries held for the ring: no field of GW_STATUS. -/

namespace Sys2Proof.Machine

/-- A control row's command has the effect of the row where no register shows it. -/
theorem exec_controlRow {s : State} {r : ActiveRun} {w : Row} (h : AtRow s r w) {i : Instr} {is : Row → Bool} {dt : Nat}
    {wait : Row → State → Option Cause} {eff : RowCtx → ActiveRun → State → State}
    (arm : exec i s = event true (controlEvent is dt wait eff) s) (kind : is w = true) (ready : wait w s = none)
    (status : gwStatus (eff (issuing r w s) r (goesOnAt r r.next s)) = gwStatus s) :
    exec i s = .next (eff (issuing r w s) r (goesOnAt r r.next s)) := by
  rw [arm, event_holds rfl, controlEvent_atRow h kind ready, settled_eq status]

theorem goesOnAt_eq {s : State} {r : ActiveRun} {w : Row} (h : AtRow s r w) (k : Nat) :
    goesOnAt r k s = { s with seq := { s.seq with run := some { r with next := k, gap := rowGap w } } } := by rw [goesOnAt, h.row]

theorem endloopEffect_last {c : RowCtx} {s : State} (h : sget s.seq.loops (lReg c.bits) 0 ≤ 1) :
    endloopEffect c s = pastRow c (onSeq (fun q => { q with loops := sdel q.loops (lReg c.bits) }) s) :=
  if_pos (Nat.sub_eq_zero_of_le h)

theorem endloopEffect_again {c : RowCtx} {s : State} (h : 1 < sget s.seq.loops (lReg c.bits) 0) :
    endloopEffect c s = setNext (lMate c.bits + 1)
      (onSeq (fun q => { q with loops := sput q.loops (lReg c.bits) (sget s.seq.loops (lReg c.bits) 0 - 1) }) s) :=
  if_neg (Nat.sub_ne_zero_of_lt h)

theorem nopAndLoopRows : Claims.NopAndLoopRows := by
  intro s r w dt h
  refine ⟨fun kind => ?_, fun kind => ?_, fun kind last => ?_, fun kind again => ?_⟩
  · exact exec_controlRow (i := .nop dt) h rfl (by simp [kind]) rfl rfl
  · rw [exec_controlRow (i := .loop dt) h rfl (by simp [kind]) rfl rfl, goesOnAt_eq h]; rfl
  · have effect := endloopEffect_last (c := issuing r w s) (s := goesOnAt r r.next s) last
    rw [exec_controlRow (i := .endloop dt) h rfl (by simp [kind]) rfl (by rw [effect]; rfl), effect, goesOnAt_eq h]; rfl
  · have effect := endloopEffect_again (c := issuing r w s) (s := goesOnAt r r.next s) again
    rw [exec_controlRow (i := .endloop dt) h rfl (by simp [kind]) rfl (by rw [effect]; rfl), effect, goesOnAt_eq h]; rfl

theorem not_secondary_of_alone {s : State} (alone : inPair s = false) : s.pair.role ≠ .secondary := by
  simp only [inPair, Bool.or_eq_false_iff, decide_eq_false_iff_not] at alone
  exact alone.2

/-- Outside a pair the entry is held for the ring and the row is in flight. -/
theorem notifyEffect_alone {s : State} {r : ActiveRun} (alone : inPair s = false) (going : r.halting = none) (w : Row) :
    notifyEffect (issuing r w s) r (goesOnAt r r.next s) =
      onSeq (fun q => { q with nextId := q.nextId + 1, flight := q.flight ++ [inFlight (issuing r w s) .notify 0 []] })
        (hold { tag := 0xFFFF, kind := 1, status := Status.ok, raddr := BitVec.ofNat 64 r.req.sid.toNat,
                reply := notifyText s (issuing r w s) } (goesOnAt r (r.next + 1) s)) := by
  exact (if_neg (not_secondary_of_alone alone)).trans (controlFlight_going rfl going)

theorem notifyRowHoldsAnEntry : Claims.NotifyRowHoldsAnEntry := by
  intro s r w dt h kind
  obtain ⟨alone, -, -⟩ := h.alone
  obtain ⟨-, going, -⟩ := h.issuing
  obtain ⟨-, flight, -, -⟩ := h.free
  have effect := notifyEffect_alone alone going w
  have done := exec_controlRow (i := .notify dt) h rfl (by simp [kind]) rfl (by rw [effect]; rfl)
  rw [effect, goesOnAt_eq h] at done
  refine ⟨_, done, rfl, ?_, rfl⟩
  simp [flight, onSeq, hold]

/-- Settles O33: the rows' effects at the row where the sequencer stands. -/
theorem nopLoopAndNotify : Obligations.NopLoopAndNotify := ⟨nopAndLoopRows, notifyRowHoldsAnEntry⟩

end Sys2Proof.Machine

/-! ## O34: BRANCH goes where its condition says

With nothing in flight no condition waits, so the BRANCH takes its place at once and tests. -/

namespace Sys2Proof.Machine

theorem condWait_atRow {s : State} {r : ActiveRun} {w : Row} (h : AtRow s r w) : condWait w s = none := by
  obtain ⟨-, flight, -, -⟩ := h.free
  unfold condWait
  split <;> simp [verdictHeld, flight]

/-- The test, the clearing of the register tested, and the place where issue goes on. -/
theorem branchEffect_atRow (r : ActiveRun) (w : Row) (s : State) : branchEffect (issuing r w s) (goesOnAt r r.next s) =
    onSeq (fun q => { q with flags := if bClr w then sdel q.flags (bArg0 w) else q.flags })
      (goesOnAt r (if condHolds s w then bTarget w else r.next + 1) s) := by
  cases clear : bClr w <;> simp only [branchEffect, afterTest, issuing, clear] <;> rfl

theorem branchRow : Claims.BranchRow := by
  intro s r w dt h kind
  have effect := branchEffect_atRow r w s
  rw [exec_controlRow (i := .branch dt) h rfl (by simp [kind]) (condWait_atRow h) (by rw [effect]; rfl), effect, goesOnAt_eq h]
  rfl

theorem conditionsTestTheirState : Claims.ConditionsTestTheirState := by
  intro s w
  refine ⟨fun always => ?_, fun verdict => ?_, fun other => ?_, fun anyFlag => ?_, fun noFlag => ?_, fun drift => ?_, fun steady => ?_,
    fun stepMod => ?_, fun relaxed => ?_⟩
  · simp [condHolds, always]
  · simp only [condHolds, verdict, decide_eq_true_eq]; exact eq_comm
  · simp only [condHolds, other, bne_iff_ne]; exact ne_comm
  · simp [condHolds, anyFlag, flagsOf]
  · simp only [condHolds, noFlag]; exact decide_eq_true_iff
  · simp [condHolds, drift]
  · simp [condHolds, steady]
  · simp [condHolds, stepMod]
  · simp [condHolds, relaxed]

/-- Settles O34: the effect of a BRANCH that waits for nothing, and Table 07-7 condition by condition. -/
theorem branchesTestConditions : Obligations.BranchesTestConditions := ⟨branchRow, conditionsTestTheirState⟩

end Sys2Proof.Machine

/-! ## O32: a row that is done leaves flight and its flags enter their register -/

namespace Sys2Proof.Machine

theorem orFreg_eq (w : Row) (flags : BitVec 8) (s : State) : orFreg w flags s = onSeq (fun q => { q with
    flags := if rowFreg w = 0 then q.flags else sput q.flags (rowFreg w) (sget q.flags (rowFreg w) 0 ||| flags) }) s := by
  by_cases h : rowFreg w = 0 <;> simp only [orFreg, h, onSeq, if_true, if_false]

/-- Only the list of kept copies may grow. -/
theorem keepCopy_eq (w : Row) (s : State) : ∃ l, keepCopy w s = onSeq (fun q => { q with copies := l }) s := by
  by_cases h : rowKind w = 4
  · exact ⟨(keepCopy w s).seq.copies, by simp only [keepCopy, h, onSeq, if_true]⟩
  · exact ⟨s.seq.copies, if_neg h⟩

theorem settleWatch_of_none {s : State} (h : s.seq.watchWait = []) : settleWatch s = s := by rw [settleWatch, h]; rfl

/-- A run that neither halts nor restarts goes on. -/
theorem settleHalt_going {s : State} {r : ActiveRun} (run : s.seq.run = some r) (going : r.halting = none)
    (staying : r.restartAt = none) : settleHalt s = s := by
  simp [settleHalt, run, going, staying]

/-- A row without a watch contribution leaves the flight of a run that goes on: its flags are all that it brings. -/
theorem finishRow_going {f : Flight} {s : State} {r : ActiveRun} (noWatch : f.watch = []) (noWait : s.seq.watchWait = [])
    (run : s.seq.run = some r) (going : r.halting = none) (staying : r.restartAt = none) :
    finishRow f none s = keepCopy f.bits (orFreg f.bits f.flags
      (onSeq (fun q => { q with flight := q.flight.filter (fun g => g.id != f.id) }) s)) := by
  have noFlags : f.flags ||| (0 : BitVec 8) = f.flags := BitVec.or_zero
  have noAdds : ∀ u : State,
      onSeq (fun q => { q with watchWait := q.watchWait ++ (joinWatch u f.watch none).map (fun a => (f.id, false, a)) }) u = u := by
    intro u
    simp only [onSeq, noWatch, joinWatch, List.map_nil, List.append_nil]
  simp only [finishRow, Option.map_none, Option.getD_none, Option.bind_none, noFlags, noAdds]
  obtain ⟨l, kept⟩ := keepCopy_eq f.bits (orFreg f.bits f.flags
    (onSeq (fun q => { q with flight := q.flight.filter (fun g => g.id != f.id) }) s))
  rw [kept, orFreg_eq, settleWatch_of_none (by exact noWait), settleHalt_going (by exact run) going staying]

theorem completeRow_alone {s : State} (alone : inPair s = false) (f : Flight) : completeRow f s = finishRow f none s :=
  if_pos (by simp [alone])

section
variable {s : State} {place : Nat}

theorem exec_rowComplete_empty (h : s.seq.flight[place]? = none) : exec (.rowComplete place) s = .next s := by
  rw [exec, execRowComplete, event_holds rfl, rowComplete, h]
  exact congrArg _ (settled_self s)

theorem exec_rowComplete_waits {f : Flight} (h : s.seq.flight[place]? = some f) (stage : f.stage = .done)
    (waiting : awaitsAck s f.id = true ∨ sliceBefore s f = true) : exec (.rowComplete place) s = .next s := by
  have stays : rowComplete place s = s := by rcases waiting with w | w <;> simp [rowComplete, h, stage, w]
  rw [exec, execRowComplete, event_holds rfl, stays, settled_self]

theorem exec_rowComplete_done {f : Flight} (h : s.seq.flight[place]? = some f) (stage : f.stage = .done)
    (acked : awaitsAck s f.id = false) (first : sliceBefore s f = false) (alone : inPair s = false) :
    exec (.rowComplete place) s = .next (settled s (finishRow f none s)) := by
  have completes : rowComplete place s = completeRow f s := by simp [rowComplete, h, stage, acked, first]
  rw [exec, execRowComplete, event_holds rfl, completes, completeRow_alone alone]

end

/-- Settles O32: what `finishRow` leaves of a run that goes on. -/
theorem rowCompletionTakesTheFlags : Obligations.RowCompletionTakesTheFlags := by
  intro s place
  refine ⟨exec_rowComplete_empty, ?_, fun f h stage => exec_rowComplete_waits h stage⟩
  intro f r h stage acked first alone noWatch noWait run going staying
  have done := exec_rowComplete_done h stage acked first alone
  obtain ⟨l, kept⟩ := keepCopy_eq f.bits (orFreg f.bits f.flags
    (onSeq (fun q => { q with flight := q.flight.filter (fun g => g.id != f.id) }) s))
  rw [finishRow_going noWatch noWait run going staying, kept, orFreg_eq, settled_eq (by rfl)] at done
  exact ⟨_, done, rfl, rfl, rfl, rfl, rfl, rfl, rfl, rfl⟩

end Sys2Proof.Machine

/-! ## O30: data rows issue in path order

Every data command considers the row of its kind where the sequencer stands (`exec_dataRow`). With no row held it is that row or none
(`dataEvent_path`): with 64 rows in flight it waits there, else it takes its place, and is held for a region that is not clocked or issues. -/

namespace Sys2Proof.Machine

/-- A data command is `dataEvent` of its rows and its effect. -/
theorem exec_dataRow {c : Instr} {is : Row → Bool} {eff : RowCtx → State → State} (h : Claims.dataRow c = some (is, eff)) :
    ∃ dt, ∀ s, exec c s = event true (dataEvent is dt eff) s := by
  unfold Claims.dataRow at h
  split at h
  case h_19 => cases h
  all_goals
    obtain ⟨rfl, rfl⟩ := Prod.mk.injEq .. ▸ Option.some.inj h
    exact ⟨_, fun _ => rfl⟩

/-- Time that passes for rows that fetch again shows in the module's stall counters alone. -/
theorem chargeRefetch_eq (is : Row → Bool) (dt : Nat) (s : State) :
    ∃ m, chargeRefetch is dt s = onSeq (fun q => { q with stallM := m }) s := by
  unfold chargeRefetch; split <;> exact ⟨_, rfl⟩

theorem chargeRefetch_of_idle {s : State} (idle : s.seq.flight = []) (is : Row → Bool) (dt : Nat) : chargeRefetch is dt s = s := by
  simp [chargeRefetch, idle]

/-- With no row held the path row is considered, if it is of the command's kind. -/
theorem dataEvent_path {s : State} {r : ActiveRun} (active : activeNow s = some r) (held : s.seq.held = []) (is : Row → Bool) (dt : Nat)
    (eff : RowCtx → State → State) : dataEvent is dt eff s =
      if decide (r.next < (slotOf s r.slot).rows.length) && isData (rowAt s r.slot r.next) && is (rowAt s r.slot r.next) then
        pathData r (rowAt s r.slot r.next) dt eff (chargeRefetch is dt s)
      else chargeRefetch is dt s := by
  obtain ⟨m, charged⟩ := chargeRefetch_eq is dt s
  have active' : activeNow (onSeq (fun q => { q with stallM := m }) s) = some r := active
  have noneHeld : heldOf is (onSeq (fun q => { q with stallM := m }) s) = [] := by simp [heldOf, held]
  simp only [dataEvent, charged, active', noneHeld, List.find?_nil]
  rfl

section
variable {s : State} {r : ActiveRun} {w : Row} (h : AtRow s r w)
include h

theorem stopCause_atRow : stopCause s = none := by
  obtain ⟨-, flight, protWait, -⟩ := h.free
  simp [stopCause, flight, protWait]

theorem takePath_atRow : takePath r w s = (issuing r w s, pastIssue r s) := by
  simp only [takePath, issuing, pastIssue, onSeq, h.run, h.row, Option.map_some]

/-- A row that something holds is held at its place, and issue goes on past it. -/
theorem pathData_blocked {c : Cause} (blocked : blockCause (pastIssue r s) w s.seq.nextId [] = some c) (dt : Nat)
    (eff : RowCtx → State → State) : pathData r w dt eff s = onSeq (fun q => { q with held :=
      [{ id := s.seq.nextId, row := r.next, bits := w, issue := sget s.seq.issues r.next 0, cause := c }] }) (pastIssue r s) := by
  obtain ⟨held, -, -, -⟩ := h.free
  obtain ⟨-, -, -, -, waitCause⟩ := h.issuing
  have held' : (pastIssue r s).seq.held = [] := held
  simp only [pathData, stopCause_atRow h, waitCause, chargeOpt, takePath_atRow h, issuing, held', blocked, onSeq, List.nil_append]

theorem pathData_issues (free : blockCause (pastIssue r s) w s.seq.nextId [] = none) (dt : Nat) (eff : RowCtx → State → State) :
    pathData r w dt eff s = issueRow (issuing r w s) eff (pastIssue r s) := by
  obtain ⟨held, flight, -, -⟩ := h.free
  obtain ⟨-, -, -, -, waitCause⟩ := h.issuing
  have held' : (pastIssue r s).seq.held = [] := held
  have unbusy : busyCause s w = none := by simp [busyCause, flight]
  simp only [pathData, stopCause_atRow h, waitCause, chargeOpt, takePath_atRow h, issuing, held', free, unbusy, Option.isNone_none,
    if_true]

theorem dataEvent_atRow {is : Row → Bool} (kind : is w = true) (data : isData w = true) (dt : Nat) (eff : RowCtx → State → State) :
    dataEvent is dt eff s = pathData r w dt eff s := by
  obtain ⟨held, flight, -, -⟩ := h.free
  simp [dataEvent_path (AtRow.active h) held, h.place, h.row, chargeRefetch_of_idle flight, kind, data]

theorem dataEvent_otherRow {is : Row → Bool} (other : is w = false) (dt : Nat) (eff : RowCtx → State → State) :
    dataEvent is dt eff s = s := by
  obtain ⟨held, flight, -, -⟩ := h.free
  simp [dataEvent_path (AtRow.active h) held, h.row, chargeRefetch_of_idle flight, other]

/-- The rows before it being complete, a row can wait for its regions, a drain, the host window and its links alone. -/
theorem blockCause_atRow (here : executes s w = true) (unsealed : s.trust.sealing = false) : blockCause (pastIssue r s) w s.seq.nextId [] =
    if (setList (rowRset w)).any (fun k => (region s k).clock != .ready) then some Cause.regionWake
    else if drainWait s w then some Cause.drain
    else if hostWait s w then some Cause.host
    else if linkWait s w then some Cause.linkWake
    else none := by
  obtain ⟨-, flight, -, -⟩ := h.free
  have here' : executes (pastIssue r s) w = true := here
  have unsealed' : (pastIssue r s).trust.sealing = false := unsealed
  have flight' : (pastIssue r s).seq.flight = [] := flight
  simp only [blockCause, here', unsealed', flight', List.any_nil, Bool.or_false, Bool.and_false, Bool.false_and, Bool.not_true,
    Bool.false_eq_true, if_false]
  rfl

theorem issueRow_atRow (here : executes s w = true) (eff : RowCtx → State → State) :
    issueRow (issuing r w s) eff (pastIssue r s) = eff (issuing r w s) (pastIssue r s) := by
  obtain ⟨-, -, -, copies⟩ := h.free
  have unnoted : noteWrites w (pastIssue r s) = pastIssue r s := if_pos (by simp [pastIssue, copies])
  have here' : executes (pastIssue r s) w = true := here
  simp only [issueRow, issuing, unnoted, here', if_true]

end

theorem blockCause_of_unblocked {s : State} {r : ActiveRun} {w : Row} (h : AtRow s r w) (free : Unblocked s w) :
    blockCause (pastIssue r s) w s.seq.nextId [] = none := by
  have clocked : (setList (rowRset w)).any (fun k => (region s k).clock != .ready) = false := by
    simpa using free.clocked
  rw [blockCause_atRow h free.here free.unsealed]
  simp [clocked, free.drained, free.hosts, free.links]

theorem dataRowIssuesInPathOrder : Claims.DataRowIssuesInPathOrder := by
  intro s r w c is eff h hc
  obtain ⟨dt, arm⟩ := exec_dataRow hc
  refine ⟨fun kind data free => ?_, fun other => ?_⟩
  · rw [arm, event_holds rfl, dataEvent_atRow h kind data, pathData_issues h (blockCause_of_unblocked h free)]
    exact congrArg (fun t => Host.Outcome.next (settled s t)) (issueRow_atRow h free.here eff)
  · rw [arm, event_holds rfl, dataEvent_otherRow h other, settled_self]

theorem dataRowWaitsForItsRegions : Claims.DataRowWaitsForItsRegions := by
  intro s r w c is eff h hc kind data here unsealed asleep
  obtain ⟨dt, arm⟩ := exec_dataRow hc
  have blocked : blockCause (pastIssue r s) w s.seq.nextId [] = some Cause.regionWake := by
    rw [blockCause_atRow h here unsealed]
    exact if_pos (by simpa using asleep)
  rw [arm, event_holds rfl, dataEvent_atRow h kind data, pathData_blocked h blocked]
  exact congrArg _ (settled_eq rfl)

theorem stopCause_full {s : State} (h : 64 ≤ s.seq.flight.length) : stopCause s = some Cause.issueDepth := if_pos h

theorem pathData_full {s : State} (h : 64 ≤ s.seq.flight.length) (r : ActiveRun) (w : Row) (dt : Nat) (eff : RowCtx → State → State) :
    pathData r w dt eff s = waitHere Cause.issueDepth w dt s := by
  rw [pathData, stopCause_full h]

theorem sixtyFourRowsInFlight : Claims.SixtyFourRowsInFlight := by
  intro s r c is eff active held place full hc kind data
  obtain ⟨dt, arm⟩ := exec_dataRow hc
  obtain ⟨run, -⟩ := activeNow_some active
  obtain ⟨m, charged⟩ := chargeRefetch_eq is dt s
  have waits : dataEvent is dt eff s =
      waitHere Cause.issueDepth (rowAt s r.slot r.next) dt (onSeq (fun q => { q with stallM := m }) s) := by
    rw [dataEvent_path active held, if_pos (by simp [place, data, kind]), charged, pathData_full (by exact full)]
  have done : exec c s = .next (waitHere Cause.issueDepth (rowAt s r.slot r.next) dt (onSeq (fun q => { q with stallM := m }) s)) := by
    rw [arm, event_holds rfl, waits]
    exact congrArg _ (settled_eq rfl)
  refine ⟨_, done, ?_, rfl, rfl, rfl, rfl, rfl, rfl⟩
  exact congrArg (Option.map fun x : ActiveRun => { x with waitCause := some Cause.issueDepth }) run

/-- Settles O30: a data row at the sequencer's place issues, is held or waits. -/
theorem dataRowsIssueInPathOrder : Obligations.DataRowsIssueInPathOrder :=
  ⟨dataRowIssuesInPathOrder, dataRowWaitsForItsRegions, sixtyFourRowsInFlight⟩

end Sys2Proof.Machine

/-! ## O50: regions wake, gate, are fenced and return

A region's clock, step and retest are no part of GW_STATUS, and its mode shows in it only as REGION-ON-SLIPWAY; outside a pair nobody else
hears of a fence. What is left is each function's case, and that `onRegion` changes the region that it names alone. -/

namespace Sys2Proof.Machine

/-! ### A command completes -/

theorem settled_complete {s t : State} {q : Req} {op : BitVec 8} {p : List Byte} (status : gwStatus t = gwStatus s)
    (sessions : t.gw.sessions = s.gw.sessions) : settled s (complete q op p t) = hold (completionOf s q op Status.ok 0 p) t := by
  rw [complete, completeAs, completionOf_congr sessions, settled_eq (by rw [gwStatus_hold, status])]

/-! ### Regions after an operation -/

theorem region_congr {s t : State} (h : t.regions = s.regions) (r : Nat) : region t r = region s r := by rw [region, region, h]

theorem region_onRegions (f : Nat → Region → Region) {s : State} {r : Nat} (h : r < s.regions.length) :
    region (onRegions f s) r = f r (region s r) := by
  have h' : r < (onRegions f s).regions.length := by simpa using h
  rw [region, region, nth, nth, List.getD_eq_getElem _ _ h', List.getD_eq_getElem _ _ h]
  exact List.getElem_mapIdx

theorem any_modifyAt {α : Type} {p : α → Bool} {f : α → α} (h : ∀ x, p (f x) = p x) (l : List α) (k : Nat) :
    (modifyAt l k f).any p = l.any p := by
  induction l generalizing k with
  | nil => rfl
  | cons x l ih => cases k <;> simp [modifyAt, h, ih]

/-- A change of a region that keeps it on or off the slipway shows in no register. -/
theorem gwStatus_onRegion (r : Nat) {f : Region → Region} (s : State) (h : ∀ g, (f g).onSlipway = g.onSlipway := by intro g; rfl) :
    gwStatus (onRegion r f s) = gwStatus s := by
  have slipway : slipwayNow (onRegion r f s) = slipwayNow s := any_modifyAt h _ _
  simp only [gwStatus, maintCode, slipway]
  rfl

theorem settled_onRegion (r : Nat) {f : Region → Region} (s : State) (h : ∀ g, (f g).onSlipway = g.onSlipway := by intro g; rfl) :
    settled s (onRegion r f s) = onRegion r f s := settled_eq (gwStatus_onRegion r s h)

/-- A running timetable keeps the module out of DOZE. -/
theorem settleDoze_running {s : State} (h : s.gw.runstate = .running) : settleDoze s = s := if_neg (by simp [h])

theorem regionsWakeAndGate : Claims.RegionsWakeAndGate := by
  intro s r
  refine ⟨fun due => ?_, fun early => event_waits early _ s, fun g now waking up => ?_, fun awake => ?_, fun clocked unused running => ?_,
    fun used => ?_⟩
  · rw [exec, execRegionWakeStart, event_holds due]
    exact congrArg _ (settled_onRegion _ s)
  · subst now
    rw [exec, execRegionReady, event_holds (by simp [waking, up])]
    exact congrArg _ (settled_onRegion _ s)
  · rw [exec, execRegionReady, event_waits (by simp [awake])]
  · rw [exec, execRegionGate, event_holds (by simp [clocked, unused]), settleDoze_running (by exact running)]
    exact congrArg _ (settled_onRegion _ s)
  · rw [exec, execRegionGate, event_waits (by simp [used])]

/-! ### REGION_CTL, R401, R403 -/

theorem alone_of_solo {s : State} (solo : s.pair.role = .solo) : inPair s = false := by simp [inPair, solo]

theorem regionCount_solo {s : State} (solo : s.pair.role = .solo) : regionCount s = 64 := by
  simp [regionCount, alone_of_solo solo]

theorem regionParam_solo {s : State} (solo : s.pair.role = .solo) (r : Nat) : regionParam s r = [BitVec.ofNat 8 r] := by
  simp [regionParam, solo]

/-- Outside a pair a fence is the region's change and its record. -/
theorem fenceMark_alone {s : State} (alone : inPair s = false) (r : Nat) (cause : FenceCause) (cuts : Bool) :
    fenceMark r cause cuts s = record Code.regionFence (regionParam s r ++ fencePlace s) (onRegion r (fun g => { g with
      mode := .slipway cause, pendingFence := none, retest := cause ≠ .command,
      clock := if cause = .command then .gated else .waking }) s) :=
  sendLash_alone _ _ alone

theorem fencePlace_idle {s : State} (idle : s.seq.run = none) :
    fencePlace s = slotByte s.seq.haltSlot ++ leBytes 2 s.seq.haltRow.toNat := by
  rw [fencePlace, idle]

/-- Without a run a fence takes effect at once, and with one it waits. -/
theorem fenceLater_idle {s : State} (idle : s.seq.run = none) (r : Nat) (cause : FenceCause) :
    fenceLater r cause s = fenceMark r cause false s := by
  simp [fenceLater, fenceNow, idle]

theorem fenceLater_busy {s : State} {run : ActiveRun} (busy : s.seq.run = some run) (r : Nat) (cause : FenceCause) :
    fenceLater r cause s = onRegion r (fun g => { g with pendingFence := some cause }) s := by
  simp [fenceLater, busy]

section
variable {s : State} (solo : s.pair.role = .solo) {r : Nat} (q : Req)
include solo

theorem regionCtl_badRegion (h : 64 ≤ r) (action : Nat) : regionCtl q r action s = refuseField q 0x62 0 s := by
  rw [regionCtl, checkField_false _ _ _ _ _ (by simp [regionCount_solo solo, h])]
  rfl

theorem regionCtl_badAction (h : r < 64) {action : Nat} (bad : 1 < action) : regionCtl q r action s = refuseField q 0x62 1 s := by
  rw [regionCtl, checkField_true _ _ _ _ _ (by simp [regionCount_solo solo, h]), checkField_false _ _ _ _ _ (by simp [bad])]
  rfl

theorem regionCtl_acts (h : r < 64) {action : Nat} (ok : action ≤ 1) :
    regionCtl q r action s = complete q 0x62 [] (regionAct r (action = 0) s) := by
  rw [regionCtl, checkField_true _ _ _ _ _ (by simp [regionCount_solo solo, h]), checkField_true _ _ _ _ _ (by simp [ok]), if_pos h]
  rfl

end

theorem regionAct_fence_busy {s : State} {run : ActiveRun} (busy : s.seq.run = some run) (running : s.gw.runstate = .running) (r : Nat) :
    regionAct r true s = onRegion r (fun g => { g with pendingFence := some .command }) s := by
  rw [regionAct, if_pos rfl, fenceLater_busy busy, settleDoze_running (by exact running)]

theorem regionAct_fence_idle {s : State} (idle : s.seq.run = none) (r : Nat) :
    regionAct r true s = settleDoze (fenceMark r .command false s) := by
  rw [regionAct, if_pos rfl, fenceLater_idle idle]

theorem regionAct_return {s : State} (awake : s.power.state ≠ .doze) (r : Nat) : regionAct r false s =
    onRegion r (fun g => { g with mode := .slipway .regionReset, retest := true, clock := .waking }) s := by
  rw [regionAct, if_neg Bool.false_ne_true, wakeDoze, if_neg awake]

/-- REGION_CTL, once it has started, acts and completes. -/
theorem exec_regionCtl_acts {s : State} {q : Req} {r action : BitVec 8} (solo : s.pair.role = .solo)
    (starts : Starts 0x62 0 q (regionAccepts s r.toNat action.toNat) s) (h : r.toNat < 64) (ok : action.toNat ≤ 1) {fence : Bool}
    (names : decide (action.toNat = 0) = fence) :
    exec (.regionCtl q r action) s = .next (settled s (complete q 0x62 [] (regionAct r.toNat fence (start q s)))) := by
  have solo' : (start q s).pair.role = .solo := by simp [solo]
  rw [exec, execRegionCtl, command_starts starts, regionCtl_acts solo' q h ok, names]

section
variable {s : State} {q : Req} {r : BitVec 8} (solo : s.pair.role = .solo) (h : r.toNat < 64)
include solo h

theorem exec_regionCtl_fence_busy {run : ActiveRun} (starts : Starts 0x62 0 q (regionAccepts s r.toNat (0 : BitVec 8).toNat) s)
    (busy : s.seq.run = some run) (running : s.gw.runstate = .running) : exec (.regionCtl q r 0) s =
      .next (onRegion r.toNat (fun g => { g with pendingFence := some .command }) (answered q 0x62 Status.ok 0 [] s)) := by
  have acts := regionAct_fence_busy (s := start q s) (by simpa using busy) (by simpa using running) r.toNat
  have status : gwStatus (regionAct r.toNat true (start q s)) = gwStatus s := by
    rw [acts, gwStatus_onRegion, gwStatus_start]
  rw [exec_regionCtl_acts solo starts h (Nat.zero_le _) rfl]
  refine congrArg _ ((settled_complete status (by rw [acts]; exact start_sessions q s)).trans ?_)
  rw [acts]
  rfl

/-- A fence without a run: the region goes on the slipway, out of clock, and the record says where the last halt was. -/
theorem exec_regionCtl_fence_idle (number : s.regions.length = 64)
    (starts : Starts 0x62 0 q (regionAccepts s r.toNat (0 : BitVec 8).toNat) s) (idle : s.seq.run = none) :
    ∃ t, exec (.regionCtl q r 0) s = .next t ∧ (region t r.toNat).mode = .slipway .command ∧
      (region t r.toNat).clock = .gated ∧ (region t r.toNat).retest = false ∧ (∀ k, k ≠ r.toNat → region t k = region s k) ∧
      t.log = s.log.push (s.log.stamp Code.regionFence 0
        ([BitVec.ofNat 8 r.toNat] ++ slotByte s.seq.haltSlot ++ leBytes 2 s.seq.haltRow.toNat)) ∧
      t.mem = s.mem ∧ t.seq = s.seq := by
  have solo' : (start q s).pair.role = .solo := by simp [solo]
  have acts := regionAct_fence_idle (s := start q s) (by simpa using idle) r.toNat
  rw [fenceMark_alone (alone_of_solo solo'), regionParam_solo solo', fencePlace_idle (by simpa using idle)] at acts
  have here : r.toNat < s.regions.length := by omega
  have fenced : ∀ k, region (settled s (complete q 0x62 [] (regionAct r.toNat true (start q s)))) k =
      region (onRegion r.toNat (fun g => { g with
        mode := .slipway .command, pendingFence := none, retest := false, clock := .gated }) s) k := fun k => region_congr (by
    rw [acts]; simp) k
  refine ⟨_, exec_regionCtl_acts solo starts h (Nat.zero_le _) (fence := true) rfl, ?_⟩
  simp only [fenced, region_onRegion_same _ _ _ here]
  refine ⟨trivial, trivial, trivial, fun k other => region_onRegion_other _ _ _ _ other, ?_, ?_, ?_⟩
  · simp [acts, record]
  · simp [acts]
  · simp [acts]

/-- A return starts a retest of the region and changes no other. -/
theorem exec_regionCtl_return (number : s.regions.length = 64)
    (starts : Starts 0x62 0 q (regionAccepts s r.toNat (1 : BitVec 8).toNat) s) (awake : s.power.state ≠ .doze) :
    ∃ t, exec (.regionCtl q r 1) s = .next t ∧ (region t r.toNat).mode = .slipway .regionReset ∧
      (region t r.toNat).retest = true ∧ (region t r.toNat).clock = .waking ∧ (∀ k, k ≠ r.toNat → region t k = region s k) ∧
      t.log = s.log ∧ t.mem = s.mem ∧ t.seq = s.seq := by
  have acts := regionAct_return (s := start q s) (by simpa using awake) r.toNat
  have here : r.toNat < s.regions.length := by omega
  have returned : ∀ k, region (settled s (complete q 0x62 [] (regionAct r.toNat false (start q s)))) k =
      region (onRegion r.toNat (fun g => { g with mode := .slipway .regionReset, retest := true, clock := .waking }) s) k :=
    fun k => region_congr (by rw [acts]; simp) k
  refine ⟨_, exec_regionCtl_acts solo starts h le_rfl (fence := false) rfl, ?_⟩
  simp only [returned, region_onRegion_same _ _ _ here]
  refine ⟨trivial, trivial, trivial, fun k other => region_onRegion_other _ _ _ _ other, ?_, ?_, ?_⟩ <;> simp [acts]

end

/-! ### Retests, R403 -/

theorem afterRetest_idle {s : State} (solo : s.pair.role = .solo) (noPower : s.gw.powerCmd = none) : afterRetest s = s :=
  if_neg (by simp [noPower, solo])

/-- Without a run the regions that wait to return do so. -/
theorem returnRegions_alone {s : State} (alone : inPair s = false) (h : s.regions.any Region.returning = true) :
    returnRegions s = onRegions (fun _ g => if g.returning then { g with mode := .service } else g) s :=
  (if_pos h).trans (sendLash_alone _ _ alone)

theorem returning_mem {s : State} {r : Nat} (here : r < s.regions.length) (h : (region s r).returning = true) :
    s.regions.any Region.returning = true := by
  refine List.any_eq_true.mpr ⟨region s r, ?_, h⟩
  rw [region, nth, List.getD_eq_getElem _ _ here]
  exact List.getElem_mem here

section
variable {s : State} {r : Fin 64} (tested : (region s r.val).retest = true) (clocked : (region s r.val).clock = .ready)
include tested clocked

theorem exec_retestComplete {failed : List (Fin 144)} {ok : Bool} : exec (.retestComplete r failed ok) s =
    .next (settled s (retestComplete r.val (failed.map (fun k => k.val)) ok s)) := by
  rw [exec, execRetestComplete, event_holds (by simp [tested, clocked])]

variable (solo : s.pair.role = .solo) (number : s.regions.length = 64) (noPower : s.gw.powerCmd = none)
include solo number noPower

/-- A region that passes its retest without a run is in service again at once. -/
theorem exec_retestComplete_passed (idle : s.seq.run = none) {c : FenceCause} (mode : (region s r.val).mode = .slipway c)
    (byRetest : c ≠ .command) :
    ∃ t, exec (.retestComplete r [] true) s = .next t ∧ (region t r.val).mode = .service ∧ (region t r.val).retest = false ∧
      t.log = s.log ∧ t.mem = s.mem ∧ t.seq = s.seq := by
  have here : r.val < s.regions.length := by omega
  have untested : region (onRegion r.val (fun g => { g with retest := false }) s) r.val = { region s r.val with retest := false } :=
    region_onRegion_same _ _ _ here
  have returning : (region (onRegion r.val (fun g => { g with retest := false }) s) r.val).returning = true := by
    simp [untested, Region.returning, mode, byRetest]
  have passed : retestComplete r.val [] true s = onRegions (fun _ g => if g.returning then { g with mode := .service } else g)
      (onRegion r.val (fun g => { g with retest := false }) s) := by
    have returns := returnRegions_alone (alone_of_solo (s := onRegion r.val (fun g => { g with retest := false }) s) solo)
      (returning_mem (by simpa using here) returning)
    simp only [retestComplete, List.isEmpty_nil, Bool.and_true, if_true, retestPass, onRegion_seq, idle, Option.isNone_none, returns]
    exact afterRetest_idle solo noPower
  have served : region (settled s (retestComplete r.val [] true s)) r.val = { region s r.val with retest := false, mode := .service } := by
    rw [region_congr (settled_regions _ _), passed, region_onRegions _ (by simpa using here), if_pos returning, untested]
  refine ⟨_, exec_retestComplete tested clocked, ?_⟩
  simp only [List.map_nil, served]
  refine ⟨trivial, trivial, ?_, ?_, ?_⟩ <;> simp [passed]

/-- A region with a failing core stays fenced, and the core is noted for replacement. -/
theorem exec_retestComplete_failed (k : Fin 144) :
    ∃ t, exec (.retestComplete r [k] true) s = .next t ∧ (region t r.val).mode = .fenced .selftest ∧
      (region t r.val).clock = .gated ∧ k.val ∈ (region t r.val).failing ∧ (∀ j, j ≠ r.val → region t j = region s j) ∧
      t.log = s.log.push (s.log.stamp Code.selftestFail 0 ([BitVec.ofNat 8 r.val] ++ coreParam r.val k.val)) ∧ t.seq = s.seq ∧
      t.mem = s.mem := by
  have here : r.val < s.regions.length := by omega
  have failed : retestComplete r.val [k.val] true s = record Code.selftestFail ([BitVec.ofNat 8 r.val] ++ coreParam r.val k.val)
      (onRegion r.val (fun g => { g with
        mode := .fenced .selftest, retest := false, clock := .gated, failing := insertOnce k.val g.failing }) s) := by
    rw [← regionParam_solo solo]
    exact afterRetest_idle (s := retestFail r.val [k.val] true s) solo noPower
  have fenced : ∀ j, region (settled s (retestComplete r.val [k.val] true s)) j = region (onRegion r.val (fun g => { g with
      mode := .fenced .selftest, retest := false, clock := .gated, failing := insertOnce k.val g.failing }) s) j :=
    fun j => region_congr (by rw [failed]; simp) j
  refine ⟨_, exec_retestComplete tested clocked, ?_⟩
  simp only [List.map_cons, List.map_nil, fenced, region_onRegion_same _ _ _ here]
  refine ⟨trivial, trivial, by simpa using contains_insertOnce k.val _, fun j other => region_onRegion_other _ _ _ _ other, ?_, ?_, ?_⟩
  · simp [failed, record]
  · simp [failed]
  · simp [failed]

end

theorem regionsAreFencedAndReturned : Claims.RegionsAreFencedAndReturned := by
  intro s solo number
  refine ⟨fun q r action starts => ⟨?_, ?_, ?_, ?_, ?_⟩, fun r tested clocked noPower => ⟨?_, ?_⟩, fun r failed ok untested => ?_⟩
  · exact fun beyond => command_replies starts _ (regionCtl_badRegion (by simp [solo]) q beyond _)
  · exact fun h bad => command_replies starts _ (regionCtl_badAction (by simp [solo]) q h bad)
  · rintro run h rfl busy running
    exact exec_regionCtl_fence_busy solo h starts busy running
  · rintro h rfl idle
    exact exec_regionCtl_fence_idle solo h number starts idle
  · rintro h rfl awake
    exact exec_regionCtl_return solo h number starts awake
  · rintro idle ⟨c, mode, byRetest⟩
    exact exec_retestComplete_passed tested clocked solo number noPower idle mode byRetest
  · exact exec_retestComplete_failed tested clocked solo number noPower
  · rw [exec, execRetestComplete, event_waits (by simp [untested])]

/-- Settles O50: waking and gating event by event, REGION_CTL by its action, and a retest by its result. -/
theorem regionsWakeFenceAndReturn : Obligations.RegionsWakeFenceAndReturn := ⟨regionsWakeAndGate, regionsAreFencedAndReturned⟩

end Sys2Proof.Machine

/-! ## O46: RUN begins at an entry row

The start takes no part of what RUN checks, so that each check stands as it was. Where they all pass nothing is left for a boundary: no
core is failing and no fence waits, and `startSpares` leaves the run that `beginRun` has put in place. -/

namespace Sys2Proof.Machine

/-! ### What a command that starts finds -/

theorem slotOf_congr {s t : State} (h : t.seq = s.seq) (b : Bool) : slotOf t b = slotOf s b := by rw [slotOf, slotOf, h]

@[simp] theorem slotOf_start (q : Req) (s : State) (b : Bool) : slotOf (start q s) b = slotOf s b := slotOf_congr (start_seq q s) b

@[simp] theorem slotOf_settled (s t : State) (b : Bool) : slotOf (settled s t) b = slotOf t b := slotOf_congr (settled_seq _ _) b

theorem slotOf_onSlot_same (b : Bool) (f : Slot → Slot) (s : State) : slotOf (onSlot b f s) b = f (slotOf s b) := by cases b <;> rfl

theorem slotOf_onSlot_other (b : Bool) (f : Slot → Slot) (s : State) : slotOf (onSlot b f s) (!b) = slotOf s (!b) := by cases b <;> rfl

theorem entryOk_iff (s : State) (b : Bool) (entry : BitVec 32) :
    entryOk s b entry = true ↔ entry.toNat ∈ entryRows (slotOf s b).rows := List.contains_iff_mem

/-- Which rows are fenced depends on the regions of both halves alone. -/
theorem fencedRow_congr {s t : State} (regions : t.regions = s.regions) (pair : t.pair = s.pair) (rows : List Row) :
    fencedRow t rows = fencedRow s rows := by
  have word : regionsWord t = regionsWord s := by rw [regionsWord, regionsWord, regions]
  have half : myHalf t = myHalf s := by rw [myHalf, myHalf, pair]
  have serves : servesNow t = servesNow s := by
    funext h r
    rw [servesNow, servesNow, inServiceOf, inServiceOf, word, half, pair]
  rw [fencedRow, fencedRow, serves]

@[simp] theorem fencedRow_start (q : Req) (s : State) (rows : List Row) : fencedRow (start q s) rows = fencedRow s rows :=
  fencedRow_congr (start_regions q s) (start_pair q s) rows

/-- Where a command's own condition alone fails, the gate answers WRONG_STATE. -/
theorem gate_disowned {op page : Nat} {q : Req} {s : State} (h : gate op page q true s = none) :
    gate op page q false s = some Status.wrongState := by
  unfold gate at h ⊢
  split_ifs at h ⊢ <;> simp_all

/-- A command whose own condition fails is refused, and nothing else happens. -/
theorem command_disowned {op page : Nat} {q : Req} {own : Bool} {s : State} (ready : waits q s = false) (passes : gate op page q true s = none)
    (disowned : own = false) (f : State → State) :
    command op page q own f s = .next (answered q (BitVec.ofNat 8 op) Status.wrongState 0 [] s) := by
  subst disowned
  rw [command_refused op page q false f s _ ready (gate_disowned passes), if_neg (by decide)]
  exact congrArg _ (settled_completeAs_start s q _ _ _ _)

/-! ### Regions without a failing core or a waiting fence -/

/-- What holds of every region in the list, and of a region after power-on, holds of each by its number. -/
theorem region_of_all {P : Region → Prop} {s : State} (h : ∀ g ∈ s.regions, P g) (reset : P Region.reset) (r : Nat) : P (region s r) := by
  by_cases here : r < s.regions.length
  · rw [region, nth, List.getD_eq_getElem _ _ here]
    exact h _ (List.getElem_mem here)
  · rw [region, nth, List.getD_eq_default _ _ (Nat.le_of_not_lt here)]
    exact reset

/-- The end of boost changes no more of the regions than their steps. -/
theorem settleBoost_of_all {P : Region → Prop} {s : State} (h : ∀ g ∈ s.regions, P g) (step : ∀ g k, P g → P { g with clkStep := k }) :
    ∀ g ∈ (settleBoost s).regions, P g := by
  have stepped : ∀ g ∈ (onRegions (fun _ g => { g with clkStep := min g.clkStep 17 }) s).regions, P g := by
    intro g hg
    obtain ⟨k, hk, rfl⟩ := List.mem_mapIdx.mp hg
    exact step _ _ (h s.regions[k] (List.getElem_mem hk))
  unfold settleBoost
  split
  · split <;> exact h
  · split
    · exact h
    · exact stepped
  · exact h

/-- No core is failing and no fence waits for the boundary. -/
def NothingWaits (l : List Region) : Prop := ∀ g ∈ l, g.failing = [] ∧ g.pendingFence = none

theorem NothingWaits.region {s : State} (h : NothingWaits s.regions) (r : Nat) :
    (region s r).failing = [] ∧ (region s r).pendingFence = none :=
  region_of_all (P := fun g => g.failing = [] ∧ g.pendingFence = none) h ⟨rfl, rfl⟩ r

theorem modifyAt_self {α : Type} {f : α → α} {d : α} (l : List α) (k : Nat) (h : f (nth l k d) = nth l k d) : modifyAt l k f = l := by
  induction l generalizing k with
  | nil => rfl
  | cons x l ih =>
    cases k with
    | zero => exact congrArg (· :: l) h
    | succ k => exact congrArg (x :: ·) (ih k h)

theorem onRegion_self {s : State} {r : Nat} {f : Region → Region} (h : f (region s r) = region s r) : onRegion r f s = s := by
  rw [onRegion, modifyAt_self s.regions r h]

theorem serveSpares_nothing {s : State} (h : NothingWaits s.regions) : serveSpares s = s :=
  List.foldl_fixed' (fun r => by
    obtain ⟨failing, -⟩ := h.region r
    have cleared : onRegion r (fun g => { g with failing := [] }) s = s := onRegion_self (by rw [← failing])
    simp only [failing, List.foldl_nil, cleared]) _

theorem servePendingFences_nothing {s : State} (h : NothingWaits s.regions) : servePendingFences s = s :=
  List.foldl_fixed' (fun r => by
    obtain ⟨-, pending⟩ := h.region r
    simp only [pending]) _

theorem startSpares_nothing {s : State} (h : NothingWaits s.regions) : startSpares s = s := by
  rw [startSpares, serveSpares_nothing h, servePendingFences_nothing h]

/-! ### RUN, R309 -/

section
variable {s : State} {q : Req} {b : Bool} {entry : BitVec 32} {steps : BitVec 64} {boost : BitVec 8}

theorem runCommand_badEntry (h : entry.toNat ∉ entryRows (slotOf s b).rows) :
    runCommand q b entry steps boost s = refuseField q 0x36 1 s :=
  checkField_false _ _ _ _ _ (by rw [← Bool.not_eq_true, entryOk_iff]; exact h)

variable (ok : entry.toNat ∈ entryRows (slotOf s b).rows)
include ok

theorem runCommand_badBoost (h : 1 < boost.toNat) : runCommand q b entry steps boost s = refuseField q 0x36 3 s := by
  rw [runCommand, checkField_true _ _ _ _ _ ((entryOk_iff s b entry).mpr ok), checkField_false _ _ _ _ _ (by simp [h])]
  rfl

theorem runCommand_fenced (h : boost.toNat ≤ 1) {k : Nat} (fenced : fencedRow s (slotOf s b).rows = some k) :
    runCommand q b entry steps boost s = completeAs q 0x36 Status.regionFenced (rowDetail b k 0) [] s := by
  rw [runCommand, checkField_true _ _ _ _ _ ((entryOk_iff s b entry).mpr ok), checkField_true _ _ _ _ _ (by simp [h]), regionCheck, fenced]
  rfl

theorem runCommand_runs (h : boost.toNat ≤ 1) (served : fencedRow s (slotOf s b).rows = none) (solo : s.pair.role = .solo) :
    runCommand q b entry steps boost s = startSpares (beginRun q b entry.toNat steps.toNat (boost = 1) s) := by
  rw [runCommand, checkField_true _ _ _ _ _ ((entryOk_iff s b entry).mpr ok), checkField_true _ _ _ _ _ (by simp [h]), regionCheck, served]
  simp only [solo, reduceCtorEq, if_false, runNow]
  rw [sendLash_alone _ _ (alone_of_solo solo)]

end

/-- A run at its first row. -/
def newRun (q : Req) (b : Bool) (entry steps : Nat) (boost : Bool) : ActiveRun :=
  { slot := b, next := entry, entry := entry, stepEntry := entry, gap := 0, budget := steps, boost := boost, req := q, stopAt := false,
    halting := none, attempt := 0, asleep := false, committed := false, abandoning := none, restartAt := none, waitCause := none }

section
variable {s : State} {q : Req} {b : Bool} {entry steps : Nat} {boost : Bool} (fresh : s.gw.runstate = .job)
include fresh

/-- A run that does not follow a halt: the run in place, the slot ACTIVE, and the module awake and RUNNING. -/
theorem beginRun_fresh : beginRun q b entry steps boost s = settleBoost (wakeDoze (onGw (fun g => { g with runstate := .running })
    (onSeq (fun x => { x with run := some (newRun q b entry steps boost), held := [], flight := [], issues := [] })
      { onSlot b (fun x => { x with state := .active }) (saveEntry s) with
        job := { s.job with notices := [] }, pair := { s.pair with sent := none, got := [], shares := [] } }))) := by
  have before : beforeRun b entry s = s := if_neg (by simp [fresh])
  rw [beginRun, before]
  cases b <;> rfl

theorem beginRun_seq : (beginRun q b entry steps boost s).seq = { (onSlot b (fun x => { x with state := .active }) s).seq with
    run := some (newRun q b entry steps boost), held := [], flight := [], issues := [], entryVerdict := some (s.seq.a4, s.seq.hold) } := by
  rw [beginRun_fresh fresh]
  cases b <;> simp only [settleBoost_seq, wakeDoze_seq] <;> rfl

theorem slotOf_beginRun_same : slotOf (beginRun q b entry steps boost s) b = { slotOf s b with state := .active } := by
  cases b <;> simp only [slotOf, beginRun_seq fresh] <;> rfl

theorem slotOf_beginRun_other : slotOf (beginRun q b entry steps boost s) (!b) = slotOf s (!b) := by
  cases b <;> simp only [slotOf, beginRun_seq fresh] <;> rfl

theorem beginRun_gw : (beginRun q b entry steps boost s).gw = { s.gw with runstate := .running } := by
  rw [beginRun_fresh fresh]
  cases b <;> simp only [settleBoost_gw, wakeDoze_gw] <;> rfl

theorem beginRun_mem : (beginRun q b entry steps boost s).mem = s.mem := by
  rw [beginRun_fresh fresh]
  cases b <;> simp only [settleBoost_mem, wakeDoze_mem] <;> rfl

theorem beginRun_log : (beginRun q b entry steps boost s).log = s.log := by
  rw [beginRun_fresh fresh]
  cases b <;> simp only [settleBoost_log, wakeDoze_log] <;> rfl

theorem beginRun_nothingWaits (h : NothingWaits s.regions) : NothingWaits (beginRun q b entry steps boost s).regions := by
  rw [beginRun_fresh fresh]
  refine settleBoost_of_all (P := fun g => g.failing = [] ∧ g.pendingFence = none) ?_ fun _ _ h => h
  rw [wakeDoze_regions]
  cases b <;> exact h

end

/-- A RUN whose checks pass: the run stands at its entry row. -/
theorem exec_run_begins {s : State} {q : Req} {slot boost : BitVec 8} {entry : BitVec 32} {steps : BitVec 64}
    (starts : Starts 0x36 0 q (inState s [.job, .halted] && runGroupFree s && !s.thermal.tripped && onNamed slot (armable s)) s)
    (named : slot.toNat ≤ 1) (fresh : s.gw.runstate = .job) (solo : s.pair.role = .solo) (nothing : NothingWaits s.regions)
    (ok : entry.toNat ∈ entryRows (slotOf s (slot = 1)).rows) (h : boost.toNat ≤ 1)
    (served : fencedRow s (slotOf s (slot = 1)).rows = none) : exec (.run q slot entry steps boost) s =
      .next (settled s (beginRun q (slot = 1) entry.toNat steps.toNat (boost = 1) (start q s))) := by
  have fresh' : (start q s).gw.runstate = .job := by simp [fresh]
  have nothing' : NothingWaits (start q s).regions := by simpa using nothing
  rw [exec, execRun, command_starts starts, checkField_true _ _ _ _ _ (by simp [named]),
    runCommand_runs (by simpa using ok) h (by simpa using served) (by simpa using solo),
    startSpares_nothing (beginRun_nothingWaits fresh' nothing')]

/-- Settles O46: the checks of RUN in their order, and the run that begins where they pass. -/
theorem runBeginsAtAnEntryRow : Obligations.RunBeginsAtAnEntryRow := by
  refine ⟨fun s q slot boost entry steps ready tripped passes => ?_, ?_⟩
  · exact command_disowned ready passes (by simp [tripped]) _
  rintro s q slot entry steps boost b rfl starts named fresh solo nothing
  have checked : ∀ u, checkField q 0x36 0 (decide (slot.toNat ≤ 1)) (runCommand q (slot = 1) entry steps boost) u =
      runCommand q (slot = 1) entry steps boost u := fun u => checkField_true _ _ _ _ _ (by simp [named])
  refine ⟨fun bad => ?_, fun ok bad => ?_, fun k ok h fenced => ?_, fun ok h served => ?_⟩
  · exact command_replies starts _ ((checked _).trans (runCommand_badEntry (by simpa using bad)))
  · exact command_replies starts _ ((checked _).trans (runCommand_badBoost (by simpa using ok) bad))
  · exact command_replies starts _ ((checked _).trans (runCommand_fenced (by simpa using ok) h (by simpa using fenced)))
  · have fresh' : (start q s).gw.runstate = .job := by simp [fresh]
    refine ⟨_, exec_run_begins starts named fresh solo nothing ok h served, by simp [beginRun_gw fresh'], by simp [beginRun_gw fresh'],
      ⟨newRun q (slot = 1) entry.toNat steps.toNat (boost = 1), by simp [beginRun_seq fresh'], rfl, rfl, rfl, rfl, rfl, rfl, rfl, rfl⟩,
      by simp [slotOf_beginRun_same fresh'], by simp [slotOf_beginRun_same fresh'], by simp [slotOf_beginRun_other fresh'],
      by simp [beginRun_seq fresh'], by simp [beginRun_seq fresh'], ?_, by simp [beginRun_mem fresh'], by simp [beginRun_log fresh']⟩
    cases decide (slot = 1) <;> simp [beginRun_seq fresh', onSlot]

end Sys2Proof.Machine

/-! ## O48: slots are loaded, armed and discarded

Outside a pair no tier bytes lie elsewhere, so the end of a load waits for none (`farDone_alone`), and nobody else hears of a slot. The
checks of a load read nothing of the gangway, so that they stand as they were once the load has left it. No field of GW_STATUS names a
slot. -/

namespace Sys2Proof.Machine

/-! ### What a change of the gangway or of a slot leaves -/

theorem gwStatus_onSlot (b : Bool) (f : Slot → Slot) (s : State) : gwStatus (onSlot b f s) = gwStatus s := by cases b <;> rfl

theorem pageFree_onGw (f : Gangway → Gangway) (s : State) (base n page : Nat) (rounds : List Row) :
    pageFree (onGw f s) base n page rounds = pageFree s base n page rounds := by
  induction rounds with
  | nil => rfl
  | cons w rounds ih => rw [pageFree, pageFree, ih]; rfl

theorem reshardFault_onGw (f : Gangway → Gangway) (s : State) (rows : List Row) : reshardFault (onGw f s) rows = reshardFault s rows := by
  have round : ∀ w earlier, roundOk (onGw f s) w earlier = roundOk s w earlier := fun w earlier => by
    simp only [roundOk, pageFree_onGw]; rfl
  simp only [reshardFault, round]
  rfl

/-- The load checks read nothing of the gangway. -/
theorem checkRows_onGw (f : Gangway → Gangway) (s : State) (rows : List Row) : checkRows (onGw f s) rows = checkRows s rows := by
  have rowsOk : rowOk (onGw f s) = rowOk s := rfl
  have groups : groupFault (onGw f s) = groupFault s := rfl
  have regions : servesNow (onGw f s) = servesNow s := rfl
  simp only [checkRows, checkRowsIn, rowsOk, groups, regions, reshardFault_onGw, onGw_job]
  rfl

/-- Outside a pair nothing of a range lies elsewhere. -/
theorem farDone_alone {s : State} (alone : inPair s = false) (fetched : Bool) (l : List (Nat × Nat)) : farDone fetched l s = true := by
  have own : ∀ a, ownHalf s a = true := fun a => by simp [ownHalf, alone]
  have none_far : farPieces s l = [] := by simp [farPieces, own]
  simp [farDone, none_far]

/-! ### TT_LOAD -/

/-- The load in progress into a slot. -/
def loadInto (g : Gangway) (b : Bool) : Option LoadJob := if b then g.loadB else g.loadA

/-- The slot's load is put in place, or is over. -/
def withLoad (b : Bool) (j : Option LoadJob) : Gangway → Gangway := fun g => if b then { g with loadB := j } else { g with loadA := j }

theorem loadInto_withLoad (b : Bool) (j : Option LoadJob) (g : Gangway) : loadInto (withLoad b j g) b = j := by cases b <;> rfl

theorem withLoad_held (b : Bool) (j : Option LoadJob) (g : Gangway) : (withLoad b j g).held = g.held := by cases b <;> rfl

theorem withLoad_sessions (b : Bool) (j : Option LoadJob) (g : Gangway) : (withLoad b j g).sessions = g.sessions := by cases b <;> rfl

theorem gwStatus_withLoad (b : Bool) (j : Option LoadJob) (s : State) : gwStatus (onGw (withLoad b j) s) = gwStatus s := by
  cases b <;> rfl

theorem ttLoad_eq (q : Req) (b : Bool) (rows : List Row) (s : State) : ttLoad q b rows s =
    onGw (withLoad b (some { req := q, rows := rows, fetched := false })) (onSlot b (fun _ => Slot.empty) s) := by
  cases b <;> rfl

section
variable {b : Bool} {j : LoadJob} {s : State}

theorem ttLoadDone_ok (alone : inPair s = false) (ok : checkRows s j.rows = .ok []) :
    ttLoadDone b j s = complete j.req 0x32 (wordBytes (slotDigest j.rows) ++ leBytes 4 j.rows.length)
      (fillSlot b j.rows none [] (onGw (withLoad b none) s)) := by
  have alone' : inPair (fillSlot b j.rows none [] (onGw (withLoad b none) s)) = false := by cases b <;> exact alone
  simp only [ttLoadDone, checkRows_onGw, ok]
  exact congrArg (complete j.req 0x32 _) (sendLash_alone _ _ alone')

theorem ttLoadDone_refused {e : LoadFault} (bad : checkRows s j.rows = .error e) (other : e.1 ≠ Status.generatorOverlap) :
    ttLoadDone b j s = completeAs j.req 0x32 e.1 (rowDetail b e.2.1 e.2.2) [] (onGw (withLoad b none) s) := by
  simp only [ttLoadDone, checkRows_onGw, bad]
  exact congrArg (completeAs j.req 0x32 _ _ _) (if_neg other)

theorem exec_ttLoadDone_idle (idle : loadInto s.gw b = none) : exec (.ttLoadDone b) s = .next s := by
  rw [loadInto] at idle
  rw [exec, execTtLoadDone, idle]

theorem exec_ttLoadDone (alone : inPair s = false) (loading : loadInto s.gw b = some j) :
    exec (.ttLoadDone b) s = .next (settled s (ttLoadDone b j s)) := by
  rw [loadInto] at loading
  rw [exec, execTtLoadDone, loading]
  refine (event_holds rfl _ s).trans (congrArg (fun t => Host.Outcome.next (settled s t)) ?_)
  exact if_pos (farDone_alone alone _ _)

end

/-- A load that passes its checks fills its slot. -/
theorem slotOf_fillSlot_same (b : Bool) (rows : List Row) (s : State) : slotOf (fillSlot b rows none [] s) b =
    { state := .loaded, rows := rows, digest := slotDigest rows, entry := 0, lowered := none } := by cases b <;> rfl

theorem slotOf_fillSlot_other (b : Bool) (rows : List Row) (s : State) : slotOf (fillSlot b rows none [] s) (!b) = slotOf s (!b) := by
  cases b <;> rfl

theorem slotGen_fillSlot (b : Bool) (rows : List Row) (s : State) :
    (fillSlot b rows none [] s).seq.slotGen = s.seq.slotGen + 1 := by cases b <;> rfl

/-- A filled slot is a change of the sequencer alone, which no register shows. -/
theorem fillSlot_eq (b : Bool) (rows : List Row) (s : State) :
    fillSlot b rows none [] s = { s with seq := (fillSlot b rows none [] s).seq } := by cases b <;> rfl

theorem gwStatus_fillSlot (b : Bool) (rows : List Row) (s : State) : gwStatus (fillSlot b rows none [] s) = gwStatus s := by
  cases b <;> rfl

section
variable {s : State} {b : Bool} {j : LoadJob} (alone : inPair s = false) (loading : loadInto s.gw b = some j)
include alone loading

theorem exec_ttLoadDone_ok (ok : checkRows s j.rows = .ok []) : exec (.ttLoadDone b) s =
    .next (hold (completionOf s j.req 0x32 Status.ok 0 (wordBytes (slotDigest j.rows) ++ leBytes 4 j.rows.length))
      (fillSlot b j.rows none [] (onGw (withLoad b none) s))) := by
  rw [exec_ttLoadDone alone loading, ttLoadDone_ok alone ok]
  refine congrArg _ (settled_complete ?_ ?_)
  · rw [gwStatus_fillSlot, gwStatus_withLoad]
  · rw [fillSlot_eq]; exact withLoad_sessions _ _ _

theorem exec_ttLoadDone_refused {e : LoadFault} (bad : checkRows s j.rows = .error e) (other : e.1 ≠ Status.generatorOverlap) :
    exec (.ttLoadDone b) s =
      .next (hold (completionOf s j.req 0x32 e.1 (rowDetail b e.2.1 e.2.2) []) (onGw (withLoad b none) s)) := by
  rw [exec_ttLoadDone alone loading, ttLoadDone_refused bad other, completeAs, completionOf_congr (withLoad_sessions b none s.gw)]
  exact congrArg _ (settled_eq (by rw [gwStatus_hold, gwStatus_withLoad]))

end

section
variable {s : State} {q : Req} {slot : BitVec 8} (named : slot.toNat ≤ 1)
include named

theorem exec_ttLoad {n : BitVec 32} {rows : List Row} (starts : Starts 0x32 0 q (onNamed slot (slotFree s)) s) (least : 1 ≤ n.toNat)
    (most : n.toNat ≤ 16384) (given : rows.length = n.toNat) :
    exec (.ttLoad q slot n rows) s = .next (ttLoad q (slot = 1) rows (start q s)) := by
  rw [exec, execTtLoad, command_starts starts, checkField_true _ _ _ _ _ (by simp [named]),
    checkField_true _ _ _ _ _ (by simp [least, most, given])]
  exact congrArg _ (settled_eq (by rw [ttLoad_eq, gwStatus_withLoad, gwStatus_onSlot, gwStatus_start]))

theorem exec_ttLoad_badCount {n : BitVec 32} {rows : List Row} (starts : Starts 0x32 0 q (onNamed slot (slotFree s)) s)
    (bad : n.toNat = 0 ∨ 16384 < n.toNat ∨ rows.length ≠ n.toNat) :
    exec (.ttLoad q slot n rows) s = .next (answered q 0x32 Status.badField (fieldDetail 0x32 1) [] s) := by
  refine command_replies starts _ ?_
  rw [checkField_true _ _ _ _ _ (by simp [named]), checkField_false _ _ _ _ _ (by rcases bad with h | h | h <;> simp [h])]
  rfl

end

/-! ### TT_ARM and TT_DISCARD -/

/-- Outside a pair nobody else hears that a slot is armed or discarded. -/
theorem armNow_alone {s : State} (alone : inPair s = false) (q : Req) (b : Bool) (entry : BitVec 32) :
    armNow q b entry s = complete q 0x33 [] (armSlot b entry.toNat s) := by
  rw [armNow, sendLash_alone _ _ (by cases b <;> exact alone)]

theorem ttDiscard_alone {s : State} (alone : inPair s = false) (q : Req) (b : Bool) :
    ttDiscard q b s = complete q 0x34 [] (discardSlot b s) := by
  rw [ttDiscard, sendLash_alone _ _ (by cases b <;> exact alone)]

theorem armSlot_eq (b : Bool) (entry : Nat) (s : State) : armSlot b entry s = { s with seq := (armSlot b entry s).seq } := by
  cases b <;> rfl

theorem discardSlot_eq (b : Bool) (s : State) : discardSlot b s = { s with seq := (discardSlot b s).seq } := by cases b <;> rfl

theorem slotOf_armSlot_same (b : Bool) (entry : Nat) (s : State) :
    slotOf (armSlot b entry s) b = { slotOf s b with state := .armed, entry := entry } := by cases b <;> rfl

theorem slotOf_armSlot_other (b : Bool) (entry : Nat) (s : State) : slotOf (armSlot b entry s) (!b) = slotOf s (!b) := by
  cases b <;> rfl

theorem slotOf_discardSlot_same (b : Bool) (s : State) : slotOf (discardSlot b s) b =
    if (slotOf s b).state = .armed then { slotOf s b with state := .loaded } else Slot.empty := by cases b <;> rfl

theorem slotOf_discardSlot_other (b : Bool) (s : State) : slotOf (discardSlot b s) (!b) = slotOf s (!b) := by cases b <;> rfl

theorem gwStatus_armSlot (b : Bool) (entry : Nat) (s : State) : gwStatus (armSlot b entry s) = gwStatus s := by cases b <;> rfl

theorem gwStatus_discardSlot (b : Bool) (s : State) : gwStatus (discardSlot b s) = gwStatus s := by cases b <;> rfl

section
variable {s : State} {q : Req} {slot : BitVec 8} (named : slot.toNat ≤ 1) (solo : s.pair.role = .solo)
include named

theorem exec_ttArm_badEntry {entry : BitVec 32} (starts : Starts 0x33 0 q (inState s [.running] && onNamed slot (armable s)) s)
    (bad : entry.toNat ∉ entryRows (slotOf s (slot = 1)).rows) :
    exec (.ttArm q slot entry) s = .next (answered q 0x33 Status.badField (fieldDetail 0x33 1) [] s) := by
  refine command_replies starts _ ?_
  have notEntry : entryOk (start q s) (slot = 1) entry = false := by
    rw [← Bool.not_eq_true, entryOk_iff, slotOf_start]; exact bad
  rw [checkField_true _ _ _ _ _ (by simp [named]), ttArm, checkField_false _ _ _ _ _ notEntry]
  rfl

include solo

theorem exec_ttArm {entry : BitVec 32} (starts : Starts 0x33 0 q (inState s [.running] && onNamed slot (armable s)) s)
    (ok : entry.toNat ∈ entryRows (slotOf s (slot = 1)).rows) (served : fencedRow s (slotOf s (slot = 1)).rows = none) :
    exec (.ttArm q slot entry) s =
      .next (hold (completionOf s q 0x33 Status.ok 0 []) (armSlot (slot = 1) entry.toNat (start q s))) := by
  have isEntry : entryOk (start q s) (slot = 1) entry = true := by rw [entryOk_iff, slotOf_start]; exact ok
  have solo' : (start q s).pair.role = .solo := by simp [solo]
  rw [exec, execTtArm, command_starts starts, checkField_true _ _ _ _ _ (by simp [named]), ttArm, checkField_true _ _ _ _ _ isEntry,
    regionCheck, fencedRow_start, slotOf_start, served]
  simp only [solo', reduceCtorEq, if_false, armNow_alone (alone_of_solo solo')]
  exact congrArg _ (settled_complete (by rw [gwStatus_armSlot, gwStatus_start]) (by rw [armSlot_eq]; exact start_sessions q s))

theorem exec_ttDiscard (starts : Starts 0x34 0 q (onNamed slot (fun b => slotIs s b [.loaded, .armed] && !slotBusy s b)) s) :
    exec (.ttDiscard q slot) s = .next (hold (completionOf s q 0x34 Status.ok 0 []) (discardSlot (slot = 1) (start q s))) := by
  have solo' : (start q s).pair.role = .solo := by simp [solo]
  rw [exec, execTtDiscard, command_starts starts, checkField_true _ _ _ _ _ (by simp [named]), ttDiscard_alone (alone_of_solo solo')]
  exact congrArg _ (settled_complete (by rw [gwStatus_discardSlot, gwStatus_start]) (by rw [discardSlot_eq]; exact start_sessions q s))

end

@[simp] theorem slotOf_hold (c : Completion) (s : State) (b : Bool) : slotOf (hold c s) b = slotOf s b := rfl

/-- Settles O48: TT_LOAD and its end, TT_ARM and TT_DISCARD, each by its checks. -/
theorem slotsAreLoadedArmedAndDiscarded : Obligations.SlotsAreLoadedArmedAndDiscarded := by
  rintro s q slot b solo named rfl
  have alone := alone_of_solo solo
  refine ⟨fun n rows starts => ⟨fun least most given => ?_, exec_ttLoad_badCount named starts⟩, fun j loading => ⟨fun ok => ?_, fun e bad other => ?_⟩,
    exec_ttLoadDone_idle, fun entry starts => ⟨exec_ttArm_badEntry named starts, fun ok served => ?_⟩, fun starts => ?_⟩
  · refine ⟨_, exec_ttLoad named starts least most given, ?_⟩
    rw [ttLoad_eq]
    exact ⟨slotOf_onSlot_same _ _ _, (slotOf_onSlot_other _ _ _).trans (slotOf_start q s _), loadInto_withLoad _ _ _, by simp [withLoad_held],
      by simp, by simp, by simp⟩
  · refine ⟨_, exec_ttLoadDone_ok alone loading ok, slotOf_fillSlot_same _ _ _, slotOf_fillSlot_other _ _ _,
      slotGen_fillSlot _ _ _, ?_⟩
    rw [fillSlot_eq]
    exact ⟨loadInto_withLoad _ none _, congrArg (· ++ _) (withLoad_held _ none s.gw), rfl, rfl, rfl⟩
  · exact ⟨_, exec_ttLoadDone_refused alone loading bad other, rfl, loadInto_withLoad _ none _,
      congrArg (· ++ _) (withLoad_held _ none s.gw), rfl, rfl⟩
  · refine ⟨_, exec_ttArm named solo starts ok served, ?_, ?_, ?_⟩
    · simp [slotOf_armSlot_same]
    · simp [slotOf_armSlot_other]
    · rw [armSlot_eq]
      cases decide (slot = 1) <;> simp [answered, armSlot, onSlot, bumpGen]
  · refine ⟨_, exec_ttDiscard named solo starts, ?_, ?_, ?_, ?_⟩
    · intro armed; rw [slotOf_hold, slotOf_discardSlot_same, slotOf_start, if_pos armed]
    · intro loaded; rw [slotOf_hold, slotOf_discardSlot_same, slotOf_start, if_neg (by rw [loaded]; decide)]
    · simp [slotOf_discardSlot_other]
    · rw [discardSlot_eq]
      cases decide (slot = 1) <;> simp [answered, discardSlot, onSlot, bumpGen]

end Sys2Proof.Machine

/-! ## O35: a HALT row ends the run with HALTED_BY_ROW

A halt with no row in flight is complete at once: `finishHalt` loses the accumulators, closes the run (`closeRun`) and tells the members
(`tellHalted`). Outside a pair, and with no request waiting for the boundary, closing the run touches the sequencer, the power state, the
regions and the completions alone (`closeRun_quiet`), and telling the members the fabric and the recorder (`tellHalted_eq`). The recorder
is as it was where no fence waits and every member has a route, which is what O37 asks of a barrier's timeout. -/

namespace Sys2Proof.Machine

/-! ### Routes while buffers are freed -/

/-- Two states whose fabrics are configured alike and have the same ports available. -/
def SameRoutes (s t : State) : Prop := t.fab.cfg = s.fab.cfg ∧ ∀ k, unavailable (port t k) = unavailable (port s k)

theorem SameRoutes.trans {s t u : State} (a : SameRoutes s t) (b : SameRoutes t u) : SameRoutes s u :=
  ⟨b.1.trans a.1, fun k => (b.2 k).trans (a.2 k)⟩

theorem SameRoutes.myNode {s t : State} (h : SameRoutes s t) : myNode t = myNode s := by rw [Machine.myNode, Machine.myNode, h.1]

theorem SameRoutes.nextHop {s t : State} (h : SameRoutes s t) (src dst : BitVec 14) (arrived : Option Nat) :
    nextHop t src dst arrived = nextHop s src dst arrived := by
  simp only [Machine.nextHop, h.myNode, h.1, h.2]

/-- Buffers that are freed change the fabric alone, and no route. -/
theorem foldl_freeMsgs (l : List Early) (s : State) :
    ∃ fab, l.foldl (fun s e => freeMsgs e.port e.held s) s = { s with fab := fab } ∧ SameRoutes s { s with fab := fab } := by
  induction l generalizing s with
  | nil => exact ⟨s.fab, rfl, rfl, fun _ => rfl⟩
  | cons e l ih =>
    obtain ⟨fab, freed, routes⟩ := ih (freeMsgs e.port e.held s)
    have first : SameRoutes s (freeMsgs e.port e.held s) := ⟨rfl, fun k => unavailable_onPort _ k _ s fun _ => rfl⟩
    exact ⟨fab, freed, first.trans routes⟩

theorem dropEarly_eq (gone : CollectMsg → Bool) (s : State) :
    ∃ fab early, dropEarly gone s = { s with fab := fab, job := { s.job with early := early } } ∧ SameRoutes s { s with fab := fab } := by
  obtain ⟨fab, freed, routes⟩ := foldl_freeMsgs (s.job.early.filter (fun e => gone e.msg))
    { s with job := { s.job with early := s.job.early.filter (fun e => !gone e.msg) } }
  exact ⟨fab, _, freed, routes⟩

/-! ### The end of a run -/

/-- No request waits for a boundary: SLEEP, DEBUG_OPEN, STOP or an activation. -/
structure NoRequests (s : State) : Prop where
  sleep : s.power.sleepReq = false
  debug : s.trust.debugWait = none
  stop : s.gw.stopCmd = none
  image : s.gw.image = none

theorem boundaryRequests_quiet {s : State} (h : NoRequests s) : boundaryRequests s = s := by
  have debug : serveDebug s = s := by rw [serveDebug, h.debug]
  have activate : serveActivate s = s := by rw [serveActivate, h.image]
  rw [boundaryRequests, debug, activate]
  exact if_neg (by simp [h.sleep])

theorem completeStop_quiet {s : State} (h : NoRequests s) : completeStop s = s := by rw [completeStop, h.stop]

/-- No fence waits for the boundary. -/
def NoFences (s : State) : Prop := ∀ g ∈ s.regions, g.pendingFence = none

theorem idleFences_of_none {s : State} (h : NoFences s) : idleFences s = s :=
  List.foldl_fixed' (fun r => by
    have pending := region_of_all (P := fun g => g.pendingFence = none) h rfl r
    simp only [pending]) _

/-- Outside a pair the fences that waited change the regions and the recorder. -/
theorem foldl_fences_alone (l : List Nat) {s : State} (alone : inPair s = false) : ∃ g rec,
    l.foldl (fun s r => match (region s r).pendingFence with | some c => fenceMark r c false s | none => s) s =
      { s with regions := g, log := rec } := by
  induction l generalizing s with
  | nil => exact ⟨s.regions, s.log, rfl⟩
  | cons r l ih =>
    rw [List.foldl_cons]
    split
    · next c _ =>
      rw [fenceMark_alone alone]
      exact ih (s := record _ _ _) alone
    · exact ih alone

theorem idleFences_alone {s : State} (alone : inPair s = false) :
    ∃ g rec, idleFences s = { s with regions := g, log := rec } ∧ (NoFences s → rec = s.log) := by
  obtain ⟨g, rec, fenced⟩ := foldl_fences_alone (List.range 64) alone
  exact ⟨g, rec, fenced, fun h => (congrArg State.log fenced).symm.trans (congrArg State.log (idleFences_of_none h))⟩

theorem returnRegions_eq {s : State} (alone : inPair s = false) : ∃ g, returnRegions s = { s with regions := g } := by
  cases h : s.regions.any Region.returning with
  | true => exact ⟨_, returnRegions_alone alone h⟩
  | false => exact ⟨s.regions, if_neg (by simp [h])⟩

theorem settleDoze_eq (s : State) : ∃ p, settleDoze s = { s with power := { s.power with state := p } } := by
  unfold settleDoze
  split <;> exact ⟨_, rfl⟩

theorem settleBoost_eq (s : State) : ∃ p g, settleBoost s = { s with power := { s.power with state := p }, regions := g } ∧
    (NoFences s → NoFences (settleBoost s)) := by
  have fences : NoFences s → NoFences (settleBoost s) :=
    fun h => settleBoost_of_all (P := fun g => g.pendingFence = none) h fun _ _ h => h
  have changed : ∃ p g, settleBoost s = { s with power := { s.power with state := p }, regions := g } := by
    unfold settleBoost
    split
    · split <;> exact ⟨_, _, rfl⟩
    · split <;> exact ⟨_, _, rfl⟩
    · exact ⟨_, _, rfl⟩
  obtain ⟨p, g, h⟩ := changed
  exact ⟨p, g, h, fences⟩

theorem noteRelower_eq (b : Bool) (s : State) : ∃ x, noteRelower b s = { s with seq := { s.seq with relower := x } } := by
  unfold noteRelower
  split <;> exact ⟨_, rfl⟩

/-- The sequencer after a run: its slot LOADED, and no row held. -/
def endedSeq (b : Bool) (relower : Option Bool) (s : State) : Seq :=
  { (onSlot b (fun sl => { sl with state := .loaded }) s).seq with run := none, held := [], relower := relower }

/-- What `closeRun` does before it completes the commands. -/
def endRun (r : ActiveRun) (s : State) : State :=
  let s := onSlot r.slot (fun sl => { sl with state := .loaded }) (noteRelower r.slot s)
  settleDoze (returnRegions (idleFences (settleBoost { s with seq := { s.seq with run := none, held := [] } })))

theorem closeRun_eq (r : ActiveRun) (slot : Bool) (row : Nat) (status code : BitVec 16) (s : State) : closeRun r slot row status code s =
    boundaryRequests (completeStop (if r.req = farReq then endRun r s
      else completeAs r.req 0x36 status 0 (runPayload (endRun r s) slot row code) (endRun r s))) := rfl

theorem endRun_alone {s : State} (alone : inPair s = false) (r : ActiveRun) : ∃ x p g rec, endRun r s =
    { s with seq := endedSeq r.slot x s, power := { s.power with state := p }, regions := g, log := rec } ∧ (NoFences s → rec = s.log) := by
  obtain ⟨x, relowered⟩ := noteRelower_eq r.slot s
  have ended : ({ onSlot r.slot (fun sl => { sl with state := .loaded }) (noteRelower r.slot s) with
      seq := { (onSlot r.slot (fun sl => { sl with state := .loaded }) (noteRelower r.slot s)).seq with run := none, held := [] } } : State) =
        { s with seq := endedSeq r.slot x s } := by
    rw [relowered]
    cases r.slot <;> rfl
  obtain ⟨p, g, boosted, fences⟩ := settleBoost_eq { s with seq := endedSeq r.slot x s }
  obtain ⟨g', rec, fenced, logged⟩ := idleFences_alone (s := settleBoost { s with seq := endedSeq r.slot x s }) (by rw [boosted]; exact alone)
  obtain ⟨g'', returned⟩ := returnRegions_eq (s := idleFences (settleBoost { s with seq := endedSeq r.slot x s }))
    (by rw [fenced, boosted]; exact alone)
  obtain ⟨p', dozed⟩ := settleDoze_eq (returnRegions (idleFences (settleBoost { s with seq := endedSeq r.slot x s })))
  refine ⟨x, p', g'', rec, ?_, fun h => (logged (fences h)).trans (settleBoost_log _)⟩
  rw [endRun, ended, dozed, returned, fenced, boosted]

/-- The completion of a run's RUN, which the other half's gangway gives where it carries the run. -/
def runDone (r : ActiveRun) (slot : Bool) (row : Nat) (status code : BitVec 16) (s : State) : List Completion :=
  if r.req = farReq then [] else [completionOf s r.req 0x36 status 0 (runPayload s slot row code)]

theorem runDone_congr {s t : State} (sessions : t.gw.sessions = s.gw.sessions) (step : t.seq.step = s.seq.step) (r : ActiveRun) (slot : Bool)
    (row : Nat) (status code : BitVec 16) : runDone r slot row status code t = runDone r slot row status code s := by
  simp only [runDone, completionOf_congr sessions, runPayload, step]

theorem closeRun_quiet {s : State} (alone : inPair s = false) (quiet : NoRequests s) (r : ActiveRun) (slot : Bool) (row : Nat)
    (status code : BitVec 16) : ∃ x p g rec, closeRun r slot row status code s =
      { s with seq := endedSeq r.slot x s, power := { s.power with state := p }, regions := g, log := rec,
               gw := { s.gw with held := s.gw.held ++ runDone r slot row status code s } } ∧ (NoFences s → rec = s.log) := by
  obtain ⟨x, p, g, rec, ended, logged⟩ := endRun_alone alone r
  have step : (endRun r s).seq.step = s.seq.step := by rw [ended]; cases h : r.slot <;> rfl
  have payload : runPayload (endRun r s) slot row code = runPayload s slot row code := by rw [runPayload, step]; rfl
  have sessions : (endRun r s).gw.sessions = s.gw.sessions := by rw [ended]
  have completed : (if r.req = farReq then endRun r s else completeAs r.req 0x36 status 0 (runPayload (endRun r s) slot row code) (endRun r s)) =
      { endRun r s with gw := { s.gw with held := s.gw.held ++ runDone r slot row status code s } } := by
    by_cases far : r.req = farReq
    · simp only [if_pos far, runDone, List.append_nil, ended]
    · simp only [if_neg far, runDone, completeAs, completionOf_congr sessions, payload, Machine.hold]
      rw [ended]
  have still : NoRequests { endRun r s with gw := { s.gw with held := s.gw.held ++ runDone r slot row status code s } } := by
    rw [ended]; exact ⟨quiet.sleep, quiet.debug, quiet.stop, quiet.image⟩
  refine ⟨x, p, g, rec, ?_, logged⟩
  rw [closeRun_eq, completed, completeStop_quiet still, boundaryRequests_quiet still, ended]

/-! ### The members hear of a halt -/

theorem tellGroup_eq (g : Nat) (b : Body) (s : State) : ∃ fab, tellGroup g b s = { s with fab := fab } := by
  have told : ∀ (l : List Nat) (s : State), ∃ fab,
      l.foldl (fun s r => sendNotice (rankNode (rankEntry s r)) b s) s = { s with fab := fab } := by
    intro l
    induction l with
    | nil => exact fun s => ⟨s.fab, rfl⟩
    | cons k l ih =>
      intro s
      rw [List.foldl_cons]
      rcases sendNotice_cases (rankNode (rankEntry s k)) b s with unsent | ⟨hop, -, sent⟩
      · rw [unsent]; exact ih s
      · rw [sent]; exact ih _
  exact told _ s

/-- Every other present member has a route. -/
def AllRouted (s : State) : Prop := ∀ k ∈ otherMembers s 0, (nextHop s (myNode s) (rankNode (rankEntry s k)) none).isSome = true

theorem AllRouted.of_sameRoutes {s t : State} (h : AllRouted s) (routes : SameRoutes s t) (members : otherMembers t 0 = otherMembers s 0)
    (ranks : t.job.rankTable = s.job.rankTable) : AllRouted t := fun k hk => by
  rw [routes.nextHop, routes.myNode, rankEntry, ranks]
  exact h k (members ▸ hk)

/-- Telling the members changes the fabric and, for a member without a route, the recorder. -/
theorem tellHalted_eq (cause : BitVec 16) (s : State) :
    ∃ fab rec, tellHalted cause s = { s with fab := fab, log := rec } ∧ (AllRouted s → rec = s.log) := by
  have lost : ∀ (l : List Nat) (s : State), ∃ fab rec, l.foldl (fun s r => tellGroup 0 (.lost r (rankNode (rankEntry s r)))
      (record Code.noRoute (leBytes 2 (rankNode (rankEntry s r)).toNat ++ leBytes 1 (firstPort s (rankNode (rankEntry s r)))) s)) s =
        { s with fab := fab, log := rec } := by
    intro l
    induction l with
    | nil => exact fun s => ⟨s.fab, s.log, rfl⟩
    | cons k l ih =>
      intro s
      obtain ⟨fab, told⟩ := tellGroup_eq 0 (.lost k (rankNode (rankEntry s k)))
        (record Code.noRoute (leBytes 2 (rankNode (rankEntry s k)).toNat ++ leBytes 1 (firstPort s (rankNode (rankEntry s k)))) s)
      rw [List.foldl_cons, told]
      exact ih _
  obtain ⟨fab, told⟩ := tellGroup_eq 0 (.halted s.job.myRank (myNode s) cause) s
  obtain ⟨fab', rec, unrouted⟩ := lost ((otherMembers s 0).filter (fun k => (nextHop s (myNode s) (rankNode (rankEntry s k)) none).isNone))
    (tellGroup 0 (.halted s.job.myRank (myNode s) cause) s)
  refine ⟨fab', rec, unrouted.trans (by rw [told]), fun routed => ?_⟩
  have noneLost : (otherMembers s 0).filter (fun k => (nextHop s (myNode s) (rankNode (rankEntry s k)) none).isNone) = [] := by
    refine List.filter_eq_nil_iff.mpr fun k hk => ?_
    simp [Option.isNone_iff_eq_none, Option.isSome_iff_ne_none.mp (routed k hk)]
  rw [noneLost, List.foldl_nil, told] at unrouted
  exact (congrArg State.log unrouted).symm

/-! ### The halt -/

/-- What a halt leaves of the run's state: the sequencer at rest with the halt noted, accumulators lost, RUN completed. -/
structure HaltedAs (r : ActiveRun) (h : Halt) (s t : State) : Prop where
  seq : ∃ x, t.seq = { endedSeq r.slot x s with
    haltCause := h.cause, haltSlot := h.slot, haltRow := BitVec.ofNat 14 h.row, haltEntry := some (r.slot, r.stepEntry), tiles := [] }
  mem : t.mem = { s.mem with acc := [], accBad := [], era := s.mem.era + 1 }
  gw : t.gw = { s.gw with runstate := .halted, held := s.gw.held ++ runDone r h.slot h.row h.cause h.code s }
  trust : t.trust = s.trust
  log : NoFences s → AllRouted s → t.log = s.log

/-- The halt is noted and the job's early messages are gone, and the run is not yet closed. -/
def haltNoted (r : ActiveRun) (h : Halt) (s : State) : State :=
  loseAcc { dropEarly (fun _ => true) s with
    seq := { s.seq with haltCause := h.cause, haltSlot := h.slot, haltRow := BitVec.ofNat 14 h.row, haltEntry := some (r.slot, r.stepEntry),
                        tiles := [] }
    job := { (dropEarly (fun _ => true) s).job with contribs := [], arrivals := [], sums := [], ferryNow := [] }
    gw := { s.gw with runstate := .halted } }

theorem finishHalt_eq (r : ActiveRun) (h : Halt) (s : State) :
    finishHalt r h s = tellHalted h.cause (closeRun r h.slot h.row h.cause h.code (haltNoted r h s)) := by
  simp only [finishHalt, haltNoted, dropEarly_seq, dropEarly_gw]

theorem finishHalt_quiet {s : State} (alone : inPair s = false) (quiet : NoRequests s) (r : ActiveRun) (h : Halt) :
    HaltedAs r h s (finishHalt r h s) := by
  obtain ⟨fab, early, dropped, routes⟩ := dropEarly_eq (fun _ => true) s
  have noted : haltNoted r h s = loseAcc { s with
      fab := fab
      seq := { s.seq with haltCause := h.cause, haltSlot := h.slot, haltRow := BitVec.ofNat 14 h.row,
                          haltEntry := some (r.slot, r.stepEntry), tiles := [] }
      job := { s.job with early := early, contribs := [], arrivals := [], sums := [], ferryNow := [] }
      gw := { s.gw with runstate := .halted } } := by rw [haltNoted, dropped]
  obtain ⟨x, p, g, rec, closed, logged⟩ := closeRun_quiet (s := haltNoted r h s) (by rw [noted]; exact alone)
    (by rw [noted]; exact ⟨quiet.sleep, quiet.debug, quiet.stop, quiet.image⟩) r h.slot h.row h.cause h.code
  obtain ⟨fab', rec', told, silent⟩ := tellHalted_eq h.cause (closeRun r h.slot h.row h.cause h.code (haltNoted r h s))
  have completes : runDone r h.slot h.row h.cause h.code (haltNoted r h s) = runDone r h.slot h.row h.cause h.code s :=
    runDone_congr (by rw [noted]; rfl) (by rw [noted]; rfl) _ _ _ _ _
  have seq : endedSeq r.slot x (haltNoted r h s) = { endedSeq r.slot x s with
      haltCause := h.cause, haltSlot := h.slot, haltRow := BitVec.ofNat 14 h.row, haltEntry := some (r.slot, r.stepEntry), tiles := [] } := by
    rw [noted]
    cases r.slot <;> rfl
  have routed : AllRouted s → AllRouted (closeRun r h.slot h.row h.cause h.code (haltNoted r h s)) := fun all =>
    all.of_sameRoutes (by rw [closed, noted]; exact routes) (by rw [closed, noted]; rfl) (by rw [closed, noted]; rfl)
  have fences : NoFences s → NoFences (haltNoted r h s) := fun none => by rw [noted]; exact none
  rw [finishHalt_eq, told]
  refine ⟨⟨x, ?_⟩, ?_, ?_, ?_, fun none all => ?_⟩
  · rw [closed]; exact seq
  · rw [closed, noted]; rfl
  · rw [closed, completes, noted]; rfl
  · rw [closed, noted]; rfl
  · rw [silent (routed all), closed]
    exact (logged (fences none)).trans (by rw [noted]; rfl)

/-- A halt of a run with no row in flight is complete at once. -/
theorem haltWith_flightless {s : State} {r : ActiveRun} (alone : inPair s = false) (run : s.seq.run = some r) (going : r.halting = none)
    (flight : s.seq.flight = []) (cause code : BitVec 16) (row : Nat) : haltWith cause code (some row) false s =
      finishHalt { r with halting := some ⟨cause, r.slot, row, code⟩, abandoning := none, restartAt := none } ⟨cause, r.slot, row, code⟩
        { s with seq := { s.seq with
          run := some { r with halting := some ⟨cause, r.slot, row, code⟩, abandoning := none, restartAt := none }, held := [] } } := by
  simp only [haltWith, run, going, Option.isSome_none, Bool.false_eq_true, if_false, Option.getD_some, sendLash_alone _ _ alone]
  simp only [settleHalt, flight, ne_eq, not_true, if_false]

theorem HaltedAs.of_haltWith {s : State} {r : ActiveRun} (alone : inPair s = false) (quiet : NoRequests s) (run : s.seq.run = some r)
    (going : r.halting = none) (flight : s.seq.flight = []) (cause code : BitVec 16) (row : Nat) :
    HaltedAs r ⟨cause, r.slot, row, code⟩ s (haltWith cause code (some row) false s) := by
  rw [haltWith_flightless alone run going flight]
  obtain ⟨⟨x, seq⟩, mem, gw, trust, log⟩ := finishHalt_quiet (s := { s with seq := { s.seq with
      run := some { r with halting := some ⟨cause, r.slot, row, code⟩, abandoning := none, restartAt := none }, held := [] } }) alone
    ⟨quiet.sleep, quiet.debug, quiet.stop, quiet.image⟩
    { r with halting := some ⟨cause, r.slot, row, code⟩, abandoning := none, restartAt := none } ⟨cause, r.slot, row, code⟩
  refine ⟨⟨x, ?_⟩, mem, gw, trust, log⟩
  rw [seq]
  cases r.slot <;> rfl

/-! ### The HALT row, R174 -/

theorem timetableHalt_eq (slot : Bool) (row layer : Nat) (code : BitVec 16) (s : State) :
    ∃ rec, timetableHalt slot row layer code s = { s with log := rec } := ⟨_, pairEvent_eq _ _ s⟩

theorem afterTest_eq (w : Row) (s : State) : ∃ flags, afterTest w s = { s with seq := { s.seq with flags := flags } } := by
  cases clear : bClr w
  · exact ⟨s.seq.flags, if_neg (by simp [clear])⟩
  · exact ⟨_, if_pos clear⟩

theorem haltEffect_holds {r : ActiveRun} {w : Row} {s : State} (holds : condHolds s w = true) :
    haltEffect (issuing r w s) (goesOnAt r r.next s) = haltWith Status.haltedByRow (bCode w) (some r.next) false
      (timetableHalt r.slot r.next (rowLayer w) (bCode w) (afterTest w (goesOnAt r r.next s))) := if_pos holds

theorem haltEffect_passes {r : ActiveRun} {w : Row} {s : State} (fails : condHolds s w = false) (keeps : bClr w = false) :
    haltEffect (issuing r w s) (goesOnAt r r.next s) = goesOnAt r (r.next + 1) s := by
  have fails' : condHolds (goesOnAt r r.next s) w = false := fails
  simp only [haltEffect, issuing, fails', afterTest, keeps, Bool.false_eq_true, if_false]
  rfl

/-- Settles O35: the halt of a HALT row whose condition holds, and the next row where it does not. -/
theorem haltRowEndsTheRun : Obligations.HaltRowEndsTheRun := by
  intro s r w dt h kind sleep debug stop image own
  obtain ⟨alone, -, -⟩ := h.alone
  obtain ⟨-, going, -⟩ := h.issuing
  obtain ⟨-, flight, -, -⟩ := h.free
  refine ⟨fun holds => ?_, fun fails keeps => ?_⟩
  · obtain ⟨flags, cleared⟩ := afterTest_eq w (goesOnAt r r.next s)
    obtain ⟨rec, recorded⟩ := timetableHalt_eq r.slot r.next (rowLayer w) (bCode w) (afterTest w (goesOnAt r r.next s))
    have halted := HaltedAs.of_haltWith (s := timetableHalt r.slot r.next (rowLayer w) (bCode w) (afterTest w (goesOnAt r r.next s)))
      (r := { r with gap := rowGap (rowAt s r.slot r.next) })
      (by rw [recorded, cleared]; exact alone) (by rw [recorded, cleared]; exact ⟨sleep, debug, stop, image⟩) (by rw [recorded, cleared]; rfl) going
      (by rw [recorded, cleared]; exact flight) Status.haltedByRow (bCode w) r.next
    rw [← haltEffect_holds holds, recorded, cleared] at halted
    obtain ⟨⟨x, seq⟩, mem, gw, trust, -⟩ := halted
    have done : exec (.halt dt) s = .next (settled s (haltEffect (issuing r w s) (goesOnAt r r.next s))) := by
      rw [exec, execHalt, event_holds rfl, controlEvent_atRow h (by simp [kind]) (condWait_atRow h)]
    have completes : (haltEffect (issuing r w s) (goesOnAt r r.next s)).gw.held = s.gw.held ++
        [completionOf s r.req 0x36 Status.haltedByRow 0 (runPayload s r.slot r.next (bCode w))] := by
      rw [gw]
      exact congrArg (s.gw.held ++ ·) ((runDone_congr (s := s) rfl rfl _ _ _ _ _).trans (if_neg own))
    refine ⟨_, done, ?_, ?_, ?_, ?_, ?_, ?_, ?_, ?_, ?_, (settled_held _ _).trans completes, (settled_mem _ _).trans mem, ?_,
      (settled_trust _ _).trans trust⟩
    · rw [settled_runstate, gw]
    all_goals simp only [slotOf, settled_seq, seq]
    all_goals cases r.slot <;> rfl
  · have effect := haltEffect_passes (r := r) fails keeps
    rw [exec_controlRow (i := .halt dt) h rfl (by simp [kind]) (condWait_atRow h) (by rw [effect]; rfl), effect]

end Sys2Proof.Machine

/-! ## O37: BARRIER rows wait for earlier rows or for every member

A BARRIER finds nothing in flight where the sequencer stands, so that one of this module only takes its place. A JOB barrier goes into
flight and tells the members; `settleBarrier` leaves it there while an arrival is missing and takes it out with the last. Its timeout is a
halt that finds nothing else in flight (`HaltedAs.of_haltWith`). -/

namespace Sys2Proof.Machine

/-! ### BARRIER rows issue -/

theorem barrierWait_atRow {s : State} {r : ActiveRun} {w : Row} (h : AtRow s r w) : barrierWait w s = none := by
  obtain ⟨-, flight, -, -⟩ := h.free
  simp [barrierWait, flight]

/-- A commit barrier of the slot's lowering is noted. -/
theorem noteCommit_lowered {s : State} {r : ActiveRun} {l : Lowered} (lowered : (slotOf s r.slot).lowered = some l) (w : Row) :
    noteCommit (issuing r w s) (goesOnAt r r.next s) =
      onRun (fun x => { x with committed := x.committed || l.barriers.contains r.next }) (goesOnAt r r.next s) := by
  have same : (slotOf (goesOnAt r r.next s) r.slot).lowered = some l := lowered
  simp only [noteCommit, issuing, same, Option.any_some]
  cases l.barriers.contains r.next <;> simp [onRun, onSeq, goesOnAt]

theorem noteCommit_loaded {s : State} {r : ActiveRun} (loaded : (slotOf s r.slot).lowered = none) (w : Row) :
    noteCommit (issuing r w s) (goesOnAt r r.next s) = goesOnAt r r.next s := by
  have same : (slotOf (goesOnAt r r.next s) r.slot).lowered = none := loaded
  simp [noteCommit, issuing, same]

theorem barrierEffect_local {c : RowCtx} {s : State} (own : barJob c.bits = false) : barrierEffect c s = pastRow c (noteCommit c s) := by
  simp [barrierEffect, own]

theorem localBarrierRow : Claims.LocalBarrierRow := by
  intro s r w dt h kind own
  have effect := barrierEffect_local (c := issuing r w s) (s := goesOnAt r r.next s) own
  refine ⟨fun loaded => ?_, fun l lowered => ?_⟩
  · rw [noteCommit_loaded loaded] at effect
    rw [exec_controlRow (i := .barrier dt) h rfl (by simp [kind]) (barrierWait_atRow h) (by rw [effect]; rfl), effect]
    rfl
  · rw [noteCommit_lowered lowered] at effect
    rw [exec_controlRow (i := .barrier dt) h rfl (by simp [kind]) (barrierWait_atRow h) (by rw [effect]; rfl), effect, goesOnAt_eq h]
    rfl

/-! ### JOB barriers: arrivals of the members, R173 -/

theorem settleBarrier_of_noBarrier {s : State} (h : ∀ f ∈ s.seq.flight, f.stage ≠ .barrier) : settleBarrier s = s := by
  have unfound : s.seq.flight.find? (fun f => f.stage = .barrier) = none := by simpa using h
  rw [settleBarrier, unfound]

section
variable {s : State} {f : Flight} (flight : s.seq.flight = [f]) (stage : f.stage = .barrier)
include flight stage

theorem barrierInFlight : s.seq.flight.find? (fun f => f.stage = .barrier) = some f := by simp [flight, stage]

theorem settleBarrier_of_missing {a : BitVec 12 × BitVec 32 × Nat × Nat} (needed : a ∈ barrierNeeds s f.bits) (missing : a ∉ s.job.arrivals) :
    settleBarrier s = s := by
  have incomplete : (barrierNeeds s f.bits).all (fun a => s.job.arrivals.contains a) = false :=
    List.all_eq_false.mpr ⟨a, needed, by simpa using missing⟩
  simp only [settleBarrier, barrierInFlight flight stage, incomplete, Bool.false_eq_true, if_false]

/-- With the last arrival the barrier leaves flight, and takes its arrivals with it. -/
theorem settleBarrier_of_complete {r : ActiveRun} (run : s.seq.run = some r) (going : r.halting = none) (staying : r.restartAt = none)
    (complete : ∀ a ∈ barrierNeeds s f.bits, a ∈ s.job.arrivals) : settleBarrier s = onSeq (fun q => { q with flight := [] })
      { s with job := { s.job with arrivals := (barrierNeeds s f.bits).foldl (fun l a => l.erase a) s.job.arrivals } } := by
  have all : (barrierNeeds s f.bits).all (fun a => s.job.arrivals.contains a) = true :=
    List.all_eq_true.mpr fun a ha => List.contains_iff_mem.mpr (complete a ha)
  have settles : settleBarrier s = leaveFlight f.id
      { s with job := { s.job with arrivals := (barrierNeeds s f.bits).foldl (fun l a => l.erase a) s.job.arrivals } } := by
    simp only [settleBarrier, barrierInFlight flight stage, all, if_true]
  rw [settles]
  exact leaveFlight_last flight run going staying

end

/-- The state in which a JOB barrier waits for the members. -/
def awaitMembers (r : ActiveRun) (w : Row) (s : State) : State :=
  onSeq (fun q => { q with nextId := q.nextId + 1, flight := q.flight ++ [inFlight (issuing r w s) .barrier 0 []] })
    (goesOnAt r (r.next + 1) s)

/-- A module outside a pair tells the group that it stands at the barrier. -/
theorem barrierEffect_job {s : State} {r : ActiveRun} {w : Row} (solo : s.pair.role = .solo) (going : r.halting = none)
    (job : barJob w = true) (loaded : (slotOf s r.slot).lowered = none) : barrierEffect (issuing r w s) (goesOnAt r r.next s) =
      settleBarrier (sendGroup (barGroup w) none (.barrier (BitVec.ofNat 12 (barGroup w)) (barTag w)
        (positionIn (awaitMembers r w s) (barGroup w)) s.seq.step (attemptNow (awaitMembers r w s))) (awaitMembers r w s)) := by
  have waiting : controlFlight (issuing r w s) .barrier (goesOnAt r (r.next + 1) s) = awaitMembers r w s := controlFlight_going rfl going
  have past : pastRow (issuing r w s) (goesOnAt r r.next s) = goesOnAt r (r.next + 1) s := rfl
  have role : (awaitMembers r w s).pair.role = .solo := solo
  have job' : barJob (issuing r w s).bits = true := job
  simp only [barrierEffect, noteCommit_loaded loaded, past, waiting, job', role, Bool.not_true, Bool.false_eq_true, reduceCtorEq, if_false]
  rfl

theorem exec_barrier_job {s : State} {r : ActiveRun} {w : Row} (h : AtRow s r w) (kind : rowKind w = 11) (job : barJob w = true)
    (solo : s.pair.role = .solo) (loaded : (slotOf s r.slot).lowered = none)
    (routed : ∀ k ∈ otherMembers s (barGroup w), (nextHop s (myNode s) (rankNode (rankEntry s k)) none).isSome = true)
    (unheard : s.job.arrivals = []) (others : otherPositions s (barGroup w) ≠ []) (dt : Nat) :
    ∃ fab, exec (.barrier dt) s = .next { awaitMembers r w s with fab := fab } := by
  obtain ⟨-, going, -⟩ := h.issuing
  obtain ⟨-, flight, -, -⟩ := h.free
  obtain ⟨k, other⟩ := List.exists_mem_of_ne_nil _ others
  obtain ⟨fab, sent⟩ := foldl_send_routed (.barrier (BitVec.ofNat 12 (barGroup w)) (barTag w) (positionIn (awaitMembers r w s) (barGroup w))
    s.seq.step (attemptNow (awaitMembers r w s))) (otherMembers s (barGroup w)) (awaitMembers r w s) routed
  have here : (awaitMembers r w s).seq.flight = [inFlight (issuing r w s) .barrier 0 []] := by simp [awaitMembers, goesOnAt, flight]
  have waiting : settleBarrier { awaitMembers r w s with fab := fab } = { awaitMembers r w s with fab := fab } :=
    settleBarrier_of_missing here rfl (List.mem_map_of_mem other) (by
      have none_yet : ({ awaitMembers r w s with fab := fab } : State).job.arrivals = [] := unheard
      rw [none_yet]; exact List.not_mem_nil)
  have effect : barrierEffect (issuing r w s) (goesOnAt r r.next s) = { awaitMembers r w s with fab := fab } :=
    (barrierEffect_job solo going job loaded).trans ((congrArg settleBarrier sent).trans waiting)
  refine ⟨fab, ?_⟩
  rw [exec_controlRow (i := .barrier dt) h rfl (by simp [kind]) (barrierWait_atRow h) (by rw [effect]; rfl), effect]

/-! ### A member arrives -/

/-- An arrival comes in after those there are. -/
def addArrival (a : BitVec 12 × BitVec 32 × Nat × Nat) (s : State) : State :=
  { s with job := { s.job with arrivals := s.job.arrivals ++ [a] } }

section
variable {s : State} {g : BitVec 12} {tag : BitVec 32} {position : Nat} {step : BitVec 48} {attempt : Nat}

theorem exec_barrierArrival (started : s.job.started = true) : exec (.barrierArrival g tag position step attempt) s =
    .next (settled s (barrierArrival g tag position step attempt s)) := event_holds started _ s

theorem barrierArrival_of_older (h : older s step attempt = true) : barrierArrival g tag position step attempt s = s := if_pos h

theorem barrierArrival_of_current (h : older s step attempt = false) (solo : s.pair.role = .solo) :
    barrierArrival g tag position step attempt s = settleBarrier (addArrival (g, tag, position, attempt) s) := by
  simp only [barrierArrival, h, Bool.false_eq_true, if_false, echo, solo]
  rfl

end

theorem mem_barrierNeeds {s : State} {w : Row} {a : BitVec 12 × BitVec 32 × Nat × Nat} : a ∈ barrierNeeds s w ↔
    ∃ k ∈ otherPositions s (barGroup w), (BitVec.ofNat 12 (barGroup w), barTag w, k, attemptNow s) = a := by
  simp only [barrierNeeds, List.mem_map]

/-- The last arrival completes the barrier in flight. -/
theorem exec_barrierArrival_completes {s : State} {f : Flight} {r : ActiveRun} {g : BitVec 12} {tag : BitVec 32} {position : Nat}
    (solo : s.pair.role = .solo) (started : s.job.started = true) (flight : s.seq.flight = [f]) (stage : f.stage = .barrier)
    (run : s.seq.run = some r) (going : r.halting = none) (staying : r.restartAt = none)
    (heard : ∀ k ∈ otherPositions s (barGroup f.bits),
      (BitVec.ofNat 12 (barGroup f.bits), barTag f.bits, k, r.attempt) ∈ s.job.arrivals ++ [(g, tag, position, r.attempt)]) :
    ∃ l, exec (.barrierArrival g tag position s.seq.step r.attempt) s = .next { s with
      seq := { s.seq with flight := [] }, job := { s.job with arrivals := l } } := by
  have now : attemptNow s = r.attempt := by simp [attemptNow, run]
  have complete : ∀ a ∈ barrierNeeds (addArrival (g, tag, position, r.attempt) s) f.bits, a ∈ s.job.arrivals ++ [(g, tag, position, r.attempt)] := by
    intro a ha
    obtain ⟨k, hk, rfl⟩ := mem_barrierNeeds.mp ha
    rw [show attemptNow (addArrival (g, tag, position, r.attempt) s) = r.attempt from now]
    exact heard k hk
  have effect : barrierArrival g tag position s.seq.step r.attempt s = settleBarrier (addArrival (g, tag, position, r.attempt) s) :=
    barrierArrival_of_current (now ▸ older_of_now s) solo
  rw [settleBarrier_of_complete (s := addArrival _ s) flight stage run going staying complete] at effect
  refine ⟨(barrierNeeds (addArrival (g, tag, position, r.attempt) s) f.bits).foldl (fun l a => l.erase a)
    (s.job.arrivals ++ [(g, tag, position, r.attempt)]), ?_⟩
  rw [exec_barrierArrival started, effect]
  exact congrArg _ (settled_eq rfl)

/-! ### The timeout -/

theorem barGroup_toNat (w : Row) : (BitVec.ofNat 12 (barGroup w)).toNat = barGroup w := by
  rw [BitVec.toNat_ofNat]
  exact Nat.mod_eq_of_lt (Nat.mod_lt _ (by decide))

/-- Members that have arrived at a barrier in flight. -/
theorem length_heard (s : State) (w : Row) : ((barrierNeeds s w).filter (fun a => s.job.arrivals.contains a)).length =
    ((otherPositions s (barGroup w)).filter (fun k => s.job.arrivals.contains
      (BitVec.ofNat 12 (barGroup w), barTag w, k, attemptNow s))).length := by
  rw [barrierNeeds, List.filter_map, List.length_map]
  rfl

/-- The record of a barrier that ran out of time. -/
def timeoutRecord (w : Row) (s : State) : List Byte :=
  leBytes 2 (barGroup w) ++ wordBytes (barTag w) ++ leBytes 8 ((barrierNeeds s w).filter (fun a => s.job.arrivals.contains a)).length

/-- The barrier in flight has run out of time: its record, and a halt at its row. -/
theorem barrierTimeout_halts {s : State} {f : Flight} (flight : s.seq.flight = [f]) (stage : f.stage = .barrier)
    (solo : s.pair.role = .solo) : barrierTimeout (BitVec.ofNat 12 (barGroup f.bits)) (barTag f.bits) s =
      haltWith Status.barrierTimeout 0 (some f.row) false
        (onSeq (fun q => { q with flight := [] }) (record Code.barrierTimeout (timeoutRecord f.bits s) s)) := by
  have found : s.seq.flight.find? (fun h => h.stage = .barrier && barGroup h.bits = barGroup f.bits && barTag h.bits = barTag f.bits) =
      some f := by simp [flight, stage]
  have left : onSeq (fun q => { q with flight := q.flight.filter (fun h => h.id != f.id) })
      (record Code.barrierTimeout (timeoutRecord f.bits s) s) =
        onSeq (fun q => { q with flight := [] }) (record Code.barrierTimeout (timeoutRecord f.bits s) s) := by
    simp [onSeq, record, flight]
  simp only [barrierTimeout, barGroup_toNat, found, pairEvent, solo, haltAt]
  exact congrArg (haltWith Status.barrierTimeout 0 (some f.row) false) left

theorem barrierTimeout_of_noBarrier {s : State} (h : ∀ f ∈ s.seq.flight, f.stage ≠ .barrier) (g : BitVec 12) (tag : BitVec 32) :
    barrierTimeout g tag s = s := by
  have unfound : s.seq.flight.find? (fun f => f.stage = .barrier && barGroup f.bits = g.toNat && barTag f.bits = tag) = none := by
    refine List.find?_eq_none.mpr fun f hf => ?_
    simp [h f hf]
  rw [barrierTimeout, unfound]

theorem exec_barrierTimeout (g : BitVec 12) (tag : BitVec 32) (s : State) :
    exec (.barrierTimeout g tag) s = .next (settled s (barrierTimeout g tag s)) := event_holds rfl _ s

theorem jobBarrierWaitsForEveryMember : Claims.JobBarrierWaitsForEveryMember := by
  intro s solo started
  have alone := alone_of_solo solo
  refine ⟨fun r w dt h kind job loaded routed unheard others => ?_, fun g tag position step attempt => ⟨?_, ?_, ?_⟩,
    fun f r flight stage run going sleep debug image stop fences routed => ?_, fun noBarrier g tag => ?_⟩
  · obtain ⟨fab, done⟩ := exec_barrier_job h kind job solo loaded routed unheard others dt
    obtain ⟨-, flight, -, -⟩ := h.free
    refine ⟨_, done, ?_, rfl, rfl, rfl, rfl, rfl⟩
    simp only [awaitMembers, onSeq, goesOnAt, h.row, flight, List.nil_append]
  · intro earlier
    rw [exec_barrierArrival started, barrierArrival_of_older (older_of_earlier earlier attempt), settled_self]
  · intro later noBarrier
    rw [exec_barrierArrival started, barrierArrival_of_current (older_of_later later attempt) solo,
      settleBarrier_of_noBarrier (s := addArrival _ s) noBarrier]
    exact congrArg _ (settled_eq rfl)
  · rintro f r flight stage run going staying rfl rfl heard
    obtain ⟨l, done⟩ := exec_barrierArrival_completes solo started flight stage run going staying heard
    exact ⟨_, done, rfl, rfl, rfl, rfl, rfl, rfl⟩
  · have now : attemptNow s = r.attempt := by simp [attemptNow, run]
    have halted := HaltedAs.of_haltWith
      (s := onSeq (fun q => { q with flight := [] }) (record Code.barrierTimeout (timeoutRecord f.bits s) s)) alone
      ⟨sleep, debug, stop, image⟩ run going rfl Status.barrierTimeout 0 f.row
    rw [← barrierTimeout_halts flight stage solo] at halted
    obtain ⟨⟨x, seq⟩, -, gw, -, log⟩ := halted
    have logged : (barrierTimeout (BitVec.ofNat 12 (barGroup f.bits)) (barTag f.bits) s).log =
        s.log.push (s.log.stamp Code.barrierTimeout 0 (timeoutRecord f.bits s)) := log fences routed
    refine ⟨_, exec_barrierTimeout _ _ s, ?_, ?_, ?_, ?_, ?_, ?_, ?_⟩
    · rw [settled_runstate, gw]
    case refine_7 => rw [settled_log, logged, timeoutRecord, length_heard, now]
    all_goals simp only [settled_seq, seq]
    all_goals cases r.slot <;> rfl
  · rw [exec_barrierTimeout, barrierTimeout_of_noBarrier noBarrier, settled_self]

/-- Settles O37: a local barrier takes its place, and a JOB barrier waits, completes with the last arrival, or halts at its timeout. -/
theorem barriersWait : Obligations.BarriersWait := ⟨localBarrierRow, jobBarrierWaitsForEveryMember⟩

end Sys2Proof.Machine

/-! ## O49: plans are checked against the tiers and lowered into a slot

A spill and a raise are one walk over tensors in an order (`moveTensors_moves`), and the order of raises is that of spills turned round
(`raiseBefore_eq`), so that both orders come from one transitivity of bytes read per byte (`spillBefore_trans`). A lowering that counts
has passed `accepted`, whose checks give each PASS row its passage (`servesPlan_pass`) and its cover units (`coverOk_of_promiseOk`).
Outside a pair no move list lies elsewhere and nobody else hears of a slot, so that CHECK_PLAN and LOWER end at once. -/

namespace Sys2Proof.Machine

/-! ### The order in which tensors move, spec/09_memory.md R212, R213 -/

/-- Bytes that tensors take in their tier. -/
def allocOf (l : List TensorUse) : Nat := (l.map TensorUse.alloc).sum

/-- No tensor goes before one that stands ahead of it. -/
def InOrder (before : TensorUse → TensorUse → Bool) (l : List TensorUse) : Prop := l.Pairwise (fun a b => before b a = false)

theorem insertBy_eq (before : TensorUse → TensorUse → Bool) (t : TensorUse) (l : List TensorUse) :
    insertBy before t l = l.orderedInsert (fun a b => before a b = true) t := by
  induction l with
  | nil => rfl
  | cons u l ih => rw [insertBy, List.orderedInsert, ih]

theorem foldr_insertBy_perm (before : TensorUse → TensorUse → Bool) (l : List TensorUse) : (l.foldr (insertBy before) []).Perm l := by
  rw [show insertBy before = List.orderedInsert (fun a b => before a b = true) from funext₂ (insertBy_eq before)]
  exact l.perm_insertionSort _

section
variable {before : TensorUse → TensorUse → Bool} {P : TensorUse → Prop}
  (asymm : ∀ a b, before a b = true → before b a = false)
  (trans : ∀ a b c, P a → P b → P c → before b a = false → before c b = false → before c a = false)
include asymm trans

theorem insertBy_inOrder {t : TensorUse} (pt : P t) {l : List TensorUse} (pl : ∀ u ∈ l, P u) (h : InOrder before l) :
    InOrder before (insertBy before t l) := by
  induction l with
  | nil => exact List.pairwise_singleton _ t
  | cons u l ih =>
    obtain ⟨ahead, rest⟩ := List.pairwise_cons.mp h
    have pu := pl u List.mem_cons_self
    have pl' : ∀ x ∈ l, P x := fun x hx => pl x (List.mem_cons_of_mem u hx)
    rw [insertBy]
    by_cases first : before t u = true
    · have behind := asymm t u first
      rw [if_pos first]
      refine List.pairwise_cons.mpr ⟨List.forall_mem_cons.mpr ⟨behind, fun x hx => ?_⟩, h⟩
      exact trans t u x pt pu (pl' x hx) behind (ahead x hx)
    · rw [if_neg first]
      refine List.pairwise_cons.mpr ⟨fun x hx => ?_, ih pl' rest⟩
      rw [insertBy_eq, List.mem_orderedInsert] at hx
      rcases hx with rfl | hx
      · exact Bool.eq_false_iff.mpr first
      · exact ahead x hx

theorem foldr_insertBy_inOrder {l : List TensorUse} (pl : ∀ u ∈ l, P u) : InOrder before (l.foldr (insertBy before) []) := by
  induction l with
  | nil => exact List.Pairwise.nil
  | cons t l ih =>
    obtain ⟨pt, pl⟩ := List.forall_mem_cons.mp pl
    exact insertBy_inOrder asymm trans pt (fun u hu => pl u ((foldr_insertBy_perm before l).mem_iff.mp hu)) (ih pl)

end

theorem spillBefore_eq_false_iff (a b : TensorUse) : spillBefore b a = false ↔
    a.reads * b.alloc ≤ b.reads * a.alloc ∧ (a.reads * b.alloc = b.reads * a.alloc → b.ident.toNat ≤ a.ident.toNat) := by
  simp only [spillBefore, Bool.or_eq_false_iff, Bool.and_eq_false_imp, decide_eq_true_eq, decide_eq_false_iff_not, not_lt,
    eq_comm (a := b.reads * a.alloc)]

theorem spillBefore_asymm (a b : TensorUse) (h : spillBefore a b = true) : spillBefore b a = false := by
  simp only [spillBefore, Bool.or_eq_true, Bool.and_eq_true, decide_eq_true_eq] at h
  rw [spillBefore_eq_false_iff]
  omega

/-- What is read no more of its bytes than a second tensor, and that no more than a third, is read no more than the third. -/
theorem spillBefore_trans (a b c : TensorUse) (pa : 0 < a.alloc) (pb : 0 < b.alloc) (pc : 0 < c.alloc)
    (hab : spillBefore b a = false) (hbc : spillBefore c b = false) : spillBefore c a = false := by
  rw [spillBefore_eq_false_iff] at *
  obtain ⟨leAB, tieAB⟩ := hab
  obtain ⟨leBC, tieBC⟩ := hbc
  have first : a.reads * b.alloc * c.alloc ≤ b.reads * a.alloc * c.alloc := Nat.mul_le_mul_right _ leAB
  have second : b.reads * c.alloc * a.alloc ≤ c.reads * b.alloc * a.alloc := Nat.mul_le_mul_right _ leBC
  refine ⟨Nat.le_of_mul_le_mul_right (c := b.alloc) (by linarith) pb, fun tie => ?_⟩
  have tie' : a.reads * c.alloc * b.alloc = c.reads * a.alloc * b.alloc := congrArg (· * b.alloc) tie
  have sameAB := Nat.eq_of_mul_eq_mul_right pc (show a.reads * b.alloc * c.alloc = b.reads * a.alloc * c.alloc by linarith)
  have sameBC := Nat.eq_of_mul_eq_mul_right pa (show b.reads * c.alloc * a.alloc = c.reads * b.alloc * a.alloc by linarith)
  exact (tieBC sameBC).trans (tieAB sameAB)

/-- Tensors are raised in the order opposite to that of spills. -/
theorem raiseBefore_eq (a b : TensorUse) : raiseBefore a b = spillBefore b a := by
  simp only [raiseBefore, spillBefore, eq_comm (a := a.reads * b.alloc)]

/-- The L1 tensors in the order of R212. -/
def spillOrder (l : List TensorUse) : List TensorUse := (l.filter (fun t => t.level = 1)).foldr (insertBy spillBefore) []

/-- The L2 tensors in the order of R213. -/
def raiseOrder (l : List TensorUse) : List TensorUse := (l.filter (fun t => t.level = 2)).foldr (insertBy raiseBefore) []

theorem mem_spillOrder {l : List TensorUse} {t : TensorUse} : t ∈ spillOrder l ↔ t ∈ l ∧ t.level = 1 := by
  rw [spillOrder, (foldr_insertBy_perm _ _).mem_iff, List.mem_filter, decide_eq_true_iff]

theorem mem_raiseOrder {l : List TensorUse} {t : TensorUse} : t ∈ raiseOrder l ↔ t ∈ l ∧ t.level = 2 := by
  rw [raiseOrder, (foldr_insertBy_perm _ _).mem_iff, List.mem_filter, decide_eq_true_iff]

theorem spillOrder_inOrder {l : List TensorUse} (pos : ∀ t ∈ l, 0 < t.alloc) : InOrder spillBefore (spillOrder l) :=
  foldr_insertBy_inOrder spillBefore_asymm spillBefore_trans fun t ht => pos t (List.mem_of_mem_filter ht)

theorem raiseOrder_inOrder {l : List TensorUse} (pos : ∀ t ∈ l, 0 < t.alloc) : InOrder raiseBefore (raiseOrder l) := by
  refine foldr_insertBy_inOrder (P := fun t => 0 < t.alloc) (fun a b h => ?_) (fun a b c pa pb pc hab hbc => ?_)
    fun t ht => pos t (List.mem_of_mem_filter ht)
  · rw [raiseBefore_eq] at *; exact spillBefore_asymm b a h
  · rw [raiseBefore_eq] at *; exact spillBefore_trans c b a pc pb pa hbc hab

/-! ### What a spill or a raise moves -/

/-- Tensors move in the order given, some passed over: each leaves its tier for the other, which never overflows. -/
theorem moveTensors_moves (capFrom capTo : Nat) (l : List TensorUse) (m : Moved) (fits : m.got ≤ capTo) :
    ∃ k, k.Sublist l ∧ (moveTensors capFrom capTo l m).moved = m.moved ++ k ∧
      (moveTensors capFrom capTo l m).left = m.left - allocOf k ∧ m.got + allocOf k ≤ capTo := by
  induction l generalizing m with
  | nil => exact ⟨[], .slnil, (List.append_nil _).symm, rfl, fits⟩
  | cons t l ih =>
    rw [moveTensors, List.foldl_cons]
    by_cases enough : m.left ≤ capFrom
    · obtain ⟨k, sub, rest⟩ := ih m fits
      rw [if_pos enough]
      exact ⟨k, sub.cons t, rest⟩
    · rw [if_neg enough]
      by_cases full : capTo < m.got + t.alloc
      · obtain ⟨k, sub, rest⟩ := ih { m with passed := some (min t.alloc (m.passed.getD t.alloc)) } fits
        rw [if_pos full]
        exact ⟨k, sub.cons t, rest⟩
      · obtain ⟨k, sub, moved, left, got⟩ :=
          ih { m with left := m.left - t.alloc, got := m.got + t.alloc, moved := m.moved ++ [t] } (Nat.le_of_not_lt full)
        rw [if_neg full]
        have sum : allocOf (t :: k) = t.alloc + allocOf k := rfl
        refine ⟨t :: k, sub.cons_cons t, moved.trans (by simp), left.trans (by rw [sum, Nat.sub_sub]), ?_⟩
        rw [sum, ← Nat.add_assoc]
        exact got

/-- The tensors that leave a tier for another, from what the two hold. -/
theorem moveTensors_start (capFrom capTo : Nat) (l : List TensorUse) {left got : Nat} (fits : got ≤ capTo) :
    (moveTensors capFrom capTo l (Moved.start left got)).moved.Sublist l ∧
      (moveTensors capFrom capTo l (Moved.start left got)).left = left - allocOf (moveTensors capFrom capTo l (Moved.start left got)).moved ∧
      got + allocOf (moveTensors capFrom capTo l (Moved.start left got)).moved ≤ capTo := by
  obtain ⟨k, sub, moved, rest⟩ := moveTensors_moves capFrom capTo l (Moved.start left got) fits
  rw [moved]
  exact ⟨sub, rest⟩

section
variable {l : List TensorUse}

theorem footprintOf_near (l : List TensorUse) : (footprintOf l).near = demandOf l false := by
  simp only [footprintOf]; split_ifs <;> rfl

theorem footprintOf_far (l : List TensorUse) : (footprintOf l).far = demandOf l true := by
  simp only [footprintOf]; split_ifs <;> rfl

/-- A plan larger than both tiers is short, and nothing moves. -/
theorem footprintOf_over (large : nearBytes + farBytes < demandOf l false + demandOf l true) :
    (footprintOf l).tooLarge = true ∧ (footprintOf l).spilled = [] ∧ (footprintOf l).raised = [] := by
  unfold footprintOf; rw [if_pos large]; exact ⟨rfl, rfl, rfl⟩

/-- A plan that fits as it is moves nothing. -/
theorem footprintOf_fits (near : demandOf l false ≤ nearBytes) (far : demandOf l true ≤ farBytes) :
    (footprintOf l).tooLarge = false ∧ (footprintOf l).spilled = [] ∧ (footprintOf l).raised = [] := by
  unfold footprintOf
  rw [if_neg (by omega), if_neg (by omega), if_neg (by omega)]
  exact ⟨rfl, rfl, rfl⟩

/-- What a plan whose near tensors exceed the near tier spills. -/
theorem footprintOf_spills (total : demandOf l false + demandOf l true ≤ nearBytes + farBytes) (short : nearBytes < demandOf l false) :
    (footprintOf l).spilled.Sublist (spillOrder l) ∧ (footprintOf l).raised = [] ∧
      ((footprintOf l).tooLarge = false → demandOf l false - allocOf (footprintOf l).spilled ≤ nearBytes) ∧
      demandOf l true + allocOf (footprintOf l).spilled ≤ farBytes := by
  obtain ⟨sub, left, got⟩ := moveTensors_start nearBytes farBytes (spillOrder l) (left := demandOf l false) (show demandOf l true ≤ _ by omega)
  unfold footprintOf
  rw [if_neg (by omega), if_pos short]
  exact ⟨sub, rfl, fun fits => left.symm.le.trans (Nat.le_of_not_lt (of_decide_eq_false fits)), got⟩

/-- What a plan whose far tensors exceed the far tier raises. -/
theorem footprintOf_raises (total : demandOf l false + demandOf l true ≤ nearBytes + farBytes) (short : farBytes < demandOf l true) :
    (footprintOf l).raised.Sublist (raiseOrder l) ∧ (footprintOf l).spilled = [] ∧
      ((footprintOf l).tooLarge = false → demandOf l true - allocOf (footprintOf l).raised ≤ farBytes) ∧
      demandOf l false + allocOf (footprintOf l).raised ≤ nearBytes := by
  obtain ⟨sub, left, got⟩ := moveTensors_start farBytes nearBytes (raiseOrder l) (left := demandOf l true) (show demandOf l false ≤ _ by omega)
  unfold footprintOf
  rw [if_neg (by omega), if_neg (by omega), if_pos short]
  exact ⟨sub, rfl, fun fits => left.symm.le.trans (Nat.le_of_not_lt (of_decide_eq_false fits)), got⟩

end

theorem footprintMovesTheRightTensors : Claims.FootprintMovesTheRightTensors := by
  intro l
  refine ⟨footprintOf_near l, footprintOf_far l, footprintOf_over, footprintOf_fits, ?_⟩
  rw [footprintOf_near, footprintOf_far]
  change _ ∧ _ ∧ (_ → demandOf l false - allocOf _ + allocOf _ ≤ _) ∧ (_ → demandOf l true - allocOf _ + allocOf _ ≤ _) ∧
    (_ → InOrder _ _ ∧ InOrder _ _)
  have nothing : allocOf [] = 0 := rfl
  by_cases large : nearBytes + farBytes < demandOf l false + demandOf l true
  · obtain ⟨short, spilled, raised⟩ := footprintOf_over large
    simp [short, spilled, raised, InOrder]
  by_cases near : nearBytes < demandOf l false
  · obtain ⟨sub, raised, relieved, taken⟩ := footprintOf_spills (Nat.le_of_not_lt large) near
    rw [raised, nothing]
    exact ⟨fun t ht => mem_spillOrder.mp (sub.subset ht), by simp, relieved, fun _ => taken,
      fun pos => ⟨(spillOrder_inOrder pos).sublist sub, .nil⟩⟩
  by_cases far : farBytes < demandOf l true
  · obtain ⟨sub, spilled, relieved, taken⟩ := footprintOf_raises (Nat.le_of_not_lt large) far
    rw [spilled, nothing]
    exact ⟨by simp, fun t ht => mem_raiseOrder.mp (sub.subset ht), fun _ => taken, relieved,
      fun pos => ⟨.nil, (raiseOrder_inOrder pos).sublist sub⟩⟩
  · obtain ⟨-, spilled, raised⟩ := footprintOf_fits (Nat.le_of_not_lt near) (Nat.le_of_not_lt far)
    rw [spilled, raised, nothing]
    exact ⟨by simp, by simp, fun _ => Nat.le_of_not_lt near, fun _ => Nat.le_of_not_lt far, fun _ => ⟨.nil, .nil⟩⟩

/-! ### What an accepted lowering keeps, spec/08_xekoade.md R109, R190, R195 -/

theorem nth_pair_mem_zip {α β : Type} {l : List α} {m : List β} (same : m.length = l.length) {k : Nat} (h : k < l.length) (a : α) (b : β) :
    (nth l k a, nth m k b) ∈ l.zip m := by
  have hm : k < m.length := same ▸ h
  rw [nth, nth, List.getD_eq_getElem _ _ h, List.getD_eq_getElem _ _ hm]
  have hz : k < (l.zip m).length := by simp [h, hm]
  exact List.getElem_zip (h := hz) ▸ List.getElem_mem hz

section
variable {p : Plan} {d : BitVec 1024} {rows : List Row} {served : List (Option (BitVec 32))} {x : Passage} {w : Row}

/-- A candidate that counts fits a slot, does what the plan says and keeps the numeric promise. -/
theorem accepted_inl {c : Option Config.Lowering} {barriers : List Nat} (h : accepted p d c = .inl (rows, barriers)) :
    rows.length ≤ snapRows d ∧ rows ≠ [] ∧ ∃ served : List (Option (BitVec 32)), served.length = rows.length ∧
      servesPlan p rows served = true ∧ promiseFault p rows served = none := by
  cases c with
  | none => cases h
  | some c =>
    simp only [accepted] at h
    split_ifs at h with long broken
    split at h
    · cases h
    · rename_i promise
      cases h
      simp only [Bool.or_eq_true, decide_eq_true_eq, bne_iff_ne, Bool.not_eq_true', not_or, not_not, Bool.not_eq_false] at broken
      obtain ⟨⟨⟨hasRows, same⟩, serves⟩, -⟩ := broken
      exact ⟨Nat.le_of_not_lt long, hasRows, c.served, same, serves, promise⟩

theorem recordOf_passage {i : BitVec 32} (h : recordOf p i = some (.passage x)) : x ∈ p.passages ∧ i = x.ident := by
  have found : p.passages.find? (fun y => y.ident = i) = some x := by
    simp only [recordOf, Option.or_eq_some_iff, Option.map_eq_some_iff, reduceCtorEq, and_false, exists_false, or_false,
      PlanRecord.passage.injEq, exists_eq_right] at h
    exact h
  exact ⟨List.mem_of_find?_eq_some found, Eq.symm (by simpa using List.find?_some found)⟩

/-- A PASS row serves a PRODUCT passage and nothing else. -/
theorem rowServes_pass {r : PlanRecord} (kind : rowKind w = 1) (h : rowServes p w r = true) :
    ∃ x, r = .passage x ∧ passServes p x w = true := by
  cases r with
  | passage x => exact ⟨x, rfl, by simpa [rowServes, kind] using h⟩
  | copy _ | collective _ | governor _ => simp [rowServes, kind] at h

theorem needsRecord_pass (kind : rowKind w = 1) : needsRecord w = true := by simp [needsRecord, isData, kind]

theorem servesPlan_pass (serves : servesPlan p rows served = true) {o : Option (BitVec 32)} (here : (w, o) ∈ rows.zip served)
    (kind : rowKind w = 1) : ∃ x ∈ p.passages, o = some x.ident ∧ passServes p x w = true := by
  have row := List.all_eq_true.mp (Bool.and_eq_true_iff.mp serves).1 _ here
  cases named : o.bind (recordOf p) with
  | none => simp [named, needsRecord_pass kind] at row
  | some r =>
    obtain ⟨i, rfl, found⟩ := Option.bind_eq_some_iff.mp named
    obtain ⟨x, rfl, does⟩ := rowServes_pass kind (by simpa [found] using row)
    obtain ⟨known, rfl⟩ := recordOf_passage found
    exact ⟨x, known, rfl, does⟩

theorem passServes_spec (h : passServes p x w = true) : x.kind = .product ∧
    ((passOf w).kw, (passOf w).ka) = x.shifts.getD (0, 0) ∧ (accOf (accBits w)).order = x.order := by
  simp only [passServes, Bool.and_eq_true, decide_eq_true_eq] at h
  obtain ⟨⟨⟨⟨kind, shifts⟩, order⟩, -⟩, -⟩ := h
  exact ⟨kind, shifts, order⟩

theorem promiseOk_of_promiseFault (keeps : promiseFault p rows served = none) (strict : planRelaxed p = false) (known : x ∈ p.passages)
    (tree : x.order = 0) : promiseOk p rows served x = true := by
  rw [promiseFault, strict, if_neg Bool.false_ne_true, List.findIdx?_eq_none_iff] at keeps
  simpa [tree] using keeps x known

theorem coverOk_of_promiseOk (keeps : promiseOk p rows served x = true) (here : (w, some x.ident) ∈ rows.zip served)
    (kind : rowKind w = 1) : coverOk x.cover (productGroups p x) (passOf w) = true := by
  have row := List.all_eq_true.mp (Bool.and_eq_true_iff.mp keeps).1 _ (List.mem_filter.mpr ⟨here, decide_eq_true rfl⟩)
  simpa [kind] using row

end

theorem accepted_serves {p : Plan} {d : BitVec 1024} {c : Option Config.Lowering} {rows : List Row} {barriers : List Nat}
    (h : accepted p d c = .inl (rows, barriers)) :
    rows.length ≤ snapRows d ∧ rows ≠ [] ∧ ∃ served : List (Option (BitVec 32)), served.length = rows.length ∧
      ∀ k, k < rows.length → rowKind (nth rows k 0) = 1 → ∃ x ∈ p.passages, nth served k none = some x.ident ∧ x.kind = .product ∧
        ((passOf (nth rows k 0)).kw, (passOf (nth rows k 0)).ka) = x.shifts.getD (0, 0) ∧
        (accOf (accBits (nth rows k 0))).order = x.order ∧
        (planRelaxed p = false → x.order = 0 → coverOk x.cover (productGroups p x) (passOf (nth rows k 0)) = true) := by
  obtain ⟨room, hasRows, served, same, serves, keeps⟩ := accepted_inl h
  refine ⟨room, hasRows, served, same, fun k hk kind => ?_⟩
  have here := nth_pair_mem_zip same hk 0 none
  obtain ⟨x, known, names, does⟩ := servesPlan_pass serves here kind
  obtain ⟨product, shifts, order⟩ := passServes_spec does
  exact ⟨x, known, names, product, shifts, order, fun strict tree =>
    coverOk_of_promiseOk (promiseOk_of_promiseFault keeps strict known tree) (names ▸ here) kind⟩

theorem lowerPlan_otherPairing {p : Plan} {d : BitVec 1024} (h : planPaired p ≠ snapPaired d) : lowerPlan p d = .inr (0, 7, 5) := by
  rw [lowerPlan, if_pos (by simp [h])]

/-- A lowering gives the rows of its candidate alone. -/
theorem accepted_of_lowerPlan {p : Plan} {d : BitVec 1024} {x : List Row × List Nat} (h : lowerPlan p d = .inl x) :
    accepted p d (loweringOf p d) = .inl x := by
  unfold lowerPlan at h
  split_ifs at h
  split at h
  · cases h
  · split at h
    · cases h
    · exact h

/-! ### CHECK_PLAN and LOWER start -/

/-- What an inline plan leaves for the lowering group. -/
def inlineJob (q : Req) (slot : Option Bool) (p : Plan) (s : State) : LowerJob :=
  { req := q, slot := slot, plan := p, snapshot := descriptor s, window := none, offset := 0, length := 0, fetched := false }

section
variable {s : State} {q : Req} {p : Plan}

/-- The snapshot is what the state was before the command started. -/
theorem descriptor_start (q : Req) (s : State) : descriptor (start q s) = descriptor s := by
  have version : lowerVer (start q s) = lowerVer s := by simp only [lowerVer, runningImage, start_trust]
  have word : regionsWord (start q s) = regionsWord s := by simp only [regionsWord, start_regions]
  rw [descriptor, descriptor, start_pair, version, word]

theorem startLowering_inline (q : Req) (slot : Option Bool) (p : Plan) (s : State) :
    startLowering q slot p .inline s = onGw (fun g => { g with lowering := some (inlineJob q slot p s) }) s := rfl

theorem gwStatus_withLowering (j : Option LowerJob) (s : State) : gwStatus (onGw (fun g => { g with lowering := j }) s) = gwStatus s := rfl

theorem settled_startLowering (slot : Option Bool) : settled s (startLowering q slot p .inline (start q s)) =
    onGw (fun g => { g with lowering := some (inlineJob q slot p s) }) (start q s) := by
  rw [startLowering_inline, settled_eq (by rw [gwStatus_withLowering, gwStatus_start]), inlineJob, descriptor_start]
  rfl

theorem sourceOk_legal (op : Nat) (f : State → State) (legal : planFault p = none) : sourceOk q op p .inline f s = f s := by
  unfold sourceOk; simp only [legal]

theorem sourceOk_illegal (op : Nat) (f : State → State) {e : BitVec 16 × BitVec 64} (bad : planFault p = some e) :
    sourceOk q op p .inline f s = completeAs q (BitVec.ofNat 8 op) e.1 e.2 [] s := by
  unfold sourceOk; simp only [bad]

theorem exec_checkPlan (starts : Starts 0x30 0 q (inState s [.ready, .job, .halted] && s.gw.lowering.isNone) s)
    (legal : planFault p = none) : exec (.checkPlan q p .inline) s =
      .next (onGw (fun g => { g with lowering := some (inlineJob q none p s) }) (start q s)) := by
  rw [exec, execCheckPlan, command_starts starts, sourceOk_legal _ _ legal, settled_startLowering]

theorem exec_checkPlan_illegal (starts : Starts 0x30 0 q (inState s [.ready, .job, .halted] && s.gw.lowering.isNone) s)
    {e : BitVec 16 × BitVec 64} (bad : planFault p = some e) :
    exec (.checkPlan q p .inline) s = .next (answered q 0x30 e.1 e.2 [] s) :=
  command_replies starts _ (sourceOk_illegal 0x30 _ bad)

theorem exec_lower {slot : BitVec 8} (named : slot.toNat ≤ 1)
    (starts : Starts 0x31 0 q (s.gw.lowering.isNone && onNamed slot (slotFree s)) s) (legal : planFault p = none) :
    exec (.lower q slot p .inline) s =
      .next (onGw (fun g => { g with lowering := some (inlineJob q (some (slot = 1)) p s) }) (start q s)) := by
  rw [exec, execLower, command_starts starts, checkField_true _ _ _ _ _ (by simp [named]), sourceOk_legal _ _ legal, settled_startLowering]

end

/-! ### CHECK_PLAN and LOWER end -/

/-- The lowering group is free again. -/
def lowerIdle (s : State) : State := onGw (fun g => { g with lowering := none }) s

section
variable {s : State} {j : LowerJob} {b : Bool}

theorem settled_completeAs_lowerIdle (q : Req) (op : BitVec 8) (st : BitVec 16) (d : BitVec 64) (p : List Byte) :
    settled s (completeAs q op st d p (lowerIdle s)) = hold (completionOf s q op st d p) (lowerIdle s) := by
  rw [completeAs, completionOf_congr rfl]
  exact settled_eq (gwStatus_hold _ (lowerIdle s))

theorem exec_checkPlanDone_none (free : s.gw.lowering = none) : exec .checkPlanDone s = .next s := by
  rw [exec, execCheckPlanDone, free]

theorem exec_lowerDone_none (free : s.gw.lowering = none) : exec .lowerDone s = .next s := by rw [exec, execLowerDone, free]

theorem exec_checkPlanDone (taken : s.gw.lowering = some j) (check : j.slot = none) :
    exec .checkPlanDone s = .next (settled s (checkPlanDone j s)) := by
  rw [exec, execCheckPlanDone, taken]
  exact event_holds (by rw [check]; rfl) _ s

theorem exec_lowerDone (taken : s.gw.lowering = some j) (lower : j.slot = some b) :
    exec .lowerDone s = .next (settled s (lowerDone j b s)) := by
  simp only [exec, execLowerDone, taken, lower]
  exact event_holds rfl _ s

theorem withPlan_inline (inline : j.window = none) (op : Nat) (f : Plan → State → State) (s : State) : withPlan j op f s = f j.plan s := by
  rw [withPlan, inline]

theorem exec_checkPlanDone_inline (taken : s.gw.lowering = some j) (inline : j.window = none) (check : j.slot = none) :
    exec .checkPlanDone s = .next (hold (completionOf s j.req 0x30
      (if (footprint j.plan j.snapshot).tooLarge then Status.planTooLarge else Status.ok) 0 (footprint j.plan j.snapshot).bytes) (lowerIdle s)) := by
  rw [exec_checkPlanDone taken check, checkPlanDone, withPlan_inline inline]
  exact congrArg _ (settled_completeAs_lowerIdle _ _ _ _ _)

theorem exec_lowerDone_tooLarge (taken : s.gw.lowering = some j) (inline : j.window = none) (lower : j.slot = some b)
    (large : (footprint j.plan j.snapshot).tooLarge = true) :
    exec .lowerDone s = .next (hold (completionOf s j.req 0x31 Status.planTooLarge 0 []) (lowerIdle s)) := by
  rw [exec_lowerDone taken lower, lowerDone, withPlan_inline inline]
  refine congrArg _ (Eq.trans (congrArg _ ?_) (settled_completeAs_lowerIdle _ _ _ _ _))
  exact if_pos large

theorem exec_lowerDone_fits (alone : inPair s = false) (taken : s.gw.lowering = some j) (inline : j.window = none)
    (lower : j.slot = some b) (fits : (footprint j.plan j.snapshot).tooLarge = false) :
    exec .lowerDone s = .next (settled s (endLowering j b j.plan (lowerPlan j.plan j.snapshot) (lowerIdle s))) := by
  rw [exec_lowerDone taken lower, lowerDone, withPlan_inline inline]
  refine congrArg (fun t => Host.Outcome.next (settled s t)) ((if_neg (by simp [fits])).trans (if_pos ?_))
  exact farDone_alone alone _ _

/-! ### The slot that a lowering fills -/

/-- Without a key replaced, a filled slot is a change of the sequencer alone. -/
theorem fillSlot_noRemap (b : Bool) (rows : List Row) (l : Option Lowered) (s : State) :
    fillSlot b rows l [] s = { s with seq := (fillSlot b rows l [] s).seq } := by cases b <;> rfl

theorem gwStatus_fillSlot_noRemap (b : Bool) (rows : List Row) (l : Option Lowered) (s : State) :
    gwStatus (fillSlot b rows l [] s) = gwStatus s := by cases b <;> rfl

theorem slotOf_fillSlot_filled (b : Bool) (rows : List Row) (l : Option Lowered) (s : State) : slotOf (fillSlot b rows l [] s) b =
    { state := .loaded, rows := rows, digest := slotDigest rows, entry := 0, lowered := l } := by cases b <;> rfl

theorem slotOf_fillSlot_kept (b : Bool) (rows : List Row) (l : Option Lowered) (s : State) :
    slotOf (fillSlot b rows l [] s) (!b) = slotOf s (!b) := by cases b <;> rfl

theorem slotGen_fillSlot_noRemap (b : Bool) (rows : List Row) (l : Option Lowered) (s : State) :
    (fillSlot b rows l [] s).seq.slotGen = s.seq.slotGen + 1 := by cases b <;> rfl

theorem endLowering_loads {rows : List Row} {barriers : List Nat} (alone : inPair s = false)
    (ok : checkRowsIn (snapServes j.snapshot) s rows = .ok []) : settled s (endLowering j b j.plan (.inl (rows, barriers)) s) =
      hold (completionOf s j.req 0x31 Status.ok 0 (lowerReply s j.plan j.snapshot rows))
        (fillSlot b rows (some { plan := j.plan, snapshot := j.snapshot, barriers := barriers }) [] s) := by
  have told : ∀ l, tellLoad b rows l (fillSlot b rows l [] s) = fillSlot b rows l [] s := fun l =>
    sendLash_alone _ _ (by rw [fillSlot_noRemap]; exact alone)
  simp only [endLowering, ok, told]
  exact settled_complete (gwStatus_fillSlot_noRemap _ _ _ _) (by rw [fillSlot_noRemap])

/-! ### A plan blob that does not open, R207 -/

/-- A blob is read from host memory under the key of the domain, neither of which the lowering group holds. -/
theorem readBlob_lowerIdle (s : State) (a n m k : Nat) : readBlob (lowerIdle s) a n m k = readBlob s a n m k := by
  induction m generalizing k with
  | zero => rfl
  | succ m ih => rw [readBlob, readBlob, ih]; rfl

theorem withPlan_unopened {w : BitVec 8} {k : Nat} (blob : j.window = some w)
    (unopened : readBlob s (windowAddr s w.toNat j.offset.toNat) (blobText j.length.toNat) (chunkCount (blobText j.length.toNat)) 0 = .inl k)
    (op : Nat) (f : Plan → State → State) : withPlan j op f s = refuse j.req (BitVec.ofNat 8 op) Status.blobAuth
      (record Code.hostBlobAuth (zeros 4 ++ leBytes 6 (j.offset.toNat + 65568 * k)) s) := by
  -- An opaque count keeps the kernel from evaluating `readBlob` on a length that is not known.
  obtain ⟨count, same⟩ : ∃ count, count = chunkCount := ⟨_, rfl⟩
  unfold withPlan
  rw [← same] at unopened ⊢
  simp only [blob, unopened]

theorem exec_lowerDone_blobAuth {w : BitVec 8} {k n : Nat} (taken : s.gw.lowering = some j) (lower : j.slot = some b)
    (blob : j.window = some w) (size : n = blobText j.length.toNat)
    (unopened : readBlob s (windowAddr s w.toNat j.offset.toNat) n (chunkCount n) 0 = .inl k) :
    exec .lowerDone s = .next (hold (completionOf s j.req 0x31 Status.blobAuth 0 [])
      (record Code.hostBlobAuth (zeros 4 ++ leBytes 6 (j.offset.toNat + 65568 * k)) (lowerIdle s))) := by
  subst size
  have stops : lowerDone j b s = refuse j.req 0x31 Status.blobAuth
      (record Code.hostBlobAuth (zeros 4 ++ leBytes 6 (j.offset.toNat + 65568 * k)) (lowerIdle s)) := by
    rw [lowerDone]
    exact withPlan_unopened blob ((readBlob_lowerIdle _ _ _ _ _).trans unopened) 0x31 _
  rw [exec_lowerDone taken lower, stops, refuse, completeAs, completionOf_congr (s := s) rfl]
  exact congrArg _ (settled_eq rfl)

end

theorem plansAreLowered : Claims.PlansAreCheckedAndLowered := by
  intro s q p solo
  have alone := alone_of_solo solo
  refine ⟨exec_checkPlan, fun _ starts => exec_checkPlan_illegal starts, fun slot named starts => exec_lower named starts, ?_, ?_,
    fun d => ⟨lowerPlan_otherPairing, fun x => accepted_of_lowerPlan⟩, fun d c rows barriers => accepted_serves,
    fun free => ⟨exec_checkPlanDone_none free, exec_lowerDone_none free⟩⟩
  · rintro j f taken inline rfl
    refine ⟨fun check => ⟨_, exec_checkPlanDone_inline taken inline check, rfl⟩,
      fun b lower large => ⟨_, exec_lowerDone_tooLarge taken inline lower large, rfl⟩,
      fun b lower fits => exec_lowerDone_fits alone taken inline lower fits, fun _ _ => rfl, fun b rows barriers ok => ⟨_, rfl, ?_⟩⟩
    rw [endLowering_loads alone ok]
    refine ⟨slotOf_fillSlot_filled _ _ _ _, slotOf_fillSlot_kept _ _ _ _, slotGen_fillSlot_noRemap _ _ _ _, ?_⟩
    rw [fillSlot_noRemap]
    exact ⟨rfl, rfl, rfl, rfl⟩
  · intro j b w k n taken lower blob size unopened
    exact ⟨_, exec_lowerDone_blobAuth taken lower blob size unopened, rfl, rfl, rfl, rfl⟩

/-- Settles O49: the commands by their checks and ends, and the footprint by which tier overflows. -/
theorem plansAreCheckedAndLowered : Obligations.PlansAreCheckedAndLowered :=
  ⟨plansAreLowered, footprintMovesTheRightTensors⟩

end Sys2Proof.Machine

/-! ## O13: WINDOW_REG registers or removes one host window

The windows are a sparse map. A put is found again, and disturbs no other index, even in a map whose indices do not rise, so that the
statement needs no invariant of the state. -/

namespace Sys2Proof.Machine

/-- As `sget?_sput`, for a map in any order. -/
theorem sget?_sput_anyOrder {α : Type} (m : SMap α) (k j : Nat) (v : α) :
    sget? (sput m k v) j = if k = j then some v else sget? m j := by
  induction m with
  | nil => rfl
  | cons p r ih =>
    obtain ⟨a, w⟩ := p
    rcases lt_trichotomy k a with before | rfl | after
    · rw [sput, if_pos before, sget?]
    · rw [sput, if_neg (lt_irrefl k), if_pos rfl, sget?, sget?]
      split <;> rfl
    · rw [sput, if_neg after.not_gt, if_neg after.ne', sget?, sget?, ih]
      by_cases head : a = j
      · rw [if_pos head, if_neg (head ▸ after.ne'), if_pos head]
      · rw [if_neg head, if_neg head]

@[simp] theorem start_windows (q : Req) (s : State) : (start q s).gw.windows = s.gw.windows := by simp only [start]; split <;> rfl

/-- The windows after a WINDOW_REG that is accepted. -/
def withWindow (k : Nat) (base size : BitVec 64) (ws : SMap (BitVec 64 × BitVec 64)) : SMap (BitVec 64 × BitVec 64) :=
  if size = 0 then sdel ws k else sput ws k (base, size)

theorem sget?_withWindow (k j : Nat) (base size : BitVec 64) (ws : SMap (BitVec 64 × BitVec 64)) :
    sget? (withWindow k base size ws) j = if j = k then (if size = 0 then none else some (base, size)) else sget? ws j := by
  rw [withWindow]
  split_ifs with removed here here
  · rw [sget?_sdel, if_pos here]
  · rw [sget?_sdel, if_neg here]
  · rw [sget?_sput_anyOrder, if_pos here.symm]
  · rw [sget?_sput_anyOrder, if_neg (Ne.symm here)]

theorem windowReg_accepted {q : Req} {window : BitVec 32} {base size : BitVec 64} (number : window.toNat ≤ 255)
    (aligned : 4096 ∣ base.toNat) (s : State) : windowReg q window base size s =
      complete q 0x3B [] (onGw (fun g => { g with windows := withWindow window.toNat base size s.gw.windows }) s) := by
  rw [windowReg, if_neg (by omega), if_neg (by omega)]
  rfl

section
variable {s : State} {q : Req} {window : BitVec 32} {base size : BitVec 64}
  (starts : Starts 0x3B 0 q (inState s [.ready, .job, .halted] && !(windowsInUse s).any (fun w => w.toNat = window.toNat)) s)
include starts

theorem exec_windowReg (number : window.toNat ≤ 255) (aligned : 4096 ∣ base.toNat) : exec (.windowReg q window base size) s =
    .next (onGw (fun g => { g with windows := withWindow window.toNat base size s.gw.windows })
      (answered q 0x3B Status.ok 0 [] s)) := by
  rw [exec, execWindowReg, command_starts starts, windowReg_accepted number aligned, start_windows]
  exact congrArg _ (settled_complete (gwStatus_start q s) (start_sessions q s))

theorem exec_windowReg_badNumber (number : 255 < window.toNat) :
    exec (.windowReg q window base size) s = .next (answered q 0x3B Status.badField (fieldDetail 0x3B 0) [] s) :=
  command_replies starts _ (by rw [windowReg, if_pos number]; rfl)

theorem exec_windowReg_badBase (number : window.toNat ≤ 255) (unaligned : ¬ 4096 ∣ base.toNat) :
    exec (.windowReg q window base size) s = .next (answered q 0x3B Status.badField (fieldDetail 0x3B 1) [] s) :=
  command_replies starts _ (by rw [windowReg, if_neg (by omega), if_pos (by omega)]; rfl)

end

/-- Settles O13: an accepted WINDOW_REG changes one entry of the windows, and the two bad fields are answered in order. -/
theorem windowRegRegistersOneWindow : Obligations.WindowRegRegistersOneWindow := by
  intro s q window base size starts
  refine ⟨fun number aligned => ⟨_, exec_windowReg starts number aligned, fun k other => ?_, fun given => ?_, fun removed => ?_⟩,
    exec_windowReg_badNumber starts, exec_windowReg_badBase starts⟩
  · rw [sget?_withWindow, if_neg other]
  · rw [sget?_withWindow, if_pos rfl, if_neg given]
  · rw [sget?_withWindow, if_pos rfl, if_pos removed]

end Sys2Proof.Machine

/-! ## O27: copy messages read and write the bytes they name

Taking a message out of its buffers changes one port alone, and there neither its queue nor what routes see of it (`freeMsgs_taken`), so
that every clause goes on from the state before. A WRITE and a READ end in one answer that joins the queue of its route (`answer_joins`).
The last WRITE_DONE and the last READ_DATA leave a transaction with nothing outstanding, which completes the row's part
(`settleTxns_last`). A message whose tag fails, the first one in 60 s, has its port retrain (`tagFailure_first`). -/

namespace Sys2Proof.Machine

/-! ### Ports -/

theorem modifyAt_modifyAt {α : Type} (l : List α) (k : Nat) (f g : α → α) :
    modifyAt (modifyAt l k f) k g = modifyAt l k (fun x => g (f x)) := by
  induction l generalizing k with
  | nil => rfl
  | cons x l ih => cases k with
    | zero => rfl
    | succ k => exact congrArg (x :: ·) (ih k)

theorem onPort_onPort (p : Nat) (f g : Port → Port) (s : State) : onPort p g (onPort p f s) = onPort p (fun q => g (f q)) s := by
  simp [onPort, modifyAt_modifyAt]

theorem gwStatus_onPort (p : Nat) (f : Port → Port) (s : State) : gwStatus (onPort p f s) = gwStatus s :=
  gwStatus_congr rfl rfl rfl rfl rfl rfl rfl rfl rfl

/-- A change of a port that leaves its queue and what routes see of it. -/
def KeepsQueue (g : Port → Port) : Prop := ∀ q, (g q).queue = q.queue ∧ unavailable (g q) = unavailable q

theorem KeepsQueue.sameRoutes {g : Port → Port} (keeps : KeepsQueue g) (p : Nat) (s : State) : SameRoutes s (onPort p g s) :=
  ⟨rfl, fun k => unavailable_onPort p k g s fun q => (keeps q).2⟩

theorem KeepsQueue.queue_onPort {g : Port → Port} (keeps : KeepsQueue g) {p k : Nat} {s : State} (inRange : p < s.fab.ports.length) :
    (port (onPort p g s) k).queue = (port s k).queue := by
  by_cases here : k = p
  · subst here; rw [port_onPort_same s k g inRange, (keeps _).1]
  · rw [port_onPort_other s p k g here]

/-- A route leaves through a fabric port. -/
theorem port_lt_of_nextHop {s : State} {src dst : BitVec 14} {arrived : Option Nat} {h : Hop} (routed : nextHop s src dst arrived = some h) :
    h.port < 6 := by
  cases found : (List.range 3).find? (fun k => coord (myNode s) k != coord dst k) with
  | none => simp [nextHop, found] at routed
  | some k =>
    have dim : k < 3 := List.mem_range.mp (List.mem_of_find?_eq_some found)
    simp only [nextHop, found] at routed
    split_ifs at routed <;> cases routed <;> simp only <;> omega

/-! ### A message is taken -/

section
variable {p n : Nat} {fits : RxMsg → Bool} {s u : State} {l : List RxMsg} (taken : Taken p n fits s l u)
include taken

theorem takeMsg_taken (f : State → State) : takeMsg p true fits n f s = f (freeMsgs p l u) := by
  obtain ⟨active, ⟨empty, rfl, rfl⟩ | ⟨held, rfl, enough, rfl⟩⟩ := taken
  · exact takeMsg_given _ _ _ _ _ active empty
  · exact (takeHeld_held _ _ _ _ _ _ active held).trans (if_pos enough)

/-- Taking a message changes its port alone, and not what waits there to be sent. -/
theorem freeMsgs_taken : ∃ g, freeMsgs p l u = onPort p g s ∧ KeepsQueue g := by
  obtain ⟨-, ⟨-, -, rfl⟩ | ⟨-, -, -, rfl⟩⟩ := taken
  · exact ⟨_, rfl, fun _ => ⟨rfl, rfl⟩⟩
  · exact ⟨_, onPort_onPort _ _ _ _, fun _ => ⟨rfl, rfl⟩⟩

/-- A message that is taken has its effect on a state in which its port alone has changed. -/
theorem event_taken (f : State → State) : ∃ g, KeepsQueue g ∧
    event true (takeMsg p true fits n f) s = .next (settled s (f (onPort p g s))) := by
  obtain ⟨g, freed, keeps⟩ := freeMsgs_taken taken
  exact ⟨g, keeps, by rw [event_holds rfl, takeMsg_taken taken, freed]⟩

/-- A message that tells nothing new only leaves its buffers. -/
theorem event_taken_idle {f : State → State} (idle : ∀ v : State, v.fab.txns = s.fab.txns → f v = v) :
    event true (takeMsg p true fits n f) s = .next (freeMsgs p l u) := by
  obtain ⟨g, freed, -⟩ := freeMsgs_taken taken
  rw [event_holds rfl, takeMsg_taken taken, freed, idle (onPort p g s) rfl, settled_eq (gwStatus_onPort p g s)]

end

/-! ### Answers, R241 -/

/-- An answer over the fabric goes to the sender by its route. -/
theorem answer_routed {v : State} {p : Nat} {m : Msg} {h : Hop} (fabric : p ≠ 6) (routed : nextHop v (myNode v) m.src none = some h)
    (op : BitVec 8) (addr ctx : Nat) (bs : List Byte) : ∃ a, answer p m op addr ctx bs v = enqueue h m.src m.vc none (.copy a) v ∧
      a.op = op ∧ a.txn = m.txn ∧ a.dst = m.src ∧ a.payload = bs := by
  rw [answer, sendCopy]
  simp only [fabric, decide_false, Bool.false_and, Bool.false_eq_true, if_false]
  exact ⟨_, send_routed _ _ _ _ _ _ routed, rfl, rfl, rfl, rfl⟩

/-- What the answer to a message is. -/
def IsAnswer (m : Msg) (op : BitVec 8) (bs : List Byte) (o : Out) : Prop :=
  o.dst = m.src ∧ o.vc = m.vc ∧ ∃ a, o.body = .copy a ∧ a.op = op ∧ a.txn = m.txn ∧ a.dst = m.src ∧ a.payload = bs

/-- Where the fabric has changed only in a port that keeps its queue, an answer joins the queue of the route from before, and nothing
else changes. -/
theorem answer_joins {s v : State} {p : Nat} {g : Port → Port} {m : Msg} {h : Hop} (keeps : KeepsQueue g) (fab : v.fab = (onPort p g s).fab)
    (fabric : p ≠ 6) (routed : nextHop s (myNode s) m.src none = some h) (ports : s.fab.ports.length = 7) (inRange : p < 7)
    (op : BitVec 8) (addr ctx : Nat) (bs : List Byte) :
    ∃ o, answer p m op addr ctx bs v = onPort h.port (fun q => { q with queue := q.queue ++ [o] }) v ∧
      (port (answer p m op addr ctx bs v) h.port).queue = (port s h.port).queue ++ [o] ∧ IsAnswer m op bs o := by
  have routes : SameRoutes s v := by
    obtain ⟨cfg, available⟩ := keeps.sameRoutes p s
    exact ⟨by rw [fab, cfg], fun k => by rw [← available, port, port, fab]⟩
  have length : h.port < v.fab.ports.length := by
    have := port_lt_of_nextHop routed
    rw [fab, onPort_fab, modifyAt_length]; omega
  have waiting : (port v h.port).queue = (port s h.port).queue := by
    rw [port, fab]; exact keeps.queue_onPort (by omega)
  obtain ⟨a, joins, isAnswer⟩ := answer_routed (v := v) fabric (by rw [routes.nextHop, routes.myNode, routed]) op addr ctx bs
  refine ⟨_, joins, ?_, rfl, rfl, a, rfl, isAnswer⟩
  rw [joins, enqueue, port_onPort_same _ _ _ length, waiting]

/-! ### WRITE -/

theorem mem_writeMem_congr {s v : State} (h : v.mem = s.mem) (sp : Space) (key : Nat) (bs : List Byte) :
    (writeMem sp key bs v).mem = (writeMem sp key bs s).mem := by
  unfold writeMem; split <;> simp [h]

theorem writeHere_own {s : State} {p : Nat} {m : Msg} {pl : Nat × Nat} (own : crosses s p m = false)
    (place : messagePlace s p m.addr.toNat m.payload.length = some pl) :
    writeHere p m s = answer p m 0x02 0 0 [] (writeMem pl.1 pl.2 m.payload s) := by
  rw [writeHere, own, place]; rfl

/-! ### READ -/

theorem giveUnits_good (again : Bool) (s : State) (n u : Nat) (good : ∀ k, u ≤ k → k < u + n → unitFails s k = (false, false)) :
    giveUnits again n u s = (none, s) := by
  induction n generalizing u with
  | zero => rfl
  | succ n ih =>
    have first : giveUnit again u s = (true, s) := by simp [giveUnit, good u le_rfl (by omega)]
    simp only [giveUnits, first, if_true]
    exact ih (u + 1) fun k lo hi => good k (by omega) (by omega)

theorem giveTier_good {s : State} {a n : Nat} (again : Bool) (nonempty : 0 < n) (good : TierGood s a n) : giveTier again a n s = (n, s) := by
  have below : a / 256 ≤ (a + n - 1) / 256 := Nat.div_le_div_right (by omega)
  rw [giveTier, if_neg (by omega), giveUnits_good again s _ _ fun k lo hi => good k lo (by omega)]

theorem giveBytes_whole {bs : List Byte} (nonempty : bs ≠ []) (p : Nat) (m : Msg) (place : Nat) (s : State) :
    giveBytes p m place bs 0 s = answer p m 0x04 (place % 2 ^ 42) (place / 2 ^ 42 % 2 ^ 21) bs s := by
  simp [giveBytes, nonempty]

/-- A READ of bytes that all read well gives them, whatever space they stand in. -/
theorem readHere_own {s : State} {p : Nat} {m : Msg} {sp key : Nat} (own : crosses s p m = false)
    (place : messagePlace s p m.addr.toNat m.ctx.toNat = some (sp, key)) (nonempty : 0 < m.ctx.toNat)
    (tier : sp = 0 → TierGood s key m.ctx.toNat) (rowRead : m.vc ≠ 0) (staging : s.mem.stagingBad = []) (slice : s.mem.sliceBad = []) :
    ∃ addr ctx, readHere p m s = answer p m 0x04 addr ctx (readMem s sp key m.ctx.toNat) s := by
  have bytes : readMem s sp key m.ctx.toNat ≠ [] := List.ne_nil_of_length_pos (by rw [readMem, mread_length]; exact nonempty)
  refine ⟨_, _, Eq.trans ?_ (giveBytes_whole bytes p m (ofLe m.payload % 2 ^ 127) s)⟩
  rw [readHere, own]
  simp only [Bool.false_eq_true, if_false, place]
  split
  · cases ‹_ = none›
  · next found =>
    cases found
    simp only [giveFromTier, giveTier_good _ nonempty (tier rfl), rowRead, if_false, Nat.sub_self]
  · next found => cases found; rw [staging]; rfl
  · next found => cases found; simp [slice]

/-! ### A copy's part completes -/

theorem gwStatus_onTxns (f : List Txn → List Txn) (s : State) : gwStatus (onTxns f s) = gwStatus s := rfl

theorem gwStatus_writeMem (sp : Space) (key : Nat) (bs : List Byte) (s : State) : gwStatus (writeMem sp key bs s) = gwStatus s :=
  gwStatus_congr (by simp) (by simp) (by simp) (by simp) (by simp) (by simp) (by simp) (by simp) (by simp)

/-- The row alone in flight has nothing left to wait for. -/
def soleDone (f : Flight) : State → State := onSeq (fun q => { q with flight := [{ f with stage := .done }] })

theorem gwStatus_soleDone (f : Flight) (s : State) : gwStatus (soleDone f s) = gwStatus s := rfl

theorem settleTxns_last {s : State} {f : Flight} (txns : s.fab.txns = []) (flight : s.seq.flight = [f]) (peer : f.stage = .peer) :
    settleTxns f.id s = soleDone f s := by
  simp [settleTxns, txns, flight, peer, setStage, soleDone, onSeq]

section
variable {s : State} {p : Nat} {t : Txn} (txns : s.fab.txns = [t]) (lash : t.lash = decide (p = 6))
include txns lash

theorem writeDone_more (write : t.isRead = false) (more : 1 < t.left) :
    writeDone p t.txn s = onTxns (fun _ => [{ t with left := t.left - 1 }]) s := by
  have outstanding : ¬ t.left ≤ 1 := by omega
  simp [writeDone, txns, lash, write, outstanding, onTxns]

theorem writeDone_last {f : Flight} (write : t.isRead = false) (last : t.left = 1) (flight : s.seq.flight = [f]) (row : f.id = t.flight)
    (peer : f.stage = .peer) : writeDone p t.txn s = soleDone f (onTxns (fun _ => []) s) := by
  rw [← settleTxns_last (s := onTxns (fun _ => []) s) rfl flight peer, row]
  simp [writeDone, txns, lash, write, last, dropTxn, onTxns]

end

/-- Bytes for a tier of a module outside a pair. -/
theorem landCopy_tier {s : State} {d : BitVec 384} (alone : inPair s = false) (tier : dDkind d = 1) (asIs : dCfmt d = 0) (flight : Nat)
    (bs : List Byte) : landCopy flight d 0 0 bs s = writeMem 0 (fld (dDaddr d) 0 42) bs s := by
  simp [landCopy, landPiece, halfPieces, converted, dstOff, endPlace, tierPlace, alone, tier, asIs]

theorem landRead_tier {s : State} {t : Txn} {f : Flight} (alone : inPair s = false) (peer : f.stage = .peer) (copy : t.desc ≠ 0)
    (tier : dDkind t.desc = 1) (asIs : dCfmt t.desc = 0) (data : List Byte) :
    landRead t 0 data f s = writeMem 0 (fld (dDaddr t.desc) 0 42) data s := by
  rw [landRead, if_neg (by simp [peer]), if_neg copy]
  simp only [tier, Nat.reduceEqDiff, if_false, Nat.zero_div, Nat.zero_mod, landCopy_tier alone tier asIs]

/-- The last READ_DATA of a row's only read, whose bytes are for a tier. -/
theorem readData_last {s : State} {p : Nat} {t : Txn} {f : Flight} {data : List Byte} (txns : s.fab.txns = [t])
    (lash : t.lash = decide (p = 6)) (read : t.isRead = true) (flight : s.seq.flight = [f]) (row : f.id = t.flight) (peer : f.stage = .peer)
    (copy : t.desc ≠ 0) (tier : dDkind t.desc = 1) (asIs : dCfmt t.desc = 0) (alone : inPair s = false) (whole : t.left = data.length)
    (first : t.again = []) :
    readData p t.txn 0 data s = soleDone f (onTxns (fun _ => []) (writeMem 0 (fld (dDaddr t.desc) 0 42) data s)) := by
  have found : s.fab.txns.find? (fun x => x.txn = t.txn && x.isRead && x.lash = decide (p = 6)) = some t := by simp [txns, lash, read]
  have waiting : s.seq.flight.find? (fun g => g.id = t.flight) = some f := by simp [flight, row]
  rw [← settleTxns_last (s := onTxns (fun _ => []) (writeMem 0 _ data s)) rfl (by simp [flight]) peer, row]
  simp only [readData, found, waiting, readAgain, first, List.contains_nil, Bool.false_eq_true, if_false]
  generalize landing : ({ t with left := t.left - data.length, again := [].erase 0 } : Txn) = r
  obtain ⟨txn, isRead, onLash, desc⟩ : r.txn = t.txn ∧ r.isRead = true ∧ r.lash = t.lash ∧ r.desc = t.desc := by
    subst landing; exact ⟨rfl, read, rfl, rfl⟩
  rw [landRead_tier (s := onTxns _ s) alone peer (desc ▸ copy) (desc ▸ tier) (desc ▸ asIs), desc]
  have found' : (writeMem 0 (fld (dDaddr t.desc) 0 42) data (onTxns (fun l => l.map (fun x => if x = t then r else x)) s)).fab.txns.find?
      (fun x => x.txn = t.txn && x.isRead && x.lash = t.lash) = some r := by simp [txns, txn, isRead, onLash]
  simp only [found', whole, peer, desc, tier, copy, Nat.sub_self, ne_eq, not_true_eq_false, decide_false, reduceCtorEq, Bool.or_self,
    Bool.false_eq_true, Nat.reduceEqDiff, if_false]
  exact congrArg _ (by simp [dropTxn, onTxns, writeMem, txns])

/-! ### A tag fails, R227 -/

theorem bringUp_cases (p : Nat) (s : State) :
    bringUp p s = s ∨ bringUp p s = onPort p (fun q => { q with hs := .train, transcript := [] }) s := by
  rw [bringUp]
  split
  · exact .inr rfl
  · exact .inl rfl

theorem bringUp_leaves {p : Nat} {s : State} (inRange : p < s.fab.ports.length) : (port (bringUp p s) p).state = (port s p).state ∧
    (bringUp p s).mem = s.mem ∧ (bringUp p s).seq = s.seq ∧ (bringUp p s).log = s.log := by
  rcases bringUp_cases p s with same | trains
  · rw [same]; exact ⟨rfl, rfl, rfl, rfl⟩
  · rw [trains, port_onPort_same s p _ inRange]; exact ⟨rfl, rfl, rfl, rfl⟩

/-- A port that retrains now. -/
def retrained (now : Nat) (q : Port) : Port :=
  { q.off with retrains := now :: q.retrains.filter (fun t => now ≤ t + 60), retrainCount := satAdd q.retrainCount 1, replaysMs := 0 }

theorem state_retrained {q : Port} (active : q.state = .active) (now : Nat) : (retrained now q).state = .off := by
  simp [retrained, Port.off, active]

/-- Below the fourth retrain in 60 s a port is only recorded, and goes OFF to be brought up again. -/
theorem retrain_few {s : State} {p : Nat} (inRange : p < s.fab.ports.length) (active : (port s p).state = .active)
    (few : (port s p).retrains.length < 3) (c : RecCode) : (port (retrain p c s) p).state = .off ∧ (retrain p c s).mem = s.mem ∧
      (retrain p c s).seq = s.seq ∧ (retrain p c s).log = (portRecord c p s).log := by
  have here : port (onPort p (retrained s.log.opSeconds.toNat) (portRecord c p s)) p = retrained s.log.opSeconds.toNat (port s p) :=
    port_onPort_same (portRecord c p s) p _ inRange
  have below : ¬ 4 ≤ (retrained s.log.opSeconds.toNat (port s p)).retrains.length := by
    have := List.length_filter_le (fun t => decide (s.log.opSeconds.toNat ≤ t + 60)) (port s p).retrains
    rw [retrained, List.length_cons]; omega
  have again : retrain p c s = bringUp p (onPort p (retrained s.log.opSeconds.toNat) (portRecord c p s)) :=
    if_neg (here.symm ▸ below)
  obtain ⟨state, mem, seq, log⟩ := bringUp_leaves (p := p) (s := onPort p (retrained s.log.opSeconds.toNat) (portRecord c p s))
    (by rw [onPort_fab, modifyAt_length]; exact inRange)
  rw [again]
  exact ⟨by rw [state, here, state_retrained active], mem, seq, log⟩

/-- The first failure of a tag in 60 s, on a port that has not retrained: the record, and the port goes OFF. -/
theorem tagFailure_first {s : State} {p : Nat} (inRange : p < s.fab.ports.length) (active : (port s p).state = .active)
    (first : (port s p).tagFail = none) (fresh : (port s p).retrains = []) :
    (port (tagFailure p s) p).state = .off ∧ (tagFailure p s).mem = s.mem ∧ (tagFailure p s).seq = s.seq ∧
      (tagFailure p s).log = s.log.push (s.log.stamp Code.linkAuthFail 0 [BitVec.ofNat 8 p]) := by
  have marked : port (onPort p (fun q => { q with tagFail := some s.log.opSeconds.toNat }) s) p =
      { port s p with tagFail := some s.log.opSeconds.toNat } := port_onPort_same s p _ inRange
  simp only [tagFailure, first, Option.any_none, Bool.false_eq_true, if_false]
  exact retrain_few (by rw [onPort_fab, modifyAt_length]; exact inRange) (by rw [marked]; exact active)
    (by rw [marked]; simp [fresh]) Code.linkAuthFail

/-! ### The four messages -/

section
variable {s u : State} {p : Fin 7} {m : Msg} {h : Hop} {l : List RxMsg} (ports : s.fab.ports.length = 7)
  (taken : Taken p.val 1 (msgHeld m) s l u) (own : crosses s p.val m = false) (fabric : p.val ≠ 6)
  (routed : nextHop s (myNode s) m.src none = some h)
include ports taken own fabric routed

/-- A WRITE writes the bytes that it names and is answered by WRITE_DONE. -/
theorem exec_writeMsg {pl : Nat × Nat} (place : messagePlace s p.val m.addr.toNat m.payload.length = some pl) :
    ∃ t o, exec (.writeMsg p m true) s = .next t ∧ t.mem = (writeMem pl.1 pl.2 m.payload s).mem ∧
      (port t h.port).queue = (port s h.port).queue ++ [o] ∧ IsAnswer m 0x02 [] o ∧
      t.seq = s.seq ∧ t.gw = s.gw ∧ t.job = s.job ∧ t.log = s.log ∧ t.regions = s.regions ∧ t.fab.txns = s.fab.txns := by
  obtain ⟨g, keeps, outcome⟩ := event_taken taken (writeHere p.val m)
  rw [writeHere_own (s := onPort p.val g s) own place] at outcome
  obtain ⟨o, joins, queue, isAnswer⟩ := answer_joins (v := writeMem pl.1 pl.2 m.payload (onPort p.val g s)) keeps (by simp) fabric routed
    ports p.isLt 0x02 0 0 []
  rw [settled_eq (by rw [joins, gwStatus_onPort, gwStatus_writeMem, gwStatus_onPort])] at outcome
  refine ⟨_, o, outcome, ?_, queue, isAnswer, ?_⟩ <;> rw [joins]
  · exact mem_writeMem_congr (onPort_mem p.val g s) _ _ _
  · simp

/-- A READ is answered by READ_DATA with the bytes that it names, and writes nothing. -/
theorem exec_readMsg {sp key : Nat} (place : messagePlace s p.val m.addr.toNat m.ctx.toNat = some (sp, key)) (nonempty : 0 < m.ctx.toNat)
    (tier : sp = 0 → TierGood s key m.ctx.toNat) (rowRead : m.vc ≠ 0) (staging : s.mem.stagingBad = []) (slice : s.mem.sliceBad = []) :
    ∃ t o, exec (.readMsg p m true) s = .next t ∧ t.mem = s.mem ∧ (port t h.port).queue = (port s h.port).queue ++ [o] ∧
      IsAnswer m 0x04 (readMem s sp key m.ctx.toNat) o ∧
      t.seq = s.seq ∧ t.gw = s.gw ∧ t.job = s.job ∧ t.log = s.log ∧ t.regions = s.regions := by
  obtain ⟨g, keeps, outcome⟩ := event_taken taken (readHere p.val m)
  obtain ⟨addr, ctx, gives⟩ := readHere_own (s := onPort p.val g s) own place nonempty tier rowRead staging slice
  rw [gives] at outcome
  obtain ⟨o, joins, queue, isAnswer⟩ := answer_joins (v := onPort p.val g s) keeps rfl fabric routed ports p.isLt 0x04 addr ctx
    (readMem s sp key m.ctx.toNat)
  have bytes : readMem (onPort p.val g s) sp key m.ctx.toNat = readMem s sp key m.ctx.toNat := rfl
  rw [bytes, settled_eq (by rw [joins, gwStatus_onPort, gwStatus_onPort])] at outcome
  refine ⟨_, o, outcome, ?_, queue, isAnswer, ?_⟩ <;> rw [joins]
  · rfl
  · simp

end

section
variable {s u : State} {p : Fin 7} {t : Txn} {l : List RxMsg} (txns : s.fab.txns = [t]) (lash : t.lash = decide (p.val = 6))
include txns lash

/-- A WRITE_DONE that is not the last. -/
theorem exec_writeDone_more (taken : Taken p.val 1 (answerHeld 2 t.txn) s l u) (write : t.isRead = false) (more : 1 < t.left)
    (src : BitVec 14) : ∃ v, exec (.writeDone p src t.txn) s = .next v ∧ v.fab.txns = [{ t with left := t.left - 1 }] ∧ v.seq = s.seq ∧
      v.mem = s.mem ∧ v.gw = s.gw := by
  obtain ⟨g, -, outcome⟩ := event_taken taken (writeDone p.val t.txn)
  rw [writeDone_more (s := onPort p.val g s) txns lash write more, settled_eq (by rw [gwStatus_onTxns, gwStatus_onPort])] at outcome
  exact ⟨_, outcome, rfl, rfl, rfl, rfl⟩

variable {f : Flight} (flight : s.seq.flight = [f]) (row : f.id = t.flight) (peer : f.stage = .peer)
include flight row peer

/-- A write is complete with its last WRITE_DONE. -/
theorem exec_writeDone_last (taken : Taken p.val 1 (answerHeld 2 t.txn) s l u) (write : t.isRead = false) (last : t.left = 1)
    (src : BitVec 14) : ∃ v, exec (.writeDone p src t.txn) s = .next v ∧ v.fab.txns = [] ∧
      v.seq = { s.seq with flight := [{ f with stage := .done }] } ∧ v.mem = s.mem ∧ v.gw = s.gw := by
  obtain ⟨g, -, outcome⟩ := event_taken taken (writeDone p.val t.txn)
  rw [writeDone_last (s := onPort p.val g s) txns lash write last flight row peer,
    settled_eq (by rw [gwStatus_soleDone, gwStatus_onTxns, gwStatus_onPort])] at outcome
  exact ⟨_, outcome, rfl, rfl, rfl, rfl⟩

/-- A read for a tier is complete with its last READ_DATA, whose bytes are then in the tier. -/
theorem exec_readData_last {data : List Byte} (taken : Taken p.val 1 (answerHeld 4 t.txn) s l u) (read : t.isRead = true)
    (copy : t.desc ≠ 0) (tier : dDkind t.desc = 1) (asIs : dCfmt t.desc = 0) (alone : inPair s = false) (whole : t.left = data.length)
    (first : t.again = []) (src : BitVec 14) : ∃ v, exec (.readData p src t.txn 0 ⟨data, 0⟩) s = .next v ∧ v.fab.txns = [] ∧
      v.seq = { s.seq with flight := [{ f with stage := .done }] } ∧
      v.mem = (writeMem 0 (fld (dDaddr t.desc) 0 42) data s).mem ∧ v.gw = s.gw := by
  obtain ⟨g, -, outcome⟩ := event_taken taken (takeReadData p.val t.txn 0 ⟨data, 0⟩)
  rw [show takeReadData p.val t.txn 0 ⟨data, 0⟩ (onPort p.val g s) = readData p.val t.txn 0 data (onPort p.val g s) from rfl,
    readData_last (s := onPort p.val g s) txns lash read flight row peer copy tier asIs alone whole first,
    settled_eq (by rw [gwStatus_soleDone, gwStatus_onTxns, gwStatus_writeMem, gwStatus_onPort])] at outcome
  exact ⟨_, outcome, rfl, rfl, rfl, rfl⟩

end

/-- An answer of no transaction changes nothing. -/
theorem writeDone_unknown {s : State} {p : Nat} {txn : BitVec 12} (unknown : ∀ t ∈ s.fab.txns, t.txn ≠ txn) : writeDone p txn s = s := by
  have notFound : s.fab.txns.find? (fun t => t.txn = txn && !t.isRead && t.lash = decide (p = 6)) = none := by
    rw [List.find?_eq_none]; intro t mem; simp [unknown t mem]
  rw [writeDone, notFound]

theorem takeReadData_unknown {s : State} {p : Nat} {txn : BitVec 12} (unknown : ∀ t ∈ s.fab.txns, t.txn ≠ txn) (offset : Nat)
    (data : ReadPart) : takeReadData p txn offset data s = s := by
  have notFound : s.fab.txns.find? (fun t => t.txn = txn && t.isRead && t.lash = decide (p = 6)) = none := by
    rw [List.find?_eq_none]; intro t mem; simp [unknown t mem]
  rw [takeReadData, readData, notFound]
  exact ite_self _

section
variable {s : State} {p : Fin 7} (ports : s.fab.ports.length = 7) (active : (port s p.val).state = .active)
  (empty : (port s p.val).rxMsgs = []) (first : (port s p.val).tagFail = none) (fresh : (port s p.val).retrains = [])
include ports active empty first fresh

/-- Whatever the message would have done, where its tag fails the port leaves ACTIVE and no byte changes. -/
theorem event_badTag (n : Nat) (fits : RxMsg → Bool) (f : State → State) :
    ∃ t, event true (takeMsg p.val false fits n f) s = .next t ∧ (port t p.val).state = .off ∧ t.mem = s.mem ∧ t.seq = s.seq ∧
      t.log = s.log.push (s.log.stamp Code.linkAuthFail 0 [BitVec.ofNat 8 p.val]) := by
  obtain ⟨state, mem, seq, log⟩ := tagFailure_first (p.isLt.trans_eq ports.symm) active first fresh
  refine ⟨settled s (tagFailure p.val s), ?_, ?_, ?_, ?_, ?_⟩
  · rw [event_holds rfl, takeMsg_bad _ _ _ _ _ active empty]
  · rw [← state, port, port, settled_fab]
  · rw [settled_mem, mem]
  · rw [settled_seq, seq]
  · rw [settled_log, log]

end

/-- Settles O27: each message is taken out of its buffers, and has then its effect. -/
theorem copyMessagesReadAndWrite : Obligations.CopyMessagesReadAndWrite := by
  intro s p active ports
  refine ⟨?write, ?read, ?writeDone, ?unknown, ?readData, ?badTag⟩
  case write =>
    intro m pl h l u taken own place fabric routed
    obtain ⟨t, o, outcome, mem, queue, ⟨dst, vc, body⟩, rest⟩ := exec_writeMsg ports taken own fabric routed place
    exact ⟨t, o, outcome, mem, queue, dst, vc, body, rest⟩
  case read =>
    intro m sp key h l u taken own place fabric routed nonempty tier rowRead staging slice
    obtain ⟨t, o, outcome, mem, queue, ⟨dst, -, body⟩, rest⟩ :=
      exec_readMsg ports taken own fabric routed place nonempty tier rowRead staging slice
    exact ⟨t, o, outcome, mem, queue, dst, body, rest⟩
  case writeDone =>
    rintro src _ t txns rfl write lash ⟨l, u, taken⟩
    exact ⟨fun more => exec_writeDone_more txns lash taken write more src,
      fun f last flight row peer => exec_writeDone_last txns lash flight row peer taken write last src⟩
  case unknown =>
    intro src txn l u unknown
    exact ⟨fun taken offset data => event_taken_idle taken fun v same => takeReadData_unknown (same ▸ unknown) offset data,
      fun taken => event_taken_idle taken fun v same => writeDone_unknown (same ▸ unknown)⟩
  case readData =>
    rintro src _ t f data txns rfl read lash flight row peer copy - tier - asIs alone whole - - - first ⟨l, v, taken⟩
    exact exec_readData_last txns lash flight row peer taken read copy tier asIs alone whole first src
  case badTag =>
    intro m empty first fresh
    have fails := event_badTag ports active empty first fresh 1 (msgHeld m)
    obtain ⟨t, read, readOff, readMem, readSeq, -⟩ := fails (readHere p.val m)
    obtain ⟨v, pass, passOff, passMem, passSeq, -⟩ := fails (messageForward p.val m)
    exact ⟨fails (writeHere p.val m), ⟨t, read, readOff, readMem, readSeq⟩, v, pass, passOff, passMem, passSeq⟩

end Sys2Proof.Machine

/-! ## Ports: what their operations change

A change of one port is `onPort`, which depends on the function at that port alone (`onPort_congr`). What a port drives onto its wire leaves
all but the fields of the flits as they were (`Drives`). Bring-up changes the handshake of a port at most (`bringUp_eq`), and a fabric port
that no command waits for and where no message waits is fenced by its record and its state (`fencePort_idle`). -/

namespace Sys2Proof.Machine

/-! ### One port changes -/

theorem modifyAt_congr {α : Type} {f g : α → α} {d : α} (l : List α) (k : Nat) (h : f (nth l k d) = g (nth l k d)) :
    modifyAt l k f = modifyAt l k g := by
  induction l generalizing k with
  | nil => rfl
  | cons x l ih =>
    cases k with
    | zero => exact congrArg (· :: l) h
    | succ k => exact congrArg (x :: ·) (ih k h)

/-- A change of a port depends on what it makes of that port alone. -/
theorem onPort_congr {s : State} {p : Nat} {f g : Port → Port} (h : f (port s p) = g (port s p)) : onPort p f s = onPort p g s := by
  rw [onPort, onPort, modifyAt_congr s.fab.ports p h]

theorem onPort_self {s : State} {p : Nat} {f : Port → Port} (h : f (port s p) = port s p) : onPort p f s = s := by
  rw [onPort, modifyAt_self s.fab.ports p h]

/-- A change of a port replaces it by what it has become. -/
theorem onPort_replaces {s : State} {p : Nat} (inRange : p < s.fab.ports.length) (f : Port → Port) :
    onPort p f s = onPort p (fun _ => port (onPort p f s) p) s :=
  onPort_congr (port_onPort_same s p f inRange).symm

/-- What a change of a port keeps of it, all ports keep. -/
theorem keeps_onPort {α : Type} {h : Port → α} {f : Port → Port} (keeps : ∀ q, h (f q) = h q) (p k : Nat) (s : State) :
    h (port (onPort p f s) k) = h (port s k) := by
  by_cases here : k = p
  · subst here
    by_cases inRange : k < s.fab.ports.length
    · rw [port_onPort_same s k f inRange, keeps]
    · have outside : port (onPort k f s) k = port s k := by
        rw [port, port, nth, nth, List.getD_eq_default _ _ (by simpa using inRange), List.getD_eq_default _ _ (Nat.le_of_not_lt inRange)]
      rw [outside]
  · rw [port_onPort_other s p k f here]

theorem length_onPort (p : Nat) (f : Port → Port) (s : State) : (onPort p f s).fab.ports.length = s.fab.ports.length :=
  modifyAt_length _ _ _

/-- An event whose effect shows in no bit of GW_STATUS has that effect alone. -/
theorem event_quiet {c : Bool} (holds : c = true) {f : State → State} {s : State} (status : gwStatus (f s) = gwStatus s) :
    event c f s = .next (f s) := by
  rw [event_holds holds, settled_eq status]

theorem event_onPort {c : Bool} (holds : c = true) {f : State → State} {s : State} {p : Nat} {g : Port → Port} (effect : f s = onPort p g s) :
    event c f s = .next (onPort p g s) := by
  rw [event_quiet holds (by rw [effect, gwStatus_onPort]), effect]

theorem gwStatus_portRecord (c : RecCode) (p : Nat) (s : State) : gwStatus (portRecord c p s) = gwStatus s :=
  gwStatus_congr rfl rfl rfl rfl rfl rfl rfl rfl rfl

theorem fab_portRecord (c : RecCode) (p : Nat) (s : State) : (portRecord c p s).fab = s.fab := rfl

theorem port_portRecord (c : RecCode) (p k : Nat) (s : State) : port (portRecord c p s) k = port s k := rfl

theorem log_portRecord (c : RecCode) (p : Nat) (s : State) :
    (portRecord c p s).log = s.log.push (s.log.stamp c 0 [BitVec.ofNat 8 p]) := rfl

/-! ### Flits on the wire -/

/-- Port r is port q after it has driven flits: their bits, the credits that they return or spend, and the replay buffer have changed. -/
def Drives (q r : Port) : Prop :=
  ∃ wire freed txSeq unacked credits,
    r = { q with wire := wire, freed := freed, txSeq := txSeq, unacked := unacked, credits := credits }

theorem Drives.refl (q : Port) : Drives q q := ⟨_, _, _, _, _, rfl⟩

theorem Drives.trans {q r t : Port} (a : Drives q r) (b : Drives r t) : Drives q t := by
  obtain ⟨_, _, _, _, _, rfl⟩ := a
  obtain ⟨_, _, _, _, _, rfl⟩ := b
  exact ⟨_, _, _, _, _, rfl⟩

/-- What does not read the fields of the flits is as it was. -/
theorem Drives.keeps {α : Type} {q r : Port} (h : Drives q r) (f : Port → α) (reads : ∀ wire freed txSeq unacked credits,
    f { q with wire := wire, freed := freed, txSeq := txSeq, unacked := unacked, credits := credits } = f q := by intros; rfl) : f r = f q := by
  obtain ⟨_, _, _, _, _, rfl⟩ := h
  exact reads _ _ _ _ _

theorem Drives.foldl {β : Type} {g : Port → β → Port} (step : ∀ q b, Drives q (g q b)) (l : List β) (q : Port) : Drives q (l.foldl g q) := by
  induction l generalizing q with
  | nil => exact .refl q
  | cons b l ih => exact (step q b).trans (ih _)

theorem drives_replayFlit (head : Nat) (ends : Option (BitVec 64)) (payload : List Byte) (q : Port) : Drives q (replayFlit head ends payload q) :=
  ⟨_, _, _, _, _, rfl⟩

theorem drives_sendCtl (bs : List Byte) (q : Port) : Drives q (sendCtl bs q) :=
  Drives.trans (r := { q with wire := [] }) ⟨_, _, _, _, _, rfl⟩ (.foldl (fun _ _ => drives_replayFlit _ _ _ _) _ _)

theorem drives_launch (me : BitVec 14) (q : Port) (o : Out) : Drives q (launch me q o) :=
  (Drives.foldl (fun _ _ => drives_replayFlit _ _ _ _) _ q).trans ⟨_, _, _, _, _, rfl⟩

/-! ### Bring-up, completions and fences of a port -/

theorem state_off {q : Port} (unfenced : q.state ≠ .fenced) : q.off.state = .off := if_neg unfenced

/-- The port is at a step of the handshake, with so much of its transcript. -/
def atStep (hs : Handshake) (transcript : List (List Byte × List Byte)) (q : Port) : Port := { q with hs := hs, transcript := transcript }

@[simp] theorem state_atStep (hs : Handshake) (transcript : List (List Byte × List Byte)) (q : Port) :
    (atStep hs transcript q).state = q.state := rfl

theorem bringUp_eq (p : Nat) (s : State) : ∃ hs transcript, bringUp p s = onPort p (atStep hs transcript) s := by
  rcases bringUp_cases p s with same | trains
  · exact ⟨(port s p).hs, (port s p).transcript, same.trans (onPort_self (f := atStep _ _) rfl).symm⟩
  · exact ⟨_, _, trains⟩

theorem completeLinks_none {s : State} (links : s.gw.links = []) (p : Nat) : completeLinks p s = s := by
  have others : s.gw.links.filter (fun l => l.1 != p) = s.gw.links := by rw [links]; rfl
  have kept : onGw (fun g => { g with links := g.links.filter (fun l => l.1 != p) }) s = s := by rw [onGw, others]
  rw [completeLinks, kept, links]
  rfl

theorem reroute_none {s : State} {p : Nat} (queue : (port s p).queue = []) : reroute p s = s := by
  unfold reroute
  split
  · rfl
  · rw [queue]; exact onPort_self (by rw [← queue])

/-- A fabric port that no LINK_CTL waits for, and where no message waits, is fenced by its record and its state. -/
theorem fencePort_idle {s : State} {p : Nat} (fabric : p ≠ 6) (links : s.gw.links = []) (inRange : p < s.fab.ports.length)
    (queue : (port s p).queue = []) :
    fencePort p s = onPort p (fun q => { q.off with state := .fenced }) (portRecord Code.linkFenced p s) := by
  have waiting : (port (onPort p (fun q => { q.off with state := .fenced }) (portRecord Code.linkFenced p s)) p).queue = [] := by
    rw [port_onPort_same (portRecord Code.linkFenced p s) p _ inRange]; exact queue
  simp only [fencePort, fabric, if_false]
  rw [completeLinks_none (by exact links), reroute_none waiting]

/-! ### A step of the bring-up fails, R239 -/

section
variable {s : State} {p : Nat} (fabric : p ≠ 6) (links : s.gw.links = []) (inRange : p < s.fab.ports.length)
include fabric links inRange

/-- The first or second failure in a row: the record, and the port is OFF to be brought up again. -/
theorem bringFail_few (few : (port s p).fails < 2) (c : RecCode) (st : BitVec 16) : ∃ hs transcript, bringFail p (some c) st s =
    onPort p (fun q => atStep hs transcript { q.off with fails := q.fails + 1 }) (portRecord c p s) := by
  have failed : (port (onPort p (fun q => { q.off with fails := q.fails + 1 }) (portRecord c p s)) p).fails = (port s p).fails + 1 :=
    congrArg Port.fails (port_onPort_same (portRecord c p s) p _ inRange)
  obtain ⟨hs, transcript, trains⟩ := bringUp_eq p (onPort p (fun q => { q.off with fails := q.fails + 1 }) (portRecord c p s))
  refine ⟨hs, transcript, ?_⟩
  simp only [bringFail, fabric, if_false, failed]
  rw [if_neg (by omega), completeLinks_none (by exact links), trains, onPort_onPort]

/-- The third failure in a row of a module without a job: LINK_FENCED after the failure's record, and the port is FENCED. -/
theorem bringFail_third (third : 2 ≤ (port s p).fails) (queue : (port s p).queue = []) (ranks : s.job.ranks = 0) (c : RecCode)
    (st : BitVec 16) : bringFail p (some c) st s =
      onPort p (fun q => { q.off with fails := q.fails + 1, state := .fenced }) (portRecord Code.linkFenced p (portRecord c p s)) := by
  have here : port (onPort p (fun q => { q.off with fails := q.fails + 1 }) (portRecord c p s)) p =
      { (port s p).off with fails := (port s p).fails + 1 } := port_onPort_same (portRecord c p s) p _ inRange
  have nobody : ∀ t : State, t.job.ranks = 0 → lostNeighbour p t = t := by
    intro t none
    have members : otherMembers t 0 = [] := by simp [otherMembers, groupRanks, none]
    rw [lostNeighbour, members]
    rfl
  simp only [bringFail, fabric, if_false, here]
  rw [if_pos (by omega), fencePort_idle fabric (by exact links) (by rw [length_onPort]; exact inRange) (by rw [here]; exact queue),
    nobody _ (by exact ranks)]
  exact onPort_onPort p _ _ (portRecord Code.linkFenced p (portRecord c p s))

/-- An event by which a step of the bring-up fails for the first or second time in a row. -/
theorem event_bringFail_few (few : (port s p).fails < 2) (off : (port s p).state = .off) {b : Bool} (holds : b = true) {f : State → State}
    {c : RecCode} {st : BitVec 16} (effect : f s = bringFail p (some c) st s) : ∃ t, event b f s = .next t ∧ (port t p).state = .off ∧
      (port t p).fails = (port s p).fails + 1 ∧ t.log = s.log.push (s.log.stamp c 0 [BitVec.ofNat 8 p]) ∧
      t = { onPort p (fun _ => port t p) s with log := t.log } := by
  obtain ⟨hs, transcript, fails⟩ := bringFail_few fabric links inRange few c st
  have here := port_onPort_same (portRecord c p s) p
    (fun q => atStep hs transcript { q.off with fails := q.fails + 1 }) inRange
  refine ⟨_, event_quiet holds (by rw [effect, fails, gwStatus_onPort, gwStatus_portRecord]), ?_⟩
  rw [effect, fails]
  refine ⟨?_, ?_, rfl, ?_⟩
  · rw [here]; exact state_off (by rw [port_portRecord, off]; decide)
  · rw [here]; rfl
  · exact onPort_replaces (s := portRecord c p s) inRange _

end

end Sys2Proof.Machine

/-! ## O24: a port comes up step by step

Each step of Table 10-5 changes its port alone and sends a message (`event_sends`), which leaves the fields that the statement names
(`Drives.keeps`). A step that fails is a failure of the port (`event_bringFail_few`, `bringFail_third`). -/

namespace Sys2Proof.Machine

/-! ### A step that goes on -/

/-- A port has changed, and so many values have been drawn. -/
def stepped (p : Nat) (g : Port → Port) (draws : Nat) (s : State) : State := { onPort p g s with free := s.free + draws }

theorem gwStatus_stepped (p : Nat) (g : Port → Port) (draws : Nat) (s : State) : gwStatus (stepped p g draws s) = gwStatus s :=
  gwStatus_congr rfl rfl rfl rfl rfl rfl rfl rfl rfl

/-- An event after which the port sends a message of the handshake. -/
theorem event_sends {b : Bool} (holds : b = true) {f : State → State} {s : State} {p : Nat} (inRange : p < s.fab.ports.length)
    {g : Port → Port} {text : List Byte} {draws : Nat} (effect : f s = stepped p (fun q => sendCtl text (g q)) draws s) :
    ∃ t, event b f s = .next t ∧ Drives (g (port s p)) (port t p) ∧ t = { onPort p (fun _ => port t p) s with free := s.free + draws } := by
  refine ⟨_, (event_quiet holds (by rw [effect, gwStatus_stepped])).trans (congrArg _ effect), ?_, ?_⟩
  · have here : port (stepped p (fun q => sendCtl text (g q)) draws s) p = sendCtl text (g (port s p)) :=
      port_onPort_same s p (fun q => sendCtl text (g q)) inRange
    rw [here]
    exact drives_sendCtl _ _
  · exact congrArg (fun t : State => { t with free := s.free + draws }) (onPort_replaces inRange _)

/-! ### Hello, R231 -/

theorem toNat_fabricId (cfg : BitVec 128) : (cfg.extractLsb' 64 64).toNat = bits cfg 64 64 := by
  rw [BitVec.extractLsb'_toNat, Nat.shiftRight_eq_div_pow, bits, fld]

/-- What a hello on a fabric port must say. -/
theorem helloOk_iff {s : State} {p : Nat} (fabric : p ≠ 6) (fabricId : BitVec 64) (node : BitVec 14) (peerPort : BitVec 3) :
    helloOk s p fabricId node peerPort = true ↔ fabricId = s.fab.cfg.extractLsb' 64 64 ∧ node = neighbour s.fab.cfg (myNode s) p ∧
      peerPort.toNat = (p + 3) % 6 := by
  rw [helloOk, if_neg fabric, ← BitVec.toNat_inj (x := fabricId), toNat_fabricId, eq_comm (a := fabricId.toNat)]
  simp only [Bool.and_eq_true, decide_eq_true_eq, and_assoc]

/-- The port has heard the hello and signs its evidence. -/
def evidencing (own peer text : List Byte) (q : Port) : Port :=
  { q with hs := .evidence, transcript := q.transcript ++ [(own, peer)], sentStep := text }

theorem hello_good {s : State} {p : Nat} {fabricId : BitVec 64} {node : BitVec 14} {peerPort : BitVec 3}
    (ok : helloOk s p fabricId node peerPort = true) (msg : List Byte) :
    hello p fabricId node peerPort msg s = stepped p (fun q => sendCtl (evidenceText (helloText s p) msg s).1
      (evidencing (helloText s p) msg (evidenceText (helloText s p) msg s).1 q)) 1 s :=
  (if_pos ok).trans (onPort_onPort p _ _ { s with free := s.free + 1 })

theorem hello_bad {s : State} {p : Nat} {fabricId : BitVec 64} {node : BitVec 14} {peerPort : BitVec 3} (fabric : p ≠ 6)
    (bad : helloOk s p fabricId node peerPort = false) (msg : List Byte) :
    hello p fabricId node peerPort msg s = bringFail p (some Code.topologyMismatch) Status.topologyMismatch s := by
  rw [hello, bad, if_neg fabric]
  rfl

/-! ### Evidence and key agreement, spec/14_trust.md R326, R327 -/

theorem evidenceFault_fabric {s : State} {p : Nat} (fabric : p ≠ 6) (e : PeerEvidence) :
    evidenceFault s p e = if evidenceGood s p e then none else some (Code.linkAuthFail, Status.linkAuthFail) := by
  simp [evidenceFault, fabric]

/-- The port has accepted the peer's evidence and sends its ephemeral key. -/
def agreeing (own peer text : List Byte) (fp : Fp) (key : BitVec 384) (q : Port) : Port :=
  { q with hs := .agree, transcript := q.transcript ++ [(own, peer)], candidate := some fp, ephemeral := key, sentStep := text }

theorem peerEvidence_good {s : State} {p : Nat} {e : PeerEvidence} (fabric : p ≠ 6) (good : evidenceGood s p e = true) (msg : List Byte) :
    ∃ text, peerEvidence p e msg s = stepped p (fun q => sendCtl text
      (agreeing (port s p).sentStep msg text e.identityFp (Config.random384 s.free) q)) 2 s := by
  rw [peerEvidence, evidenceFault_fabric fabric, good]
  exact ⟨_, (congrArg (onPort p _) (onPort_onPort p _ _ { s with free := s.free + 2 })).trans
    (onPort_onPort p _ _ { s with free := s.free + 2 })⟩

theorem peerEvidence_bad {s : State} {p : Nat} {e : PeerEvidence} (fabric : p ≠ 6) (bad : evidenceGood s p e = false) (msg : List Byte) :
    peerEvidence p e msg s = bringFail p (some Code.linkAuthFail) Status.linkAuthFail s := by
  rw [peerEvidence, evidenceFault_fabric fabric, bad]
  rfl

/-- The direction keys that follow from the messages of the handshake and the agreed point. -/
def agreedKeys (s : State) (p : Nat) (peerKey : Key) (transcript : List (List Byte × List Byte)) : BitVec 256 × BitVec 256 :=
  linkKeys p (lowSide s p) (ecdhX (port s p).ephemeral peerKey) (handshakeText (lowSide s p) transcript)

/-- The port holds its direction keys and confirms them. -/
def confirming (own peer : List Byte) (keys : BitVec 256 × BitVec 256) (q : Port) : Port :=
  { q with hs := .confirm, transcript := q.transcript ++ [(own, peer)], txKey := keys.1, rxKey := keys.2 }

theorem Drives.keys {own peer : List Byte} {keys : BitVec 256 × BitVec 256} {q r : Port} (h : Drives (confirming own peer keys q) r) :
    (r.txKey, r.rxKey) = keys := h.keeps (fun q => (q.txKey, q.rxKey))

theorem agree_good {s : State} {p : Nat} {peerKey : Key} (inRange : p < s.fab.ports.length) (curve : P384.onCurve peerKey = true)
    (msg : List Byte) : ∃ text, agree p true peerKey msg s = stepped p (fun q => sendCtl text (confirming (port s p).sentStep msg
      (agreedKeys s p peerKey ((port s p).transcript ++ [((port s p).sentStep, msg)])) q)) 0 s := by
  have here : port (heard p .confirm (port s p).sentStep msg s) p =
      { port s p with hs := .confirm, transcript := (port s p).transcript ++ [((port s p).sentStep, msg)] } :=
    port_onPort_same s p _ inRange
  have low : lowSide (heard p .confirm (port s p).sentStep msg s) p = lowSide s p := by rw [lowSide, here]; rfl
  simp only [agree, curve, Bool.not_true, Bool.or_self, Bool.false_eq_true, if_false, low, here]
  exact ⟨_, onPort_onPort p _ _ s⟩

/-! ### Resume, R230 -/

theorem newPeer_same {s : State} {p : Nat} (same : (port s p).peer = none ∨ (port s p).peer = (port s p).candidate) : newPeer p s = s := by
  rcases same with none | same <;> simp [newPeer, *]

/-- What a port is after its resume step, before it sends again what the peer does not have. -/
def resumed (expected : BitVec 64) (p : Nat) (q : Port) : Port :=
  { q with
    state := .active, hs := .idle, peer := q.candidate, sent := q.sent.filter (fun o => expected.toNat ≤ o.mseq.toNat)
    credits := fullCredits p, freed := [], nak := false, peerAsleep := false, dozeOut := false, dozeIn := false, waking := false, fails := 0
    replaysMs := 0, everActive := true, rxBytes := [], rxMsgs := q.rxMsgs.map (fun x => { x with flits := 0 }) }

/-- A port that its old peer, or its first, has joined again: the record, and the flits of early messages are no longer owed. -/
theorem resume_fabric {s : State} {p : Nat} (fabric : p ≠ 6) (links : s.gw.links = [])
    (same : (port s p).peer = none ∨ (port s p).peer = (port s p).candidate) (expected : BitVec 64) :
    ∃ g early, resume p expected s = { onPort p g s with log := (portRecord Code.linkUp p s).log, job := { s.job with early := early } } ∧
      ∀ q, Drives (resumed expected p q) (g q) := by
  simp only [resume, newPeer_same same, fabric, decide_false, Bool.false_and, Bool.false_eq_true, if_false]
  exact ⟨_, _, completeLinks_none (by exact links) p, fun _ => .foldl (drives_launch _) _ _⟩

theorem gwStatus_resumed (s : State) (fab : Fabric) (log : Recorder) (early : List Early) :
    gwStatus { s with fab := fab, log := log, job := { s.job with early := early } } = gwStatus s := rfl

/-! ### The steps -/

theorem linkBringUpRunsItsSteps : Claims.LinkBringUpRunsItsSteps := by
  rintro s p _ msg rfl inRange fabric links
  refine ⟨fun now => ?train, fun fabricId node peerPort now idGood nodeGood portGood => ?hello,
    fun fabricId node peerPort now bad few off => ?badHello, fun e own peer now heard nonce cert sig enrolled owner policy => ?evidence,
    fun e own peer now heard nonce few off => ?badEvidence, fun peerKey now curve => ?agree, fun c now opens => ?confirm,
    fun expected now same => ?resume, fun idle => ?idle⟩
  case train =>
    rw [exec, execLinkTrainComplete]
    exact event_onPort (by simp [mayTrain, now]) (by simp [wakesHalf, trainComplete, trainedLanes, fabric])
  case hello =>
    rintro _ rfl
    obtain ⟨t, outcome, drives, frame⟩ := event_sends (b := (port s p.val).hs = .hello) (by simp [now]) inRange
      (hello_good ((helloOk_iff fabric fabricId node peerPort).mpr ⟨idGood, nodeGood, portGood⟩) msg)
    exact ⟨t, outcome, drives.keeps Port.hs, drives.keeps Port.transcript, drives.keeps Port.sentStep, frame⟩
  case badHello =>
    have differs : helloOk s p.val fabricId node peerPort = false := by
      rw [Bool.eq_false_iff, ne_eq, helloOk_iff fabric]
      tauto
    exact event_bringFail_few fabric links inRange few off (by simp [now]) (hello_bad fabric differs msg)
  case evidence =>
    have good : evidenceGood s p.val e = true := by simp [evidenceGood, heard, nonce, cert, sig, enrolled, owner, policy]
    obtain ⟨text, accepts⟩ := peerEvidence_good fabric good msg
    obtain ⟨t, outcome, drives, frame⟩ := event_sends (b := (port s p.val).hs = .evidence) (by simp [now]) inRange accepts
    exact ⟨t, outcome, drives.keeps Port.hs, drives.keeps Port.candidate, (drives.keeps Port.transcript).trans (by rw [agreeing, heard]; rfl),
      drives.keeps Port.ephemeral, frame⟩
  case badEvidence =>
    have bad : evidenceGood s p.val e = false := by simp [evidenceGood, heard, nonce]
    obtain ⟨t, outcome, -, fails, log, -⟩ :=
      event_bringFail_few (b := (port s p.val).hs = .evidence) fabric links inRange few off (by simp [now]) (peerEvidence_bad fabric bad msg)
    exact ⟨t, outcome, fails, log⟩
  case agree =>
    obtain ⟨text, agrees⟩ := agree_good inRange curve msg
    obtain ⟨t, outcome, drives, frame⟩ := event_sends (b := (port s p.val).hs = .agree) (by simp [now]) inRange agrees
    exact ⟨t, outcome, drives.keeps Port.hs, drives.keeps Port.transcript, drives.keys, frame⟩
  case confirm =>
    rw [exec, execLinkConfirm]
    exact event_onPort (by simp [now]) (if_pos opens)
  case resume =>
    obtain ⟨g, early, resumes, drives⟩ := resume_fabric fabric links same expected
    have here : port (resume p.val expected s) p.val = g (port s p.val) := by rw [resumes]; exact port_onPort_same s p.val g inRange
    have drives := here ▸ drives (port s p.val)
    refine ⟨resume p.val expected s, event_quiet (by simp [now]) (by rw [resumes]; exact gwStatus_resumed _ _ _ _),
      drives.keeps Port.state, drives.keeps Port.hs, drives.keeps Port.peer, drives.keeps Port.sent, drives.keeps Port.txMseq, drives.keeps Port.rxMseq, drives.keeps Port.queue,
      (drives.keeps (fun q => q.rxMsgs.length)).trans (List.length_map _), by rw [resumes]; rfl, ?_⟩
    rw [here, resumes, onPort_congr (s := s) (f := fun _ => g (port s p.val)) (g := g) rfl]
  case idle =>
    refine ⟨fun _ _ _ => ?_, fun _ => ?_, fun _ _ => ?_, fun _ => ?_, fun _ => ?_⟩ <;> exact event_waits (by simp [idle]) _ _

theorem threeFailedBringUpsFenceThePort : Claims.ThreeFailedBringUpsFenceThePort := by
  rintro s p _ c rfl inRange fabric links queue ranks off now fails
  have refused : linkConfirm p.val c s = bringFail p.val (some Code.linkAuthFail) Status.linkAuthFail s := if_neg (by simp [fails])
  refine ⟨fun few => ?_, fun third => ?_⟩
  · obtain ⟨t, outcome, state, count, log, -⟩ :=
      event_bringFail_few (b := (port s p.val).hs = .confirm) fabric links inRange few off (by simp [now]) refused
    exact ⟨t, outcome, state, count, log⟩
  · have fenced := refused.trans (bringFail_third fabric links inRange third queue ranks Code.linkAuthFail Status.linkAuthFail)
    have here := port_onPort_same (portRecord Code.linkFenced p.val (portRecord Code.linkAuthFail p.val s)) p.val
      (fun q => { q.off with fails := q.fails + 1, state := .fenced }) inRange
    have outcome : exec (.linkConfirm p c) s = .next (linkConfirm p.val c s) :=
      event_quiet (by simp [now]) (by rw [fenced, gwStatus_onPort, gwStatus_portRecord, gwStatus_portRecord])
    rw [fenced] at outcome
    refine ⟨_, outcome, by rw [here], by rw [here]; rfl, fun k other => ?_, by simp [portRecord], by simp [portRecord],
      (portRecord Code.linkAuthFail p.val s).log, log_portRecord _ _ _, ?_⟩
    · rw [port_onPort_other _ _ _ _ other, port_portRecord, port_portRecord]
    · rw [onPort_log, log_portRecord]

/-- Settles O24: the steps of Table 10-5 one by one, and the third failure in a row. -/
theorem linkBringUp : Obligations.LinkBringUp := ⟨linkBringUpRunsItsSteps, threeFailedBringUpsFenceThePort⟩

end Sys2Proof.Machine

/-! ## O25: flits are taken in order, and replayed

A good flit first leaves the credits and the acknowledgement that it brings (`takeLink_idle`); a data flit with the expected SEQ then
enters its message (`goodFlit_inOrder`, `takeData_more`, `takeData_opens`, `takeData_fails`), and one with another SEQ asks for the
expected one (`goodFlit_other`). A retrain leads to bring-up or, the fourth in 60 s, to a fence (`retrain_below`, `retrain_fourth`). -/

namespace Sys2Proof.Machine

/-! ### Bytes of a flit -/

theorem leBytes_drop (n v k : Nat) : (leBytes n v).drop k = leBytes (n - k) (v / 256 ^ k) := by
  induction k generalizing n v with
  | zero => simp
  | succ k ih =>
    cases n with
    | zero => simp [leBytes]
    | succ n => rw [leBytes, List.drop_succ_cons, ih, Nat.succ_sub_succ, Nat.div_div_eq_div_mul, Nat.pow_succ']

theorem leBytes_take (n v k : Nat) : (leBytes n v).take k = leBytes (min k n) v := by
  induction k generalizing n v with
  | zero => simp [leBytes]
  | succ k ih =>
    cases n with
    | zero => simp [leBytes]
    | succ n => rw [leBytes, List.take_succ_cons, ih, Nat.succ_min_succ, leBytes]

theorem leBytes_mod (n v : Nat) : leBytes n (v % 256 ^ n) = leBytes n v := by
  induction n generalizing v with
  | zero => rfl
  | succ n ih =>
    have low : BitVec.ofNat 8 (v % 256 ^ (n + 1)) = BitVec.ofNat 8 v := by
      apply BitVec.eq_of_toNat_eq
      simp only [BitVec.toNat_ofNat]
      exact Nat.mod_mod_of_dvd v (Dvd.intro_left (256 ^ n) rfl)
    rw [leBytes, leBytes, low, Nat.pow_succ', Nat.mod_mul_right_div_self, ih]

/-- A field of whole bytes, in base 256. -/
theorem toNat_ofNat_bits {w : Nat} (f : BitVec w) (i n : Nat) :
    (BitVec.ofNat (8 * n) (bits f (8 * i) (8 * n))).toNat = f.toNat / 256 ^ i % 256 ^ n := by
  rw [BitVec.toNat_ofNat, bits, fld, Nat.mod_mod, show 256 = 2 ^ 8 from rfl, ← Nat.pow_mul, ← Nat.pow_mul]

/-- The payload of a flit is its bytes 8 to 59 (spec/10_fabric.md R222). -/
theorem wordBytes_payload (f : BitVec 512) : wordBytes (BitVec.ofNat 416 (bits f 64 416)) = ((wordBytes f).drop 8).take 52 := by
  have whole : (BitVec.ofNat 416 (bits f 64 416)).toNat = f.toNat / 256 ^ 8 % 256 ^ 52 := toNat_ofNat_bits f 8 52
  rw [wordBytes, wordBytes, whole, leBytes_drop, leBytes_take]
  exact leBytes_mod 52 _

/-! ### A flit that is good -/

/-- A DATA flit whose CRC and reserved fields are as they must be. -/
structure GoodData (f : BitVec 512) : Prop where
  crc : (crc32c ((wordBytes f).take 60)).toNat = bits f 480 32
  data : bits f 0 4 = 1
  reserved : bits f 9 3 = 0 ∧ bits f 39 1 = 0 ∧ bits f 48 16 = 0

/-- The symbols that the decoder corrected are counted. -/
def symbols (sy : BitVec 4) (q : Port) : Port := { q with corrected := satAdd q.corrected sy.toNat }

theorem checkFlit_good {f : BitVec 512} (good : GoodData f) (p : Nat) (s : State) : checkFlit p f s = tryDoze p (goodFlit p f s) := by
  obtain ⟨crc, data, low, middle, high⟩ := good
  simp [checkFlit, crc, data, low, middle, high]

theorem tryDoze_off {s : State} {p : Nat} (off : (port s p).state = .off) : tryDoze p s = s := by simp [tryDoze, off]

theorem tryDoze_awake {s : State} {p : Nat} (awake : (port s p).dozeIn = false) : tryDoze p s = s := by simp [tryDoze, awake]

theorem takeAck_idle {q : Port} (unacked : q.unacked = []) (ack : BitVec 12) : takeAck ack q = q := by
  have none : acked ack q.unacked = [] := by rw [unacked]; rfl
  simp [takeAck, none]

/-- The credits that a flit brings. -/
def credited (f : BitVec 512) (q : Port) : Port :=
  { q with credits := sput q.credits (bits f 36 3) (sget q.credits (bits f 36 3) 0 + bits f 40 8) }

/-- With nothing to acknowledge, a flit brings its credits. -/
theorem takeLink_idle {s : State} {p : Nat} (active : (port s p).state = .active) (unacked : (port s p).unacked = []) (f : BitVec 512) :
    takeLink p f s = onPort p (credited f) s := by
  refine onPort_congr ?_
  rw [if_pos active]
  exact takeAck_idle (q := credited f (port s p)) unacked _

/-- The port has taken a flit with the expected SEQ. -/
def taking (f : BitVec 512) (q : Port) : Port := { credited f q with rxSeq := q.rxSeq + 1, nak := false }

theorem goodFlit_inOrder {s : State} {p : Nat} {f : BitVec 512} (good : GoodData f) (inRange : p < s.fab.ports.length)
    (active : (port s p).state = .active) (unacked : (port s p).unacked = []) (seq : bits f 12 12 = (port s p).rxSeq.toNat) :
    goodFlit p f s = takeData p f (onPort p (taking f) s) := by
  have here : (port (onPort p (taking f) s) p).state = .active := by rw [port_onPort_same s p _ inRange]; exact active
  have takes : onPort p (fun q => { q with rxSeq := q.rxSeq + 1, nak := false }) (takeLink p f s) = onPort p (taking f) s := by
    rw [takeLink_idle active unacked, onPort_onPort]
    rfl
  simp only [goodFlit, good.data, seq, takes, here, decide_true, Bool.true_or, Bool.true_and, if_true]

/-- The port asks for the expected SEQ, unless it has. -/
def asking (q : Port) : Port :=
  if q.nak then q else driveFlit 3 (leBytes 2 q.rxSeq.toNat) { q with nak := true, nakSent := q.nakSent + 1, wire := [] }

theorem dozeIn_asking (q : Port) : (asking q).dozeIn = q.dozeIn := by unfold asking; split <;> rfl

theorem goodFlit_other {s : State} {p : Nat} {f : BitVec 512} (good : GoodData f) (seq : bits f 12 12 ≠ (port s p).rxSeq.toNat) :
    goodFlit p f s = onPort p asking s := by
  have asks : goodFlit p f s = if (port s p).nak then s else sendNak p s := by simp [goodFlit, good.data, seq]
  rw [asks]
  split
  · next outstanding => exact (onPort_self (f := asking) (if_pos outstanding)).symm
  · next free => exact onPort_congr (g := asking) (if_neg free).symm

/-! ### The payload enters its message -/

/-- The bytes of the message with the flit's payload, and the buffer that it is for. -/
def bytesWith (f : BitVec 512) (q : Port) : List Byte :=
  if bitAt f 7 then ((wordBytes f).drop 8).take 52 else q.rxBytes ++ ((wordBytes f).drop 8).take 52

def bufferWith (f : BitVec 512) (q : Port) : BitVec 3 := if bitAt f 7 then BitVec.ofNat 3 (bits f 4 2 * 2 + bits f 6 1) else q.rxBuffer

section
variable {s : State} {p : Nat} {f : BitVec 512}

/-- The message goes on, or has come whole. -/
def extending (f : BitVec 512) (q : Port) : Port := { q with rxBytes := bytesWith f q, rxBuffer := bufferWith f q }

def completing (f : BitVec 512) (text : List Byte) (q : Port) : Port := holdMsg (bufferWith f q) (bytesWith f q) text q

theorem takeData_more (more : bitAt f 8 = false) : takeData p f s = onPort p (extending f) s := by
  simp only [takeData, wordBytes_payload, more, Bool.false_eq_true, if_false]
  exact onPort_congr rfl

theorem takeData_opens {text : List Byte} (last : bitAt f 8 = true)
    (opens : openHeld (port s p) (bufferWith f (port s p)) (bytesWith f (port s p)) = some text) :
    takeData p f s = onPort p (completing f text) s := by
  rw [bufferWith, bytesWith] at opens
  simp only [takeData, wordBytes_payload, last, if_true, opens]
  exact onPort_congr rfl

theorem takeData_fails (last : bitAt f 8 = true) (fails : openHeld (port s p) (bufferWith f (port s p)) (bytesWith f (port s p)) = none) :
    takeData p f s = tagFailure p s := by
  rw [bufferWith, bytesWith] at fails
  simp only [takeData, wordBytes_payload, last, if_true, fails]

/-- A verified message is held in its buffer, and one of CONTROL is taken as it comes. -/
theorem rxMsgs_holdMsg (buffer : BitVec 3) (bs text : List Byte) (q : Port) : (holdMsg buffer bs text q).rxMsgs =
    if buffer.toNat < 6 then q.rxMsgs ++ [{ buffer := buffer, flits := bs.length / 52, text := text }] else q.rxMsgs := by
  unfold holdMsg
  by_cases low : buffer.toNat < 6 <;> simp [low, Nat.not_le.mpr, Nat.le_of_not_lt]

/-- Else only its place in the stream, its bytes and the credits owed for it have changed. -/
theorem holdMsg_eq (buffer : BitVec 3) (bs text : List Byte) (q : Port) : holdMsg buffer bs text q = { q with
    rxBytes := [], rxMseq := q.rxMseq + 1, freed := (holdMsg buffer bs text q).freed, rxMsgs := (holdMsg buffer bs text q).rxMsgs } := by
  unfold holdMsg
  split <;> rfl

end

/-! ### A port retrains, Table 10-8 -/

/-- The moment at which a tag failed. -/
def tagMarked (now : Nat) (q : Port) : Port := { q with tagFail := some now }

section
variable {s : State} {p : Nat} (inRange : p < s.fab.ports.length)
include inRange

theorem port_retrained (c : RecCode) : port (onPort p (retrained s.log.opSeconds.toNat) (portRecord c p s)) p =
    retrained s.log.opSeconds.toNat (port s p) := port_onPort_same (portRecord c p s) p _ inRange

theorem retrain_below (few : ((port s p).retrains.filter (fun k => s.log.opSeconds.toNat ≤ k + 60)).length < 3) (c : RecCode) :
    retrain p c s = bringUp p (onPort p (retrained s.log.opSeconds.toNat) (portRecord c p s)) := by
  refine if_neg ?_
  have count : ¬ 4 ≤ (retrained s.log.opSeconds.toNat (port s p)).retrains.length := by rw [retrained, List.length_cons]; omega
  exact (port_retrained inRange c).symm ▸ count

theorem retrain_fourth (many : 3 ≤ ((port s p).retrains.filter (fun k => s.log.opSeconds.toNat ≤ k + 60)).length) (c : RecCode) :
    retrain p c s = fencePort p (onPort p (retrained s.log.opSeconds.toNat) (portRecord c p s)) := by
  refine if_pos ?_
  have count : 4 ≤ (retrained s.log.opSeconds.toNat (port s p)).retrains.length := by rw [retrained, List.length_cons]; omega
  exact (port_retrained inRange c).symm ▸ count

/-- Below the fourth retrain a port is OFF and is brought up again. -/
theorem retrain_below_eq (few : ((port s p).retrains.filter (fun k => s.log.opSeconds.toNat ≤ k + 60)).length < 3) (c : RecCode) :
    ∃ hs transcript, retrain p c s =
      onPort p (fun q => atStep hs transcript (retrained s.log.opSeconds.toNat q)) (portRecord c p s) := by
  obtain ⟨hs, transcript, trains⟩ := bringUp_eq p (onPort p (retrained s.log.opSeconds.toNat) (portRecord c p s))
  exact ⟨hs, transcript, by rw [retrain_below inRange few, trains, onPort_onPort]⟩

omit inRange in
theorem rxMsgs_retrains (hs : Handshake) (transcript : List (List Byte × List Byte)) (now : Nat) (q : Port) :
    (atStep hs transcript (retrained now (tagMarked now q))).rxMsgs = q.rxMsgs := rfl

/-- A tag fails for the first time, on a port that has not retrained: it retrains. -/
theorem tagFailure_fresh (first : (port s p).tagFail = none) (fresh : (port s p).retrains = []) : ∃ hs transcript, tagFailure p s =
    onPort p (fun q => atStep hs transcript (retrained s.log.opSeconds.toNat (tagMarked s.log.opSeconds.toNat q)))
      (portRecord Code.linkAuthFail p s) := by
  have marked : port (onPort p (tagMarked s.log.opSeconds.toNat) s) p = tagMarked s.log.opSeconds.toNat (port s p) :=
    port_onPort_same s p _ inRange
  obtain ⟨hs, transcript, retrains⟩ := retrain_below_eq (s := onPort p (tagMarked s.log.opSeconds.toNat) s)
    (by rw [length_onPort]; exact inRange) (by rw [marked, tagMarked, fresh]; exact Nat.zero_lt_succ 2) Code.linkAuthFail
  exact ⟨hs, transcript, ((if_neg (by simp [first])).trans retrains).trans (onPort_onPort p _ _ (portRecord Code.linkAuthFail p s))⟩

/-- It keeps the messages that it holds. -/
theorem tagFailure_keeps (active : (port s p).state = .active) (first : (port s p).tagFail = none) (fresh : (port s p).retrains = []) :
    (port (tagFailure p s) p).state = .off ∧ (port (tagFailure p s) p).rxMsgs = (port s p).rxMsgs ∧ gwStatus (tagFailure p s) = gwStatus s ∧
      (tagFailure p s).log = s.log.push (s.log.stamp Code.linkAuthFail 0 [BitVec.ofNat 8 p]) := by
  obtain ⟨hs, transcript, fails⟩ := tagFailure_fresh inRange first fresh
  rw [fails, port_onPort_same (portRecord Code.linkAuthFail p s) p _ inRange, port_portRecord, gwStatus_onPort, gwStatus_portRecord,
    onPort_log, log_portRecord, rxMsgs_retrains, state_atStep, state_retrained (by exact active)]
  exact ⟨rfl, rfl, rfl, rfl⟩

end

/-! ### What a flit in order leaves of its port -/

theorem bytesWith_taking (f : BitVec 512) (sy : BitVec 4) (q : Port) : bytesWith f (taking f (symbols sy q)) = bytesWith f q := rfl

theorem bufferWith_taking (f : BitVec 512) (sy : BitVec 4) (q : Port) : bufferWith f (taking f (symbols sy q)) = bufferWith f q := rfl

theorem openHeld_taking (f : BitVec 512) (sy : BitVec 4) (q : Port) (buffer : BitVec 3) (bs : List Byte) :
    openHeld (taking f (symbols sy q)) buffer bs = openHeld q buffer bs := rfl

theorem kept_taking (f : BitVec 512) (sy : BitVec 4) (q : Port) : (taking f (symbols sy q)).state = q.state ∧
    (taking f (symbols sy q)).tagFail = q.tagFail ∧ (taking f (symbols sy q)).retrains = q.retrains ∧
    (taking f (symbols sy q)).rxMsgs = q.rxMsgs := ⟨rfl, rfl, rfl, rfl⟩

/-- A flit in order: its credits and corrected symbols count, and the next SEQ is expected. -/
structure TakesFlit (f : BitVec 512) (sy : BitVec 4) (q r : Port) : Prop where
  credits : r.credits = sput q.credits (bits f 36 3) (sget q.credits (bits f 36 3) 0 + bits f 40 8)
  corrected : r.corrected = satAdd q.corrected sy.toNat
  rxSeq : r.rxSeq = q.rxSeq + 1
  nak : r.nak = false

theorem takesFlit_extending (f : BitVec 512) (sy : BitVec 4) (q : Port) : TakesFlit f sy q (extending f (taking f (symbols sy q))) :=
  ⟨rfl, rfl, rfl, rfl⟩

theorem takesFlit_completing (f : BitVec 512) (sy : BitVec 4) (text : List Byte) (q : Port) :
    TakesFlit f sy q (completing f text (taking f (symbols sy q))) := by
  rw [completing, holdMsg_eq]
  exact ⟨rfl, rfl, rfl, rfl⟩

/-- A payload that does not end its message joins its bytes. -/
theorem message_extending (f : BitVec 512) (sy : BitVec 4) (q : Port) :
    (extending f (taking f (symbols sy q))).rxBytes = bytesWith f q ∧ (extending f (taking f (symbols sy q))).rxMseq = q.rxMseq ∧
      (extending f (taking f (symbols sy q))).rxMsgs = q.rxMsgs := ⟨rfl, rfl, rfl⟩

/-- A message that is complete takes its MSEQ, and is held. -/
theorem message_completing (f : BitVec 512) (sy : BitVec 4) (text : List Byte) (q : Port) :
    (completing f text (taking f (symbols sy q))).rxBytes = [] ∧ (completing f text (taking f (symbols sy q))).rxMseq = q.rxMseq + 1 ∧
      (completing f text (taking f (symbols sy q))).rxMsgs = if (bufferWith f q).toNat < 6 then
        q.rxMsgs ++ [{ buffer := bufferWith f q, flits := (bytesWith f q).length / 52, text := text }] else q.rxMsgs :=
  ⟨by rw [completing, holdMsg_eq], by rw [completing, holdMsg_eq]; rfl, rxMsgs_holdMsg _ _ _ _⟩

/-! ### FLIT_RECEIVE -/

section
variable {s : State} {p : Fin 7} {f : BitVec 512} {sy : BitVec 4} (active : (port s p.val).state = .active)
include active

theorem exec_flitReceive (v : Option (BitVec 4)) : exec (.flitReceive p f v) s = .next (settled s (flitReceive p.val f v s)) :=
  event_holds (by simp [flitsFlow, active]) _ s

theorem exec_flitReceive_none : exec (.flitReceive p f none) s = .next (sendNak p.val (onPort p.val (fun x => { x with
    uncorrectable := satAdd x.uncorrectable 1, crcFails := satAdd x.crcFails 10 }) s)) := by
  rw [exec_flitReceive active, flitReceive, settled_eq (by rw [sendNak, gwStatus_onPort, gwStatus_onPort])]

theorem exec_flitReceive_badCrc (crc : (crc32c ((wordBytes f).take 60)).toNat ≠ bits f 480 32) : exec (.flitReceive p f (some sy)) s =
    .next (sendNak p.val (onPort p.val (fun x => { x with
      corrected := satAdd x.corrected sy.toNat, crcFails := satAdd x.crcFails 1 }) s)) := by
  have fails : flitReceive p.val f (some sy) s = sendNak p.val (onPort p.val (fun x => { x with
      corrected := satAdd x.corrected sy.toNat, crcFails := satAdd x.crcFails 1 }) s) :=
    (if_pos crc).trans (congrArg (sendNak p.val) (onPort_onPort p.val _ _ s))
  rw [exec_flitReceive active, fails, settled_eq (by rw [sendNak, gwStatus_onPort, gwStatus_onPort])]

/-- A flit that changes its port alone, on a port whose peer does not ask for doze. -/
theorem exec_flitReceive_onPort (inRange : p.val < s.fab.ports.length) (awake : (port s p.val).dozeIn = false) (good : GoodData f)
    {g : Port → Port} (keeps : ∀ q, (g q).dozeIn = q.dozeIn)
    (effect : goodFlit p.val f (onPort p.val (symbols sy) s) = onPort p.val g (onPort p.val (symbols sy) s)) :
    exec (.flitReceive p f (some sy)) s = .next (onPort p.val (fun q => g (symbols sy q)) s) := by
  have checked : flitReceive p.val f (some sy) s = tryDoze p.val (goodFlit p.val f (onPort p.val (symbols sy) s)) := checkFlit_good good _ _
  have changed : flitReceive p.val f (some sy) s = onPort p.val (fun q => g (symbols sy q)) s := by
    rw [checked, effect, onPort_onPort]
    refine tryDoze_awake ?_
    rw [port_onPort_same s p.val _ inRange, keeps]
    exact awake
  rw [exec_flitReceive active, changed, settled_eq (gwStatus_onPort _ _ _)]

end

section
variable {s : State} {p : Fin 7} {f : BitVec 512} (sy : BitVec 4) (inRange : p.val < s.fab.ports.length)
  (active : (port s p.val).state = .active) (good : GoodData f) (unacked : (port s p.val).unacked = [])
  (seq : bits f 12 12 = (port s p.val).rxSeq.toNat) (awake : (port s p.val).dozeIn = false)
include inRange

theorem port_symbols : port (onPort p.val (symbols sy) s) p.val = symbols sy (port s p.val) := port_onPort_same s p.val _ inRange

theorem port_taking (f : BitVec 512) : port (onPort p.val (taking f) (onPort p.val (symbols sy) s)) p.val =
    taking f (symbols sy (port s p.val)) := by
  rw [port_onPort_same _ _ _ (by rw [length_onPort]; exact inRange), port_symbols sy inRange]

include active good

/-- A flit out of order asks for the expected one. -/
theorem exec_flitReceive_other (awake : (port s p.val).dozeIn = false) (seq : bits f 12 12 ≠ (port s p.val).rxSeq.toNat) :
    exec (.flitReceive p f (some sy)) s =
    .next (onPort p.val (fun q => asking (symbols sy q)) s) :=
  exec_flitReceive_onPort active inRange awake good dozeIn_asking (goodFlit_other good (by rw [port_symbols sy inRange]; exact seq))

include unacked seq

theorem goodFlit_symbols : goodFlit p.val f (onPort p.val (symbols sy) s) =
    takeData p.val f (onPort p.val (taking f) (onPort p.val (symbols sy) s)) := by
  have here := port_symbols sy inRange
  exact goodFlit_inOrder good (by rw [length_onPort]; exact inRange) (by rw [here]; exact active) (by rw [here]; exact unacked)
    (by rw [here]; exact seq)

/-- A flit that ends a message whose tag fails: the port retrains. -/
theorem exec_flitReceive_fails (last : bitAt f 8 = true)
    (fails : openHeld (port s p.val) (bufferWith f (port s p.val)) (bytesWith f (port s p.val)) = none)
    (first : (port s p.val).tagFail = none) (fresh : (port s p.val).retrains = []) : ∃ t, exec (.flitReceive p f (some sy)) s = .next t ∧
      (port t p.val).state = .off ∧ (port t p.val).rxMsgs = (port s p.val).rxMsgs ∧
      t.log = s.log.push (s.log.stamp Code.linkAuthFail 0 [BitVec.ofNat 8 p.val]) := by
  have here := port_taking sy inRange f
  obtain ⟨state', tagFail', retrains', held'⟩ := kept_taking f sy (port s p.val)
  have failed := takeData_fails (s := onPort p.val (taking f) (onPort p.val (symbols sy) s)) last
    (by rw [here, bufferWith_taking, bytesWith_taking, openHeld_taking, fails])
  obtain ⟨off, held, status, log⟩ := tagFailure_keeps (s := onPort p.val (taking f) (onPort p.val (symbols sy) s))
    (by rw [length_onPort, length_onPort]; exact inRange) (by rw [here, state', active]) (by rw [here, tagFail', first])
    (by rw [here, retrains', fresh])
  have effect : flitReceive p.val f (some sy) s = tagFailure p.val (onPort p.val (taking f) (onPort p.val (symbols sy) s)) := by
    rw [← tryDoze_off off, ← failed, ← goodFlit_symbols sy inRange active good unacked seq]
    exact checkFlit_good good _ _
  refine ⟨_, exec_flitReceive active _, ?_⟩
  rw [effect, settled_eq (by rw [status, gwStatus_onPort, gwStatus_onPort])]
  exact ⟨off, held.trans ((congrArg Port.rxMsgs here).trans held'), log⟩

include awake

/-- A flit in order whose payload changes its port alone. -/
theorem exec_flitReceive_takes {g : Port → Port} (keeps : ∀ q, (g q).dozeIn = q.dozeIn)
    (takes : takeData p.val f (onPort p.val (taking f) (onPort p.val (symbols sy) s)) =
      onPort p.val g (onPort p.val (taking f) (onPort p.val (symbols sy) s))) :
    exec (.flitReceive p f (some sy)) s = .next (onPort p.val (fun q => g (taking f (symbols sy q))) s) :=
  exec_flitReceive_onPort active inRange awake good (g := fun q => g (taking f q)) (fun q => keeps (taking f q))
    ((goodFlit_symbols sy inRange active good unacked seq).trans (takes.trans (onPort_onPort _ _ _ _)))

end

/-! ### The three statements -/

theorem flitsAreTakenInOrder : Claims.FlitsAreTakenInOrder := by
  rintro s p _ f sy rfl inRange active awake unacked
  refine ⟨fun crc data low middle high => ?good, exec_flitReceive_badCrc active, exec_flitReceive_none active, fun nak => ?again,
    fun free => event_waits (by simp [free]) _ s, fun v => ?off⟩
  case good =>
    intro body buf bodyIs bufIs
    obtain rfl : body = bytesWith f (port s p.val) := bodyIs
    obtain rfl : buf = bufferWith f (port s p.val) := bufIs
    have good : GoodData f := ⟨crc, data, low, middle, high⟩
    have here := port_taking sy inRange f
    refine ⟨fun seq whole => ?inOrder, fun seq last fails first fresh => ?fails, fun seq => ?other⟩
    case inOrder =>
      cases last : bitAt f 8 with
      | false =>
        have outcome := exec_flitReceive_takes sy inRange active good unacked seq awake (g := extending f) (fun _ => rfl) (takeData_more last)
        refine ⟨_, outcome, onPort_replaces inRange _, ?_⟩
        rw [port_onPort_same s p.val _ inRange]
        obtain ⟨credits, corrected, rxSeq, nak⟩ := takesFlit_extending f sy (port s p.val)
        exact ⟨credits, corrected, rxSeq, nak, fun _ => message_extending f sy _, fun ends => absurd ends Bool.false_ne_true⟩
      | true =>
        obtain ⟨text, opens⟩ := whole.resolve_left (by simp [last])
        have keeps : ∀ q, (completing f text q).dozeIn = q.dozeIn := fun q => by rw [completing, holdMsg_eq]
        have outcome := exec_flitReceive_takes sy inRange active good unacked seq awake keeps
          (takeData_opens (text := text) last (by rw [here, bufferWith_taking, bytesWith_taking, openHeld_taking, opens]))
        refine ⟨_, outcome, onPort_replaces inRange _, ?_⟩
        rw [port_onPort_same s p.val _ inRange]
        obtain ⟨credits, corrected, rxSeq, nak⟩ := takesFlit_completing f sy text (port s p.val)
        obtain ⟨bytes, mseq, held⟩ := message_completing f sy text (port s p.val)
        refine ⟨credits, corrected, rxSeq, nak, fun more => absurd more (Bool.false_ne_true ∘ Eq.symm),
          fun _ => ⟨bytes, mseq, fun text' opens' => ?_⟩⟩
        obtain rfl : text = text' := Option.some.inj (opens.symm.trans opens')
        exact held
    case fails =>
      exact exec_flitReceive_fails sy inRange active good unacked seq last fails first fresh
    case other =>
      have outcome := exec_flitReceive_other sy inRange active good awake seq
      have here := port_onPort_same s p.val (fun q => asking (symbols sy q)) inRange
      refine ⟨_, outcome, onPort_replaces inRange _, ?_⟩
      rw [here]
      unfold asking
      split
      · next outstanding => exact ⟨rfl, rfl, outstanding, rfl, (if_pos outstanding).symm⟩
      · next free => exact ⟨rfl, rfl, rfl, rfl, (if_neg free).symm⟩
  case again =>
    rw [exec, execNakRepeat]
    exact event_onPort (by simp [flitsFlow, active, nak]) rfl
  case off =>
    have idle : flitsFlow (port (onPort p.val Port.off s) p.val) = false := by
      rw [port_onPort_same s p.val _ inRange]
      simp [flitsFlow, Port.off, active]
    exact event_waits idle _ (onPort p.val Port.off s)

/-- A port that sends the flits from a SEQ on again, each as it was. -/
def replaying (seq : BitVec 12) (newMs : Bool) (q : Port) : Port :=
  { q with
    unacked := q.unacked.takeWhile (fun f => f.seq != seq) ++
      (q.unacked.drop (q.unacked.takeWhile (fun f => f.seq != seq)).length).map (fun f => { f with resent := f.resent + 1 })
    wire := (q.unacked.drop (q.unacked.takeWhile (fun f => f.seq != seq)).length).map TxFlit.flit, nakSeen := none
    replays := satAdd q.replays 1, replaysMs := if newMs then 1 else q.replaysMs + 1 }

theorem resent_replaying {q : Port} (fewer : ∀ x ∈ q.unacked, x.resent < 7) (seq : BitVec 12) (newMs : Bool) :
    ∀ x ∈ (replaying seq newMs q).unacked, x.resent < 8 := by
  intro x member
  rcases List.mem_append.mp member with kept | again
  · exact (fewer x ((List.takeWhile_prefix _).subset kept)).trans_le (Nat.le_succ 7)
  · obtain ⟨y, old, rfl⟩ := List.mem_map.mp again
    exact Nat.succ_lt_succ (fewer y (List.mem_of_mem_drop old))

/-- Up to 64 replays in a millisecond, and seven of one flit, the port does not retrain. -/
theorem nakReceive_calm {s : State} {p : Nat} {newMs : Bool} (inRange : p < s.fab.ports.length)
    (calm : newMs = true ∨ (port s p).replaysMs < 64) (fewer : ∀ x ∈ (port s p).unacked, x.resent < 7) (seq : BitVec 12) :
    nakReceive p seq newMs s = onPort p (replaying seq newMs) s := by
  have here : port (onPort p (replaying seq newMs) s) p = replaying seq newMs (port s p) := port_onPort_same s p _ inRange
  have rate : ¬ 64 < (replaying seq newMs (port s p)).replaysMs := by
    rcases calm with rfl | calm <;> simp only [replaying]
    · simp
    · split <;> omega
  have notOften : (replaying seq newMs (port s p)).unacked.any (fun f => 8 ≤ f.resent) = false := by
    simpa using resent_replaying fewer seq newMs
  have decides : nakReceive p seq newMs s = if 64 < (port (onPort p (replaying seq newMs) s) p).replaysMs ||
      (port (onPort p (replaying seq newMs) s) p).unacked.any (fun f => 8 ≤ f.resent) then
        retrain p Code.linkRetrain (onPort p (replaying seq newMs) s) else onPort p (replaying seq newMs) s := rfl
  rw [decides, here, notOften, if_neg (by simpa using rate)]

theorem nakReplaysFromItsSeq : Claims.NakReplaysFromItsSeq := by
  rintro s p _ named seq newMs _ rfl inRange active calm fewer names rfl
  have named : (port s p.val).nakSeen.getD named = seq := by rcases names with seen | ⟨none, rfl⟩ <;> simp [*]
  rw [exec, execNakReceive, named]
  refine (event_onPort (by simp [flitsFlow, active]) (nakReceive_calm inRange calm fewer seq)).trans (congrArg _ ?_)
  exact onPort_congr rfl

/-! ### Silence -/

section
variable {s : State} {p : Nat} (inRange : p < s.fab.ports.length)
include inRange

omit inRange in
theorem kept_retrains (hs : Handshake) (transcript : List (List Byte × List Byte)) (now : Nat) (q : Port) :
    (atStep hs transcript (retrained now q)).unacked = [] ∧ (atStep hs transcript (retrained now q)).sent = q.sent ∧
      (atStep hs transcript (retrained now q)).txMseq = q.txMseq ∧
      (atStep hs transcript (retrained now q)).retrainCount = satAdd q.retrainCount 1 := ⟨rfl, rfl, rfl, rfl⟩

/-- A port that retrains is wanted and sensed as it was. -/
theorem retrained_comesUp (c : RecCode) (active : (port s p).state = .active) (wants : wanted s p = true) (senses : sensed s p = true)
    (rails : s.power.rails = true) (awake : s.power.state ≠ .sleep) (enrolled : s.trust.lifecycle = .enrolled) :
    bringUp p (onPort p (retrained s.log.opSeconds.toNat) (portRecord c p s)) =
      onPort p (atStep .train []) (onPort p (retrained s.log.opSeconds.toNat) (portRecord c p s)) := by
  have here := port_retrained inRange c
  refine if_pos ?_
  simp only [wanted, sensed, portEnabled, here, Bool.and_eq_true, decide_eq_true_eq] at wants senses ⊢
  exact ⟨⟨⟨⟨⟨⟨state_retrained active _, rfl⟩, wants⟩, senses⟩, rails⟩, bne_iff_ne.mpr awake⟩, enrolled⟩

end

theorem silenceRetrainsThePort : Claims.SilenceRetrainsThePort := by
  rintro s p _ rfl inRange active
  refine ⟨fun few => ?few, fun many fabric links queue => ?many⟩
  case few =>
    obtain ⟨hs, transcript, retrains⟩ := retrain_below_eq inRange few Code.linkRetrain
    have here : port (retrain p.val Code.linkRetrain s) p.val = atStep hs transcript (retrained s.log.opSeconds.toNat (port s p.val)) := by
      rw [retrains]
      exact port_onPort_same (portRecord Code.linkRetrain p.val s) p.val _ inRange
    have kept := kept_retrains hs transcript s.log.opSeconds.toNat (port s p.val)
    obtain ⟨unacked, sent, mseq, count⟩ := kept
    refine ⟨retrain p.val Code.linkRetrain s, event_quiet (by simp [active]) (by rw [retrains, gwStatus_onPort, gwStatus_portRecord]),
      by rw [here, state_atStep, state_retrained active], by rw [here, unacked], by rw [here, sent], by rw [here, mseq], by rw [here, count],
      fun wants senses rails awake enrolled => ?_, by rw [retrains, onPort_log, log_portRecord], ?_⟩
    · rw [retrain_below inRange few, retrained_comesUp inRange _ active wants senses rails awake enrolled,
        port_onPort_same _ _ _ (by rw [length_onPort]; exact inRange), atStep]
    · rw [retrains]
      exact onPort_replaces (s := portRecord Code.linkRetrain p.val s) inRange _
  case many =>
    have fenced := (retrain_fourth inRange many Code.linkRetrain).trans (fencePort_idle fabric (by exact links)
      (by rw [length_onPort, fab_portRecord]; exact inRange) (by rw [port_retrained inRange]; exact queue))
    refine ⟨retrain p.val Code.linkRetrain s, event_quiet (by simp [active]) ?_, ?_, fun k other => ?_, ?_⟩ <;> rw [fenced]
    · rw [gwStatus_onPort, gwStatus_portRecord, gwStatus_onPort, gwStatus_portRecord]
    · rw [port_onPort_same _ _ _ (by rw [fab_portRecord, length_onPort, fab_portRecord]; exact inRange)]
    · rw [port_onPort_other _ _ _ _ other, port_portRecord, port_onPort_other _ _ _ _ other, port_portRecord]
    · simp [portRecord]

/-- Settles O25: flits in and out of order, the replay that a NAK asks for, and the silence of the peer. -/
theorem flitsAndSilence : Obligations.FlitsAndSilence := ⟨flitsAreTakenInOrder, nakReplaysFromItsSeq, silenceRetrainsThePort⟩

end Sys2Proof.Machine

/-! ## O29: FABRIC_CONFIG, LINK_CTL and LINK_UNFENCE

Each command changes ports alone before its reply, and no reply depends on a port (`settled_complete`). -/

namespace Sys2Proof.Machine

/-! ### Commands on ports -/

/-- A command that starts meets the condition of its own row. -/
theorem Starts.own {op page : Nat} {q : Req} {own : Bool} {s : State} (h : Starts op page q own s) : own = true := by
  obtain ⟨-, passes, -⟩ := h
  cases own with
  | true => rfl
  | false =>
    unfold gate at passes
    split_ifs at passes
    simp_all

@[simp] theorem port_start (q : Req) (s : State) (p : Nat) : port (start q s) p = port s p := by rw [port, port, start_fab]

/-- A command that changes ports alone, and replies. -/
theorem settled_complete_ports {s : State} {q r : Req} {op : BitVec 8} {payload : List Byte} (fab : Fabric) :
    settled s (complete r op payload { start q s with fab := fab }) =
      hold (completionOf s r op Status.ok 0 payload) { start q s with fab := fab } :=
  settled_complete (gwStatus_start q s) (start_sessions q s)

/-- Bring-up changes ports in their handshake alone: the states of all are as before. -/
theorem bringUpAll_eq (s : State) : ∃ fab, bringUpAll s = { s with fab := fab } ∧ fab.cfg = s.fab.cfg ∧
    ∀ k, (port (bringUpAll s) k).state = (port s k).state := by
  have folds : ∀ (l : List Nat) (s : State), ∃ fab, l.foldl (fun s p => bringUp p s) s = { s with fab := fab } ∧ fab.cfg = s.fab.cfg ∧
      ∀ k, (port (l.foldl (fun s p => bringUp p s) s) k).state = (port s k).state := by
    intro l
    induction l with
    | nil => exact fun s => ⟨s.fab, rfl, rfl, fun _ => rfl⟩
    | cons p l ih =>
      intro s
      obtain ⟨hs, transcript, first⟩ := bringUp_eq p s
      obtain ⟨fab, rest, cfg, states⟩ := ih (bringUp p s)
      refine ⟨fab, rest.trans (by rw [first]; rfl), cfg.trans (by rw [first]; rfl), fun k => (states k).trans ?_⟩
      rw [first]
      exact keeps_onPort (state_atStep hs transcript) p k s
  exact folds _ s

/-! ### FABRIC_CONFIG, R232, R233 -/

/-- The fabric with another configuration: every fabric port is OFF. -/
def reconfigured (c : BitVec 128) (fab : Fabric) : Fabric :=
  { fab with cfg := c, ports := fab.ports.mapIdx (fun p x => if p = 6 then x else x.off) }

theorem port_reconfigured (c : BitVec 128) {s : State} {k : Nat} (inRange : k < s.fab.ports.length) :
    port { s with fab := reconfigured c s.fab } k = if k = 6 then port s k else (port s k).off := by
  have inRange' : k < (reconfigured c s.fab).ports.length := by rw [reconfigured, List.length_mapIdx]; exact inRange
  rw [port, port, nth, nth, List.getD_eq_getElem _ _ inRange', List.getD_eq_getElem _ _ inRange]
  exact List.getElem_mapIdx

theorem fabricConfig_ok {c : BitVec 128} (ok : configOk c = true) (q : Req) (s : State) :
    fabricConfig q c s = complete q 0x20 [] (bringUpAll { s with fab := reconfigured c s.fab }) :=
  checkField_true q 0x20 0 _ s ok

/-! ### LINK_CTL, R422 -/

section
variable {s : State} {p : Nat} (q : Req)

theorem linkCtl_fenced (fenced : (port s p).state = .fenced) (action : Nat) : linkCtl q p action s = complete q 0x21 [3] s := by
  by_cases off : action = 0 <;> simp [linkCtl, off, fenced, reply, portCode]

theorem linkCtl_up (active : (port s p).state = .active) : linkCtl q p 1 s = complete q 0x21 [0] s := by
  by_cases away : !portEnabled s p || bitAt s.pins.fabricSenseN p <;> simp_all [linkCtl, reply, portCode]

theorem state_offNotice {x : Port} (unfenced : x.state ≠ .fenced) : x.offNotice.state = .off := by
  refine state_off ?_
  split
  · rw [(drives_sendCtl _ x).keeps Port.state]; exact unfenced
  · exact unfenced

theorem linkCtl_off (inRange : p < s.fab.ports.length) (unfenced : (port s p).state ≠ .fenced) :
    linkCtl q p 0 s = complete q 0x21 [2] (linkOff p true s) := by
  have here : (port (linkOff p true s) p).state = .off :=
    (congrArg Port.state (port_onPort_same s p _ inRange)).trans (state_offNotice unfenced)
  simp only [linkCtl, if_true, if_neg unfenced, here]
  rfl

end

section
variable {s : State} {q : Req} {n action : BitVec 8}
  (starts : Starts 0x21 0 q (inState s [.ready, .job, .halted] && linkFree s n.toNat) s)
include starts

theorem exec_linkCtl_badPort (number : 5 < n.toNat) :
    exec (.linkCtl q n action) s = .next (answered q 0x21 Status.badField (fieldDetail 0x21 0) [] s) :=
  command_replies starts _ (checkField_false _ _ _ _ _ (by simpa using number))

theorem exec_linkCtl_badAction (number : n.toNat ≤ 5) (act : 2 < action.toNat) :
    exec (.linkCtl q n action) s = .next (answered q 0x21 Status.badField (fieldDetail 0x21 1) [] s) :=
  command_replies starts _ ((checkField_true _ _ _ _ _ (by simpa using number)).trans
    (checkField_false _ _ _ _ _ (by simpa using act)))

variable (number : n.toNat ≤ 5)
include number

theorem exec_linkCtl_legal (act : action.toNat ≤ 2) :
    exec (.linkCtl q n action) s = .next (settled s (linkCtl q n.toNat action.toNat (start q s))) := by
  rw [exec, execLinkCtl, command_starts starts, checkField_true _ _ _ _ _ (by simpa using number),
    checkField_true _ _ _ _ _ (by simpa using act)]

theorem exec_linkCtl_fenced (act : action.toNat ≤ 2) (fenced : (port s n.toNat).state = .fenced) :
    exec (.linkCtl q n action) s = .next (answered q 0x21 Status.ok 0 [3] s) := by
  rw [exec_linkCtl_legal starts number act, linkCtl_fenced q (by rw [port_start]; exact fenced)]
  exact congrArg _ (settled_completeAs_start s q _ _ _ _)

theorem exec_linkCtl_up (up : action = 1) (active : (port s n.toNat).state = .active) :
    exec (.linkCtl q n action) s = .next (answered q 0x21 Status.ok 0 [0] s) := by
  subst up
  rw [exec_linkCtl_legal starts number (by decide)]
  exact congrArg _ ((congrArg _ (linkCtl_up q (by rw [port_start]; exact active))).trans (settled_completeAs_start s q _ _ _ _))

theorem exec_linkCtl_off (ports : s.fab.ports.length = 7) (down : action = 0) (unfenced : (port s n.toNat).state ≠ .fenced) :
    exec (.linkCtl q n action) s =
      .next (onPort n.toNat (fun x => { x.offNotice with offHold := true }) (answered q 0x21 Status.ok 0 [2] s)) := by
  subst down
  rw [exec_linkCtl_legal starts number (by decide)]
  exact congrArg _ ((congrArg _ (linkCtl_off q (by rw [start_fab]; omega) (by rw [port_start]; exact unfenced))).trans
    (settled_complete_ports _))

end

/-! ### LINK_UNFENCE -/

/-- A port after its fence is taken away, if it had one. -/
def unfenced (q : Port) : Port :=
  { q with state := if q.state = .fenced then .off else q.state, fails := 0, retrains := [], tagFail := none, offHold := false }

theorem state_unfenced (q : Port) : (unfenced q).state ≠ .fenced := by
  unfold unfenced
  split <;> simp_all

theorem state_unfenced_kept {q : Port} (other : q.state ≠ .fenced) : (unfenced q).state = q.state := if_neg other

theorem linkUnfence_eq (q : Req) (p : Nat) (s : State) : ∃ hs transcript,
    linkUnfence q p s = complete q 0x22 [] (onPort p (fun x => atStep hs transcript (unfenced x)) s) := by
  obtain ⟨hs, transcript, trains⟩ := bringUp_eq p (onPort p unfenced s)
  exact ⟨hs, transcript, congrArg (complete q 0x22 []) (trains.trans (onPort_onPort p _ _ s))⟩

/-! ### The commands of a port one at a time, R316 -/

theorem linkFree_running {s : State} {p : Nat} (running : s.gw.links.any (fun x => x.1 = p) = true) : linkFree s p = false := by
  rw [linkFree, running]; rfl

theorem linkCommandsOfAPortWait (s : State) (q : Req) (n action : BitVec 8) (ready : waits q s = false)
    (running : s.gw.links.any (fun x => x.1 = n.toNat) = true) :
    (gate 0x21 0 q true s = none → exec (.linkCtl q n action) s = .next (answered q 0x21 Status.wrongState 0 [] s)) ∧
    (gate 0x22 0 q true s = none → exec (.linkUnfence q n) s = .next (answered q 0x22 Status.wrongState 0 [] s)) :=
  ⟨fun passes => command_disowned ready passes (by rw [linkFree_running running, Bool.and_false]) _,
    fun passes => command_disowned ready passes (by rw [linkFree_running running, Bool.and_false]) _⟩

theorem exec_fabricConfig_ok {s : State} {q : Req} {c : BitVec 128} (ports : s.fab.ports.length = 7)
    (starts : Starts 0x20 0 q (inState s [.ready] && (List.range 6).all (fun p => (port s p).state = .off)) s) (ok : configOk c = true) :
    ∃ fab, exec (.fabricConfig q c) s = .next (hold (completionOf s q 0x20 Status.ok 0 []) { start q s with fab := fab }) ∧ fab.cfg = c ∧
      ∀ k, k < 7 → (port { start q s with fab := fab } k).state = (port s k).state := by
  obtain ⟨fab, bringUps, cfg, states⟩ := bringUpAll_eq { start q s with fab := reconfigured c (start q s).fab }
  have down : ∀ k, k < 6 → (port s k).state = .off := by simpa using (Bool.and_eq_true_iff.mp (Starts.own starts)).2
  refine ⟨fab, ?_, cfg, fun k inRange => ?_⟩
  · rw [exec, execFabricConfig, command_starts starts, fabricConfig_ok ok, bringUps]
    exact congrArg _ (settled_complete_ports fab)
  · rw [bringUps] at states
    refine (states k).trans ?_
    rw [port_reconfigured c (by rw [start_fab]; omega), port_start]
    split
    · rfl
    · have off := down k (by omega)
      rw [off]
      exact state_off (by rw [off]; decide)

theorem exec_linkUnfence {s : State} {q : Req} {n : BitVec 8}
    (starts : Starts 0x22 0 q (inState s [.ready, .job, .halted] && linkFree s n.toNat) s) (number : n.toNat ≤ 5) : ∃ hs transcript,
    exec (.linkUnfence q n) s = .next (hold (completionOf s q 0x22 Status.ok 0 [])
      (onPort n.toNat (fun x => atStep hs transcript (unfenced x)) (start q s))) := by
  obtain ⟨hs, transcript, effect⟩ := linkUnfence_eq q n.toNat (start q s)
  refine ⟨hs, transcript, ?_⟩
  rw [exec, execLinkUnfence, command_starts starts, checkField_true _ _ _ _ _ (by simpa using number), effect]
  exact congrArg _ (settled_complete_ports _)

/-- Settles O29: each command by its cases. -/
theorem linkCommands : Obligations.LinkCommands := by
  refine ⟨linkCommandsOfAPortWait, fun s q ports links => ⟨fun c starts => ⟨fun ok => ?config, fun bad => ?badConfig⟩,
    fun n action starts => ⟨exec_linkCtl_badPort starts, exec_linkCtl_badAction starts, exec_linkCtl_fenced starts, exec_linkCtl_up starts,
      fun number down unfenced _ => exec_linkCtl_off starts number ports down unfenced⟩,
    fun n starts => ⟨fun number => ?unfence, fun number => ?badUnfence⟩⟩⟩
  case config =>
    obtain ⟨fab, outcome, cfg, states⟩ := exec_fabricConfig_ok ports starts ok
    exact ⟨_, outcome, cfg, states, rfl, by simp [SameData], by simp⟩
  case badConfig => exact command_replies starts _ (checkField_false _ _ _ _ _ bad)
  case unfence =>
    obtain ⟨hs, transcript, outcome⟩ := exec_linkUnfence starts number
    have here := port_onPort_same (start q s) n.toNat (fun x => atStep hs transcript (unfenced x)) (by rw [start_fab]; omega)
    rw [port_start] at here
    refine ⟨_, outcome, congrArg Port.fails here, congrArg Port.retrains here, congrArg Port.tagFail here, ?_, fun other => ?_,
      fun k other => ?_, rfl, by simp [SameData], by simp⟩
    · exact fun fenced => state_unfenced _ ((congrArg Port.state here).symm.trans fenced)
    · exact (congrArg Port.state here).trans (state_unfenced_kept other)
    · exact (port_onPort_other (start q s) n.toNat k _ other).trans (port_start q s k)
  case badUnfence => exact command_replies starts _ (checkField_false _ _ _ _ _ (by simpa using number))

end Sys2Proof.Machine

/-! ## O26: messages leave in turn and pass through by the route

The end of a run in a pair or out of it, with a STOP waiting or not, leaves what `endedSeq` says: what else the end of a run does, to
regions, lash and recorder, no run depends on (`SameRun`). -/

namespace Sys2Proof.Machine

/-! ### What the end of a run leaves -/

/-- The sequencer, the memories, the gangway, trust and the wish to sleep are alike. -/
structure SameRun (s t : State) : Prop where
  seq : t.seq = s.seq
  mem : t.mem = s.mem
  gw : t.gw = s.gw
  trust : t.trust = s.trust
  sleep : t.power.sleepReq = s.power.sleepReq

theorem SameRun.refl (s : State) : SameRun s s := ⟨rfl, rfl, rfl, rfl, rfl⟩

theorem SameRun.trans {s t u : State} (a : SameRun s t) (b : SameRun t u) : SameRun s u :=
  ⟨b.seq.trans a.seq, b.mem.trans a.mem, b.gw.trans a.gw, b.trust.trans a.trust, b.sleep.trans a.sleep⟩

theorem sameRun_sendLash (b : Body) (s : State) : SameRun s (sendLash b s) := by constructor <;> simp

theorem sameRun_fenceMark (r : Nat) (cause : FenceCause) (cuts : Bool) (s : State) : SameRun s (fenceMark r cause cuts s) :=
  .trans (t := record Code.regionFence _ (onRegion r _ s)) ⟨rfl, rfl, rfl, rfl, rfl⟩ (sameRun_sendLash _ _)

theorem sameRun_idleFences (s : State) : SameRun s (idleFences s) := by
  have fences : ∀ (l : List Nat) (s : State), SameRun s
      (l.foldl (fun s r => match (region s r).pendingFence with | some c => fenceMark r c false s | none => s) s) := by
    intro l
    induction l with
    | nil => exact .refl
    | cons r l ih =>
      intro s
      rw [List.foldl_cons]
      split
      · exact (sameRun_fenceMark _ _ _ _).trans (ih _)
      · exact ih s
  exact fences _ s

theorem sameRun_returnRegions (s : State) : SameRun s (returnRegions s) := by
  unfold returnRegions
  split
  · exact .trans (t := onRegions _ s) ⟨rfl, rfl, rfl, rfl, rfl⟩ (sameRun_sendLash _ _)
  · exact .refl s

theorem sameRun_settleBoost (s : State) : SameRun s (settleBoost s) := by
  obtain ⟨p, g, boosted, -⟩ := settleBoost_eq s
  rw [boosted]
  exact ⟨rfl, rfl, rfl, rfl, rfl⟩

theorem sameRun_settleDoze (s : State) : SameRun s (settleDoze s) := by
  obtain ⟨p, dozed⟩ := settleDoze_eq s
  rw [dozed]
  exact ⟨rfl, rfl, rfl, rfl, rfl⟩

theorem sameRun_endRun (r : ActiveRun) (s : State) : ∃ x, SameRun { s with seq := endedSeq r.slot x s } (endRun r s) := by
  obtain ⟨x, relowered⟩ := noteRelower_eq r.slot s
  have ended : ({ onSlot r.slot (fun sl => { sl with state := .loaded }) (noteRelower r.slot s) with
      seq := { (onSlot r.slot (fun sl => { sl with state := .loaded }) (noteRelower r.slot s)).seq with run := none, held := [] } } : State) =
        { s with seq := endedSeq r.slot x s } := by
    rw [relowered]
    cases r.slot <;> rfl
  refine ⟨x, ?_⟩
  rw [endRun, ended]
  exact (sameRun_settleBoost _).trans ((sameRun_idleFences _).trans ((sameRun_returnRegions _).trans (sameRun_settleDoze _)))

theorem stopCmd_completeStop (s : State) : (completeStop s).gw.stopCmd = none := by
  unfold completeStop
  split
  · assumption
  · rfl

theorem runstate_completeStop (s : State) : (completeStop s).gw.runstate = s.gw.runstate := by
  unfold completeStop
  split <;> rfl

theorem image_completeStop (s : State) : (completeStop s).gw.image = s.gw.image := by
  unfold completeStop
  split <;> rfl

/-- The end of a run where no request but a STOP waits for it. -/
theorem closeRun_ended {s : State} (sleep : s.power.sleepReq = false) (debug : s.trust.debugWait = none) (image : s.gw.image = none)
    (r : ActiveRun) (slot : Bool) (row : Nat) (status code : BitVec 16) :
    (∃ x, (closeRun r slot row status code s).seq = endedSeq r.slot x s) ∧ (closeRun r slot row status code s).mem = s.mem ∧
      (closeRun r slot row status code s).gw.runstate = s.gw.runstate := by
  obtain ⟨x, ends⟩ := sameRun_endRun r s
  rw [closeRun_eq]
  generalize completed : (if r.req = farReq then endRun r s
    else completeAs r.req 0x36 status 0 (runPayload (endRun r s) slot row code) (endRun r s)) = c
  have seq : c.seq = endedSeq r.slot x s := by rw [← completed]; split <;> simp [ends.seq]
  have mem : c.mem = s.mem := by rw [← completed]; split <;> simp [ends.mem]
  have runstate : c.gw.runstate = s.gw.runstate := by rw [← completed]; split <;> simp [completeAs, Machine.hold, ends.gw]
  have quiet : NoRequests (completeStop c) := by
    refine ⟨?_, ?_, stopCmd_completeStop c, ?_⟩
    · rw [completeStop_power, ← completed]; split <;> simp [ends.sleep, sleep]
    · rw [completeStop_trust, ← completed]; split <;> simp [ends.trust, debug]
    · rw [image_completeStop, ← completed]; split <;> simp [completeAs, Machine.hold, ends.gw, image]
  rw [boundaryRequests_quiet quiet]
  exact ⟨⟨x, by rw [completeStop_seq, seq]⟩, by rw [completeStop_mem, mem], by rw [runstate_completeStop, runstate]⟩

/-- What a halt leaves of the run, whoever else hears of it. -/
structure HaltsRun (r : ActiveRun) (cause : BitVec 16) (s t : State) : Prop where
  runstate : t.gw.runstate = .halted
  run : t.seq.run = none
  haltCause : t.seq.haltCause = cause
  haltSlot : t.seq.haltSlot = r.slot
  slot : (slotOf t r.slot).state = .loaded
  mem : t.mem = { s.mem with acc := [], accBad := [], era := s.mem.era + 1 }

theorem finishHalt_haltsRun {s : State} (sleep : s.power.sleepReq = false) (debug : s.trust.debugWait = none) (image : s.gw.image = none)
    (r : ActiveRun) (h : Halt) (own : h.slot = r.slot) : HaltsRun r h.cause s (finishHalt r h s) := by
  obtain ⟨fab, early, dropped, -⟩ := dropEarly_eq (fun _ => true) s
  have noted : haltNoted r h s = loseAcc { s with
      fab := fab
      seq := { s.seq with haltCause := h.cause, haltSlot := h.slot, haltRow := BitVec.ofNat 14 h.row,
                          haltEntry := some (r.slot, r.stepEntry), tiles := [] }
      job := { s.job with early := early, contribs := [], arrivals := [], sums := [], ferryNow := [] }
      gw := { s.gw with runstate := .halted } } := by rw [haltNoted, dropped]
  obtain ⟨⟨x, seq⟩, mem, runstate⟩ := closeRun_ended (s := haltNoted r h s) (by rw [noted]; exact sleep) (by rw [noted]; exact debug)
    (by rw [noted]; exact image) r h.slot h.row h.cause h.code
  obtain ⟨fab', rec, told, -⟩ := tellHalted_eq h.cause (closeRun r h.slot h.row h.cause h.code (haltNoted r h s))
  have ended : endedSeq r.slot x (haltNoted r h s) = { endedSeq r.slot x s with
      haltCause := h.cause, haltSlot := h.slot, haltRow := BitVec.ofNat 14 h.row, haltEntry := some (r.slot, r.stepEntry), tiles := [] } := by
    rw [noted]
    cases r.slot <;> rfl
  rw [finishHalt_eq, told]
  rw [ended] at seq
  refine ⟨?_, ?_, ?_, ?_, ?_, ?_⟩
  · exact runstate.trans (by rw [noted]; rfl)
  · exact (congrArg Seq.run seq).trans rfl
  · exact (congrArg Seq.haltCause seq).trans rfl
  · exact (congrArg Seq.haltSlot seq).trans own
  · rw [slotOf]
    simp only [seq, endedSeq]
    cases r.slot <;> rfl
  · exact mem.trans (by rw [noted]; rfl)

/-- The run that is to halt. -/
def stopping (r : ActiveRun) (h : Halt) : ActiveRun := { r with halting := some h, abandoning := none, restartAt := none }

/-- The state in which a run is to halt, and no row waits to be started. -/
def stoppingIn (r : ActiveRun) (h : Halt) (s : State) : State := { s with seq := { s.seq with run := some (stopping r h), held := [] } }

theorem settleHalt_stopping {s : State} (flight : s.seq.flight = []) (r : ActiveRun) (h : Halt) :
    settleHalt (stoppingIn r h s) = finishHalt (stopping r h) h (stoppingIn r h s) := if_neg (not_not.mpr flight)

section
variable {s : State} {r : ActiveRun} (run : s.seq.run = some r) (going : r.halting = none) (flight : s.seq.flight = [])
include run going flight

/-- A halt that cuts off what a run waits for is complete at once where no row is in flight. -/
theorem haltPeer_flightless (cause : BitVec 16) : ∃ h c, h.cause = cause ∧ h.slot = r.slot ∧ SameRun (cutWaits s) c ∧
    haltPeer cause s = finishHalt (stopping r h) h (stoppingIn r h c) := by
  have cut : (cutWaits s).seq.flight = [] := by rw [cutWaits, flight]; rfl
  refine ⟨⟨cause, r.slot, stopRow (cutWaits s) r, 0⟩, sendLash (.halted (cutWaits s).job.myRank (myNode (cutWaits s)) cause) (cutWaits s),
    rfl, rfl, sameRun_sendLash _ _, ?_⟩
  rw [← settleHalt_stopping (by rw [sendLash_seq]; exact cut)]
  simp only [haltPeer, haltWith, run, going, Option.isSome_none, Bool.false_eq_true, if_false, if_true]
  rfl

theorem haltPeer_haltsRun (sleep : s.power.sleepReq = false) (debug : s.trust.debugWait = none) (image : s.gw.image = none)
    (cause : BitVec 16) : HaltsRun r cause s (haltPeer cause s) := by
  obtain ⟨h, c, rfl, own, same, halts⟩ := haltPeer_flightless run going flight cause
  obtain ⟨runstate, ended, haltCause, haltSlot, slot, mem⟩ := finishHalt_haltsRun (s := stoppingIn r h c)
    (same.sleep.trans sleep) ((congrArg _ same.trust).trans debug) ((congrArg _ same.gw).trans image) (stopping r h) h own
  have kept : (stoppingIn r h c).mem = s.mem := same.mem
  rw [halts]
  exact ⟨runstate, ended, haltCause, haltSlot, slot, by rw [mem, kept]⟩

end

/-! ### A message without a route, R235 -/

/-- Telling the group of a lost member, if there is one, changes the fabric alone. -/
theorem tellLost_eq (member : Option Nat) (n : BitVec 14) (s : State) :
    ∃ fab, (match member with | some k => tellGroup 0 (.lost k n) s | none => s) = { s with fab := fab } := by
  cases member with
  | none => exact ⟨s.fab, rfl⟩
  | some k => exact tellGroup_eq 0 (.lost k n) s

theorem noRouteHere_eq (dst : BitVec 14) (p : Nat) (s : State) : ∃ fab, noRouteHere dst p s = haltPeer Status.noRoute
    { s with fab := fab, log := s.log.push (s.log.stamp Code.noRoute 0 (leBytes 2 dst.toNat ++ leBytes 1 p)) } := by
  obtain ⟨fab, told⟩ := tellLost_eq ((List.range s.job.ranks).find? (fun r => entryHas (rankEntry s r) dst && rankPresent (rankEntry s r)))
    dst (record Code.noRoute (leBytes 2 dst.toNat ++ leBytes 1 p) s)
  exact ⟨fab, congrArg (haltPeer Status.noRoute) told⟩

/-- A notice that no buffer need hold: the port's messages stay. -/
theorem taken_nothing {s : State} {p : Nat} (active : (port s p).state = .active) : ∃ l u, Taken p 0 (fun _ => false) s l u := by
  by_cases held : (port s p).rxMsgs = []
  · exact ⟨[], s, active, .inl ⟨held, rfl, rfl⟩⟩
  · exact ⟨_, _, active, .inr ⟨held, rfl, by simp [heldMsgs], rfl⟩⟩

theorem exec_noRouteMessage {s : State} {p : Fin 7} (active : (port s p.val).state = .active) (dst src : BitVec 14) (via : BitVec 8) :
    ∃ fab, exec (.noRouteMessage p dst src via) s = .next (settled s (haltPeer Status.noRoute
      { s with fab := fab, log := s.log.push (s.log.stamp Code.noRoute 0 (leBytes 2 dst.toNat ++ leBytes 1 via.toNat)) })) := by
  obtain ⟨l, u, taken⟩ := taken_nothing active
  obtain ⟨g, -, outcome⟩ := event_taken taken (noRouteHere dst via.toNat)
  obtain ⟨fab, halts⟩ := noRouteHere_eq dst via.toNat (onPort p.val g s)
  exact ⟨fab, by rw [exec, execNoRouteMessage, outcome, halts]; rfl⟩

theorem noRouteHaltsTheRun : Claims.NoRouteHaltsTheRun := by
  intro s p dst src via r active run going flight sleep debug image
  obtain ⟨fab, outcome⟩ := exec_noRouteMessage active dst src via
  have halts := haltPeer_haltsRun 
    (s := { s with fab := fab, log := s.log.push (s.log.stamp Code.noRoute 0 (leBytes 2 dst.toNat ++ leBytes 1 via.toNat)) })
    run going flight sleep debug image Status.noRoute
  exact ⟨_, outcome, by rw [settled_runstate, halts.runstate], by rw [settled_seq, halts.run], by rw [settled_seq, halts.haltCause],
    by rw [settled_seq, halts.haltSlot], by rw [slotOf_settled, halts.slot], by rw [settled_mem, halts.mem], by rw [settled_mem, halts.mem],
    by rw [settled_mem, halts.mem], by rw [settled_mem, halts.mem], by rw [settled_mem, halts.mem]⟩

/-- Without a run there is nothing to halt. -/
theorem noRouteMessage_atRest {s : State} {p : Fin 7} (active : (port s p.val).state = .active) (rest : s.seq.run = none)
    (dst src : BitVec 14) (via : BitVec 8) : ∃ fab, exec (.noRouteMessage p dst src via) s = .next
      { s with fab := fab, log := s.log.push (s.log.stamp Code.noRoute 0 (leBytes 2 dst.toNat ++ leBytes 1 via.toNat)) } := by
  obtain ⟨fab, outcome⟩ := exec_noRouteMessage active dst src via
  refine ⟨fab, outcome.trans (congrArg _ ?_)⟩
  rw [haltPeer, haltWith]
  simp only [rest]
  exact settled_eq (gwStatus_congr rfl rfl rfl rfl rfl rfl rfl rfl rfl)

/-! ### A message leaves, R228 -/

theorem txSeq_replayFlit (head : Nat) (ends : Option (BitVec 64)) (payload : List Byte) (q : Port) :
    (replayFlit head ends payload q).txSeq = q.txSeq + 1 := rfl

theorem length_unacked_replayFlit (head : Nat) (ends : Option (BitVec 64)) (payload : List Byte) (q : Port) :
    (replayFlit head ends payload q).unacked.length = q.unacked.length + 1 := List.length_append

/-- The flits of a message take the next SEQs and stay in the replay buffer; the credits are spent for the message as a whole. -/
theorem foldl_replayFlit (head : Nat → Nat) (ends : Nat → Option (BitVec 64)) (payload : Nat → List Byte) (n : Nat) (q : Port) :
    ((List.range n).foldl (fun q k => replayFlit (head k) (ends k) (payload k) q) q).txSeq = q.txSeq + BitVec.ofNat 12 n ∧
      ((List.range n).foldl (fun q k => replayFlit (head k) (ends k) (payload k) q) q).unacked.length = q.unacked.length + n ∧
      ((List.range n).foldl (fun q k => replayFlit (head k) (ends k) (payload k) q) q).credits = q.credits := by
  induction n with
  | zero => exact ⟨by simp, rfl, rfl⟩
  | succ n ih =>
    obtain ⟨txSeq, unacked, credits⟩ := ih
    simp only [List.range_succ, List.foldl_append, List.foldl_cons, List.foldl_nil]
    refine ⟨?_, ?_, credits⟩
    · rw [txSeq_replayFlit, txSeq, BitVec.ofNat_add, BitVec.add_assoc]; rfl
    · rw [length_unacked_replayFlit, unacked, Nat.add_assoc]

theorem txSeq_launch (me : BitVec 14) (q : Port) (o : Out) : (launch me q o).txSeq = q.txSeq + BitVec.ofNat 12 o.flits :=
  (foldl_replayFlit _ _ _ o.flits q).1

theorem unacked_launch (me : BitVec 14) (q : Port) (o : Out) : (launch me q o).unacked.length = q.unacked.length + o.flits :=
  (foldl_replayFlit _ _ _ o.flits q).2.1

theorem credits_launch (me : BitVec 14) (q : Port) (o : Out) :
    (launch me q o).credits = sput q.credits (creditKey o) (sget q.credits (creditKey o) 0 - o.flits) := by
  rw [launch]
  simp only [(foldl_replayFlit _ _ _ o.flits q).2.2]

/-- A message takes the next MSEQ. -/
def numbered (o : Out) (q : Port) : Out := { o with mseq := q.txMseq }

/-- The port has taken a message, or the next part of one, off its queue. -/
def dequeued (o : Out) (q : Port) : Port :=
  { q with queue := afterPart o q.queue, sent := q.sent ++ [numbered o q], txMseq := q.txMseq + 1, wire := [] }

theorem startMsg_eq (p vc : Nat) (o : Out) (s : State) : ∃ turn, startMsg p vc o s =
    { s with fab := { (onPort p (fun q => launch (myNode s) (dequeued o q) (numbered o q)) s).fab with turn := turn } } := by
  unfold startMsg
  extract_lets t
  split
  · exact ⟨t.fab.turn, rfl⟩
  · exact ⟨_, rfl⟩

theorem messageSend_turn {s : State} {p vc : Nat} {o : Out} (active : (port s p).state = .active) (head : headOf (port s p) vc = some o)
    (turn : nextVc (port s p) (sget s.fab.turn p 2) = some vc) (dt : Nat) : messageSend p vc dt s = startMsg p vc o s := by
  simp [messageSend, head, active, turn]

/-! ### A message that waits, R234 -/

theorem vcReady_of_nextVc {q : Port} {turn v : Nat} (next : nextVc q turn = some v) : vcReady q v = true := by
  unfold nextVc at next
  split at next
  · next ready => cases next; exact ready
  · exact List.find?_some next

theorem messageSend_waits {s : State} {p vc : Nat} {o : Out} (active : (port s p).state = .active) (head : headOf (port s p) vc = some o)
    (wait : vcReady (port s p) vc = false) (own : o.maker s = myNode s) (dt : Nat) : messageSend p vc dt s = chargeVc vc dt (some o) s := by
  have notNext : nextVc (port s p) (sget s.fab.turn p 2) ≠ some vc := fun next => by simp [vcReady_of_nextVc next] at wait
  simp [messageSend, head, active, notNext, wait, own]

/-- Of the sequencer GW_STATUS shows the drift alone. -/
theorem gwStatus_seq {s : State} {x : Seq} (drift : x.calDrift = s.seq.calDrift) : gwStatus { s with seq := x } = gwStatus s := by
  simp only [gwStatus, drift]
  rfl

theorem gwStatus_chargeModule (c : Cause) (ns : Nat) (s : State) : gwStatus (chargeModule c ns s) = gwStatus s := gwStatus_seq rfl

theorem gwStatus_chargeRegionCycles (c : Cause) (r n : Nat) (s : State) : gwStatus (chargeRegionCycles c r n s) = gwStatus s := by
  unfold chargeRegionCycles
  split
  · exact gwStatus_seq rfl
  · rfl

theorem gwStatus_chargeVc (vc dt : Nat) (o : Option Out) (s : State) : gwStatus (chargeVc vc dt o s) = gwStatus s := by
  unfold chargeVc
  split
  · rfl
  · next c _ =>
    extract_lets t
    have module : gwStatus t = gwStatus s := gwStatus_chargeModule c dt s
    split
    · exact module
    · split
      · exact module
      · exact (foldl_keeps gwStatus _ (fun _ _ => gwStatus_chargeRegionCycles _ _ _ _) _ _).trans module

/-! ### A port with nothing to send on a channel, R222 -/

theorem messageSend_headless {s : State} {p vc : Nat} (active : (port s p).state = .active) (head : headOf (port s p) vc = none) (dt : Nat) :
    messageSend p vc dt s = if (port s p).queue.isEmpty then fillLink p s else s := by
  simp [messageSend, head, awaitsRetrain, active]

theorem fillLink_idle {s : State} {p : Nat} (active : (port s p).state = .active)
    (awake : (port s p).dozeOut = true ∨ (port s p).quiet = false ∨ wantsDoze s p = false) :
    fillLink p s = onPort p (fun x => driveFlit 0 [] { x with wire := [] }) s := by
  simp only [fillLink, active, ne_eq, not_true, if_false]
  rw [if_neg]
  rcases awake with away | busy | wakeful <;> simp [*]

/-! ### A message passes through, R234 -/

theorem messageForward_routed {s : State} {p : Nat} {m : Msg} {h : Hop} (fabric : p ≠ 6) (other : m.dst ≠ myNode s)
    (routed : nextHop s m.src m.dst (some p) = some h) : messageForward p m s = enqueue h m.dst m.vc none (.copy m) s := by
  simp [messageForward, other, fabric, forwardMsg, routed]

theorem exec_messageForward {s u : State} {p : Fin 7} {m : Msg} {h : Hop} {l : List RxMsg} (fabric : p.val ≠ 6)
    (taken : Taken p.val 1 (msgHeld m) s l u) (other : m.dst ≠ myNode s) (routed : nextHop s m.src m.dst (some p.val) = some h) :
    exec (.messageForward p m true) s = .next (enqueue h m.dst m.vc none (.copy m) (freeMsgs p.val l u)) := by
  obtain ⟨g, freed, keeps⟩ := freeMsgs_taken taken
  have routes := keeps.sameRoutes p.val s
  have forwards : messageForward p.val m (onPort p.val g s) = enqueue h m.dst m.vc none (.copy m) (onPort p.val g s) :=
    messageForward_routed fabric (by rw [routes.myNode]; exact other) (by rw [routes.nextHop]; exact routed)
  rw [exec, execMessageForward, event_holds rfl, takeMsg_taken taken, freed, forwards]
  exact congrArg _ (settled_eq (by rw [enqueue, gwStatus_onPort, gwStatus_onPort]))

/-! ### The messages of a port -/

theorem messagesLeaveOrPassThrough : Claims.MessagesLeaveAndPassThrough := by
  rintro s p _ rfl inRange active
  refine ⟨fun vc dt o head turn => ?leaves, fun vc dt o head wait own => ?waits, fun vc dt head queued => ?other,
    fun vc dt empty awake => ?idle, fun m h l u fabric taken other routed => exec_messageForward fabric taken other routed,
    fun dst src via rest => ?noRoute⟩
  case leaves =>
    obtain ⟨turn', starts⟩ := startMsg_eq p.val vc.val o s
    have here : port (startMsg p.val vc.val o s) p.val =
        launch (myNode s) (dequeued o (port s p.val)) (numbered o (port s p.val)) := by
      rw [starts]; exact port_onPort_same s p.val _ inRange
    have drives := drives_launch (myNode s) (dequeued o (port s p.val)) (numbered o (port s p.val))
    have outcome : exec (.messageSend p vc dt) s = .next (startMsg p.val vc.val o s) := by
      rw [exec, execMessageSend, event_holds rfl, messageSend_turn active head turn, settled_eq]
      rw [starts]
      exact gwStatus_congr rfl rfl rfl rfl rfl rfl rfl rfl rfl
    refine ⟨_, outcome, ?_⟩
    rw [here]
    refine ⟨drives.keeps Port.queue, drives.keeps Port.sent, drives.keeps Port.txMseq, txSeq_launch _ _ _, unacked_launch _ _ _,
      credits_launch _ _ _, fun k other => ?_, ?_⟩
    · rw [starts]; exact port_onPort_other s p.val k _ other
    · rw [starts]; exact ⟨rfl, rfl, rfl, rfl, rfl⟩
  case waits =>
    have charges := messageSend_waits active head wait own dt
    have outcome : exec (.messageSend p vc dt) s = .next (chargeVc vc.val dt (some o) s) := by
      rw [exec, execMessageSend, event_holds rfl, charges, settled_eq (gwStatus_chargeVc _ _ _ _)]
    match vc, outcome with
    | 0, collective => exact collective
    | 1, ferry => exact ferry
    | 2, copy => exact copy
    | 3, control => exact control
  case other =>
    have stays : messageSend p.val vc.val dt s = s := by rw [messageSend_headless active head, if_neg (by simpa using queued)]
    exact (event_quiet rfl (by rw [stays])).trans (congrArg _ stays)
  case idle =>
    exact event_onPort rfl (by rw [messageSend_headless active (by rw [headOf, empty]; rfl), empty]; exact fillLink_idle active awake)
  case noRoute =>
    obtain ⟨fab, outcome⟩ := noRouteMessage_atRest active rest dst src via
    exact ⟨_, outcome, rfl, rfl, rfl, rfl, rfl⟩

/-- Settles O26: the messages of a port by their cases, and the halt of a source whose message has no route. -/
theorem messagesLeaveAndPassThrough : Obligations.MessagesLeaveAndPassThrough := ⟨messagesLeaveOrPassThrough, noRouteHaltsTheRun⟩

end Sys2Proof.Machine

/-! ## O45: JOB_END leaves READY, and RANK_ABSENT clears one rank

Both commands change the job's tables and no slot, so that with both slots EMPTY no group check can fail (`absentFault_empty`). An entry of
the rank table is read by its fields, which `absentEntry` changes in two places (`fields_absentEntry`). -/

namespace Sys2Proof.Machine

/-! ### JOB_END, R305 -/

theorem execJobEnd_alone {s : State} {q : Req} (alone : inPair s = false)
    (starts : Starts 0x38 0 q (inState s [.job, .halted] && runGroupFree s) s) :
    exec (.jobEnd q) s = .next (settled s (complete q 0x38 [] (endJob (start q s)))) := by
  have alone' : inPair (endJob (start q s)) = false := by simpa [inPair, endJob] using alone
  rw [exec, execJobEnd, command_starts starts, sendLash_alone _ _ alone']
  rfl

/-! ### Entries of the rank table, Table 11-1 -/

theorem bitAt_eq_decide {n : Nat} (w : BitVec n) (i : Nat) : bitAt w i = decide (w.toNat / 2 ^ i % 2 = 1) := by
  rw [bitAt, BitVec.getLsbD, Nat.testBit_eq_decide_div_mod_eq]

/-- An entry with PRESENT clear and another stand-in. -/
def absentEntry (e : BitVec 64) (standIn : Nat) : BitVec 64 :=
  BitVec.ofNat 64 (e.toNat - bits e 14 1 * 2 ^ 14 - bits e 32 16 * 2 ^ 32 + standIn * 2 ^ 32)

/-- The fields of an entry below PRESENT and above it stay. -/
theorem toNat_absentEntry (e : BitVec 64) {standIn : Nat} (h : standIn < 2 ^ 16) :
    (absentEntry e standIn).toNat % 2 ^ 14 = e.toNat % 2 ^ 14 ∧ (absentEntry e standIn).toNat / 2 ^ 14 % 2 = 0 ∧
      (absentEntry e standIn).toNat / 2 ^ 15 % 2 = e.toNat / 2 ^ 15 % 2 ∧ (absentEntry e standIn).toNat / 2 ^ 32 % 2 ^ 16 = standIn := by
  have size := e.isLt
  rw [absentEntry, BitVec.toNat_ofNat]
  simp only [bits, fld]
  omega

theorem fields_absentEntry (e : BitVec 64) {standIn : Nat} (h : standIn < 2 ^ 16) : rankPresent (absentEntry e standIn) = false ∧
    rankStandIn (absentEntry e standIn) = standIn ∧ rankNode (absentEntry e standIn) = rankNode e ∧
      rankPair (absentEntry e standIn) = rankPair e := by
  obtain ⟨node, present, pair, stands⟩ := toNat_absentEntry e h
  refine ⟨?_, stands, ?_, ?_⟩
  · rw [rankPresent, bitAt_eq_decide, present]; rfl
  · rw [rankNode, rankNode, bits, bits, fld, fld, pow_zero, Nat.div_one, Nat.div_one, node]
  · rw [rankPair, rankPair, bitAt_eq_decide, bitAt_eq_decide, pair]

theorem rankEntry_markAbsent_same {s : State} {rank : Nat} (h : rank < s.job.rankTable.length) (standIn : Nat) :
    rankEntry (markAbsent rank standIn s) rank = absentEntry (rankEntry s rank) standIn := nth_modifyAt_same _ _ _ _ h

theorem rankEntry_markAbsent_other {s : State} {rank k : Nat} (h : k ≠ rank) (standIn : Nat) :
    rankEntry (markAbsent rank standIn s) k = rankEntry s k := nth_modifyAt_other _ _ _ _ _ h

/-! ### RANK_ABSENT, R244 -/

@[simp] theorem rankEntry_start (q : Req) (s : State) (k : Nat) : rankEntry (start q s) k = rankEntry s k := by
  rw [rankEntry, rankEntry, start_job]

theorem absentFault_empty {s : State} (h : Claims.slotsEmpty s) : absentFault s = none := by
  simp [absentFault, slotIs, slotOf, h.1, h.2, Slot.empty]

theorem standInOk_iff (s : State) (rank standIn : Nat) : standInOk s rank standIn = true ↔
    standIn = 0xFFFF ∨ standIn ≠ rank ∧ standIn < s.job.ranks ∧ rankPresent (rankEntry s standIn) = true := by
  simp [standInOk, and_assoc]

theorem rankAbsent_badRank {q : Req} {rank : Nat} {s : State} (h : rank = s.job.myRank ∨ s.job.ranks ≤ rank) (standIn : Nat) :
    rankAbsent q rank standIn s = refuseField q 0x39 0 s := by
  refine checkField_false _ _ _ _ _ ?_
  rw [Bool.and_eq_false_iff, bne_eq_false_iff_eq, decide_eq_false_iff_not, not_lt]
  exact h

section
variable {q : Req} {rank standIn : Nat} {s : State} (other : rank ≠ s.job.myRank) (inJob : rank < s.job.ranks)
include other inJob

theorem rankAbsent_badStandIn (h : standInOk s rank standIn = false) : rankAbsent q rank standIn s = refuseField q 0x39 1 s := by
  rw [rankAbsent, checkField_true _ _ _ _ _ (by simp [other, inJob]), checkField_false _ _ _ _ _ h]
  rfl

theorem rankAbsent_marks (alone : inPair s = false) (empty : Claims.slotsEmpty s) (h : standInOk s rank standIn = true) :
    rankAbsent q rank standIn s = complete q 0x39 [] (markAbsent rank standIn s) := by
  have alone' : inPair (markAbsent rank standIn s) = false := alone
  rw [rankAbsent, checkField_true _ _ _ _ _ (by simp [other, inJob]), checkField_true _ _ _ _ _ h,
    absentFault_empty (s := markAbsent rank standIn s) empty]
  simp only [sendLash_alone _ _ alone']
  rfl

end

section
variable {s : State} {q : Req} {rank standIn : BitVec 16} (starts : Starts 0x39 0 q (inState s [.job, .halted] && runGroupFree s) s)
include starts

theorem exec_rankAbsent_badRank (h : rank.toNat = s.job.myRank ∨ s.job.ranks ≤ rank.toNat) :
    exec (.rankAbsent q rank standIn) s = .next (answered q 0x39 Status.badField (fieldDetail 0x39 0) [] s) :=
  command_replies starts _ (rankAbsent_badRank (by rw [start_job]; exact h) _)

variable (other : rank.toNat ≠ s.job.myRank) (inJob : rank.toNat < s.job.ranks)
include other inJob

theorem exec_rankAbsent_badStandIn (h : standInOk s rank.toNat standIn.toNat = false) :
    exec (.rankAbsent q rank standIn) s = .next (answered q 0x39 Status.badField (fieldDetail 0x39 1) [] s) :=
  command_replies starts _ (rankAbsent_badStandIn (by rw [start_job]; exact other) (by rw [start_job]; exact inJob)
    (by simpa [standInOk] using h))

theorem exec_rankAbsent_marks (alone : inPair s = false) (empty : Claims.slotsEmpty s) (h : standInOk s rank.toNat standIn.toNat = true) :
    exec (.rankAbsent q rank standIn) s =
      .next (hold (completionOf s q 0x39 Status.ok 0 []) (markAbsent rank.toNat standIn.toNat (start q s))) := by
  have marks := rankAbsent_marks (q := q) (s := start q s) (standIn := standIn.toNat) (by rw [start_job]; exact other)
    (by rw [start_job]; exact inJob) (by simpa [inPair] using alone) (by simpa [Claims.slotsEmpty] using empty)
    (by simpa [standInOk] using h)
  rw [exec, execRankAbsent, command_starts starts, marks]
  exact congrArg _ (settled_complete (gwStatus_start q s) (start_sessions q s))

end

/-- Settles O45: JOB_END by what `endJob` leaves, RANK_ABSENT by its two checks and the entry that it writes. -/
theorem jobEndAndRankAbsent : Obligations.JobEndAndRankAbsent := by
  intro s q solo empty
  have alone := alone_of_solo solo
  refine ⟨fun starts => ⟨_, execJobEnd_alone alone starts, ?_⟩, fun rank standIn starts => ⟨exec_rankAbsent_badRank starts,
    fun other inJob given bad => exec_rankAbsent_badStandIn starts other inJob ?_, fun other inJob listed ok => ?_⟩⟩
  · simp [complete, completeAs, endJob, Reshard.ended, Reshard.reset]
  · have given' : standIn.toNat ≠ 0xFFFF := fun h => given (BitVec.eq_of_toNat_eq h)
    rw [← Bool.not_eq_true, standInOk_iff]
    rcases bad with rfl | bad | bad
    · exact fun h => h.elim given' fun h => h.1 rfl
    · exact fun h => h.elim given' fun h => absurd h.2.1 (not_lt.mpr bad)
    · exact fun h => h.elim given' fun h => absurd h.2.2 (by simp [bad])
  · have ok' : standInOk s rank.toNat standIn.toNat = true := (standInOk_iff _ _ _).mpr <| ok.imp (fun h => by rw [h]; rfl)
      fun ⟨apart, inside, present⟩ => ⟨fun h => apart (BitVec.eq_of_toNat_eq h), inside, present⟩
    have listed' : rank.toNat < (start q s).job.rankTable.length := by rw [start_job]; exact listed
    obtain ⟨present, stands, node, pair⟩ := fields_absentEntry (rankEntry s rank.toNat) standIn.isLt
    refine ⟨_, exec_rankAbsent_marks starts other inJob alone empty ok', ?_⟩
    have entry : rankEntry (hold (completionOf s q 0x39 Status.ok 0 []) (markAbsent rank.toNat standIn.toNat (start q s))) rank.toNat =
        absentEntry (rankEntry s rank.toNat) standIn.toNat :=
      (rankEntry_markAbsent_same listed' _).trans (by rw [rankEntry_start])
    rw [entry]
    refine ⟨present, stands, node, pair, fun k apart => ?_, ?_⟩
    · exact (rankEntry_markAbsent_other apart _).trans (rankEntry_start q s k)
    · rw [answered, Machine.hold, Machine.hold, markAbsent, start_job]

end Sys2Proof.Machine

/-! ## O42: LOST, HALTED and RESTART notices halt or restart the run

A notice that is new is noted and recorded, and what follows is the halt of a run that waits for a peer (`haltPeer_haltsRun`), or nothing
where there is no run. A RESTART with no row in flight begins the step again at once (`takeRestart_flightless`). -/

namespace Sys2Proof.Machine

/-! ### Notices, R245 -/

/-- A half that is not the primary of a pair tells nobody of what it hears. -/
theorem echo_solo {s : State} (solo : s.pair.role = .solo) (b : Body) : echo b s = s := if_neg (by simp [solo])

theorem haltPeer_idle {s : State} (idle : s.seq.run = none) (cause : BitVec 16) : haltPeer cause s = s := by
  rw [haltPeer, haltWith, idle]

/-- A notice is noted and recorded. -/
def noticed (n : Bool × BitVec 16 × BitVec 14) (c : RecCode) (params : List Byte) (s : State) : State :=
  { s with job := { s.job with notices := s.job.notices ++ [n] }, log := s.log.push (s.log.stamp c 0 params) }

@[simp] theorem gwStatus_noticed (n : Bool × BitVec 16 × BitVec 14) (c : RecCode) (params : List Byte) (s : State) :
    gwStatus (noticed n c params s) = gwStatus s := rfl

/-- What the halt of a run leaves stands after the command has ended. -/
theorem HaltsRun.settled {r : ActiveRun} {cause : BitVec 16} {s t : State} (h : HaltsRun r cause s t) (u : State) :
    HaltsRun r cause s (Machine.settled u t) :=
  ⟨by rw [settled_runstate, h.runstate], by rw [settled_seq, h.run], by rw [settled_seq, h.haltCause], by rw [settled_seq, h.haltSlot],
    by rw [slotOf_settled, h.slot], by rw [settled_mem, h.mem]⟩

/-- The halt that follows a notice, for the loss of a peer. -/
theorem noticed_haltsRun {s : State} {r : ActiveRun} (run : s.seq.run = some r) (going : r.halting = none) (flight : s.seq.flight = [])
    (sleep : s.power.sleepReq = false) (debug : s.trust.debugWait = none) (image : s.gw.image = none) (n : Bool × BitVec 16 × BitVec 14)
    (c : RecCode) (params : List Byte) (cause : BitVec 16) : HaltsRun r cause s (haltPeer cause (noticed n c params s)) := by
  obtain ⟨runstate, ended, haltCause, haltSlot, slot, mem⟩ :=
    haltPeer_haltsRun (s := noticed n c params s) run going flight sleep debug image cause
  exact ⟨runstate, ended, haltCause, haltSlot, slot, mem⟩

section
variable {s : State} (solo : s.pair.role = .solo) (started : s.job.started = true)

include solo started in
theorem exec_lostNotice (position : BitVec 16) (node : BitVec 14) :
    exec (.lostNotice position node) s = .next (settled s (takeLost position.toNat node s)) := by
  rw [exec, execLostNotice, event_holds started, echo_solo solo]

theorem takeLost_again {position : BitVec 16} {node : BitVec 14} (known : (false, position, node) ∈ s.job.notices) :
    takeLost position.toNat node s = s := by
  simp [takeLost, known]

theorem takeLost_first {position : BitVec 16} {node : BitVec 14} (fresh : (false, position, node) ∉ s.job.notices) :
    takeLost position.toNat node s = haltPeer Status.rankLost
      (noticed (false, position, node) Code.rankLost (leBytes 2 position.toNat ++ leBytes 2 node.toNat) s) := by
  simp only [takeLost, BitVec.ofNat_toNat, BitVec.setWidth_eq, List.contains_iff_mem, fresh, if_false]
  rfl

include started in
theorem exec_haltedNotice (rank : BitVec 16) (node : BitVec 14) (status : BitVec 16) :
    exec (.haltedNotice rank node status) s = .next (settled s (takeHalted rank node status s)) := event_holds started _ s

include solo in
theorem takeHalted_again {rank : BitVec 16} {node : BitVec 14} (status : BitVec 16)
    (known : rank.toNat = s.job.myRank ∨ (true, rank, node) ∈ s.job.notices) : takeHalted rank node status s = s := by
  by_cases own : rank.toNat = s.job.myRank
  · simp [takeHalted, own, alone_of_solo solo]
  · simp [takeHalted, own, known.resolve_left own]

theorem noteDivergent_of_noReshard (unmoved : ∀ f ∈ s.seq.flight, f.stage ≠ .reshard) (rank : Nat) : noteDivergent rank s = s := by
  have unfound : reshardFlight s = none := by simpa [reshardFlight] using unmoved
  rw [noteDivergent, unfound]

include solo in
theorem takeHalted_first {rank : BitVec 16} {node : BitVec 14} {status : BitVec 16} (other : rank.toNat ≠ s.job.myRank)
    (fresh : (true, rank, node) ∉ s.job.notices)
    (plain : status ≠ Status.divergentCopies ∨ ∀ f ∈ s.seq.flight, f.stage ≠ .reshard) :
    takeHalted rank node status s = haltPeer Status.peerHalted
      (noticed (true, rank, node) Code.peerHalted (wordBytes rank ++ leBytes 2 node.toNat ++ wordBytes status) s) := by
  have noted : ∀ u : State, u.seq = s.seq → (if status = Status.divergentCopies then noteDivergent rank.toNat u else u) = u := fun u same =>
    ite_eq_right_iff.mpr fun divergent => noteDivergent_of_noReshard (by rw [same]; exact plain.resolve_left (· divergent)) _
  simp only [takeHalted, other, if_false, List.contains_iff_mem, fresh, noted { s with
    job := { s.job with notices := s.job.notices ++ [(true, rank, node)] } } rfl]
  rw [echo_solo (by exact solo)]
  rfl

end

/-! ### RESTART, R402 -/

/-- The verdicts are those of the step's entry, where they were saved; flags, loops and the ledger are cleared. -/
theorem restoreStep_eq (s : State) : ∃ a4 hold, restoreStep true s = { s with seq := { (clearWatch s).seq with
      flags := [], loops := [], ledger := [], issues := [], tiles := [], held := [], a4 := a4, hold := hold } } ∧
    ∀ v, s.seq.entryVerdict = some v → a4 = v.1 ∧ hold = v.2 := by
  cases saved : s.seq.entryVerdict with
  | none => exact ⟨s.seq.a4, s.seq.hold, by simp only [restoreStep, clearWatch, saved], nofun⟩
  | some v => exact ⟨v.1, v.2, by simp only [restoreStep, clearWatch, saved, if_true], fun _ same => by cases same; exact ⟨rfl, rfl⟩⟩

/-- The run, about to begin its step again in another attempt. -/
def restarting (r : ActiveRun) (attempt : Nat) : ActiveRun := { r with attempt := attempt, restartAt := some (r.slot, r.stepEntry) }

/-- What is left of the job's messages when attempt n begins. -/
def Job.fromAttempt (n : Nat) (early : List Early) (j : Job) : Job :=
  { j with early := early, contribs := j.contribs.filter (fun m => n ≤ m.attempt), arrivals := j.arrivals.filter (fun a => n ≤ a.2.2.2),
           sums := j.sums.filter (fun x => n ≤ x.1), ferryNow := j.ferryNow.filter (fun p => n * 256 ≤ p.1) }

/-- With no row in flight only what the rows had asked for goes. -/
theorem cutWaits_flightless {s : State} (flight : s.seq.flight = []) : cutWaits s = { s with fab := { s.fab with txns := [] } } := by
  have same : ({ s.seq with flight := [] } : Seq) = s.seq := by rw [← flight]
  simp [cutWaits, flight, same]

theorem settleHalt_restarts {s : State} {r : ActiveRun} {t : Bool × Nat} (run : s.seq.run = some r) (flight : s.seq.flight = [])
    (going : r.halting = none) (again : r.restartAt = some t) : settleHalt s = restartNow t.1 t.2 s := by
  simp only [settleHalt, run, flight, going, again, ne_eq, not_true, if_false]

/-- With no row in flight the step begins again at once. -/
theorem takeRestart_flightless {s : State} {r : ActiveRun} (run : s.seq.run = some r) (going : r.halting = none) (kept : r.abandoning = none)
    (flight : s.seq.flight = []) (attempt : Nat) : ∃ fab early, takeRestart attempt s = restartNow r.slot r.stepEntry { s with
      fab := fab, job := s.job.fromAttempt attempt early, seq := { s.seq with held := [], run := some (restarting r attempt) } } := by
  obtain ⟨fab, early, dropped, -⟩ := dropEarly_eq (fun m => decide (m.attempt < attempt)) { s with fab := { s.fab with txns := [] } }
  have next : setAttempt attempt (cutWaits s) = { s with
      fab := fab, job := s.job.fromAttempt attempt early, seq := { s.seq with run := some { r with attempt := attempt } } } := by
    simp only [cutWaits_flightless flight, setAttempt, dropped, run, Option.map_some]
    rfl
  have staying : (r.halting.isSome || r.abandoning.isSome) = false := by simp [going, kept]
  refine ⟨fab, early, ?_⟩
  simp only [takeRestart, next, staying, Bool.false_eq_true, if_false]
  exact settleHalt_restarts (s := { s with
    fab := fab, job := s.job.fromAttempt attempt early, seq := { s.seq with held := [], run := some (restarting r attempt) } }) rfl flight going rfl

/-- A state in which the step begins again shows the same status. -/
theorem gwStatus_restarted {s : State} {fab : Fabric} {job : Job} {seq : Seq} {pair : Pair} (relaxed : job.relaxed = s.job.relaxed)
    (drift : seq.calDrift = s.seq.calDrift) (role : pair.role = s.pair.role) :
    gwStatus { s with fab := fab, job := job, seq := seq, pair := pair } = gwStatus s := by
  simp only [gwStatus, maintCode, slipwayNow, relaxed, drift, role]
  rfl

theorem exec_restartNotice_ignored {s : State} {step : BitVec 48} {attempt : Nat}
    (h : step ≠ s.seq.step ∨ attempt ≤ attemptNow s) : exec (.restartNotice step attempt) s = .next s := by
  rw [exec, execRestartNotice, event_waits]
  rw [Bool.and_eq_false_iff, Bool.and_eq_false_iff, decide_eq_false_iff_not, decide_eq_false_iff_not, not_lt]
  exact h.imp_left .inr

theorem exec_restartNotice {s : State} {r : ActiveRun} {attempt : Nat} (solo : s.pair.role = .solo) (run : s.seq.run = some r)
    (later : r.attempt < attempt) : exec (.restartNotice s.seq.step attempt) s = .next (settled s (takeRestart attempt s)) := by
  have holds : (s.seq.run.isSome && decide (s.seq.step = s.seq.step) && decide (attemptNow s < attempt)) = true := by
    simp [attemptNow, run, later]
  rw [exec, execRestartNotice, event_holds holds, echo_solo solo]

/-- Settles O42: a notice by whether it is known, and a RESTART by whether it is of this step and a later attempt. -/
theorem noticesHaltOrRestartTheRun : Obligations.NoticesHaltOrRestartTheRun := by
  intro s solo started
  refine ⟨fun position node => ⟨fun known => ?_, fun fresh idle => ?_, fun r fresh run going flight sleep debug image => ?_⟩,
    fun rank node status => ⟨fun known => ?_, fun other fresh idle plain => ?_,
      fun r other fresh run going flight sleep debug image => ?_⟩,
    fun step attempt => ⟨exec_restartNotice_ignored, ?_⟩⟩
  · rw [exec_lostNotice solo started, takeLost_again known, settled_self]
  · rw [exec_lostNotice solo started, takeLost_first fresh, haltPeer_idle (by exact idle), settled_eq (gwStatus_noticed ..)]
    rfl
  · rw [exec_lostNotice solo started, takeLost_first fresh]
    obtain ⟨runstate, ended, haltCause, haltSlot, slot, mem⟩ := (noticed_haltsRun run going flight sleep debug image (false, position, node)
      Code.rankLost (leBytes 2 position.toNat ++ leBytes 2 node.toNat) Status.rankLost).settled s
    exact ⟨_, rfl, runstate, ended, haltCause, haltSlot, slot, mem⟩
  · rw [exec_haltedNotice started, takeHalted_again solo status known, settled_self]
  · rw [exec_haltedNotice started, takeHalted_first solo other fresh plain, haltPeer_idle (by exact idle), settled_eq (gwStatus_noticed ..)]
    rfl
  · rw [exec_haltedNotice started, takeHalted_first solo other fresh (.inr (by simp [flight]))]
    obtain ⟨runstate, ended, haltCause, haltSlot, slot, -⟩ := (noticed_haltsRun run going flight sleep debug image (true, rank, node)
      Code.peerHalted (wordBytes rank ++ leBytes 2 node.toNat ++ wordBytes status) Status.peerHalted).settled s
    exact ⟨_, rfl, runstate, ended, haltCause, haltSlot, slot⟩
  · rintro r run going kept flight rfl later
    obtain ⟨fab, early, restarts⟩ := takeRestart_flightless run going kept flight attempt
    obtain ⟨a4, hold, restored, verdicts⟩ := restoreStep_eq { s with
      fab := fab, job := s.job.fromAttempt attempt early, seq := { s.seq with held := [], run := some (restarting r attempt) } }
    have quiet : gwStatus (takeRestart attempt s) = gwStatus s := by
      rw [restarts, restartNow, restored]
      exact gwStatus_restarted rfl rfl rfl
    refine ⟨_, exec_restartNotice solo run later, ?_⟩
    rw [settled_eq quiet, restarts, restartNow, restored]
    exact ⟨by rw [← kept]; rfl, rfl, rfl, rfl, rfl, rfl, verdicts, rfl, rfl, rfl⟩

end Sys2Proof.Machine

/-! ## O38: EPOCH rows record, check and advance a shard header

Outside a pair a header, and the bytes that it names, are read from this module's tiers (`readSpace_good`) and written there
(`writeSpace_alone`), and nobody else is told (`noteLedger_alone`). A CHECK that fails halts the run whatever waits for its end: no request
that a boundary serves changes RUNSTATE or the cause (`closeRun_keepsHalt`). -/

namespace Sys2Proof.Machine

/-! ### Bytes of the tiers -/

theorem readUnits_good (s : State) (n u : Nat) (good : ∀ k, u ≤ k → k < u + n → unitFails s k = (false, false)) :
    readUnits n u s = (none, s) := by
  induction n generalizing u with
  | zero => rfl
  | succ n ih =>
    have first : readUnit u s = (true, s) := by simp [readUnit, good u le_rfl (by omega)]
    simp only [readUnits, first, if_true]
    exact ih (u + 1) fun k lo hi => good k (by omega) (by omega)

theorem readTier_good {s : State} {a n : Nat} (good : TierGood s a n) : readTier a n s = (readMem s 0 a n, none, s) := by
  by_cases none : n = 0
  · subst none; rfl
  · have below : a / 256 ≤ (a + n - 1) / 256 := Nat.div_le_div_right (by omega)
    rw [readTier, if_neg none, readUnits_good s _ _ fun k lo hi => good k lo (by omega)]

theorem halfPieces_alone {s : State} (alone : inPair s = false) (a n : Nat) : halfPieces s a n = [(0, n)] := by simp [halfPieces, alone]

theorem tierPlace_alone {s : State} (alone : inPair s = false) (a : Nat) : tierPlace s a = .mem 0 a := by simp [tierPlace, alone]

theorem readSpace_good {s : State} {a n : Nat} (alone : inPair s = false) (good : TierGood s a n) (id : Nat) :
    readSpace id a n s = (readMem s 0 a n, none, s) := by
  simp only [readSpace, halfPieces_alone alone, List.foldl_cons, List.foldl_nil, tierPlace_alone alone, Nat.add_zero, readTier_good good,
    List.nil_append]

theorem writeSpace_alone {s : State} (alone : inPair s = false) (flight a : Nat) (bs : List Byte) :
    writeSpace flight a bs s = writeMem 0 a bs s := by
  simp only [writeSpace, halfPieces_alone alone, List.foldl_cons, List.foldl_nil, tierPlace_alone alone, Nat.add_zero, List.drop_zero,
    List.take_length]

theorem asksFar_alone {s : State} (alone : inPair s = false) (id a n : Nat) : asksFar s id a n = false := by
  simp [asksFar, farPieces, halfPieces_alone alone, ownHalf, alone]

/-! ### EPOCH rows outside a pair, R252 -/

theorem epochWait_atRow {s : State} {r : ActiveRun} {w : Row} (h : AtRow s r w) : epochWait w s = none := by
  obtain ⟨-, flight, -, -⟩ := h.free
  simp [epochWait, flight]

section
variable {c : RowCtx} {s : State} (alone : inPair s = false)
include alone

theorem noteLedger_alone (shard digest : BitVec 32) (epoch : Nat) : noteLedger c shard digest epoch s = pastRow c
    (if eOp c.bits = 0 then
      onSeq (fun q => { q with ledger := sput q.ledger (eEntry c.bits) { shard := shard, digest := digest, epoch := BitVec.ofNat 64 epoch } }) s
    else s) := by
  refine congrArg (pastRow c) (sendLash_alone _ _ ?_)
  split <;> exact alone

section
variable {h : Nat} (read : h = ofLe (readMem s 0 (eAddr c.bits) 32)) (good : TierGood s (eAddr c.bits) 32)
  (shard : hdShard h = eShard c.bits) (valid : hdState h = 1)
include read good shard valid

theorem epochEffect_record (op : eOp c.bits = 0) : epochEffect c s = noteLedger c (hdShard h) (hdDigest h) (hdEpoch h) s := by
  simp [epochEffect, holdsHeader, tierPlace_alone alone, readSpace_good alone good, ← read, shard, valid, op]

theorem epochEffect_check (op : eOp c.bits = 1) : epochEffect c s = checkEntry c h s := by
  simp [epochEffect, holdsHeader, tierPlace_alone alone, readSpace_good alone good, ← read, shard, valid, op]

theorem epochEffect_advance (op : eOp c.bits = 2) : epochEffect c s = advance c h s := by
  simp [epochEffect, holdsHeader, tierPlace_alone alone, readSpace_good alone good, ← read, shard, valid, op]

end

theorem checkEntry_agrees {h : Nat} {e : LedgerEntry} (op : eOp c.bits = 1) (entry : sget? s.seq.ledger (eEntry c.bits) = some e)
    (shard : e.shard = hdShard h) (digest : e.digest = hdDigest h) (epoch : e.epoch.toNat = hdEpoch h) : checkEntry c h s = pastRow c s := by
  simp [checkEntry, entry, shard, digest, epoch, noteLedger_alone alone, op]

omit alone in
/-- A CHECK halts where the header differs from the entry in shard, digest or epoch, or where there is no entry. -/
theorem checkEntry_differs {h : Nat} (differs : ∀ e, sget? s.seq.ledger (eEntry c.bits) = some e →
    e.shard ≠ hdShard h ∨ e.digest ≠ hdDigest h ∨ e.epoch.toNat ≠ hdEpoch h) :
    ∃ recorded, checkEntry c h s = staleShard c.row (eShard c.bits) (eEntry c.bits) recorded (hdEpoch h) s := by
  cases entry : sget? s.seq.ledger (eEntry c.bits) with
  | none => exact ⟨0, by rw [checkEntry, entry]⟩
  | some e =>
    refine ⟨e.epoch.toNat, ?_⟩
    have differ := differs e entry
    simp only [checkEntry, entry]
    refine if_neg ?_
    simp only [Bool.and_eq_true, decide_eq_true_eq]
    tauto

theorem noteLedger_written (op : eOp c.bits ≠ 0) (shard digest : BitVec 32) (epoch a : Nat) (l : List Span) (bs : List Byte) :
    noteLedger c shard digest epoch (noteSpans l (writeMem 0 a bs s)) = pastRow c (noteSpans l (writeMem 0 a bs s)) := by
  rw [noteLedger_alone (s := noteSpans l (writeMem 0 a bs s)) alone, if_neg op]

/-- The header of an ADVANCE: the digest of the block's bytes, and the next EPOCH. -/
theorem advance_writes {h : Nat} (op : eOp c.bits ≠ 0) (last : hdEpoch h + 1 ≠ 2 ^ 64) (good : TierGood s (hdBase h) (hdLen h)) :
    advance c h s = pastRow c (noteSpans [span 0 (eAddr c.bits) 32] (writeMem 0 (eAddr c.bits) (leBytes 32 (fld h 0 32 +
      (crc32c (readMem s 0 (hdBase h) (hdLen h))).toNat * 2 ^ 32 + (hdEpoch h + 1) * 2 ^ 64 + h / 2 ^ 128 * 2 ^ 128)) s)) := by
  rw [advance, if_neg last, asksFar_alone alone, if_neg Bool.false_ne_true]
  simp only [advanceHeader, readSpace_good alone good, writeSpace_alone alone, noteLedger_written alone op]

end

/-! ### A halt while requests wait -/

/-- What waits for a boundary changes neither the run's end nor RUNSTATE. -/
theorem serveDebug_keepsHalt (s : State) : (serveDebug s).seq = s.seq ∧ (serveDebug s).gw.runstate = s.gw.runstate := by
  unfold serveDebug
  split
  · exact ⟨rfl, rfl⟩
  · unfold enterDebug
    split <;> exact ⟨rfl, rfl⟩

theorem runstate_serveActivate (s : State) : (serveActivate s).gw.runstate = s.gw.runstate := by
  unfold serveActivate
  split
  · split <;> rfl
  · rfl

theorem runstate_completePower (s : State) : (completePower s).gw.runstate = s.gw.runstate := by
  unfold completePower
  split <;> rfl

theorem boundaryRequests_keepsHalt (s : State) :
    (boundaryRequests s).seq = s.seq ∧ (boundaryRequests s).gw.runstate = s.gw.runstate := by
  obtain ⟨seq, runstate⟩ := serveDebug_keepsHalt s
  have served : (serveActivate (serveDebug s)).seq = s.seq ∧ (serveActivate (serveDebug s)).gw.runstate = s.gw.runstate :=
    ⟨(serveActivate_seq _).trans seq, (runstate_serveActivate _).trans runstate⟩
  simp only [boundaryRequests]
  split
  · exact ⟨(completePower_seq _).trans served.1, (runstate_completePower _).trans served.2⟩
  · exact served

theorem closeRun_keepsHalt (r : ActiveRun) (slot : Bool) (row : Nat) (status code : BitVec 16) (s : State) :
    (closeRun r slot row status code s).seq.haltCause = s.seq.haltCause ∧ (closeRun r slot row status code s).gw.runstate = s.gw.runstate := by
  obtain ⟨x, ends⟩ := sameRun_endRun r s
  obtain ⟨seq, runstate⟩ := boundaryRequests_keepsHalt (completeStop (if r.req = farReq then endRun r s
    else completeAs r.req 0x36 status 0 (runPayload (endRun r s) slot row code) (endRun r s)))
  have cause : (endedSeq r.slot x s).haltCause = s.seq.haltCause := by cases h : r.slot <;> rfl
  rw [closeRun_eq, seq, runstate, completeStop_seq, runstate_completeStop]
  split
  · rw [ends.seq, ends.gw, cause]; exact ⟨rfl, rfl⟩
  · rw [completeAs_seq, ends.seq, cause]; exact ⟨rfl, by rw [completeAs_gw, ends.gw]⟩

theorem finishHalt_halted (r : ActiveRun) (h : Halt) (s : State) :
    (finishHalt r h s).seq.haltCause = h.cause ∧ (finishHalt r h s).gw.runstate = .halted := by
  obtain ⟨fab, rec, told, -⟩ := tellHalted_eq h.cause (closeRun r h.slot h.row h.cause h.code (haltNoted r h s))
  obtain ⟨cause, runstate⟩ := closeRun_keepsHalt r h.slot h.row h.cause h.code (haltNoted r h s)
  rw [finishHalt_eq, told]
  exact ⟨cause, runstate⟩

/-- A shard that is stale halts the run at once where no row is in flight. -/
theorem staleShard_halts {s : State} {r : ActiveRun} (alone : inPair s = false) (run : s.seq.run = some r) (going : r.halting = none)
    (flight : s.seq.flight = []) (row : Nat) (shard : BitVec 32) (entry recorded epoch : Nat) :
    (staleShard row shard entry recorded epoch s).seq.haltCause = Status.staleShard ∧
      (staleShard row shard entry recorded epoch s).gw.runstate = .halted := by
  rw [staleShard, haltAt, haltWith_flightless (s := record _ _ s) alone run going flight]
  exact finishHalt_halted _ _ _

/-! ### The rows -/

/-- What an ADVANCE at the row leaves, whatever header it writes. -/
theorem exec_epochAdvance {s : State} {r : ActiveRun} {w : Row} (h : AtRow s r w) (kind : rowKind w = 13) (op : eOp w = 2) {l : List Span}
    {bs : List Byte} (writes : epochEffect (issuing r w s) (goesOnAt r r.next s) =
      pastRow (issuing r w s) (noteSpans l (writeMem 0 (eAddr w) bs (goesOnAt r r.next s)))) (dt : Nat) :
    ∃ t, exec (.epochAdvance dt) s = .next t ∧ t.seq.run = some { r with next := r.next + 1, gap := rowGap w } ∧
      t.mem = (writeMem 0 (eAddr w) bs s).mem ∧ t.seq.ledger = s.seq.ledger ∧ t.gw = s.gw ∧ t.job = s.job ∧ t.regions = s.regions ∧
      t.log = s.log := by
  refine ⟨_, exec_controlRow (i := .epochAdvance dt) h rfl (by simp [kind, op]) (epochWait_atRow h) (by rw [writes]; rfl), ?_⟩
  rw [writes, goesOnAt_eq h]
  exact ⟨rfl, rfl, rfl, rfl, rfl, rfl, rfl⟩

/-- Settles O38: a RECORD, a CHECK that agrees or differs, and an ADVANCE. -/
theorem epochRowsReadAndAdvanceHeaders : Obligations.EpochRowsReadAndAdvanceHeaders := by
  intro s r w dt h stands kind read good shard valid
  obtain ⟨alone, -, -⟩ := stands.alone
  obtain ⟨-, going, -⟩ := stands.issuing
  obtain ⟨-, flight, -, -⟩ := stands.free
  have wait := epochWait_atRow stands
  refine ⟨fun op => ?record, fun e op entry shard' digest epoch => ?agrees, fun op differs => ?differs, fun op last block => ?advance⟩
  case record =>
    have effect := epochEffect_record (c := issuing r w s) (s := goesOnAt r r.next s) alone read good shard valid op
    rw [noteLedger_alone (by exact alone), if_pos (by exact op)] at effect
    rw [exec_controlRow (i := .epochRecord dt) stands rfl (by simp [kind, op]) wait (by rw [effect]; rfl), effect, goesOnAt_eq stands]
    rfl
  case agrees =>
    have effect := (epochEffect_check (c := issuing r w s) (s := goesOnAt r r.next s) alone read good shard valid op).trans
      (checkEntry_agrees (c := issuing r w s) (s := goesOnAt r r.next s) alone op entry shard' digest epoch)
    rw [exec_controlRow (i := .epochCheck dt) stands rfl (by simp [kind, op]) wait (by rw [effect]; rfl), effect]
    rfl
  case differs =>
    obtain ⟨recorded, stale⟩ := checkEntry_differs (c := issuing r w s) (s := goesOnAt r r.next s) differs
    have effect := (epochEffect_check (c := issuing r w s) (s := goesOnAt r r.next s) alone read good shard valid op).trans stale
    have done : exec (.epochCheck dt) s = .next (settled s (epochEffect (issuing r w s) (goesOnAt r r.next s))) := by
      rw [exec, execEpochCheck, event_holds rfl, epochEvent, controlEvent_atRow stands (by simp [kind, op]) wait]
    obtain ⟨cause, runstate⟩ := staleShard_halts (s := goesOnAt r r.next s)
      (r := { r with next := r.next, gap := rowGap (rowAt s r.slot r.next) }) alone rfl going flight r.next (eShard w)
      (eEntry w) recorded (hdEpoch h)
    refine ⟨_, done, ?_⟩
    rw [effect, settled_seq, settled_runstate]
    exact ⟨cause, runstate⟩
  case advance =>
    have advances : eOp w ≠ 0 := by rw [op]; decide
    have effect := (epochEffect_advance (c := issuing r w s) (s := goesOnAt r r.next s) alone read good shard valid op).trans
      (advance_writes (c := issuing r w s) (s := goesOnAt r r.next s) alone advances last block)
    rw [show readMem (goesOnAt r r.next s) 0 (hdBase h) (hdLen h) = readMem s 0 (hdBase h) (hdLen h) from rfl] at effect
    exact exec_epochAdvance stands kind op effect dt

end Sys2Proof.Machine

/-! ## O41: ferry messages reach their table, and a home admits the lowest keys

A message leaves its buffers and then changes one table's state (`ferryState_onFerry`); beyond that a DISPATCH or a RETURN in flight goes
as far as it can (`settleDispatch`, `settleReturns`), which is nowhere where none is in flight or its replies are still to come. A home's
arrivals are sorted by insertion (`foldl_insertKey_perm`, `foldl_insertKey_inOrder`), and nothing that the senders are told writes memory
while no run is there to be halted (`Resting`). -/

namespace Sys2Proof.Machine

/-! ### The state of a table -/

theorem sget_sput_same {α : Type} (m : SMap α) (k : Nat) (v d : α) : sget (sput m k v) k d = v := by
  rw [sget, sget?_sput_anyOrder, if_pos rfl, Option.getD_some]

theorem ferryState_onFerry (t : Nat) (f : FerryState → FerryState) (s : State) : ferryState (onFerry t f s) t = f (ferryState s t) :=
  sget_sput_same _ _ _ _

theorem ferryCount_onCount (t : Nat) (f : FerryCount → FerryCount) (s : State) : ferryCount (onCount t f s) t = f (ferryCount s t) :=
  sget_sput_same _ _ _ _

@[simp] theorem gwStatus_onFerry (t : Nat) (f : FerryState → FerryState) (s : State) : gwStatus (onFerry t f s) = gwStatus s := rfl

@[simp] theorem gwStatus_onCount (t : Nat) (f : FerryCount → FerryCount) (s : State) : gwStatus (onCount t f s) = gwStatus s := rfl

/-! ### A DISPATCH in flight -/

theorem settleDispatch_of_noDispatch {s : State} (none : ∀ f ∈ s.seq.flight, f.stage ≠ .dispatch) (table : Nat) :
    settleDispatch table s = s := by
  have unfound : s.seq.flight.find? (fun f => f.stage = .dispatch && fHomes f.bits = table) = Option.none :=
    List.find?_eq_none.mpr fun f hf => by simp [none f hf]
  rw [settleDispatch, unfound]

/-- A wave that is not yet heard, and one that is admitted already, is not admitted now. -/
theorem admitWave_waits {s : State} {w : Row} {wave : Bool} (waits : (waveHeard s w wave = false ∧ waveReaches s w wave = true) ∨
    (ferryState s (fHomes w)).admitted.contains wave = true) (id : Nat) : admitWave id w wave s = s := by
  refine if_neg ?_
  rcases waits with ⟨unheard, reaches⟩ | admitted
  · simp [unheard, reaches]
  · simp only [admitted, Bool.not_true, Bool.and_false, Bool.false_eq_true, not_false_eq_true]

theorem endWave0_waits {s : State} {w : Row} (awaits : ∃ x ∈ (ferryState s (fHomes w)).awaited, x.2 = false) (id : Nat) :
    endWave0 id w s = s := by
  obtain ⟨x, here, wave⟩ := awaits
  have some_left : (ferryState s (fHomes w)).awaited.any (fun a => !a.2) = true := List.any_eq_true.mpr ⟨x, here, by simp [wave]⟩
  exact if_neg (by simp only [some_left, Bool.not_true, Bool.and_false, Bool.false_eq_true, not_false_eq_true])

theorem endDispatch_waits {s : State} {w : Row} (awaits : (ferryState s (fHomes w)).awaited ≠ []) (id : Nat) : endDispatch id w s = s :=
  if_neg (by simp [awaits])

theorem settleDispatch_waits {s : State} {f : Flight} (flight : s.seq.flight = [f]) (stage : f.stage = .dispatch)
    (waits : ∀ v, (waveHeard s f.bits v = false ∧ waveReaches s f.bits v = true) ∨
      (ferryState s (fHomes f.bits)).admitted.contains v = true)
    (awaits : ∃ x ∈ (ferryState s (fHomes f.bits)).awaited, x.2 = false) : settleDispatch (fHomes f.bits) s = s := by
  have found : s.seq.flight.find? (fun g => g.stage = .dispatch && fHomes g.bits = fHomes f.bits) = some f := by simp [flight, stage]
  obtain ⟨x, here, -⟩ := id awaits
  rw [settleDispatch, found]
  simp only [admitWave_waits (waits _), endWave0_waits awaits, endDispatch_waits (List.ne_nil_of_mem here)]

/-! ### Tokens and outputs, R263, R264 -/

theorem deliver_token {m : FerryMsg} {s : State} (now : m.attempt = attemptNow s) (token : m.isReturn = false) : deliver m s =
    onFerry m.table.toNat (fun x => { x with arrivals := x.arrivals ++ [(x.dones.count (m.wave, senderOf m.position m.region) + 1, m)] }) s := by
  simp [deliver, now, token, dispatchOf]

theorem deliver_output {m : FerryMsg} {s : State} (now : m.attempt = attemptNow s) (output : m.isReturn = true) :
    deliver m s = settleReturns m.table.toNat (landOutput m s) := by
  simp [deliver, now, output]

theorem settleReturns_of_noReturn {s : State} {table : Nat} (none : (ferryState s table).returns = []) : settleReturns table s = s := by
  rw [settleReturns, none, List.foldl_nil]

theorem landOutput_early {m : FerryMsg} {s : State} (none : (ferryState s m.table.toNat).returns = []) :
    landOutput m s = onFerry m.table.toNat (fun x => { x with outputs := x.outputs ++ [m] }) s := by
  simp only [landOutput, owedTo, none, List.findSome?_nil]

section
variable {s : State} {f : Flight} {n table : Nat} (flight : s.seq.flight = [f]) (returns : (ferryState s table).returns = [(f.id, n)])
include flight returns

theorem owedTo_sole {pair : FerryPair} (owed : (n, pair) ∈ (ferryState s table).owed) : owedTo s table pair = some (f, n) := by
  simp [owedTo, returns, flight, owed]

/-- The RETURN that is alone in flight is done once nothing is owed to it. -/
theorem settleReturns_sole (stage : f.stage = .ferryReturn) : ∃ job, job.relaxed = s.job.relaxed ∧
    (ferryState { s with job := job } table).owed = (ferryState s table).owed ∧
    settleReturns table s = { s with job := job, seq := { s.seq with flight := [{ f with
      stage := if (ferryState s table).owed.any (fun o => o.1 = n) then .ferryReturn else .done }] } } := by
  rw [settleReturns, returns, List.foldl_cons, List.foldl_nil]
  split
  · have same : ({ s.seq with flight := [{ f with stage := .ferryReturn }] } : Seq) = s.seq := by rw [← stage, ← flight]
    exact ⟨s.job, rfl, rfl, by rw [same]⟩
  · refine ⟨(onFerry table (fun x => { x with returns := x.returns.erase (f.id, n) }) s).job, rfl, ?_, ?_⟩
    · exact (congrArg FerryState.owed (ferryState_onFerry table (fun x => { x with returns := x.returns.erase (f.id, n) }) s)).trans rfl
    · have marked : (s.seq.flight.map fun g => if g.id = f.id then { g with stage := .done } else g) = [{ f with stage := .done }] := by
        simp [flight]
      simp only [setStage, onSeq, ← marked]
      rfl

end

/-- An output lands at its place, and the RETURN that it was owed to is done with the last. -/
theorem deliver_owed {m : FerryMsg} {s : State} {f : Flight} {n : Nat} (now : m.attempt = attemptNow s) (output : m.isReturn = true)
    (flight : s.seq.flight = [f]) (stage : f.stage = .ferryReturn) (returns : (ferryState s m.table.toNat).returns = [(f.id, n)])
    (owed : (n, pairOf m) ∈ (ferryState s m.table.toNat).owed) : ∃ job, job.relaxed = s.job.relaxed ∧
      (ferryState { s with job := job } m.table.toNat).owed = (ferryState s m.table.toNat).owed.erase (n, pairOf m) ∧
      deliver m s = { writeMem (placeOf s (m.region.toNat % 64) (fLand f.bits)).1 ((placeOf s (m.region.toNat % 64) (fLand f.bits)).2 +
        (8 * m.token.toNat + m.entry.toNat) * fStride f.bits) m.data s with
          job := job, seq := { s.seq with flight := [{ f with stage :=
            if ((ferryState s m.table.toNat).owed.erase (n, pairOf m)).any (fun o => o.1 = n) then .ferryReturn else .done }] } } := by
  generalize target : placeOf s (m.region.toNat % 64) (fLand f.bits) = pl
  have written : ∀ x, ferryState (writeMem pl.1 x m.data s) m.table.toNat = ferryState s m.table.toNat := fun x => by
    simp only [ferryState, attemptNow, writeMem_job, writeMem_seq]
  have lands : landOutput m s = onFerry m.table.toNat (fun x => { x with owed := x.owed.erase (n, pairOf m) })
      (writeMem pl.1 (pl.2 + (8 * m.token.toNat + m.entry.toNat) * fStride f.bits) m.data s) := by
    simp only [landOutput, owedTo_sole flight returns owed, target]
  have after := ferryState_onFerry m.table.toNat (fun x => { x with owed := x.owed.erase (n, pairOf m) })
    (writeMem pl.1 (pl.2 + (8 * m.token.toNat + m.entry.toNat) * fStride f.bits) m.data s)
  rw [← lands, written] at after
  have seq : (landOutput m s).seq = s.seq := by rw [lands]; exact writeMem_seq ..
  obtain ⟨job, relaxed, left, settles⟩ := settleReturns_sole (s := landOutput m s) (table := m.table.toNat) (n := n) (seq ▸ flight)
    (by rw [after]; exact returns) stage
  have job_eq : (landOutput m s).job.relaxed = s.job.relaxed := by rw [lands]; simp only [onFerry, onFerryOf, writeMem_job]
  refine ⟨job, relaxed.trans job_eq, ?_, ?_⟩
  · rw [after] at left
    refine Eq.trans ?_ left
    simp only [ferryState, attemptNow, seq]
  · rw [deliver_output now output, settles, after, seq, lands]
    rfl

theorem exec_ferryMessage {s u : State} {p : Fin 7} {m : FerryMsg} {l : List RxMsg}
    (taken : Taken p.val (bodyParts (.ferry m)) (opHeld 0x20) s l u) :
    exec (.ferryMessage p m true) s = .next (settled s (ferryMessage m (freeMsgs p.val l u))) := by
  rw [exec, execFerryMessage, event_holds rfl, takeMsg_taken taken]

theorem ferryMessage_of_older {m : FerryMsg} {s : State} (h : older s m.step m.attempt = true) : ferryMessage m s = s := if_pos h

theorem ferryMessage_of_current {m : FerryMsg} {s : State} (step : m.step = s.seq.step) (attempt : m.attempt = attemptNow s) :
    ferryMessage m s = settleDispatch m.table.toNat (deliver m s) := by
  rw [ferryMessage, step, attempt, older_of_now]
  rfl

/-! ### Replies, R263 -/

theorem exec_admissionReply {s : State} (started : s.job.started = true) (a : Admission) :
    exec (.admissionReply a) s = .next (settled s (admissionReply a s)) := event_holds started _ s

theorem admissionReply_of_noDispatch {s : State} (none : ∀ f ∈ s.seq.flight, f.stage ≠ .dispatch) (a : Admission) :
    admissionReply a s = s := by
  have unfound : s.seq.flight.find? (fun f => f.stage = .dispatch && fHomes f.bits = a.table.toNat) = Option.none :=
    List.find?_eq_none.mpr fun f hf => by simp [none f hf]
  rw [admissionReply, unfound]
  exact ite_self _

/-- From `s` to `u` only the tables change, and of `table` neither the dispatch nor the DONEs that it has heard and admitted. -/
def KeepsWaves (table : Nat) (s u : State) : Prop :=
  (∃ ferry now, u = { s with job := { s.job with ferry := ferry, ferryNow := now } }) ∧
    (ferryState u table).round = (ferryState s table).round ∧ (ferryState u table).dones = (ferryState s table).dones ∧
    (ferryState u table).admitted = (ferryState s table).admitted

theorem KeepsWaves.waveHeard {s u : State} {w : Row} (keeps : KeepsWaves (fHomes w) s u) (wave : Bool) :
    waveHeard u w wave = waveHeard s w wave := by
  obtain ⟨⟨ferry, now, rfl⟩, round, dones, -⟩ := keeps
  rw [Machine.waveHeard, Machine.waveHeard, round, dones]
  rfl

theorem KeepsWaves.waveReaches {table : Nat} {s u : State} (keeps : KeepsWaves table s u) (w : Row) (wave : Bool) :
    waveReaches u w wave = waveReaches s w wave := by
  obtain ⟨⟨ferry, now, rfl⟩, -⟩ := keeps
  rfl

/-- A reply to a DISPATCH that still waits changes what the reply itself changes. -/
theorem admissionReply_waits {s : State} {f : Flight} {a : Admission} (flight : s.seq.flight = [f]) (stage : f.stage = .dispatch)
    (table : fHomes f.bits = a.table.toNat) (step : a.step = s.seq.step) (attempt : a.attempt = attemptNow s)
    (keeps : KeepsWaves a.table.toNat s (takeReply f.id f.bits a s))
    (waits : ∀ v, (waveHeard s f.bits v = false ∧ waveReaches s f.bits v = true) ∨
      (ferryState s a.table.toNat).admitted.contains v = true)
    (awaits : ∃ x ∈ (ferryState (takeReply f.id f.bits a s) a.table.toNat).awaited, x.2 = false) :
    admissionReply a s = takeReply f.id f.bits a s := by
  have found : s.seq.flight.find? (fun g => g.stage = .dispatch && fHomes g.bits = a.table.toNat) = some f := by simp [flight, stage, table]
  have settles : settleDispatch a.table.toNat (takeReply f.id f.bits a s) = takeReply f.id f.bits a s := by
    obtain ⟨⟨_, _, jobs⟩, -, -, admitted⟩ := id keeps
    rw [← table] at keeps ⊢
    refine settleDispatch_waits (by rw [jobs]; exact flight) stage (fun v => ?_) (by rw [table]; exact awaits)
    rw [keeps.waveHeard, keeps.waveReaches, table, admitted]
    exact waits v
  rw [admissionReply, step, attempt, older_of_now, found]
  simp only [settles]
  rfl

theorem takeReply_admitted {w : Row} {a : Admission} (admitted : a.refused = []) (id : Nat) (s : State) : takeReply id w a s =
    onFerry a.table.toNat (fun x => { x with awaited := x.awaited.erase (a.expert, a.wave) }) s := by
  simp [takeReply, admitted]

/-- POLICY 0 drops a pair that its first home refuses. -/
theorem takeReply_drops {w : Row} {a : Admission} {pair : FerryPair} (refused : a.refused = [pair]) (policy : fPolicy w = 0) (id : Nat)
    (s : State) : takeReply id w a s = dropPair a.table.toNat pair
      (onFerry a.table.toNat (fun x => { x with awaited := x.awaited.erase (a.expert, a.wave) }) s) := by
  simp [takeReply, refused, policy]

theorem ferryState_dropPair (table : Nat) (pair : FerryPair) (s : State) : ferryState (dropPair table pair s) table =
    { ferryState s table with dropped := (ferryState s table).dropped ++ [pair],
                              owed := (ferryState s table).owed.erase ((ferryState s table).round, pair) } :=
  ferryState_onFerry table (fun x => { x with dropped := x.dropped ++ [pair], owed := x.owed.erase (x.round, pair) }) s

theorem ferryCount_dropPair (table : Nat) (pair : FerryPair) (s : State) : ferryCount (dropPair table pair s) table =
    { ferryCount s table with dropped := satAdd (ferryCount s table).dropped 1 } := ferryCount_onCount table _ _

/-! ### DONE, R263 -/

theorem exec_ferryDone {s : State} (started : s.job.started = true) (table : BitVec 8) (wave : Bool) (position : BitVec 16)
    (step : BitVec 48) (attempt : Nat) : exec (.ferryDone table wave position step attempt) s =
      .next (settled s (ferryDone table.toNat wave position step attempt s)) := event_holds started _ s

theorem ferryDone_of_now {s : State} (none : ∀ f ∈ s.seq.flight, f.stage ≠ .dispatch) (table : Nat) (wave : Bool) (position : BitVec 16) :
    ferryDone table wave position s.seq.step (attemptNow s) s =
      onFerry table (fun x => { x with dones := x.dones ++ [(wave, position)] }) s := by
  rw [ferryDone, older_of_now]
  exact settleDispatch_of_noDispatch (s := onFerry table _ s) none table

/-! ### The messages -/

theorem ferryMessagesReachTheirTable : Claims.FerryMessagesReachTheirTable := by
  intro s started
  refine ⟨?message, fun a none => ?noDispatch, fun a f flight stage table step attempt waits awaits => ⟨fun admitted => ?admitted,
    fun pair refused policy => ?dropped⟩, fun table wave position step attempt => ⟨fun earlier => ?earlier, ?done⟩⟩
  case message =>
    rintro p m l u v taken rfl
    obtain ⟨g, freed, -⟩ := freeMsgs_taken taken
    rw [exec_ferryMessage taken, freed]
    refine ⟨fun earlier => ?discarded, fun step attempt token flight => ?token, fun step attempt output none idle => ?held,
      fun f pl n pair step attempt output flight stage returns pair_eq owed place => ?lands⟩
    case discarded =>
      rw [ferryMessage_of_older (s := onPort p.val g s) (older_of_earlier earlier m.attempt), settled_eq (gwStatus_onPort _ _ _)]
    case token =>
      have idle : ∀ f ∈ s.seq.flight, f.stage ≠ .dispatch := by simp [flight]
      rw [ferryMessage_of_current (s := onPort p.val g s) step attempt, deliver_token (s := onPort p.val g s) attempt token,
        settleDispatch_of_noDispatch (s := onFerry _ _ (onPort p.val g s)) idle,
        settled_eq (by rw [gwStatus_onFerry, gwStatus_onPort])]
    case held =>
      have held := landOutput_early (m := m) (s := onPort p.val g s) none
      have waiting : (ferryState (landOutput m (onPort p.val g s)) m.table.toNat).returns = [] := by
        rw [held, ferryState_onFerry]; exact none
      rw [ferryMessage_of_current (s := onPort p.val g s) step attempt, deliver_output (s := onPort p.val g s) attempt output,
        settleReturns_of_noReturn waiting, held, settleDispatch_of_noDispatch (s := onFerry _ _ (onPort p.val g s)) idle,
        settled_eq (by rw [gwStatus_onFerry, gwStatus_onPort])]
    case lands =>
      subst pair_eq place
      obtain ⟨job, relaxed, left, lands⟩ := deliver_owed (s := onPort p.val g s) attempt output flight stage returns owed
      have idle : settleDispatch m.table.toNat (deliver m (onPort p.val g s)) = deliver m (onPort p.val g s) := by
        refine settleDispatch_of_noDispatch ?_ _
        rw [lands]
        simp only [List.mem_singleton, forall_eq]
        split <;> nofun
      have quiet : gwStatus (deliver m (onPort p.val g s)) = gwStatus s := by
        rw [lands]
        simp only [gwStatus, maintCode, slipwayNow, relaxed, writeMem_gw, writeMem_trust, writeMem_power, writeMem_pair, writeMem_reshard,
          writeMem_regions]
        rfl
      rw [ferryMessage_of_current (s := onPort p.val g s) step attempt, idle, settled_eq quiet]
      refine ⟨_, rfl, ?_⟩
      rw [lands]
      exact ⟨mem_writeMem_congr (s := s) (v := onPort p.val g s) rfl _ _ _, left, rfl, writeMem_gw .., writeMem_regions ..⟩
  case noDispatch =>
    rw [exec_admissionReply started, admissionReply_of_noDispatch none, settled_self]
  case admitted =>
    have reply := takeReply_admitted (w := f.bits) admitted f.id s
    have after := ferryState_onFerry a.table.toNat (fun x => { x with awaited := x.awaited.erase (a.expert, a.wave) }) s
    have keeps : KeepsWaves a.table.toNat s (takeReply f.id f.bits a s) := by
      rw [reply]; exact ⟨⟨_, _, rfl⟩, by rw [after], by rw [after], by rw [after]⟩
    rw [exec_admissionReply started, admissionReply_waits flight stage table step attempt keeps waits
      (by rw [reply, after]; exact awaits), reply, settled_eq (gwStatus_onFerry _ _ _)]
  case dropped =>
    have reply := takeReply_drops (w := f.bits) refused policy f.id s
    have heard := ferryState_onFerry a.table.toNat (fun x => { x with awaited := x.awaited.erase (a.expert, a.wave) }) s
    have after := ferryState_dropPair a.table.toNat pair
      (onFerry a.table.toNat (fun x => { x with awaited := x.awaited.erase (a.expert, a.wave) }) s)
    have counted := ferryCount_dropPair a.table.toNat pair
      (onFerry a.table.toNat (fun x => { x with awaited := x.awaited.erase (a.expert, a.wave) }) s)
    rw [heard] at after
    have keeps : KeepsWaves a.table.toNat s (takeReply f.id f.bits a s) := by
      rw [reply]; exact ⟨⟨_, _, rfl⟩, by rw [after], by rw [after], by rw [after]⟩
    rw [exec_admissionReply started, admissionReply_waits flight stage table step attempt keeps waits
      (by rw [reply, after]; exact awaits), reply, settled_eq (by rfl)]
    exact ⟨_, rfl, after, congrArg FerryCount.dropped counted, (congrArg FerryCount.sent counted).trans rfl, rfl, rfl, rfl⟩
  case earlier =>
    rw [exec_ferryDone started, ferryDone, older_of_earlier earlier, if_pos rfl, settled_self]
  case done =>
    rintro rfl rfl none
    rw [exec_ferryDone started, ferryDone_of_now none, settled_eq (gwStatus_onFerry _ _ _)]

/-! ### The order of keys, R262 -/

/-- The key of an arrival. -/
def ferryKey (m : FerryMsg) : Nat := ((m.position.toNat * 2 ^ 7 + m.region.toNat) * 2 ^ 32 + m.token.toNat) * 2 ^ 3 + m.entry.toNat

theorem keyLt_iff (a b : FerryMsg) : keyLt a b = true ↔ ferryKey a < ferryKey b := decide_eq_true_iff

theorem keyLt_eq_false_iff (a b : FerryMsg) : keyLt b a = false ↔ ferryKey a ≤ ferryKey b := by
  rw [← Bool.not_eq_true, keyLt_iff, not_lt]

theorem insertKey_perm (m : FerryMsg) (l : List FerryMsg) : (insertKey m l).Perm (m :: l) := by
  induction l with
  | nil => exact .refl _
  | cons x l ih =>
    rw [insertKey]
    split
    · exact .refl _
    · exact (ih.cons x).trans (.swap m x l)

theorem insertKey_inOrder {m : FerryMsg} {l : List FerryMsg} (h : l.Pairwise (fun a b => keyLt b a = false)) :
    (insertKey m l).Pairwise (fun a b => keyLt b a = false) := by
  simp only [keyLt_eq_false_iff] at h ⊢
  induction l with
  | nil => exact List.pairwise_singleton _ _
  | cons x l ih =>
    obtain ⟨least, rest⟩ := List.pairwise_cons.mp h
    rw [insertKey]
    split
    · next before =>
      have before' := (keyLt_iff m x).mp before
      refine List.pairwise_cons.mpr ⟨fun y hy => ?_, h⟩
      rcases List.mem_cons.mp hy with rfl | hy
      · exact before'.le
      · exact before'.le.trans (least y hy)
    · next after =>
      refine List.pairwise_cons.mpr ⟨fun y hy => ?_, ih rest⟩
      rcases List.mem_cons.mp ((insertKey_perm m l).mem_iff.mp hy) with rfl | hy
      · exact not_lt.mp fun before => after ((keyLt_iff _ _).mpr before)
      · exact least y hy

theorem foldl_insertKey_perm (ms l : List FerryMsg) : (ms.foldl (fun l m => insertKey m l) l).Perm (ms ++ l) := by
  induction ms generalizing l with
  | nil => exact .refl _
  | cons m ms ih => exact (ih _).trans (((insertKey_perm m l).append_left ms).trans List.perm_middle)

theorem foldl_insertKey_inOrder (ms l : List FerryMsg) (h : l.Pairwise (fun a b => keyLt b a = false)) :
    (ms.foldl (fun l m => insertKey m l) l).Pairwise (fun a b => keyLt b a = false) := by
  induction ms generalizing l with
  | nil => exact h
  | cons m ms ih => exact ih _ (insertKey_inOrder h)

/-! ### The landing area -/

@[simp] theorem length_leBytes (n v : Nat) : (leBytes n v).length = n := by
  induction n generalizing v with
  | zero => rfl
  | succ n ih => rw [leBytes, List.length_cons, ih]

@[simp] theorem length_zeros (n : Nat) : (zeros n).length = n := List.length_replicate

theorem length_flatMap_const {α β : Type} {f : α → List β} {n : Nat} (l : List α) (h : ∀ x, (f x).length = n) :
    (l.flatMap f).length = l.length * n := by
  simp [List.length_flatMap, h]

theorem length_landingArea (w : Row) {ms : List FerryMsg} (fits : ms.length ≤ fCap w) :
    (landingArea w ms).length = fCap w * (fStride w + 16) := by
  obtain ⟨spare, capacity⟩ := Nat.exists_eq_add_of_le fits
  have slots := length_flatMap_const (f := fun m : FerryMsg => m.data.take (fStride w) ++ zeros (fStride w - m.data.length)) (n := fStride w) ms fun m => by
    rw [List.length_append, List.length_take, length_zeros]; omega
  have tags := length_flatMap_const (f := tagBytes) ms fun m => length_leBytes 16 _
  simp only [landingArea, List.length_append, slots, tags, length_zeros, List.length_flatten, List.map_replicate, List.sum_replicate,
    List.length_cons, List.length_nil, smul_eq_mul, capacity, Nat.add_sub_cancel_left]
  ring

/-! ### What the senders are told -/

/-- No run is active, and the memories hold M. -/
def Resting (M : Mem) (s : State) : Prop := s.seq.run = none ∧ s.mem = M

section
variable {M : Mem} {s : State} (rest : Resting M s)
include rest

theorem Resting.send (dst : BitVec 14) (vc : Fin 4) (fl : Option Nat) (b : Body) : Resting M (send dst vc fl b s) := by
  obtain ⟨idle, mem⟩ := rest
  unfold Machine.send
  split
  · exact ⟨idle, mem⟩
  · split
    · exact ⟨idle, mem⟩
    · obtain ⟨fab, halts⟩ := noRouteHere_eq dst (firstPort s dst) s
      rw [halts, haltPeer_idle (by exact idle)]
      exact ⟨idle, mem⟩

theorem Resting.enqueueLash (vc : Fin 4) (fl : Option Nat) (b : Body) : Resting M (enqueueLash vc fl b s) := by
  obtain ⟨idle, mem⟩ := rest
  exact ⟨by rw [enqueueLash_seq, idle], by rw [enqueueLash_mem, mem]⟩

theorem Resting.ferrySend (id rank half : Nat) (b : Body) {here : State → State} (h : Resting M (here s)) :
    Resting M (ferrySend id rank half b here s) := by
  unfold Machine.ferrySend
  split
  · split
    · exact h
    · exact rest.enqueueLash _ _ _
  · exact rest.send _ _ _ _

/-- A token that arrives waits in its table. -/
theorem Resting.deliver {m : FerryMsg} (token : m.isReturn = false) : Resting M (deliver m s) := by
  simp only [Machine.deliver, token, Bool.false_eq_true, if_false]
  split <;> exact rest

theorem Resting.sendPair (id : Nat) (w : Row) (expert : Nat) (wave : Bool) (home : Nat × Nat) (pair : FerryPair) :
    Resting M (sendPair id w expert wave home pair s) :=
  have awaiting : Resting M (onFerry (fHomes w) (fun f => { f with awaited := insertOnce (BitVec.ofNat 16 expert, wave) f.awaited }) s) := rest
  awaiting.ferrySend _ _ _ _ (awaiting.deliver rfl)

theorem Resting.takeReply (id : Nat) (w : Row) (a : Admission) : Resting M (takeReply id w a s) := by
  refine List.foldlRecOn (motive := Resting M) _ _ rest fun t told pair _ => ?_
  split
  · exact told.sendPair _ _ _ _ _ _
  · exact told

end

theorem mem_admitHome {s : State} (idle : s.seq.run = none) (id : Nat) (w : Row) (wave : Bool) (home : Nat × Nat) :
    (admitHome id w wave s home).mem = (writeMem (placeOf s home.2 (fLand w)).1 (placeOf s home.2 (fLand w)).2 (landingArea w
      ((((ferryState s (fHomes w)).arrivals.filter (fun m => m.1 = (ferryState s (fHomes w)).round && m.2.wave = wave &&
        m.2.expert.toNat = home.1)).map Prod.snd).foldl (fun l m => insertKey m l) [] |>.take (fCap w))) s).mem := by
  refine (List.foldlRecOn (motive := Resting _) _ _ ⟨?_, rfl⟩ fun t told q _ => ?_).2
  · exact (congrArg Seq.run (writeMem_seq ..)).trans idle
  · exact told.ferrySend _ _ _ _ (told.takeReply _ _ _)

theorem admissionTakesTheLowestKeys : Claims.AdmissionTakesTheLowestKeys := by
  rintro s id w wave home ms idle rfl
  refine ⟨fun m => ?_, foldl_insertKey_inOrder _ _ .nil, mem_admitHome idle id w wave home, length_landingArea w (List.length_take_le _ _)⟩
  rw [(foldl_insertKey_perm _ _).mem_iff]
  simp [and_assoc]

/-- Settles O41: the messages by what they reach, and the admission by the sorted arrivals of the home. -/
theorem ferryMessagesAndAdmission : Obligations.FerryMessagesAndAdmission := ⟨ferryMessagesReachTheirTable, admissionTakesTheLowestKeys⟩

end Sys2Proof.Machine

/-! ## O55: LASH forms a pair and UNLASH parts it

The clause of PAIR_FORMED has the secondary keep its recorder, `t.log = s.log`, with its sessions closed. But a LOG_MARK that waits for an
entry of the recorder's queue is a request in that recorder, and as its session closes it loses its session number (R302, log entry 24), so
that it completes with SESSION_CLOSED. No command starts while a LOG_MARK waits, which saves the clause of UNLASH; PAIR_FORMED is an event,
and a LASH may be pending as the LOG_MARK comes. -/

namespace Sys2Proof.Machine

/-- A request of session 1. -/
def sessionReq (tag : BitVec 16) : Req := { tag := tag, isSealed := true, sid := 1, seq := 5, raddr := 0x9000, rcap := 0x1000 }

/-- The LASH by which a module is to become the secondary; the partner's record is known. -/
def secondaryLash : LashJob := { req := sessionReq 1, partner := 77, primary := false, bringup := true, found := some (9, 0) }

/-- A SOLO module with that LASH pending and its lash port ACTIVE, whose recorder's queue is full. -/
def lashPending : State :=
  { State.reset with
    gw := { State.reset.gw with
      lash := some secondaryLash
      sessions := [{ sid := 1, provisional := false, owner := 0, seq := 5, nseq := 1, h2d := 11, d2h := 12 }] }
    log := { State.reset.log with queue := List.replicate 241 (State.reset.log.stamp Code.logMark 0 []) }
    fab := { State.reset.fab with ports := List.replicate 7 { Port.reset with state := .active } } }

/-- A LOG_MARK of session 1 has come to it, and waits for an entry of the queue. -/
def lashWithMark : State := logMark (sessionReq 2) 0 0 lashPending

theorem exec_pairFormed_found {s : State} {j : LashJob} {epoch regions : BitVec 64} (pending : s.gw.lash = some j)
    (found : j.found = some (epoch, regions)) (active : (port s 6).state = .active) :
    exec .pairFormed s = .next (settled s (formPair j epoch regions s)) := by
  rw [exec, execPairFormed]
  simp only [pending, found]
  exact event_holds (by simp [active]) _ s

/-- The LOG_MARK that waits names no session once the pair is formed. -/
theorem markWait_formPair_lashWithMark :
    (formPair secondaryLash 9 0 lashWithMark).log.markWait = [({ sessionReq 2 with sid := 0 }, 0, 0)] := by decide +kernel

/-- Refutes O55: as `lashWithMark` becomes the secondary, the LOG_MARK that waits in its recorder loses its session number. -/
theorem not_pairsAreFormedAndParted : ¬ Obligations.PairsAreFormedAndParted := by
  intro h
  have pending : lashWithMark.gw.lash = some secondaryLash := by decide +kernel
  have active : (port lashWithMark 6).state = .active := by decide +kernel
  have noDebug : lashWithMark.trust.debug = none ∧ lashWithMark.trust.debugWait = none := by decide +kernel
  obtain ⟨-, lashes, -, -⟩ := h lashWithMark (sessionReq 1)
  obtain ⟨-, -, -, forms⟩ := lashes secondaryLash pending
  obtain ⟨t, ht, -, -, -, -, -, -, -, -, -, -, -, -, -, -, -, secondary⟩ :=
    forms 9 0 rfl active (by decide +kernel) (by decide +kernel) (by decide +kernel)
  obtain ⟨log, -⟩ := secondary rfl noDebug.1 noDebug.2
  have formed := Host.Outcome.next.inj ((exec_pairFormed_found pending rfl active).symm.trans ht)
  have kept : (formPair secondaryLash 9 0 lashWithMark).log = lashWithMark.log := by rw [← settled_log _ lashWithMark, formed, log]
  have marks := markWait_formPair_lashWithMark
  rw [kept] at marks
  exact absurd marks (by decide +kernel)

end Sys2Proof.Machine

/-! ## O57: the halves of a pair hear each other

What the other half passes is an event of a half in a pair whose rails are up (`exec_pairForward`); its effects on the slots, the job's
tables and the pair show in no bit of GW_STATUS, so they are all that happens. A contribution ends a row as the row's own completion would
with the flags of both halves (`finishRow_share`). The partner's warm reset posts what is outstanding here and then resets this half:
neither the image that starts nor the notice to the members brings back what has ended (`keeps_warmTail`). -/

namespace Sys2Proof.Machine

/-! ### Rendezvous and contributions, R275, R276 -/

theorem gwStatus_pair {s : State} {x : Pair} (role : x.role = s.pair.role) : gwStatus { s with pair := x } = gwStatus s := by
  simp only [gwStatus, role]
  rfl

section
variable {s : State} {run : ActiveRun} (paired : inPair s = true) (running : s.seq.run = some run)
include paired running

theorem exec_pairRendezvous_agrees {slot : Bool} {row : BitVec 14} (agrees : ∀ m, s.pair.sent = some m → m = (slot, row.toNat)) :
    exec (.pairRendezvous slot row) s = .next { s with pair := { s.pair with got := s.pair.got ++ [(slot, row)] } } := by
  have kept : rendezvous slot row s = { s with pair := { s.pair with got := s.pair.got ++ [(slot, row)] } } := by
    cases sent : s.pair.sent with
    | none => simp [rendezvous, onPair, sent]
    | some m => simp [rendezvous, onPair, sent, agrees m sent]
  rw [exec, execPairRendezvous, event_quiet (by simp [paired, running]) (by rw [kept]; exact gwStatus_pair rfl), kept]

theorem exec_pairContribution_early (p : PairShare) (noneWaits : ∀ f ∈ s.seq.flight, f.stage ≠ .remote) :
    exec (.pairContribution p) s = .next { s with pair := { s.pair with shares := s.pair.shares ++ [p] } } := by
  have noRow : s.seq.flight.find? (fun f => f.stage = .remote && f.slot = p.slot && f.row = p.row.toNat && f.issue = p.issue) = none :=
    List.find?_eq_none.mpr fun f hf => by simp [noneWaits f hf]
  have kept : takeShare p s = { s with pair := { s.pair with shares := s.pair.shares ++ [p] } } := by rw [takeShare, noRow]; rfl
  rw [exec, execPairContribution, event_quiet (by simp [paired, running]) (by rw [kept]; exact gwStatus_pair rfl), kept]

end

/-- A share without a watch contribution brings its flags alone. -/
theorem finishRow_share {f : Flight} {p : PairShare} (noWatch : p.watch = none) (s : State) :
    finishRow f (some p) s = finishRow { f with flags := f.flags ||| p.flags } none s := by
  have noFlags : f.flags ||| p.flags ||| (0 : BitVec 8) = f.flags ||| p.flags := BitVec.or_zero
  simp only [finishRow, Option.map_some, Option.map_none, Option.getD_some, Option.getD_none, Option.bind_some, Option.bind_none, noWatch,
    noFlags]

theorem exec_pairContribution_ends {s : State} {run : ActiveRun} {p : PairShare} {f : Flight} (paired : inPair s = true)
    (running : s.seq.run = some run) (flight : s.seq.flight = [f]) (waits : f.stage = .remote) (slot : f.slot = p.slot)
    (row : f.row = p.row.toNat) (issue : f.issue = p.issue) (noWatch : p.watch = none) :
    exec (.pairContribution p) s = .next (settled s (finishRow { f with flags := f.flags ||| p.flags } none s)) := by
  have ends : takeShare p s = finishRow { f with flags := f.flags ||| p.flags } none s := by
    rw [takeShare, flight, List.find?_cons_of_pos (by simp [waits, slot, row, issue])]
    exact finishRow_share noWatch s
  rw [exec, execPairContribution, event_holds (by simp [paired, running]), ends]

/-! ### What the other half passes, R277, R287 -/

section
variable {s : State} {f : PairFwd} (paired : inPair s = true) (rails : s.power.rails = true)
include paired rails

theorem exec_pairForward : exec (.pairForward f) s = .next (settled s (forwarded f s)) :=
  event_holds (by simp [paired, rails]) (forwarded f) s

/-- What shows in no bit of GW_STATUS is all that happens. -/
theorem exec_pairForward_quiet (status : gwStatus (forwarded f s) = gwStatus s) :
    exec (.pairForward f) s = .next (forwarded f s) := by
  rw [exec_pairForward paired rails, settled_eq status]

end

theorem gwStatus_markAbsent (rank standIn : Nat) (s : State) : gwStatus (markAbsent rank standIn s) = gwStatus s := rfl

/-- A code of the table has the source and code by which it is found. -/
theorem recInfo_names {source code : BitVec 16} {c : RecCode} (h : recInfo source code = some c) : c.source = source ∧ c.code = code := by
  simpa using List.find?_some h

theorem farRecord_eq (r : RecordBody) (s : State) : ∃ c : RecCode, c.source = r.source ∧ c.code = r.code ∧ farRecord r s =
    { s with log := s.log.push (s.log.stamp c 5 r.params), pair := { s.pair with tail := r.crc, events := s.pair.events + 1 } } := by
  cases info : recInfo r.source r.code with
  | none => exact ⟨_, rfl, rfl, by rw [farRecord, info]; rfl⟩
  | some c => exact ⟨c, (recInfo_names info).1, (recInfo_names info).2, by rw [farRecord, info]; rfl⟩

/-! ### A warm reset, spec/17_modes_repair.md Tables 17-3 and 17-5 -/

@[simp] theorem notifyEntry_trust (s : State) (c : Completion) : (notifyEntry s c).2.trust = s.trust := by
  simp only [notifyEntry]; split <;> rfl

@[simp] theorem noteDone_trust (s : State) : (noteDone s).trust = s.trust := rfl

@[simp] theorem gwErr_trust (bit : Nat) (s : State) : (gwErr bit s).trust = s.trust := rfl

theorem postOne_trust (c : Completion) (replyOk entryOk : Bool) (s : State) : (postOne c replyOk entryOk s).trust = s.trust := by
  simp only [postOne, apply_ite State.trust, apply_ite Prod.snd, writeMem_trust, onGw_trust, noteDone_trust, notifyEntry_trust, gwErr_trust,
    ite_self]

theorem postAll_trust (n : Nat) (s : State) : (postAll n s).trust = s.trust := by
  induction n generalizing s with
  | zero => rfl
  | succ n ih =>
    rw [postAll]
    split
    · rfl
    · split
      · rw [ih, postOne_trust]
      · rfl

theorem completeAllClear_trust (status : BitVec 16) (s : State) : (completeAllClear status s).trust = s.trust := by
  unfold completeAllClear
  exact (foldl_keeps State.trust _ (fun _ _ => completeClear_trust ..) _ _).trans
    (foldl_keeps State.trust _ (fun _ a => by cases a.refused <;> rfl) _ s)

theorem warmPosts_trust (s : State) : (warmPosts s).trust = s.trust := by
  rw [warmPosts]
  split
  · rw [raiseVec1_trust, onGw_trust, postAll_trust, completeAllClear_trust]
  · rfl

theorem ownerKey_endDebug (cause : Nat) (s : State) : (endDebug cause s).trust.ownerKey = s.trust.ownerKey := by
  unfold endDebug; split <;> rfl

theorem ownerKey_cutImage (s : State) : (cutImage s).trust.ownerKey = s.trust.ownerKey := by
  unfold cutImage setOtherImage
  split
  · split
    · rfl
    · split <;> rfl
  · rfl

theorem cutUnseal_trust (s : State) : (cutUnseal s).trust = s.trust := by
  unfold cutUnseal
  split
  · split <;> rfl
  · rfl

theorem ownerKey_bootImage (s : State) : (bootImage s).trust.ownerKey = s.trust.ownerKey := by
  unfold bootImage; split <;> rfl

/-- What neither the choice of an image nor the notice of a halt changes is as the reset has left it. -/
theorem keeps_warmTail {α : Type} {f : State → α} (boot : ∀ s, f (bootImage s) = f s)
    (told : ∀ s fab rec, f { s with fab := fab, log := rec } = f s) (active running : Bool) (s : State) :
    f (if running then tellHalted Status.warmReset (if active then bootImage s else s) else if active then bootImage s else s) = f s := by
  have booted : f (if active then bootImage s else s) = f s := by cases active <;> simp [boot]
  cases running with
  | false => exact booted
  | true =>
    obtain ⟨fab, rec, tells, -⟩ := tellHalted_eq Status.warmReset (if active then bootImage s else s)
    rw [if_pos rfl, tells, told, booted]

/-- The run, its rows and verdicts, the accumulators and the sessions end with a warm reset. -/
theorem warmReset_ends (s : State) : (warmReset s).seq.run = none ∧ (warmReset s).seq.flight = [] ∧ (warmReset s).seq.a4 = [] ∧
    (warmReset s).mem.acc = [] ∧ (warmReset s).gw.sessions = [] := by
  have kept := keeps_warmTail (f := fun s => (s.seq.run, s.seq.flight, s.seq.a4, s.mem.acc, s.gw.sessions)) (fun s => by simp)
    (fun _ _ _ => rfl)
  have ends : ((warmReset s).seq.run, (warmReset s).seq.flight, (warmReset s).seq.a4, (warmReset s).mem.acc, (warmReset s).gw.sessions) =
      (none, [], [], [], []) := (kept _ _ _).trans (by simp)
  simpa only [Prod.mk.injEq] using ends

theorem ownerKey_warmReset (s : State) : (warmReset s).trust.ownerKey = s.trust.ownerKey := by
  refine (keeps_warmTail (f := fun s => s.trust.ownerKey) ownerKey_bootImage (fun _ _ _ => rfl) _ _ _).trans ?_
  simp [cutUnseal_trust, ownerKey_cutImage, ownerKey_endDebug]

theorem exec_partnerWarmReset {s : State} (paired : inPair s = true) (rails : s.power.rails = true) :
    exec .partnerWarmReset s = .next (settled s (warmReset (warmPosts s))) :=
  event_holds (by simp [paired, rails]) (fun s => warmReset (warmPosts s)) s

theorem length_regions_warmReset_warmPosts (s : State) : (warmReset (warmPosts s)).regions.length = s.regions.length :=
  (KeepsForm.refl s).warmPosts.warmReset.regions

/-! ### A half without a partner, R284 -/

/-- Outside a pair neither half is heard. -/
theorem solo_hears_nothing {s : State} (solo : s.pair.role = .solo) : exec .strandedRetry s = .next s ∧ exec .partnerWarmReset s = .next s ∧
    (∀ f, exec (.pairForward f) s = .next s) ∧ (∀ b k, exec (.pairRendezvous b k) s = .next s) ∧
    (∀ p, exec (.pairContribution p) s = .next s) := by
  have alone : inPair s = false := by simp [inPair, solo]
  exact ⟨event_waits (by simp [solo]) (bringUp 6) s, event_waits (by simp [alone]) (fun s => warmReset (warmPosts s)) s,
    fun f => event_waits (by simp [alone]) (forwarded f) s, fun b k => event_waits (by simp [alone]) (rendezvous b k) s,
    fun p => event_waits (by simp [alone]) (takeShare p) s⟩

/-- A bridge is sensed, and the lash port of a STRANDED half is wanted. -/
theorem bringUp_stranded {s : State} (stranded : s.pair.role = .stranded) (off : (port s 6).state = .off) (idle : (port s 6).hs = .idle)
    (rails : s.power.rails = true) (awake : s.power.state ≠ .sleep) (enrolled : s.trust.lifecycle = .enrolled)
    (bridge : s.pins.lashSenseN = false) : bringUp 6 s = onPort 6 (fun x => { x with hs := .train, transcript := [] }) s :=
  if_pos (by simp [off, idle, wanted, sensed, stranded, rails, awake, enrolled, bridge])

/-! ### The clauses -/

/-- Settles O57: a rendezvous and a contribution by what waits for them, each message by its effect, and the halves without a partner. -/
theorem halvesHearEachOther : Obligations.HalvesHearEachOther := by
  refine ⟨fun s run paired running => ⟨?_, ?_, exec_pairContribution_early paired running, ?_⟩,
    fun s paired rails => ⟨?_, ?_, ?_, ?_, ?_, ?_, ?_⟩, fun s => solo_hears_nothing, ?_⟩
  · intro slot row unsent
    exact exec_pairRendezvous_agrees paired running (by simp [unsent])
  · intro slot row sent
    exact exec_pairRendezvous_agrees paired running (by simp [sent])
  · intro p f flight waits slot row issue noOwn noOther noWait going staying
    have done := exec_pairContribution_ends paired running flight waits slot row issue noOther
    obtain ⟨l, kept⟩ := keepCopy_eq f.bits (orFreg f.bits (f.flags ||| p.flags)
      (onSeq (fun q => { q with flight := q.flight.filter (fun g => g.id != f.id) }) s))
    rw [finishRow_going (by exact noOwn) noWait running going staying, kept, orFreg_eq, settled_eq (by rfl)] at done
    exact ⟨_, done, by simp [flight], rfl, rfl, rfl, rfl, rfl⟩
  · obtain ⟨run, flight, a4, acc, sessions⟩ := warmReset_ends (warmPosts s)
    refine ⟨_, exec_partnerWarmReset paired rails, ?_⟩
    simp only [settled_seq, settled_mem, settled_sessions, settled_regions, settled_trust]
    exact ⟨run, flight, a4, acc, sessions, length_regions_warmReset_warmPosts s, by rw [ownerKey_warmReset, warmPosts_trust]⟩
  · exact fun b => exec_pairForward_quiet paired rails (gwStatus_armSlot b 0 s)
  · exact fun d => exec_pairForward_quiet paired rails (gwStatus_pair rfl)
  · exact fun rank standIn => exec_pairForward_quiet paired rails (gwStatus_markAbsent rank standIn s)
  · intro w idle
    have kept : forwarded (.regions w false) s = { s with pair := { s.pair with peerRegions := w } } := by
      simp [forwarded, farRegions, onPair, idle]
    rw [exec_pairForward_quiet paired rails (by rw [kept]; exact gwStatus_pair rfl), kept]
  · refine ⟨_, exec_pairForward paired rails, ?_⟩
    simp [forwarded, endJob]
  · intro r _
    obtain ⟨c, source, code, kept⟩ := farRecord_eq r s
    have done := exec_pairForward_quiet (f := .record r) paired rails (by rw [forwarded, kept]; exact gwStatus_pair rfl)
    exact ⟨_, c, done, source, code, by rw [forwarded, kept], by rw [forwarded, kept], by rw [forwarded, kept]⟩
  · intro s stranded off idle rails awake enrolled bridge
    exact event_onPort (by simp [stranded]) (bringUp_stranded stranded off idle rails awake enrolled bridge)

end Sys2Proof.Machine

/-! ## O1: a step runs the command at the front of the queue -/

namespace Sys2Proof.Machine

/-- Settles O1: `step` looks at the queue alone to choose what it runs. -/
theorem stepRunsFrontCommand : Obligations.StepRunsFrontCommand :=
  ⟨fun c s => step_front c s.pending _ rfl, fun s empty => step_empty s empty⟩

end Sys2Proof.Machine

/-! ## O2: the rings under ENABLE

Every register access that BAR0 answers changes the gangway alone, and neither RUNSTATE nor the sessions in it, so that GW_STATUS shows
nothing of it and no vector is raised (`bar0_onGw`). What is left is which fields a write sets. -/

namespace Sys2Proof.Machine

/-! ### Register accesses -/

theorem gwStatus_onGw {f : Gangway → Gangway} {s : State} (runstate : (f s.gw).runstate = s.gw.runstate := by rfl)
    (sessions : (f s.gw).sessions = s.gw.sessions := by rfl) : gwStatus (onGw f s) = gwStatus s :=
  gwStatus_congr runstate rfl rfl rfl rfl rfl rfl rfl sessions

/-- A register access that changes neither RUNSTATE nor the sessions has its effect on the gangway alone. -/
theorem bar0_onGw {s : State} (up : s.gw.linkUp = true) {F : State → State} {f : Gangway → Gangway} (effect : F s = onGw f s)
    (runstate : (f s.gw).runstate = s.gw.runstate := by rfl) (sessions : (f s.gw).sessions = s.gw.sessions := by rfl) :
    bar0 F s = .next (onGw f s) := by
  rw [bar0_up F s up, effect, settled_eq (gwStatus_onGw runstate sessions)]

/-- A register access that is ignored. -/
theorem bar0_ignored {s : State} (up : s.gw.linkUp = true) {F : State → State} (ignored : F s = s) : bar0 F s = .next s := by
  rw [bar0_up F s up, ignored, settled_self]

/-! ### ENABLE, R292 -/

theorem ringLegal_iff (base : BitVec 64) (size : BitVec 32) : ringLegal base size = true ↔ LegalRing base size := by
  have sizes : size.toNat ∈ [16, 32, 64, 128, 256, 512, 1024, 2048, 4096] ↔ ∃ k, 4 ≤ k ∧ k ≤ 12 ∧ size.toNat = 2 ^ k := by
    constructor
    · intro listed
      simp only [List.mem_cons, List.not_mem_nil, or_false] at listed
      rcases listed with h | h | h | h | h | h | h | h | h
      exacts [⟨4, by simp [h]⟩, ⟨5, by simp [h]⟩, ⟨6, by simp [h]⟩, ⟨7, by simp [h]⟩, ⟨8, by simp [h]⟩, ⟨9, by simp [h]⟩,
        ⟨10, by simp [h]⟩, ⟨11, by simp [h]⟩, ⟨12, by simp [h]⟩]
    · rintro ⟨k, least, most, size⟩
      rw [size]
      interval_cases k <;> decide
  rw [ringLegal, Bool.and_eq_true, decide_eq_true_eq, List.contains_iff_mem, sizes, LegalRing, Nat.dvd_iff_mod_eq_zero]

theorem ringLegal_eq_false {base : BitVec 64} {size : BitVec 32} (h : ¬ LegalRing base size) : ringLegal base size = false :=
  Bool.eq_false_iff.mpr fun legal => h ((ringLegal_iff base size).mp legal)

/-- Setting ENABLE starts both rings anew where both are legal, and sets the error bit of each that is not. -/
theorem setEnable_rising {s : State} (disabled : s.gw.enable = false) : setEnable true s =
    if ringLegal s.gw.sqBase s.gw.sqSize && ringLegal s.gw.cqBase s.gw.cqSize then
      onGw (fun g => { g with enable := true, sqHead := 0, cqTail := 0, sqTail := 0, cqHead := 0, phase := true }) s
    else if ringLegal s.gw.cqBase s.gw.cqSize then gwErr 0 s
    else if ringLegal s.gw.sqBase s.gw.sqSize then gwErr 1 s else gwErr 1 (gwErr 0 s) := by
  cases sq : ringLegal s.gw.sqBase s.gw.sqSize <;> cases cq : ringLegal s.gw.cqBase s.gw.cqSize <;>
    simp [setEnable, disabled, sq, cq]

theorem enableChecksBothRings : Claims.EnableChecksBothRings := by
  intro s up
  refine ⟨fun disabled sq cq => ?_, fun disabled sq cq => ?_, fun disabled sq cq => ?_, fun disabled sq cq => ?_, ?_, fun enabled => ?_⟩
  · refine bar0_onGw (f := fun g => { g with enable := true, sqHead := 0, cqTail := 0, sqTail := 0, cqHead := 0, phase := true }) up ?_
    rw [setEnable_rising disabled, (ringLegal_iff _ _).mpr sq, (ringLegal_iff _ _).mpr cq, Bool.and_self, if_pos rfl]
  · refine bar0_onGw (f := fun g => { g with err := g.err ||| 1 }) up ?_
    rw [setEnable_rising disabled, ringLegal_eq_false sq, (ringLegal_iff _ _).mpr cq]
    rfl
  · refine bar0_onGw (f := fun g => { g with err := g.err ||| 2 }) up ?_
    rw [setEnable_rising disabled, (ringLegal_iff _ _).mpr sq, ringLegal_eq_false cq]
    rfl
  · refine bar0_onGw (f := fun g => { g with err := g.err ||| 1 ||| 2 }) up ?_
    rw [setEnable_rising disabled, ringLegal_eq_false sq, ringLegal_eq_false cq]
    rfl
  · exact bar0_onGw (f := fun g => { g with enable := false }) up rfl
  · exact bar0_ignored up (by simp [setEnable, enabled])

/-! ### The ring registers, R292 -/

theorem ofNat_bits_low (v : BitVec 64) : BitVec.ofNat 32 (bits v 0 32) = v.setWidth 32 := by
  apply BitVec.eq_of_toNat_eq
  simp [bits, fld]

theorem ofNat_bits_high (v : BitVec 64) : BitVec.ofNat 32 (bits v 32 32) = v.extractLsb' 32 32 := by
  apply BitVec.eq_of_toNat_eq
  simp [bits, fld, Nat.shiftRight_eq_div_pow]

/-- The two words of a number of 64 bits. -/
theorem extractLsb'_ofNat_words {low : Nat} (word : low < 2 ^ 32) (high : Nat) :
    (BitVec.ofNat 64 (low + high * 2 ^ 32)).extractLsb' 0 32 = BitVec.ofNat 32 low ∧
    (BitVec.ofNat 64 (low + high * 2 ^ 32)).extractLsb' 32 32 = BitVec.ofNat 32 high := by
  have first : (low + high * 2 ^ 32) % 2 ^ 64 % 2 ^ 32 = low % 2 ^ 32 := by
    rw [Nat.mod_mod_of_dvd _ (Nat.pow_dvd_pow 2 (by decide)), Nat.add_mul_mod_self_right]
  have second : (low + high * 2 ^ 32) % 2 ^ 64 / 2 ^ 32 = high % 2 ^ 32 := by
    rw [show (2 : Nat) ^ 64 = 2 ^ 32 * 2 ^ 32 from (Nat.pow_add 2 32 32), Nat.mod_mul_right_div_self,
      Nat.add_mul_div_right _ _ (Nat.two_pow_pos 32), Nat.div_eq_of_lt word, Nat.zero_add]
  constructor <;> apply BitVec.eq_of_toNat_eq
  · rw [BitVec.extractLsb'_toNat, BitVec.toNat_ofNat, BitVec.toNat_ofNat, Nat.shiftRight_zero, first]
  · rw [BitVec.extractLsb'_toNat, BitVec.toNat_ofNat, BitVec.toNat_ofNat, Nat.shiftRight_eq_div_pow, second, Nat.mod_mod]

theorem ofNat_mod_word (v : BitVec 64) : BitVec.ofNat 32 (v.toNat % 2 ^ 32) = v.extractLsb' 0 32 := by
  apply BitVec.eq_of_toNat_eq
  rw [BitVec.toNat_ofNat, BitVec.extractLsb'_toNat, Nat.shiftRight_zero, Nat.mod_mod]

theorem ofNat_div_word (v : BitVec 64) : BitVec.ofNat 32 (v.toNat / 2 ^ 32) = v.extractLsb' 32 32 := by
  apply BitVec.eq_of_toNat_eq
  rw [BitVec.toNat_ofNat, BitVec.extractLsb'_toNat, Nat.shiftRight_eq_div_pow]

theorem setHalf_low (base v : BitVec 64) : (setHalf base false v).extractLsb' 0 32 = v.extractLsb' 0 32 ∧
    (setHalf base false v).extractLsb' 32 32 = base.extractLsb' 32 32 := by
  have words := extractLsb'_ofNat_words (Nat.mod_lt v.toNat (Nat.two_pow_pos 32)) (base.toNat / 2 ^ 32)
  rwa [Nat.add_comm, ofNat_mod_word, ofNat_div_word] at words

theorem setHalf_high (base v : BitVec 64) : (setHalf base true v).extractLsb' 32 32 = v.extractLsb' 0 32 ∧
    (setHalf base true v).extractLsb' 0 32 = base.extractLsb' 0 32 := by
  have words := extractLsb'_ofNat_words (Nat.mod_lt base.toNat (Nat.two_pow_pos 32)) (v.toNat % 2 ^ 32)
  rw [ofNat_mod_word, ofNat_mod_word] at words
  exact words.symm

/-- A ring register that is written while ENABLE is 0 takes what the offset says. -/
theorem setRing_disabled {s : State} (disabled : s.gw.enable = false) (v : BitVec 64) :
    setRing 0x20 true v s = onGw (fun g => { g with sqBase := v }) s ∧
    setRing 0x40 true v s = onGw (fun g => { g with cqBase := v }) s ∧
    setRing 0x28 false v s = onGw (fun g => { g with sqSize := v.setWidth 32 }) s ∧
    setRing 0x48 false v s = onGw (fun g => { g with cqSize := v.setWidth 32 }) s ∧
    setRing 0x20 false v s = onGw (fun g => { g with sqBase := setHalf g.sqBase false v }) s ∧
    setRing 0x24 false v s = onGw (fun g => { g with sqBase := setHalf g.sqBase true v }) s := by
  simp [setRing, disabled, ofNat_bits_low]

theorem ringConfigurationOnlyWhileDisabled : Claims.RingConfigurationOnlyWhileDisabled := by
  intro s v up
  refine ⟨fun enabled offset wide => bar0_onGw (f := fun g => { g with err := g.err ||| 0x10 }) up (if_pos enabled), fun disabled => ?_⟩
  obtain ⟨sqBase, cqBase, sqSize, cqSize, low, high⟩ := setRing_disabled disabled v
  exact ⟨bar0_onGw (f := fun g => { g with sqBase := v }) up sqBase, bar0_onGw (f := fun g => { g with cqBase := v }) up cqBase,
    bar0_onGw (f := fun g => { g with sqSize := v.setWidth 32 }) up sqSize,
    bar0_onGw (f := fun g => { g with cqSize := v.setWidth 32 }) up cqSize,
    ⟨setHalf s.gw.sqBase false v, bar0_onGw (f := fun g => { g with sqBase := setHalf g.sqBase false v }) up low, setHalf_low _ _⟩,
    ⟨setHalf s.gw.sqBase true v, bar0_onGw (f := fun g => { g with sqBase := setHalf g.sqBase true v }) up high, setHalf_high _ _⟩⟩

/-! ### Rings at rest, R292 -/

theorem exec_submissionFetch_idle {s : State} (idle : canFetch s = false) (a b c : Bool) : exec (.submissionFetch a b c) s = .next s :=
  if_neg (by simp [idle])

theorem exec_completionPost_idle {s : State} (idle : canPost s = false) (a b : Bool) : exec (.completionPost a b) s = .next s := by
  rw [exec, execCompletionPost]
  simp only [idle, Bool.false_eq_true, if_false]
  split <;> rfl

theorem disabledRingsHoldStill : Claims.DisabledRingsHoldStill := fun s disabled =>
  ⟨exec_submissionFetch_idle (by simp [canFetch, disabled]), fun _ => exec_completionPost_idle (by simp [canPost, disabled])⟩

/-- Settles O2, clause by clause. -/
theorem ringsFollowEnable : Obligations.RingsFollowEnable :=
  ⟨enableChecksBothRings, ringConfigurationOnlyWhileDisabled, disabledRingsHoldStill⟩

end Sys2Proof.Machine

/-! ## O3: writes and reads of BAR0

A write of a register is one or two writes of a 32-bit word (`setRegister_narrow`, `setRegister_wide`), and a word changes the field of its
offset alone. The bytes of the MSI-X table read as they were written, whatever order the table is held in. -/

namespace Sys2Proof.Machine

/-! ### Doorbells and control bits, R293, R294, Table 13-2 -/

theorem setTail_inRing {s : State} {v : BitVec 32} (inRing : v < s.gw.sqSize) : setTail v s = onGw (fun g => { g with sqTail := v }) s :=
  if_neg (Nat.not_le.mpr (BitVec.lt_def.mp inRing))

theorem setTail_outside {s : State} {v : BitVec 32} (outside : ¬ v < s.gw.sqSize) : setTail v s = gwErr 2 s :=
  if_pos (Nat.not_lt.mp fun h => outside (BitVec.lt_def.mpr h))

theorem setCqHead_inRing {s : State} {v : BitVec 32} (inRing : v < s.gw.cqSize) :
    setCqHead v s = onGw (fun g => { g with cqHead := v }) s :=
  if_neg (Nat.not_le.mpr (BitVec.lt_def.mp inRing))

theorem setCqHead_outside {s : State} {v : BitVec 32} (outside : ¬ v < s.gw.cqSize) : setCqHead v s = gwErr 2 s :=
  if_pos (Nat.not_lt.mp fun h => outside (BitVec.lt_def.mpr h))

theorem clearErr_eq (mask : BitVec 32) (s : State) :
    clearErr mask s = onGw (fun g => { g with err := g.err &&& ~~~ mask.setWidth 5 }) s := by
  rw [clearErr, BitVec.ofNat_toNat]

theorem doorbellsAndControlBits : Claims.DoorbellsAndControlBits := by
  intro s v up
  refine ⟨fun inRing => ?_, fun outside => ?_, fun inRing => ?_, fun outside => ?_, fun b => ?_, ?_⟩
  · exact bar0_onGw (f := fun g => { g with sqTail := v }) up (setTail_inRing inRing)
  · exact bar0_onGw (f := fun g => { g with err := g.err ||| 4 }) up (setTail_outside outside)
  · exact bar0_onGw (f := fun g => { g with cqHead := v }) up (setCqHead_inRing inRing)
  · exact bar0_onGw (f := fun g => { g with err := g.err ||| 4 }) up (setCqHead_outside outside)
  · exact bar0_onGw (f := fun g => { g with irqEn := b }) up rfl
  · exact bar0_onGw (f := fun g => { g with err := g.err &&& ~~~ v.setWidth 5 }) up (clearErr_eq v s)

/-! ### Words of BAR0, R291 -/

/-- Offsets of Table 13-1 at which a 32-bit write has an effect, but for the MSI-X table. -/
def writtenOffsets : List Nat := [0x0C, 0x10, 0x20, 0x24, 0x28, 0x2C, 0x40, 0x44, 0x48, 0x4C]

theorem setWord_reserved {o : Nat} (reserved : o ∉ writtenOffsets) (outside : o < 0x1000 ∨ 0x1020 ≤ o) (v : BitVec 32) (s : State) :
    setWord o v s = s := by
  simp only [writtenOffsets, List.mem_cons, List.not_mem_nil, or_false, not_or] at reserved
  obtain ⟨_, _, _, _, _, _, _, _, _, _⟩ := reserved
  unfold setWord
  split
  iterate 4 contradiction
  rw [if_neg (by simp [*]), if_neg (by simp; omega)]

theorem setWord_msix {o : Nat} (least : 0x1000 ≤ o) (most : o < 0x1020) (v : BitVec 32) (s : State) :
    setWord o v s = onGw (fun g => { g with msix := mwrite g.msix o (leBytes 4 v.toNat) }) s := by
  have other : ∀ k ∈ writtenOffsets, o ≠ k := by
    intro k named same
    subst same
    simp only [writtenOffsets, List.mem_cons, List.not_mem_nil, or_false] at named
    omega
  unfold setWord
  split
  iterate 4 exact absurd rfl (other _ (by decide))
  rw [if_neg (by simp; omega), if_pos (by simp [least, most])]

theorem setRegister_narrow {offset : BitVec 16} (aligned : offset.toNat % 4 = 0) (v : BitVec 64) (s : State) :
    setRegister offset false v s = setWord offset.toNat (v.setWidth 32) s := by
  simp only [setRegister, aligned, ofNat_bits_low, Bool.false_eq_true, if_false, ne_eq, not_true]

theorem setRegister_wide {offset : BitVec 16} (aligned : offset.toNat % 8 = 0) (v : BitVec 64) (s : State) :
    setRegister offset true v s = setWord (offset.toNat + 4) (v.extractLsb' 32 32) (setWord offset.toNat (v.setWidth 32) s) := by
  simp only [setRegister, aligned, ofNat_bits_low, ofNat_bits_high, if_true, ne_eq, not_true, if_false]

theorem setRegister_unaligned {offset : BitVec 16} {wide : Bool} (unaligned : offset.toNat % (if wide then 8 else 4) ≠ 0) (v : BitVec 64)
    (s : State) : setRegister offset wide v s = s := if_pos unaligned

/-! ### Bytes of the MSI-X table -/

/-- As `sget?_mwrite`, for a memory in any order. -/
theorem sget?_mwrite_anyOrder (m : List Host.Cell) (a : Nat) (bs : List Byte) (j : Nat) :
    sget? (mwrite m a bs) j = if a ≤ j ∧ j < a + bs.length then bs[j - a]? else sget? m j := by
  induction bs generalizing m a with
  | nil => rw [mwrite, if_neg (by simp)]
  | cons b r ih =>
    rw [mwrite, ih, sget?_sput_anyOrder, List.length_cons]
    rcases lt_trichotomy j a with before | rfl | after
    · rw [if_neg (by omega), if_neg (by omega), if_neg (by omega)]
    · rw [if_neg (by omega), if_pos rfl, if_pos (by omega), Nat.sub_self, List.getElem?_cons_zero]
    · by_cases here : j < a + (r.length + 1)
      · rw [if_pos (by omega), if_pos (by omega), show j - a = j - (a + 1) + 1 by omega, List.getElem?_cons_succ]
      · rw [if_neg (by omega), if_neg (by omega), if_neg (by omega)]

theorem mread_mwrite_anyOrder (u : Nat → Byte) (m : List Host.Cell) (a : Nat) (bs : List Byte) :
    mread u (mwrite m a bs) a bs.length = bs := by
  apply List.ext_getElem?
  intro k
  by_cases inside : k < bs.length
  · rw [mread_getElem? _ _ _ _ _ inside, sget, sget?_mwrite_anyOrder, if_pos (by omega), Nat.add_sub_cancel_left,
      List.getElem?_eq_getElem inside, Option.getD_some]
  · rw [List.getElem?_eq_none (by simpa using inside), List.getElem?_eq_none (by simpa using inside)]

theorem mread_mwrite_elsewhere (u : Nat → Byte) (m : List Host.Cell) {a b : Nat} {bs : List Byte} (apart : b < a ∨ a + bs.length ≤ b) :
    mread u (mwrite m a bs) b 1 = mread u m b 1 := by
  rw [mread, mread, mread, mread, sget, sget, sget?_mwrite_anyOrder, if_neg (by omega)]

theorem mwrite_append (m : List Host.Cell) (a : Nat) (bs cs : List Byte) : mwrite m a (bs ++ cs) = mwrite (mwrite m a bs) (a + bs.length) cs := by
  induction bs generalizing m a with
  | nil => rfl
  | cons b r ih => rw [List.cons_append, mwrite, mwrite, ih, List.length_cons, Nat.add_right_comm, Nat.add_assoc]

/-- The bytes of a 64-bit value are those of its two words. -/
theorem leBytes_words (v : BitVec 64) :
    leBytes 4 (v.setWidth 32).toNat ++ leBytes 4 (v.extractLsb' 32 32).toNat = leBytes 8 v.toNat := by
  have low : leBytes 4 (v.setWidth 32).toNat = (leBytes 8 v.toNat).take 4 := by
    rw [BitVec.toNat_setWidth, leBytes_take]
    exact leBytes_mod 4 _
  have high : leBytes 4 (v.extractLsb' 32 32).toNat = (leBytes 8 v.toNat).drop 4 := by
    rw [BitVec.extractLsb'_toNat, Nat.shiftRight_eq_div_pow, leBytes_drop]
    exact leBytes_mod 4 _
  rw [low, high, List.take_append_drop]

theorem otherRegistersIgnoreWrites : Claims.OtherRegistersIgnoreWrites := by
  intro s offset v up
  refine ⟨fun reserved outside => ?_, fun reserved => ?_, fun unaligned wide => ?_, fun least most aligned => ?_,
    fun least most aligned => ?_, ?_, ?_, ?_, ?_⟩
  · by_cases aligned : offset.toNat % 4 = 0
    · exact bar0_ignored up ((setRegister_narrow aligned v s).trans (setWord_reserved reserved outside _ s))
    · exact bar0_ignored up (setRegister_unaligned aligned v s)
  · by_cases aligned : offset.toNat % 8 = 0
    · have first := setWord_reserved (o := offset.toNat) (by simp [writtenOffsets]; omega) (by omega) (v.setWidth 32) s
      have second := setWord_reserved (o := offset.toNat + 4) (by simp [writtenOffsets]; omega) (by omega) (v.extractLsb' 32 32) s
      exact bar0_ignored up ((setRegister_wide aligned v s).trans (by rw [first, second]))
    · exact bar0_ignored up (setRegister_unaligned aligned v s)
  · exact bar0_ignored up (setRegister_unaligned (by cases wide <;> simp <;> omega) v s)
  · have written : setRegister offset true v s = onGw (fun g => { g with msix := mwrite g.msix offset.toNat (leBytes 8 v.toNat) }) s := by
      rw [setRegister_wide aligned, setWord_msix least most, setWord_msix (by omega) (by omega), ← leBytes_words, onGw, onGw, onGw,
        mwrite_append, length_leBytes]
    exact ⟨_, bar0_onGw (f := fun g => { g with msix := mwrite g.msix offset.toNat (leBytes 8 v.toNat) }) up written,
      fun d => mread_mwrite_anyOrder d s.gw.msix offset.toNat (leBytes 8 v.toNat), fun d a apart => mread_mwrite_elsewhere d _ apart⟩
  · have written := (setRegister_narrow aligned v s).trans (setWord_msix least most (v.setWidth 32) s)
    rw [BitVec.toNat_setWidth, show leBytes 4 (v.toNat % 2 ^ 32) = leBytes 4 v.toNat from leBytes_mod 4 _] at written
    exact ⟨_, bar0_onGw (f := fun g => { g with msix := mwrite g.msix offset.toNat (leBytes 4 v.toNat) }) up written,
      fun d => mread_mwrite_anyOrder d s.gw.msix offset.toNat (leBytes 4 v.toNat), fun d a apart => mread_mwrite_elsewhere d _ apart⟩
  · exact congrArg (bar0 · s) (funext fun u => setRegister_narrow (by decide) v u)
  · exact congrArg (bar0 · s) (funext fun u => setRegister_wide (by decide) v u)
  · exact congrArg (bar0 · s) (funext fun u => setRegister_narrow (by decide) v u)
  · exact congrArg (bar0 · s) (funext fun u => setRegister_narrow (by decide) v u)

/-! ### Reads, R290, R291 -/

theorem regWord_reserved {o : Nat} (least : 0x54 ≤ o) (outside : o < 0x1000 ∨ 0x1020 ≤ o) (s : State) : regWord s o = 0 := by
  have notTable : (decide (0x1000 ≤ o) && decide (o < 0x1020)) = false := by simp; omega
  unfold regWord
  split
  iterate 15 omega
  rw [notTable, if_neg Bool.false_ne_true]

theorem bar0Read_reserved {s : State} (up : s.gw.linkUp = true) {o : Nat} (least : 0x54 ≤ o) (outside : o < 0x1000 ∨ 0x1020 ≤ o) :
    bar0Read s o false = some (zeros 4) := by
  rw [bar0Read, if_pos up, regWord_reserved (by omega) (by omega)]
  rfl

theorem registerReadsShowTheirRegisters : Claims.RegisterReadsShowTheirRegisters := by
  intro s
  refine ⟨fun down o w => if_neg (by simp [down]), fun up => ?_⟩
  have base (v : BitVec 64) : wordBytes (BitVec.ofNat 32 (bits v 0 32)) ++ wordBytes (BitVec.ofNat 32 (bits v 32 32)) = leBytes 8 v.toNat := by
    rw [ofNat_bits_low, ofNat_bits_high]
    exact leBytes_words v
  have word (o : Nat) : bar0Read s o false = some (wordBytes (regWord s (o / 4 * 4))) :=
    (if_pos up).trans (congrArg some (List.append_nil _))
  have words (o : Nat) : bar0Read s o true = some (wordBytes (regWord s (o / 4 * 4)) ++ wordBytes (regWord s (o / 4 * 4 + 4))) := if_pos up
  refine ⟨words 0x00, word 0x08, (words 0x20).trans (congrArg some (base s.gw.sqBase)), (words 0x40).trans (congrArg some (base s.gw.cqBase)),
    words 0x28, word 0x30, word 0x50, fun o least most => bar0Read_reserved up least (.inl most),
    fun o least => bar0Read_reserved up (by omega) (.inr least)⟩

/-! ### Without a link, R290 -/

theorem linkDownAnswersNoRequest : Claims.LinkDownAnswersNoRequest := by
  intro s down c access
  rcases access with ⟨v, rfl⟩ | ⟨v, rfl⟩ | ⟨m, rfl⟩ | ⟨v, rfl⟩ | ⟨v, rfl⟩ | ⟨o, w, v, rfl⟩ | ⟨o, v, rfl⟩
  all_goals exact bar0_down _ s down

/-- Settles O3, clause by clause. -/
theorem registerWritesActOnTheirRegisters : Obligations.RegisterWritesActOnTheirRegisters :=
  ⟨doorbellsAndControlBits, otherRegistersIgnoreWrites, registerReadsShowTheirRegisters, linkDownAnswersNoRequest⟩

end Sys2Proof.Machine

/-! ## O4: a fetch checks its entry, and a completion is posted

The fetch of an entry counts the command and then adds one item to those accepted (`fetchEntry_badEntry`, `fetchEntry_goodHead`, `checkPacket_clear`); a posting
writes host memory and the gangway (`postOne_writes`). Neither shows in GW_STATUS. -/

namespace Sys2Proof.Machine

/-! ### Submission fetch, R293, R301 -/

/-- The gangway once an entry has been taken from the ring. -/
def fetched (g : Gangway) : Gangway :=
  { g with sqHead := BitVec.ofNat 32 ((g.sqHead.toNat + 1) % max g.sqSize.toNat 1), outstanding := g.outstanding + 1 }

/-- The entry that a fetch reads. -/
def ringEntry (s : State) : Nat := ofLe (readMem s 3 (s.gw.sqBase.toNat + 64 * s.gw.sqHead.toNat) 64)

/-- A fetch that changes neither RUNSTATE nor the sessions has its effect on the gangway alone. -/
theorem exec_submissionFetch {s : State} (can : canFetch s = true) {a b c : Bool} {f : Gangway → Gangway}
    (effect : fetchEntry a b c s = onGw f s) (runstate : (f s.gw).runstate = s.gw.runstate := by rfl)
    (sessions : (f s.gw).sessions = s.gw.sessions := by rfl) : exec (.submissionFetch a b c) s = .next (onGw f s) := by
  rw [exec, execSubmissionFetch, if_pos can, done_eq, effect, settled_eq (gwStatus_onGw runstate sessions)]

theorem fetchEntry_unread (b c : Bool) (s : State) :
    fetchEntry false b c s = onGw (fun g => { g with enable := false, err := g.err ||| 8 }) s := if_pos rfl

theorem fetchEntry_badEntry {s : State} {e : Nat} (entry : e = ringEntry s) {tag : BitVec 16} (named : tag = BitVec.ofNat 16 (fld e 0 16))
    (bad : tag = 0xFFFF ∨ fld e 16 16 ≠ 0 ∨ fld e 224 288 ≠ 0) (b c : Bool) :
    fetchEntry true b c s = refuseClear (bareReq tag) Status.badHeader (onGw fetched s) := by
  rw [entry] at named bad
  subst named
  have refused : (decide (BitVec.ofNat 16 (fld (ringEntry s) 0 16) = 0xFFFF) || decide (fld (ringEntry s) 16 16 ≠ 0) ||
      decide (fld (ringEntry s) 224 288 ≠ 0)) = true := by simpa [or_assoc] using bad
  exact if_pos refused

theorem readMem_onGw (f : Gangway → Gangway) (s : State) (sp : Space) (a n : Nat) : readMem (onGw f s) sp a n = readMem s sp a n := rfl

/-- The request that a packet's entry and header make. -/
def requestOf (e : Nat) (head : List Byte) : Req :=
  { tag := BitVec.ofNat 16 (fld e 0 16), isSealed := fld (ofLe head) 32 2 = 1, sid := BitVec.ofNat 3 (fld (ofLe head) 40 3),
    seq := BitVec.ofNat 64 (fld (ofLe head) 128 64), raddr := BitVec.ofNat 64 (fld e 128 64), rcap := BitVec.ofNat 32 (fld e 192 32) }

/-- An entry that is well formed, and whose packet is, goes on to checks 3 to 6. -/
theorem fetchEntry_goodHead {s : State} {e : Nat} (entry : e = ringEntry s) (tag : BitVec.ofNat 16 (fld e 0 16) ≠ 0xFFFF)
    (low : fld e 16 16 = 0) (high : fld e 224 288 = 0) {head : List Byte} (read : head = readMem s 3 (fld e 64 64) 32)
    (ok : headOk head (fld e 32 32) = true) : fetchEntry true true true s =
      checkPacket (requestOf e head) head (readMem s 3 (fld e 64 64 + 32) (fld (ofLe head) 64 32 - 32)) (onGw fetched s) := by
  rw [entry] at tag low high read ok ⊢
  subst read
  simp only [ringEntry] at tag low high ok ⊢
  simp [fetchEntry, low, high, ok, requestOf, readMem_onGw]
  exact if_neg tag

/-- Opcodes 1 to 5 are of the CLEAR form, which checks 3 and 5 let through; check 6 is the reply bound's. -/
theorem checkPacket_clear {q : Req} (clear : q.isSealed = false) {head : List Byte} (least : 1 ≤ fld (ofLe head) 48 8)
    (most : fld (ofLe head) 48 8 ≤ 5) {body : List Byte}
    (room : 64 + replyBound (fld (ofLe head) 48 8) (ofLe (body.take 1)) ≤ q.rcap.toNat) (s : State) : checkPacket q head body s =
      accept { req := q, opcode := BitVec.ofNat 8 (fld (ofLe head) 48 8), params := body, formOk := true, closed := false, refused := none } s := by
  have form : clearOpcode s (fld (ofLe head) 48 8) = true := by simp [clearOpcode, least, most]
  have known : fld (ofLe head) 48 8 ∈ opcodes := by
    generalize fld (ofLe head) 48 8 = op at least most
    interval_cases op <;> decide
  have fits : ¬ q.rcap.toNat < 64 + replyBound (fld (ofLe head) 48 8) (ofLe (body.take 1)) := Nat.not_lt.mpr room
  simp [checkPacket, clear, form, acceptPacket, known, fits]

theorem submissionFetchChecksTheEntry : Claims.SubmissionFetchChecksTheEntry := by
  intro s up enabled waiting free
  have can : canFetch s = true := by simp [canFetch, up, enabled, waiting, free]
  refine ⟨fun b c => ?_, ?_⟩
  · exact exec_submissionFetch (f := fun g => { g with enable := false, err := g.err ||| 8 }) can (fetchEntry_unread b c s)
  intro e entry g gw tag named
  change e = ringEntry s at entry
  subst gw
  refine ⟨fun bad b c => ?_, fun tagged low high head read ok op opcode clear least most body rest room => ?_⟩
  · exact exec_submissionFetch (f := fun g => { fetched g with accepted := g.accepted ++
      [{ req := bareReq tag, opcode := 0, params := [], formOk := true, closed := false,
         refused := .some { tag := tag, kind := 0, status := Status.badHeader, raddr := 0, reply := [] } }] }) can
      (fetchEntry_badEntry entry named bad b c)
  · subst named opcode rest
    have unsealed : (requestOf e head).isSealed = false := by simp [requestOf, clear]
    have taken := (fetchEntry_goodHead entry tagged low high read ok).trans (checkPacket_clear unsealed least most room (onGw fetched s))
    have done := exec_submissionFetch (f := fun g => { fetched g with accepted := g.accepted ++
      [{ req := requestOf e head, opcode := BitVec.ofNat 8 (fld (ofLe head) 48 8),
         params := readMem s 3 (fld e 64 64 + 32) (fld (ofLe head) 64 32 - 32), formOk := true, closed := false, refused := none }] })
      can taken
    have request : requestOf e head = { requestOf e head with isSealed := false } := by rw [← unsealed]
    rw [request] at done
    exact done

/-! ### Completion post, R294 to R296 -/

/-- The state in which a completion is posted: refusals of checks 1 to 6 have joined the completions where their turn has come. -/
def postState (s : State) : State := if shortRuns s then s else passRefused s

/-- The turn of refusals touches the two queues of the gangway alone. -/
theorem postState_eq (s : State) : ∃ held accepted,
    postState s = { s with gw := { s.gw with held := held, accepted := accepted } } := by
  unfold postState; split <;> exact ⟨_, _, rfl⟩

theorem exec_completionPost {s : State} {c : Completion} {rest : List Completion} (held : (postState s).gw.held = c :: rest)
    (can : canPost s = true) (primary : s.pair.role ≠ .secondary) (a b : Bool) : exec (.completionPost a b) s =
      .next (settled s (postOne c a b (postState s))) := by
  have posts : execCompletionPost a b s = match (postState s).gw.held with
      | [] => .next s
      | c :: _ => if canPost s then
          done s (if s.pair.role = .secondary then postReplyOnly c a (postState s) else postOne c a b (postState s)) else .next s := rfl
  rw [exec, posts, held]
  simp only [can, primary, if_true, if_false, done_eq]

/-- The gangway once the front completion has been posted with its entry. -/
def posted (g : Gangway) : Gangway :=
  { g with
    cqTail := if g.cqTail.toNat + 1 = g.cqSize.toNat then 0 else g.cqTail + 1
    phase := if g.cqTail.toNat + 1 = g.cqSize.toNat then !g.phase else g.phase
    held := g.held.drop 1
    outstanding := g.outstanding - 1
    vec0 := if g.irqEn then g.vec0 + 1 else g.vec0 }

/-- Host memory with the reply at its address and the entry in the ring's next place. -/
def postedHost (c : Completion) (s : State) : List Host.Cell :=
  mwrite (mwrite s.mem.host c.raddr.toNat c.reply) (s.gw.cqBase.toNat + 64 * s.gw.cqTail.toNat)
    (entryHead c s.gw.phase c.status c.reply.length ++ zeros 48)

/-- A reply goes before its entry. -/
theorem postOne_writes {c : Completion} (kind : c.kind = 0) (reply : c.reply ≠ []) (s : State) : postOne c true true s =
    { s with gw := posted s.gw, mem := { s.mem with host := postedHost c s } } := by
  simp [postOne, kind, reply, writeMem, onGw, posted, postedHost]

theorem postOne_unwritten {c : Completion} (kind : c.kind = 0) (reply : c.reply ≠ []) (s : State) : postOne c true false s =
    onGw (fun g => { g with enable := false, err := g.err ||| 8 }) (writeMem 3 c.raddr.toNat c.reply s) := by
  simp [postOne, kind, reply, gwErr, onGw]

/-- A change of the gangway and of memory that leaves RUNSTATE and the sessions does not show in GW_STATUS. -/
theorem settled_registers {s t : State} {g : Gangway} {m : Mem} (made : t = { s with gw := g, mem := m })
    (runstate : g.runstate = s.gw.runstate) (sessions : g.sessions = s.gw.sessions) : settled s t = { s with gw := g, mem := m } := by
  subst made
  exact settled_eq (gwStatus_congr runstate rfl rfl rfl rfl rfl rfl rfl sessions)

theorem completionPostWritesReplyThenEntry : Claims.CompletionPostWritesReplyThenEntry := by
  intro s g c rest gw held up enabled noProt
  change g = (postState s).gw at gw
  refine ⟨fun full b d => exec_completionPost_idle (by simp [canPost, full]) b d, fun room primary kind reply => ?_⟩
  have can : canPost s = true := by simp [canPost, up, enabled, room, noProt]
  have posting (b : Bool) := exec_completionPost (gw ▸ held) can primary true b
  obtain ⟨queue, accepted, post⟩ := postState_eq s
  rw [post] at gw
  subst gw
  obtain rfl : queue = c :: rest := held
  have written : exec (.completionPost true true) s = .next
      { s with gw := posted { s.gw with held := c :: rest, accepted := accepted }, mem := { s.mem with host := postedHost c s } } := by
    rw [posting true, post]
    exact congrArg _ (settled_registers (postOne_writes kind reply _) rfl rfl)
  have unwritten : exec (.completionPost true false) s = .next
      { s with gw := { s.gw with held := c :: rest, accepted := accepted, enable := false, err := s.gw.err ||| 8 },
               mem := (writeMem 3 c.raddr.toNat c.reply s).mem } := by
    rw [posting false, post]
    exact congrArg _ (settled_registers (postOne_unwritten kind reply _) rfl rfl)
  exact ⟨⟨_, written, by simp only [postedHost], rfl, by dsimp only⟩, ⟨_, unwritten, rfl⟩⟩

/-- Settles O4, clause by clause. -/
theorem ringsFetchAndPost : Obligations.RingsFetchAndPost := ⟨submissionFetchChecksTheEntry, completionPostWritesReplyThenEntry⟩

end Sys2Proof.Machine

/-! ## O7: OWNER_PRESENT_N closes no session of an enrolled module

The statement has the pin's rise close every provisional session in every lifecycle state. By R322 the pin has no effect in ENROLLED and
RETIRED, and ENROL makes only its own session ordinary, so a second provisional session outlives the rise. -/

namespace Sys2Proof.Machine

/-- R322: in ENROLLED and RETIRED the pin's rise is the pin's alone. -/
theorem ownerRise_of_owned {s : State} (owned : s.trust.lifecycle = .enrolled ∨ s.trust.lifecycle = .retired) :
    ownerRise s = onPins (fun p => { p with ownerPresentN := true }) s := by
  have kept : (s.trust.lifecycle = .enrolled || s.trust.lifecycle = .retired) = true := by simpa using owned
  exact if_pos kept

/-- A provisional session, number 2, as it stands open where session 1 has enrolled the module. -/
def leftProvisional : Session := { sid := 2, provisional := true, owner := 0, seq := 0, nseq := 0, h2d := 0, d2h := 0 }

/-- An enrolled module with OWNER_PRESENT_N low and that session still open. -/
def enrolledBeside : State :=
  { State.reset with
    pins := { State.reset.pins with ownerPresentN := false }
    trust := { State.reset.trust with lifecycle := .enrolled }
    gw := { State.reset.gw with sessions := [leftProvisional] } }

/-- The session is still open after the rise. -/
theorem enrolledBeside_rise :
    exec .ownerPresentRise enrolledBeside = .next (onPins (fun p => { p with ownerPresentN := true }) enrolledBeside) := by
  have effect : ownerRise enrolledBeside = onPins (fun p => { p with ownerPresentN := true }) enrolledBeside :=
    ownerRise_of_owned (.inl rfl)
  have rises : event (!enrolledBeside.pins.ownerPresentN) ownerRise enrolledBeside = .next (ownerRise enrolledBeside) :=
    event_quiet rfl (by rw [effect]; exact gwStatus_congr rfl rfl rfl rfl rfl rfl rfl rfl rfl)
  exact rises.trans (congrArg _ effect)

/-- Refutes O7: with the module ENROLLED and a second provisional session open, OWNER_PRESENT_N rises and the session stays open
(R322), where the statement's last clause has it closed. -/
theorem not_provisionalSessionsOnlyEnrol : ¬ Obligations.ProvisionalSessionsOnlyEnrol := by
  rintro ⟨-, -, -, rise⟩
  obtain ⟨t, run, -, closed, -⟩ := rise enrolledBeside rfl (List.pairwise_singleton _ _)
  obtain rfl : onPins (fun p => { p with ownerPresentN := true }) enrolledBeside = t := by
    simpa only [Host.Outcome.next.injEq] using enrolledBeside_rise.symm.trans run
  have stays : [leftProvisional] = [] := closed
  exact absurd stays (List.cons_ne_nil _ _)

end Sys2Proof.Machine

/-! ## O6: CLOSE_SESSION closes the session it names

`endSession` is DEBUG-OPEN's end, where that session opened it (`endSessionDebug_opener`, `endSessionDebug_other`), and the session's own
(`closeSession`). -/

namespace Sys2Proof.Machine

/-- The check of a command's start touches the two queues of the gangway and the count of commands alone. -/
theorem start_gw (q : Req) (s : State) : (start q s).gw =
    { s.gw with held := (start q s).gw.held, accepted := (start q s).gw.accepted, outstanding := (start q s).gw.outstanding } := by
  simp only [start]; split <;> rfl

@[simp] theorem start_lowering (q : Req) (s : State) : (start q s).gw.lowering = s.gw.lowering := by rw [start_gw]

@[simp] theorem settled_lowering (s t : State) : (settled s t).gw.lowering = t.gw.lowering := by rw [settled_gw]

theorem Recorder.takeLost_markWait (l : Recorder) : l.takeLost.markWait = l.markWait := by
  unfold Recorder.takeLost; split <;> rfl

/-- A record that enters the queue moves no LOG_MARK that waits. -/
theorem Recorder.push_markWait (l : Recorder) (r : Rec) : (l.push r).markWait = l.markWait := by
  have taken := l.takeLost_markWait
  unfold Recorder.push
  split
  · split <;> rfl
  · dsimp only; split <;> exact taken

/-- The other half of a pair hears of DEBUG-OPEN's end from the primary. -/
def tellDebugClose (s : State) : State := if s.pair.role = .primary then sendLash (.forward (.debugClose 2)) s else s

theorem sendLash_eq (b : Body) (s : State) : sendLash b s = { s with fab := (sendLash b s).fab } := by
  rcases sendLash_cases b s with same | sent
  · rw [same]
  · rw [sent]; rfl

theorem tellDebugClose_eq (s : State) : tellDebugClose s = { s with fab := (tellDebugClose s).fab } := by
  unfold tellDebugClose
  split
  · exact sendLash_eq _ s
  · rfl

theorem endSessionDebug_opener {s : State} {sid : BitVec 3} {e : BitVec 32} (opened : s.trust.debug = some (e, sid)) :
    endSessionDebug sid s = { s with
      trust := { s.trust with debug := none, debugWait := none }
      log := s.log.push (s.log.stamp Code.debugClose 0 [2])
      fab := (tellDebugClose s).fab } := by
  have ended : endSessionDebug sid s = endDebug 2 (tellDebugClose s) := by simp [endSessionDebug, opened, tellDebugClose]
  rw [ended, tellDebugClose_eq]
  simp [endDebug, opened, record]

theorem endSessionDebug_other {s : State} {sid : BitVec 3} (noWait : s.trust.debugWait = none)
    (other : ∀ e, s.trust.debug ≠ some (e, sid)) : endSessionDebug sid s = s := by
  unfold endSessionDebug
  split
  next e d opened =>
    have differs : d ≠ sid := by rintro rfl; exact other e opened
    rw [if_neg differs]
  next waiting => simp [noWait] at waiting
  next => rfl

theorem closeSession_sessions (sid : BitVec 3) (s : State) :
    (closeSession sid s).gw.sessions = s.gw.sessions.filter (fun x => x.sid != sid) := rfl

theorem closeSession_held (sid : BitVec 3) (s : State) : (closeSession sid s).gw.held = s.gw.held.map (Completion.orphan sid) := rfl

theorem closeSession_lowering (sid : BitVec 3) (s : State) :
    (closeSession sid s).gw.lowering = s.gw.lowering.map (fun j => { j with req := orphanReq sid j.req }) := rfl

theorem closeSession_seq (sid : BitVec 3) (s : State) : (closeSession sid s).seq =
    { s.seq with run := s.seq.run.map (fun r => { r with req := orphanReq sid r.req }) } := rfl

/-- Where no DEBUG_OPEN and no LOG_MARK waits, a session's close leaves the trust block and the log as they are. -/
theorem closeSession_with (sid : BitVec 3) (s : State) {trust : Trust} {log : Recorder} (fab : Fabric) (noWait : trust.debugWait = none)
    (noMark : log.markWait = []) : closeSession sid { s with trust := trust, log := log, fab := fab } =
      { closeSession sid s with trust := trust, log := log, fab := fab } := by
  cases trust; cases log; subst noWait noMark; rfl

/-- Where the session opened DEBUG-OPEN, that ends with record DEBUG_CLOSE beside the session. -/
theorem endSession_opener {s : State} {sid : BitVec 3} {e : BitVec 32} (noMark : s.log.markWait = [])
    (opened : s.trust.debug = some (e, sid)) : endSession sid s = { closeSession sid s with
      trust := { s.trust with debug := none, debugWait := none }
      log := s.log.push (s.log.stamp Code.debugClose 0 [2])
      fab := (tellDebugClose s).fab } := by
  have kept : (s.log.push (s.log.stamp Code.debugClose 0 [2])).markWait = [] := by rw [Recorder.push_markWait, noMark]
  rw [endSession, endSessionDebug_opener opened, closeSession_with sid s _ rfl kept]

theorem endSession_other {s : State} {sid : BitVec 3} (noWait : s.trust.debugWait = none) (noMark : s.log.markWait = [])
    (other : ∀ e, s.trust.debug ≠ some (e, sid)) : endSession sid s = { closeSession sid s with trust := s.trust, log := s.log } := by
  rw [endSession, endSessionDebug_other noWait other]
  exact closeSession_with sid s s.fab noWait noMark

/-- The reply is the command's own completion, at the end of the queue. -/
theorem reply_start (q : Req) (op : Nat) (payload : List Byte) (s : State) :
    reply q op payload (start q s) = answered q (BitVec.ofNat 8 op) Status.ok 0 payload s := by
  rw [reply, complete, completeAs, completionOf_start]; rfl

theorem closeSessionClosesOneSession : Claims.CloseSessionClosesOneSession := by
  intro s q sid target starts small named opened noWait noMark
  have run : exec (.closeSession q sid) s = .next (settled s (endSession target (answered q 0x06 Status.ok 0 [] s))) := by
    have number : (if sid = 0 then q.sid else BitVec.ofNat 3 sid.toNat) = target := by rw [named, BitVec.ofNat_toNat]
    have valid : (decide (sid.toNat ≤ 4) && (session? (start q s) target).isSome) = true := by
      simp [small, Option.isSome_iff_ne_none, opened]
    refine (command_starts starts _).trans (congrArg _ (congrArg _ ?_))
    rw [closeNow, number, checkField_true _ _ _ _ _ valid, reply_start]
    rfl
  refine ⟨_, run, ?_⟩
  by_cases opener : ∃ e, s.trust.debug = some (e, target)
  · obtain ⟨e, opener⟩ := opener
    rw [endSession_opener (e := e) (by simp [answered, noMark]) (by simp [answered, opener])]
    simp +contextual [closeSession_sessions, closeSession_held, closeSession_lowering, closeSession_seq, answered, opener,
      tellDebugClose]
  · have other : ∀ e, s.trust.debug ≠ some (e, target) := fun e h => opener ⟨e, h⟩
    rw [endSession_other (by simp [answered, noWait]) (by simp [answered, noMark]) (by simpa [answered] using other)]
    simp [closeSession_sessions, closeSession_held, closeSession_lowering, closeSession_seq, answered, other]

/-- Settles O6: the close is DEBUG-OPEN's end, where that session opened it, and the session's own. -/
theorem sessionsCloseByName : Obligations.SessionsCloseByName := closeSessionClosesOneSession

end Sys2Proof.Machine

/-! ## O17: PERST_N resets the endpoint, then the module as FULL_STRAP says

The endpoint's reset and a warm reset to come are the gangway's and the pins' alone, so GW_STATUS stands (`exec_perstNFall_registers`). A
cold reset is `volatileLoss` followed by `coldStart`, of which the second writes records and chooses an image. -/

namespace Sys2Proof.Machine

/-- A fall that changes the pins and the gangway, with RUNSTATE and the sessions as they were. -/
theorem exec_perstNFall_registers {s : State} {strap : Bool} {g : Gangway} (high : s.pins.perstN = true)
    (effect : perstNFall strap s = { s with pins := { s.pins with perstN := false, fullStrap := strap }, gw := g })
    (runstate : g.runstate = s.gw.runstate) (sessions : g.sessions = s.gw.sessions) : exec (.perstNFall strap) s =
      .next { s with pins := { s.pins with perstN := false, fullStrap := strap }, gw := g } := by
  have quiet : gwStatus (perstNFall strap s) = gwStatus s := by
    rw [effect]; exact gwStatus_congr runstate rfl rfl rfl rfl rfl rfl rfl sessions
  exact (event_quiet high quiet).trans (congrArg _ effect)

theorem perstNFall_unpowered {s : State} (off : s.power.rails = false) (strap : Bool) :
    perstNFall strap s = resetEndpoint (onPins (fun p => { p with perstN := false, fullStrap := strap }) s) := if_pos (by simp [onPins, off])

theorem perstNFall_full {s : State} (on : s.power.rails = true) : perstNFall true s =
    bringUpAll (coldReset (resetEndpoint (onPins (fun p => { p with perstN := false, fullStrap := true }) s))) := by
  simp [perstNFall, onPins, on]

/-- A warm reset follows once the module is in service. -/
theorem perstNFall_service {s : State} (on : s.power.rails = true) (service : s.power.startup = 6) : perstNFall false s =
    onGw (fun g => { g with warmPending := true, held := [] })
      (resetEndpoint (onPins (fun p => { p with perstN := false, fullStrap := false }) s)) := by
  simp [perstNFall, onPins, onGw, resetEndpoint, on, service]

/-- Before that the endpoint alone is reset. -/
theorem perstNFall_starting {s : State} (on : s.power.rails = true) (starting : s.power.startup ≠ 6) : perstNFall false s =
    onGw (fun g => { g with held := [], accepted := [], outstanding := 0 })
      (resetEndpoint (onPins (fun p => { p with perstN := false, fullStrap := false }) s)) := by
  simp [perstNFall, onPins, onGw, resetEndpoint, on, starting]

/-! ### What a cold reset keeps, Table 17-3 -/

theorem Recorder.takeLost_ring (l : Recorder) : l.takeLost.ring = l.ring := by
  unfold Recorder.takeLost; split <;> rfl

/-- A record enters the queue, not yet the ring. -/
theorem Recorder.push_ring (l : Recorder) (r : Rec) : (l.push r).ring = l.ring := by
  have taken := l.takeLost_ring
  unfold Recorder.push
  split
  · split <;> rfl
  · dsimp only; split <;> exact taken

theorem ring_endDebug (cause : Nat) (s : State) : (endDebug cause s).log.ring = s.log.ring := by
  unfold endDebug; split
  · rfl
  · exact Recorder.push_ring _ _

theorem ring_voidReshard (s : State) : (voidReshard s).log.ring = s.log.ring := by
  unfold voidReshard; split
  · rfl
  · exact Recorder.push_ring _ _

theorem ring_bootImage (s : State) : (bootImage s).log.ring = s.log.ring := by
  unfold bootImage; split
  · rfl
  · exact Recorder.push_ring _ _

theorem lifecycle_endDebug (cause : Nat) (s : State) : (endDebug cause s).trust.lifecycle = s.trust.lifecycle := by
  unfold endDebug; split <;> rfl

theorem lifecycle_bootImage (s : State) : (bootImage s).trust.lifecycle = s.trust.lifecycle := by
  unfold bootImage; split <;> rfl

/-- Tiers, keys, slots, sessions and job are lost; the binding and the ring of records are kept. -/
structure ColdReset (s t : State) : Prop where
  mem : t.mem = { Mem.reset with host := s.mem.host, era := s.mem.era + 1 }
  seq : t.seq = Seq.reset
  job : t.job = Job.none
  gw : t.gw = { Gangway.reset with vec0 := s.gw.vec0, vec1 := s.gw.vec1, smb := s.gw.smb }
  startup : t.power.startup = 2
  rails : t.power.rails = s.power.rails
  ownerKey : t.trust.ownerKey = s.trust.ownerKey
  lifecycle : t.trust.lifecycle = s.trust.lifecycle
  ring : t.log.ring = s.log.ring

theorem coldReset_coldReset (s : State) : ColdReset s (coldReset s) where
  mem := by simp [coldReset, coldStart, volatileLoss]
  seq := by simp [coldReset, coldStart, volatileLoss]
  job := by simp [coldReset, coldStart, volatileLoss]
  gw := by simp [coldReset, coldStart, volatileLoss]
  startup := rfl
  rails := by simp [coldReset, coldStart, volatileLoss]
  ownerKey := by simp [coldReset, coldStart, volatileLoss, ownerKey_bootImage, ownerKey_endDebug]
  lifecycle := by simp [coldReset, coldStart, volatileLoss, lifecycle_bootImage, lifecycle_endDebug]
  ring := by simp [coldReset, coldStart, volatileLoss, ring_bootImage, ring_voidReshard, ring_endDebug]

/-- Settles O17, case by case of FULL_STRAP, MAIN and the start-up step. -/
theorem perstResetsByTheFullStrap : Obligations.PerstResetsByTheFullStrap := by
  intro s high g gw
  subst gw
  refine ⟨fun strap off => ?_, fun on service => ?_, fun on starting => ?_, fun on => ?_⟩
  · exact exec_perstNFall_registers high (perstNFall_unpowered off strap) rfl rfl
  · exact exec_perstNFall_registers high (perstNFall_service on service) rfl rfl
  · exact exec_perstNFall_registers high (perstNFall_starting on starting) rfl rfl
  · have cold := coldReset_coldReset (resetEndpoint (onPins (fun p => { p with perstN := false, fullStrap := true }) s))
    obtain ⟨fab, brought, -⟩ := bringUpAll_eq (coldReset (resetEndpoint (onPins (fun p => { p with perstN := false, fullStrap := true }) s)))
    refine ⟨_, event_holds high (perstNFall true) s, ?_⟩
    rw [perstNFall_full on, brought]
    simp only [settled_mem, settled_seq, settled_job, settled_sessions, settled_held, settled_runstate, settled_power, settled_trust,
      settled_log, cold.mem, cold.seq, cold.job, cold.gw, cold.startup, cold.rails, cold.ownerKey, cold.lifecycle, cold.ring]
    exact ⟨rfl, rfl, trivial, trivial, rfl, rfl, rfl, trivial, on, rfl, rfl, rfl⟩

end Sys2Proof.Machine

/-! ## O54: images are staged beside the running one, and activated or reverted

Table 14-9's two areas are told apart by the one that runs: `setOtherImage` writes the other (`otherImage_setOtherImage`,
`runningImage_setOtherImage`). Each claim below is a lemma about one instruction. -/

namespace Sys2Proof.Machine

/-! ### The two areas -/

/-- The trust block with the area that does not run written. -/
def withOther (i : Image) (t : Trust) : Trust := if t.running then { t with imageA := i } else { t with imageB := i }

theorem setOtherImage_eq (i : Image) (s : State) : setOtherImage i s = { s with trust := withOther i s.trust } := by
  unfold setOtherImage withOther; split <;> rfl

theorem withOther_running (i : Image) (t : Trust) : (withOther i t).running = t.running := by unfold withOther; split <;> rfl

theorem withOther_rollback (i : Image) (t : Trust) : (withOther i t).rollback = t.rollback := by unfold withOther; split <;> rfl

theorem withOther_imageStaged (i : Image) (t : Trust) : (withOther i t).imageStaged = t.imageStaged := by
  unfold withOther; split <;> rfl

theorem otherImage_withOther {t : State} {i : Image} {tr : Trust} (trust : t.trust = withOther i tr) : otherImage t = i := by
  rw [otherImage, trust, withOther_running]
  unfold withOther; split <;> simp_all

theorem runningImage_withOther {s t : State} {i : Image} {tr : Trust} (trust : t.trust = withOther i tr)
    (running : tr.running = s.trust.running) (a : tr.imageA = s.trust.imageA) (b : tr.imageB = s.trust.imageB) :
    runningImage t = runningImage s := by
  rw [runningImage, runningImage, trust, withOther_running, running]
  unfold withOther; split <;> simp_all

@[simp] theorem settled_image (s t : State) : (settled s t).gw.image = t.gw.image := by rw [settled_gw]

@[simp] theorem settled_holdFlag (s t : State) : (settled s t).gw.hold = t.gw.hold := by rw [settled_gw]

/-! ### IMAGE_STAGE, R341 -/

theorem exec_imageStage {s : State} {q : Req} {window : BitVec 32} {offset length : BitVec 64} (alone : inPair s = false)
    (starts : Starts 0x50 0 q (maintNone s && s.gw.image.isNone) s) (small : window.toNat ≤ 255)
    (held : windowHolds s window.toNat offset.toNat length.toNat = true) : exec (.imageStage q window offset length) s =
      .next (settled s (startStage q (some (BitVec.ofNat 8 window.toNat))
        (readMem s 3 (windowAddr s window.toNat offset.toNat) length.toNat) (start q s))) := by
  have holds : windowHolds (start q s) window.toNat offset.toNat length.toNat = true := by simpa [windowHolds] using held
  have place : windowAddr (start q s) window.toNat offset.toNat = windowAddr s window.toNat offset.toNat := by simp [windowAddr]
  have bytes (a n : Nat) : readMem (start q s) 3 a n = readMem s 3 a n := by simp [readMem]
  have alone' : inPair (start q s) = false := by simpa [inPair] using alone
  refine (command_starts starts _).trans (congrArg _ (congrArg _ ?_))
  rw [imageStage, checkField_true _ _ _ _ _ (by simp [small, holds]), place, bytes]
  exact congrArg (startStage q (some (BitVec.ofNat 8 window.toNat)) _) (sendLash_alone _ _ alone')

/-- The area that does not run is written from the start of the stage on. -/
theorem startStage_eq (q : Req) (window : Option (BitVec 8)) (b : List Byte) (s : State) : startStage q window b s =
    { s with trust := withOther Image.invalid { s.trust with unconfirmed := none }
             gw := { s.gw with image := some { req := q, activate := false, image := b, window := window, started := true } } } := by
  rw [startStage, setOtherImage_eq]; rfl

/-! ### The end of a stage -/

theorem exec_imageStageComplete {s : State} {j : ImageJob} (image : s.gw.image = some j) (stages : j.activate = false) :
    exec .imageStageComplete s = .next (settled s (stageComplete j s)) := by
  rw [exec, execImageStageComplete, image]
  exact event_holds (by simp [stages]) _ _

theorem finish_own {q : Req} (own : q ≠ farReq) (op : BitVec 8) (status : BitVec 16) (payload : List Byte) (s : State) :
    finish q op status payload s = completeAs q op status 0 payload s := if_neg own

theorem stageComplete_rejects {s : State} {j : ImageJob} {st : BitVec 16} (fault : imgFault s j.image = some st) (own : j.req ≠ farReq) :
    stageComplete j s = completeAs j.req 0x50 st 0 [] (record Code.imageReject [] { s with gw := { s.gw with image := none } }) := by
  have fault' : imgFault (onImage none s) j.image = some st := fault
  simp only [stageComplete, fault', finish_own own]
  rfl

/-- The image is staged, and is not yet confirmed. -/
def stagedTrust (b : List Byte) (t : Trust) : Trust :=
  withOther (imgOf b) { t with imageStaged := true, unconfirmed := some !t.running }

theorem stageComplete_passes {s : State} {j : ImageJob} (passes : imgFault s j.image = none) (own : j.req ≠ farReq)
    (alone : s.pair.role = .solo) : ∃ payload, stageComplete j s =
      completeAs j.req 0x50 Status.ok 0 payload { s with gw := { s.gw with image := none }, trust := stagedTrust j.image s.trust } := by
  have passes' : imgFault (onImage none s) j.image = none := passes
  have single : s.pair.role ≠ .secondary := by simp [alone]
  refine ⟨wordBytes (imgOf j.image).version ++ wordBytes (imgOf j.image).digest ++
    [BitVec.ofNat 8 (maintCode { s with gw := { s.gw with image := none }, trust := stagedTrust j.image s.trust })], ?_⟩
  simp only [stageComplete, passes', finish_own own, setOtherImage_eq]
  rw [if_neg (by exact single)]
  rfl

theorem imageStaged {s : State} (solo : s.pair.role = .solo) {j : ImageJob} (image : s.gw.image = some j) (stages : j.activate = false)
    (own : j.req ≠ farReq) :
    (∀ st, imgFault s j.image = some st → ∃ t, exec .imageStageComplete s = .next t ∧ t.gw.image = none ∧ t.trust = s.trust ∧
      t.gw.held = s.gw.held ++ [completionOf s j.req 0x50 st 0 []] ∧ t.log = s.log.push (s.log.stamp Code.imageReject 0 [])) ∧
    (imgFault s j.image = none → ∃ t, exec .imageStageComplete s = .next t ∧ t.gw.image = none ∧ t.trust.imageStaged = true ∧
      otherImage t = imgOf j.image ∧ runningImage t = runningImage s ∧ t.trust.running = s.trust.running ∧
      t.trust.rollback = s.trust.rollback ∧ t.log = s.log ∧ t.seq = s.seq ∧ t.gw.held.length = s.gw.held.length + 1) := by
  have run := exec_imageStageComplete image stages
  refine ⟨fun st fault => ⟨_, run, ?_⟩, fun passes => ⟨_, run, ?_⟩⟩
  · rw [stageComplete_rejects fault own]
    refine ⟨by simp, by simp, ?_, by simp⟩
    rw [settled_held, completeAs_gw, completionOf_congr (s := s) rfl]
    rfl
  · obtain ⟨payload, passed⟩ := stageComplete_passes passes own solo
    rw [passed]
    refine ⟨by simp, ?_, otherImage_withOther (settled_trust _ _), runningImage_withOther (settled_trust _ _) rfl rfl rfl, ?_, ?_, by simp,
      by simp, by simp⟩
    · exact (congrArg _ (settled_trust _ _)).trans (withOther_imageStaged _ _)
    · exact (congrArg _ (settled_trust _ _)).trans (withOther_running _ _)
    · exact (congrArg _ (settled_trust _ _)).trans (withOther_rollback _ _)

/-! ### IMAGE_ACTIVATE, R343, R318 -/

/-- The job of an activation. -/
def activation (q : Req) (started : Bool) : ImageJob := { req := q, activate := true, image := [], window := none, started := started }

theorem exec_imageActivate {s : State} {q : Req} (alone : inPair s = false)
    (starts : Starts 0x51 0 q (s.trust.imageStaged && s.gw.image.isNone && s.gw.seals.isNone && stagedAlike s) s) :
    exec (.imageActivate q) s = .next (settled s (startActivate q (start q s))) := by
  have told : sendLash (.forward .imageActivate) (start q s) = start q s := sendLash_alone _ _ (by simpa [inPair] using alone)
  have run : exec (.imageActivate q) s = .next (settled s (startActivate q (sendLash (.forward .imageActivate) (start q s)))) :=
    command_starts starts fun s => startActivate q (sendLash (.forward .imageActivate) s)
  rw [run, told]

theorem startActivate_idle {s : State} (idle : s.seq.run = none) (q : Req) : startActivate q s = beginActivate (activation q false) s := by
  simp [startActivate, idle, activation]

theorem startActivate_running {s : State} {r : ActiveRun} (run : s.seq.run = some r) (awake : r.asleep = false) (q : Req) :
    startActivate q s = onGw (fun g => { g with image := some (activation q false) }) s := by
  simp [startActivate, run, awake, activation]

/-- Neither form writes a completion or touches the sequencer. -/
theorem startActivate_keeps (q : Req) (s : State) : (startActivate q s).gw.held = s.gw.held ∧ (startActivate q s).seq = s.seq := by
  unfold startActivate; split <;> exact ⟨rfl, rfl⟩

/-- A command that starts does so outside a hold of R318. -/
theorem Starts.noHold {op page : Nat} {q : Req} {own : Bool} {s : State} (starts : Starts op page q own s) : s.gw.hold = false := by
  obtain ⟨free, -, -⟩ := starts
  simp only [waits, Bool.or_eq_false_iff] at free
  obtain ⟨⟨⟨⟨noHold, -⟩, -⟩, -⟩, -⟩ := free
  exact noHold

theorem imageActivated {s : State} {q : Req} (alone : inPair s = false)
    (starts : Starts 0x51 0 q (s.trust.imageStaged && s.gw.image.isNone && s.gw.seals.isNone && stagedAlike s) s) :
    ∃ t, exec (.imageActivate q) s = .next t ∧ t.gw.held = (start q s).gw.held ∧ t.seq = s.seq ∧
      (s.seq.run = none → t.trust = { s.trust with flagged := !s.trust.running } ∧ t.gw.hold = true ∧
        ∃ j, t.gw.image = some j ∧ j.activate = true ∧ j.started = true) ∧
      (∀ r, s.seq.run = some r → r.asleep = false → t.trust = s.trust ∧ t.gw.hold = false ∧
        ∃ j, t.gw.image = some j ∧ j.activate = true ∧ j.started = false) := by
  obtain ⟨held, seq⟩ := startActivate_keeps q (start q s)
  have noHold : (start q s).gw.hold = false := by rw [start_gw]; exact Starts.noHold starts
  refine ⟨_, exec_imageActivate alone starts, by simp [held], by simp [seq], fun idle => ?_, fun r run awake => ?_⟩
  · rw [startActivate_idle (by simp [idle])]
    exact ⟨by simp [beginActivate], by simp [beginActivate], activation q true, by simp [beginActivate, activation], rfl, rfl⟩
  · rw [startActivate_running (by simp [run]) awake]
    exact ⟨by simp, by simp [noHold], activation q false, by simp, rfl, rfl⟩

/-! ### The start check, R343 -/

theorem exec_firmwareStartCheck {s : State} {j : ImageJob} (image : s.gw.image = some j) (activates : j.activate = true)
    (started : j.started = true) (takes : policyTakes s (otherImage s).header = true) (ok : Bool) :
    exec (.firmwareStartCheck ok) s = .next (settled s (if ok then activated j.req s else reverted j.req s)) := by
  rw [exec, execFirmwareStartCheck, image]
  refine (event_holds (by simp [activates, started]) _ _).trans ?_
  simp only [firmwareStartCheck, takes, Bool.not_true, Bool.false_eq_true, if_false]

theorem runningImage_flipped {s t : State} (running : t.trust.running = !s.trust.running) (a : t.trust.imageA = s.trust.imageA)
    (b : t.trust.imageB = s.trust.imageB) : runningImage t = otherImage s := by
  rw [runningImage, otherImage, running, a, b]
  cases s.trust.running <;> rfl

/-- An activation is over: the hold ends and no image is staged. -/
def activationOver (trust : Trust) (s : State) : State :=
  { s with gw := { s.gw with image := none, hold := false }, trust := { trust with imageStaged := false }
           pair := { s.pair with peerImage := none } }

/-- The trust block once the other image runs and is confirmed. -/
def confirmedTrust (s : State) : Trust :=
  { s.trust with
    running := !s.trust.running, flagged := !s.trust.running, unconfirmed := none
    rollback := if s.trust.rollback.toNat < (otherImage s).level.toNat then (otherImage s).level else s.trust.rollback }

theorem activated_eq {q : Req} (own : q ≠ farReq) (s : State) : activated q s = completeAs q 0x51 Status.ok 0
    (wordBytes (otherImage s).version) (record Code.imageActivated [] (activationOver (confirmedTrust s) s)) := by
  have level : runningImage (endActivate { s with trust := { s.trust with running := !s.trust.running } }) = otherImage s :=
    runningImage_flipped rfl rfl rfl
  have confirmed : confirm (endActivate { s with trust := { s.trust with running := !s.trust.running } }) =
      record Code.imageActivated [] (activationOver (confirmedTrust s) s) := by
    rw [confirm, level]; rfl
  have version : runningImage (record Code.imageActivated [] (activationOver (confirmedTrust s) s)) = otherImage s :=
    runningImage_flipped rfl rfl rfl
  simp only [activated, finish_own own, confirmed, version]

theorem reverted_eq {q : Req} (own : q ≠ farReq) (s : State) : reverted q s = completeAs q 0x51 Status.badImage 0 []
    (record Code.imageRevert [] (activationOver { s.trust with flagged := s.trust.running } s)) := by
  rw [reverted, finish_own own]; rfl

/-- The completion of an activation goes behind those that wait. -/
theorem held_activationOver (s : State) (trust : Trust) (c : RecCode) (q : Req) (st : BitVec 16) (payload : List Byte) :
    (completeAs q 0x51 st 0 payload (record c [] (activationOver trust s))).gw.held =
      s.gw.held ++ [completionOf s q 0x51 st 0 payload] := by
  rw [completeAs_gw, completionOf_congr (s := s) rfl]; rfl

theorem newImageConfirmed {s : State} {j : ImageJob} (image : s.gw.image = some j) (activates : j.activate = true)
    (started : j.started = true) (own : j.req ≠ farReq) (takes : policyTakes s (otherImage s).header = true) :
    ∃ t, exec (.firmwareStartCheck true) s = .next t ∧ t.trust.running = !s.trust.running ∧ runningImage t = otherImage s ∧
      t.trust.flagged = t.trust.running ∧ t.trust.imageStaged = false ∧ t.trust.unconfirmed = none ∧
      t.trust.rollback = (if s.trust.rollback.toNat < (otherImage s).level.toNat then (otherImage s).level else s.trust.rollback) ∧
      t.gw.hold = false ∧ t.gw.image = none ∧ t.log = s.log.push (s.log.stamp Code.imageActivated 0 []) ∧
      t.gw.held = s.gw.held ++ [completionOf s j.req 0x51 Status.ok 0 (wordBytes (otherImage s).version)] := by
  refine ⟨_, exec_firmwareStartCheck image activates started takes true, ?_⟩
  rw [if_pos rfl, activated_eq own]
  refine ⟨by simp [activationOver, confirmedTrust], runningImage_flipped ?_ ?_ ?_, by simp [activationOver, confirmedTrust],
    by simp [activationOver], by simp [activationOver, confirmedTrust], by simp [activationOver, confirmedTrust],
    by simp [activationOver], by simp [activationOver], by simp [activationOver], ?_⟩
  · simp [activationOver, confirmedTrust]
  · simp [activationOver, confirmedTrust]
  · simp [activationOver, confirmedTrust]
  · rw [settled_held, held_activationOver]

theorem earlierImageRunsAgain {s : State} {j : ImageJob} (image : s.gw.image = some j) (activates : j.activate = true)
    (started : j.started = true) (own : j.req ≠ farReq) (takes : policyTakes s (otherImage s).header = true) :
    ∃ t, exec (.firmwareStartCheck false) s = .next t ∧ t.trust.running = s.trust.running ∧ runningImage t = runningImage s ∧
      t.trust.rollback = s.trust.rollback ∧ t.trust.imageStaged = false ∧ t.gw.hold = false ∧ t.gw.image = none ∧
      t.log = s.log.push (s.log.stamp Code.imageRevert 0 []) ∧
      t.gw.held = s.gw.held ++ [completionOf s j.req 0x51 Status.badImage 0 []] := by
  refine ⟨_, exec_firmwareStartCheck image activates started takes false, ?_⟩
  rw [if_neg Bool.false_ne_true, reverted_eq own]
  refine ⟨by simp [activationOver], by simp [runningImage, activationOver], by simp [activationOver], by simp [activationOver],
    by simp [activationOver], by simp [activationOver], ?_, ?_⟩
  · rw [settled_log]; rfl
  · rw [settled_held, held_activationOver]

/-! ### Without a staging or an activation -/

theorem startChecksWithoutJob {s : State} (idle : s.gw.image = none) : exec .imageStageComplete s = .next s ∧
    (s.trust.unconfirmed ≠ some s.trust.running → ∀ ok, exec (.firmwareStartCheck ok) s = .next s) ∧
    (s.trust.unconfirmed = some s.trust.running →
      ∃ t, exec (.firmwareStartCheck true) s = .next t ∧ t.trust.unconfirmed = none ∧ t.trust.running = s.trust.running ∧
        t.log = s.log.push (s.log.stamp Code.imageActivated 0 [])) := by
  have check (ok : Bool) : exec (.firmwareStartCheck ok) s =
      event (decide (s.trust.unconfirmed = some s.trust.running)) (bootCheck ok) s := by
    rw [exec, execFirmwareStartCheck, idle]
  refine ⟨by rw [exec, execImageStageComplete, idle], fun confirmed ok => ?_, fun unconfirmed => ?_⟩
  · rw [check, event_waits (by simp [confirmed])]
  · refine ⟨_, (check true).trans (event_holds (by simp [unconfirmed]) _ _), ?_⟩
    simp [bootCheck, confirm]

/-- Settles O54, instruction by instruction. -/
theorem imagesAreStagedAndActivated : Obligations.ImagesAreStagedAndActivated := by
  intro s solo
  have alone := alone_of_solo solo
  refine ⟨fun q window offset length starts small holds => ?_, fun j image stages own => imageStaged solo image stages own,
    fun q starts => imageActivated alone starts, fun j image activates started own takes =>
      ⟨newImageConfirmed image activates started own takes, earlierImageRunsAgain image activates started own takes⟩,
    startChecksWithoutJob⟩
  have run := exec_imageStage alone starts small holds
  rw [startStage_eq] at run
  refine ⟨_, _, run, settled_image _ _, rfl, rfl, rfl, runningImage_withOther (settled_trust _ _) (by simp) (by simp) (by simp),
    otherImage_withOther (settled_trust _ _), ?_, by simp, by simp, by simp, by simp⟩
  exact (congrArg _ (settled_trust _ _)).trans ((withOther_running _ _).trans (by simp))

end Sys2Proof.Machine

/-! ## O20: sleep and wake

A POWER command that starts goes to `powerTo` with BOOST_EN set (`exec_power`), which is one effect for each target and power state. -/

namespace Sys2Proof.Machine

@[simp] theorem settled_powerCmd (s t : State) : (settled s t).gw.powerCmd = t.gw.powerCmd := by rw [settled_gw]

/-- BOOST_EN as the command sets it. -/
def withBoost (boost : BitVec 8) (s : State) : State := onPower (fun p => { p with boostEn := decide (boost = 1) }) s

theorem powerCommand_alone {s : State} {target boost : BitVec 8} (alone : inPair s = false) (known : target.toNat ≤ 2)
    (flag : boost.toNat ≤ 1) (q : Req) : powerCommand q target boost s = powerTo q target.toNat (withBoost boost s) := by
  rw [powerCommand, if_neg (Nat.not_lt.mpr known), if_neg (Nat.not_lt.mpr flag), tellPower, sendLash_alone _ _ alone]
  rfl

theorem exec_power {s : State} {q : Req} {target boost : BitVec 8} {n : Nat} (named : target.toNat = n) (known : n ≤ 2)
    (solo : s.pair.role = .solo) (starts : Starts 0x60 0 q (powerAccepts n s) s) (flag : boost.toNat ≤ 1)
    {t : State} (effect : powerTo q n (withBoost boost (start q s)) = t) : exec (.power q target boost) s = .next (settled s t) := by
  subst named effect
  have alone : inPair (start q s) = false := alone_of_solo (by simp [solo])
  have run : exec (.power q target boost) s = .next (settled s (powerCommand q target boost (start q s))) :=
    command_starts starts (powerCommand q target boost)
  rw [run, powerCommand_alone alone known flag]

/-! ### The state entered -/

theorem sleepPort_state (k : Nat) (p : Port) : (sleepPort k p).state = .off ∨ (sleepPort k p).state = .fenced := by
  have off (p : Port) : p.off.state = .off ∨ p.off.state = .fenced := by
    simp only [Port.off]; split
    · exact .inr rfl
    · exact .inl rfl
  unfold sleepPort Port.offNotice
  split
  · exact off _
  · exact off _

theorem enterSleep_ports (s : State) : ∀ p ∈ (enterSleep s).fab.ports, p.state = .off ∨ p.state = .fenced := by
  intro p member
  obtain ⟨k, _, rfl⟩ := List.mem_mapIdx.mp member
  exact sleepPort_state _ _

theorem onRegions_gated (s : State) : ∀ g ∈ (onRegions (fun _ r => { r with clock := .gated }) s).regions, g.clock = .gated := by
  intro g member
  obtain ⟨k, _, rfl⟩ := List.mem_mapIdx.mp member
  rfl

theorem enterSleep_gated (s : State) : ∀ g ∈ (enterSleep s).regions, g.clock = .gated := onRegions_gated (sleepKeeps s)

/-- R311: the reply is the code of the state reached. -/
def powerReply (q : Req) (s : State) : State := reply q 0x60 [BitVec.ofNat 8 s.power.state.code] s

/-! ### Each target -/

theorem powerTo_sleep {s : State} (idle : s.seq.run = none) (q : Req) : powerTo q 2 s = powerReply q (enterSleep s) := by
  simp [powerTo, idle, powerReply]

theorem powerTo_sleep_waits {s : State} {r : ActiveRun} (run : s.seq.run = some r) (awake : r.asleep = false) (q : Req) :
    powerTo q 2 s = onPower (fun p => { p with sleepReq := true }) (onGw (fun g => { g with powerCmd := some (q, 2) }) s) := by
  simp [powerTo, run, awake]

theorem powerTo_doze {s : State} (noRetest : retesting s = false) (awake : s.power.state ≠ .sleep) (q : Req) :
    powerTo q 1 s = powerReply q (enterDoze (onPower (fun p => { p with dozeTarget := true }) s)) := by
  have same : retesting (onPower (fun p => { p with dozeTarget := true }) s) = false := noRetest
  simp [powerTo, same, awake, powerReply]

theorem powerTo_doze_asleep {s : State} (asleep : s.power.state = .sleep) (q : Req) : powerTo q 1 s =
    onGw (fun g => { g with powerCmd := some (q, 1) }) (onPower (fun p => { p with dozeTarget := true }) s) := by
  simp [powerTo, asleep]

theorem powerTo_run {s : State} (dozes : s.power.state = .doze) (q : Req) : powerTo q 0 s =
    powerReply q (onPower (fun p => { p with dozeTarget := false, state := .run }) s) := by
  simp [powerTo, dozes, powerReply, onPower]

theorem powerTo_run_asleep {s : State} (asleep : s.power.state = .sleep) (q : Req) : powerTo q 0 s =
    onPower (fun p => { p with wakeReq := true, dozeTarget := false }) (onGw (fun g => { g with powerCmd := some (q, 0) }) s) := by
  simp [powerTo, asleep]

/-- The completion goes behind those that wait, whatever state was reached on the way. -/
theorem powerReply_held {s t : State} {q r : Req} {code : PowerState} (sessions : t.gw.sessions = s.gw.sessions)
    (held : t.gw.held = (start r s).gw.held) (state : t.power.state = code) : (powerReply q t).gw.held =
      (start r s).gw.held ++ [completionOf s q 0x60 Status.ok 0 [BitVec.ofNat 8 code.code]] := by
  rw [powerReply, reply, complete_gw, completionOf_congr sessions, held, state]
  rfl

/-- R380: the run that slept continues, and the POWER command that woke the module completes. -/
theorem sleepWakeDone_woken (s : State) : (sleepWakeDone s).power = { s.power with state := .run, wakeReq := false } ∧
    (sleepWakeDone s).seq = { s.seq with run := s.seq.run.map (fun r => { r with asleep := false }) } ∧
    (sleepWakeDone s).gw.powerCmd = none ∧ (sleepWakeDone s).mem = s.mem := by
  have completed (u : State) : (completePower u).gw.powerCmd = none := by
    unfold completePower; split
    · assumption
    · rfl
  unfold sleepWakeDone
  dsimp only
  generalize started : onRegions _ _ = u
  obtain ⟨fab, brought, -⟩ := bringUpAll_eq u
  refine ⟨?_, ?_, completed _, ?_⟩
  · rw [completePower_power, brought, ← started]; rfl
  · rw [completePower_seq, brought, ← started]; rfl
  · rw [completePower_mem, brought, ← started]; rfl

/-- Settles O20, target by target. -/
theorem sleepAndWake : Obligations.SleepAndWake := by
  intro s solo
  refine ⟨fun q boost starts flag idle => ?_, fun q boost r starts flag run awake => ?_, fun q boost starts flag noRetest awake => ?_,
    fun q boost starts flag dozes => ?_, fun q boost starts flag asleep => ?_, fun q boost starts flag asleep => ?_,
    fun ready state noSeal noPower => ?_, fun asleep woken => ?_⟩
  · refine ⟨_, exec_power (n := 2) rfl (by decide) solo starts flag (powerTo_sleep (by simp [withBoost, idle]) q), ?_⟩
    have gated := enterSleep_gated (withBoost boost (start q s))
    have ports := enterSleep_ports (withBoost boost (start q s))
    have held := powerReply_held (s := s) (r := q) (t := enterSleep (withBoost boost (start q s))) (q := q) (code := .sleep)
      (start_sessions q s) rfl rfl
    refine ⟨by simp [powerReply, reply, enterSleep], by simp [powerReply, reply, enterSleep, withBoost], by rw [settled_held]; exact held, ?_⟩
    simp only [powerReply, reply, settled_mem, settled_regions, settled_fab, settled_seq, settled_job, settled_trust, complete_mem,
      complete_regions, complete_fab, complete_seq, complete_job, complete_trust]
    exact ⟨by simp [enterSleep, sleepKeeps, withBoost], rfl, rfl, rfl, gated, ports, by simp [enterSleep, sleepKeeps, withBoost],
      by simp [enterSleep, sleepKeeps, withBoost], by simp [enterSleep, sleepKeeps, withBoost]⟩
  · refine ⟨_, exec_power (n := 2) rfl (by decide) solo starts flag
      (powerTo_sleep_waits (r := r) (by simp [withBoost, run]) awake q), ?_⟩
    simp [withBoost]
  · refine ⟨_, exec_power (n := 1) rfl (by decide) solo starts flag
      (powerTo_doze (by simpa [retesting, withBoost] using noRetest) (by simpa [withBoost] using awake) q), ?_⟩
    have gated := onRegions_gated (onPower (fun p => { p with dozeTarget := true }) (withBoost boost (start q s)))
    have held := powerReply_held (s := s) (r := q) (t := enterDoze (onPower (fun p => { p with dozeTarget := true })
      (withBoost boost (start q s)))) (q := q) (code := .doze) (start_sessions q s) rfl rfl
    refine ⟨by simp [powerReply, reply, enterDoze], ?_, by rw [settled_held]; exact held, by simp [powerReply, reply, enterDoze, withBoost],
      by simp [powerReply, reply, enterDoze, withBoost]⟩
    rw [settled_regions]
    exact gated
  · refine ⟨_, exec_power (n := 0) rfl (by decide) solo starts flag (powerTo_run (by simpa [withBoost] using dozes) q), ?_⟩
    have held := powerReply_held (s := s) (r := q) (t := onPower (fun p => { p with dozeTarget := false, state := .run })
      (withBoost boost (start q s))) (q := q) (code := .run) (start_sessions q s) rfl rfl
    exact ⟨by simp [powerReply, reply], by simp [powerReply, reply, withBoost], by rw [settled_held]; exact held,
      by simp [SameData, powerReply, reply, withBoost]⟩
  · refine ⟨_, exec_power (n := 0) rfl (by decide) solo starts flag
      (powerTo_run_asleep (by simpa [withBoost] using asleep) q), ?_⟩
    simp [withBoost, SameData, asleep]
  · refine ⟨_, exec_power (n := 1) rfl (by decide) solo starts flag
      (powerTo_doze_asleep (by simpa [withBoost] using asleep) q), ?_⟩
    simp [withBoost, SameData, asleep]
  · have sleeps : (decide (s.gw.runstate = .ready) && (decide (s.power.state = .doze) || decide (s.power.state = .run)) && s.gw.seals.isNone &&
        s.gw.powerCmd.isNone) = true := by simp [ready, state, noSeal, noPower]
    refine ⟨_, event_holds sleeps enterSleep s, ?_⟩
    have gated := enterSleep_gated s
    simp only [settled_power, settled_mem, settled_regions, settled_seq, settled_held]
    exact ⟨rfl, rfl, rfl, gated, rfl, rfl⟩
  · obtain ⟨power, seq, done, mem⟩ := sleepWakeDone_woken s
    have wakes : (decide (s.power.state = .sleep) && s.power.wakeReq) = true := by simp [asleep, woken]
    refine ⟨_, event_holds wakes sleepWakeDone s, ?_⟩
    simp [power, seq, done, mem]

end Sys2Proof.Machine

/-! ## O5: reading commands reply and change nothing else

The three CLEAR reads pass every check of the gate in every state (`starts_clearRead`). What a reply holds is the same before and after the
command's start, as the start touches the gangway's queues alone. -/

namespace Sys2Proof.Machine

/-! ### The CLEAR reads start in every state, R304 -/

/-- IDENTIFY, GET_STATUS and LOG_READ. -/
def ClearRead (op : Nat) : Prop := op = 0x01 ∨ op = 0x02 ∨ op = 0x05

theorem ClearRead.bounds {op : Nat} (read : ClearRead op) : 1 ≤ op ∧ op ≤ 5 := by
  rcases read with rfl | rfl | rfl <;> decide

theorem ClearRead.clearOpcode {op : Nat} (read : ClearRead op) (s : State) : clearOpcode s op = true := by
  simp [Machine.clearOpcode, read.bounds]

theorem ClearRead.roleAccepts {op : Nat} (read : ClearRead op) (q : Req) (s : State) : roleAccepts op q s = true := by
  unfold Machine.roleAccepts
  rcases read with rfl | rfl | rfl <;> cases s.pair.role <;> simp

theorem ClearRead.lifecycleAccepts {op : Nat} (read : ClearRead op) (s : State) : lifecycleAccepts op s = true := by
  unfold Machine.lifecycleAccepts
  rcases read with rfl | rfl | rfl <;> cases s.trust.lifecycle <;> simp

theorem starts_clearRead {op page : Nat} {q : Req} {s : State} (read : ClearRead op) (free : waits q s = false)
    (clear : q.isSealed = false) (form : (nextAccepted s).all Accepted.formOk = true)
    (room : 64 + replyBound op page ≤ q.rcap.toNat) : Starts op page q true s := by
  obtain ⟨least, most⟩ := read.bounds
  refine ⟨free, ?_, form⟩
  simp [gate, clear, read.clearOpcode, read.roleAccepts, read.lifecycleAccepts, startingAccepts, lashOpcode, sleepOpcode, least, most,
    Nat.le_succ_of_le most, Nat.not_lt.mpr room]

/-! ### What the replies hold -/

theorem identifyPayload_start (q : Req) (s : State) : identifyPayload (start q s) = identifyPayload s := by
  simp [identifyPayload, descriptor_start, ownerFp]

theorem page0_start (q : Req) (s : State) : page0 (start q s) = page0 s := by
  simp [page0, regionsWord, portMask, lashCode]

theorem page1_start (q : Req) (s : State) : page1 (start q s) = page1 s := by simp [page1]

theorem page2_start (q : Req) (s : State) : page2 (start q s) = page2 s := by simp [page2]

theorem evidenceBody_start (q : Req) (s : State) (nonce : BitVec 256) : evidenceBody (start q s) nonce = evidenceBody s nonce := by
  simp only [evidenceBody, identityFp, identityKey, ownerFp, policyDigest, start_trust, start_pair, start_identity, start_log]

theorem stateUnit_congr {s t : State} (seq : t.seq = s.seq) (job : t.job = s.job) (regions : t.regions = s.regions) (sel k : Nat) :
    stateUnit t sel k = stateUnit s sel k := by
  unfold stateUnit verdictOf ferryCount region
  rw [seq, job, regions]

theorem selection_congr {s t : State} (pair : t.pair = s.pair) (sel : Nat) : selection t sel = selection s sel := by
  unfold selection inPair; rw [pair]

/-- A reply in the start state is the answer. -/
theorem reply_answers {op : Nat} {q : Req} {s : State} {payload payload' : List Byte} (same : payload = payload') :
    reply q op payload (start q s) = completeAs q (BitVec.ofNat 8 op) Status.ok 0 payload' (start q s) := by rw [same]; rfl

theorem clearReadsAreAnsweredInEveryState : Claims.ClearReadsAreAnsweredInEveryState := by
  intro s q free clear form
  refine ⟨fun room => ?_, fun room => ?_, fun room => ?_, fun room => ?_, fun page high room => ?_, fun a first count room => ?_⟩
  · exact command_replies (starts_clearRead (.inl rfl) free clear form room) (fun s => reply q 0x01 (identifyPayload s) s)
      (reply_answers (identifyPayload_start q s))
  · exact command_replies (starts_clearRead (page := 0) (.inr (.inl rfl)) free clear form room) (fun s => reply q 0x02 (page0 s) s)
      (reply_answers (page0_start q s))
  · exact command_replies (starts_clearRead (page := 1) (.inr (.inl rfl)) free clear form room) (fun s => reply q 0x02 (page1 s) s)
      (reply_answers (page1_start q s))
  · exact command_replies (starts_clearRead (page := 2) (.inr (.inl rfl)) free clear form room) (fun s => reply q 0x02 (page2 s) s)
      (reply_answers (page2_start q s))
  · have bound : replyBound 0x02 page.toNat = 64 := by simp [replyBound, show page.toNat ≠ 1 by omega, show page.toNat ≠ 2 by omega]
    have starts : Starts 0x02 page.toNat q true s := starts_clearRead (.inr (.inl rfl)) free clear form (by rw [bound]; exact room)
    obtain ⟨n, beyond⟩ := Nat.exists_eq_add_of_lt high
    rw [exec, execGetStatus, command_starts starts]
    simp only [show page.toNat = n + 3 by omega]
    exact congrArg _ (settled_completeAs_start ..)
  · have starts : Starts 0x05 0 q true s := starts_clearRead (.inr (.inr rfl)) free clear form room
    rw [exec, execLogRead, command_starts starts]
    refine ⟨fun known least most => ?_, fun unknown => ?_, fun known out => ?_⟩
    · rw [checkField_true _ _ _ _ _ (by simpa using known), checkField_true _ _ _ _ _ (by simp [least, most])]
      have records : area (start q s) (a = 1) = area s (a = 1) := by simp [area]
      have reply := reply_answers (op := 0x05) (q := q) (s := s)
        (congrArg (fun l => (logFrom l first count.toNat).flatMap Rec.bytes) records)
      refine congrArg _ ((congrArg (settled s) reply).trans ((settled_completeAs_start ..).trans ?_))
      simp [area, logFrom]
    · rw [checkField_false _ _ _ _ _ (by simpa using unknown)]
      exact congrArg _ (settled_completeAs_start ..)
    · rw [checkField_true _ _ _ _ _ (by simpa using known), checkField_false _ _ _ _ _ (by simp; omega)]
      exact congrArg _ (settled_completeAs_start ..)

/-! ### ATTEST, R327 -/

/-- A reply beside a draw changes the count of draws alone. -/
theorem settled_reply_draw (q : Req) (op : Nat) (payload : List Byte) (s : State) :
    settled s (reply q op payload (draw (start q s)).2) =
      { answered q (BitVec.ofNat 8 op) Status.ok 0 payload s with free := s.free + 1 } := by
  have status : gwStatus (draw (start q s)).2 = gwStatus s :=
    (gwStatus_congr rfl rfl rfl rfl rfl rfl rfl rfl rfl).trans (gwStatus_start q s)
  rw [reply, settled_complete status (start_sessions q s), draw, start_free]
  rfl

theorem attestSignsTheEvidence : Claims.AttestSignsTheEvidence := by
  intro s q nonce starts
  have signed : (evidence (start q s) nonce).1 = evidenceBody s nonce ++
      wordBytes (ecdsaSign s.identity.priv (Config.random384 s.free) (evidenceBody s nonce)) := by
    simp only [evidence, identitySign, draw, evidenceBody_start, start_identity, start_free]
  have run : exec (.attest q nonce) s = .next (settled s (reply q 0x03 ((evidence (start q s) nonce).1 ++ (start q s).identity.certificates)
      (draw (start q s)).2)) :=
    command_starts starts fun s => reply q 0x03 ((evidence s nonce).1 ++ s.identity.certificates) (evidence s nonce).2
  rw [signed, start_identity, settled_reply_draw] at run
  exact ⟨_, run, rfl, rfl, by simp [answered], by simp [answered], by simp [SameData, answered], by simp [SameModule, answered]⟩

/-! ### READ_STATE, Table 13-10 -/

theorem exec_readState {s : State} {q : Req} (starts : Starts 0x08 0 q (inState s [.job, .running, .halted]) s) (sel : BitVec 8)
    (first count : BitVec 32) : exec (.readState q sel first count) s = .next (settled s (readState q sel first count (start q s))) :=
  command_starts starts (readState q sel first count)

/-- What the other half is asked for changes the fabric and the waiting replies. -/
theorem askOther_eq (q : Req) (op : Nat) (own : List Byte) (f : PairFwd) (s : State) : ∃ fab, askOther q op own f s =
    { s with fab := fab, pair := { s.pair with wait := s.pair.wait ++ [.read q op own] } } :=
  ⟨_, sendLash_eq _ _⟩

/-- Two selections are by region: 64 units, or 128 of a pair. No other has 128. -/
theorem selection_byRegion {s : State} {k n w : Nat} (named : selection s k = some (n, w)) :
    if k = 1 ∨ k = 7 then n = 64 ∨ n = 128 else n ≠ 128 := by
  unfold selection at named
  split at named
  case h_2 | h_8 =>
    obtain ⟨rfl, -⟩ : (if inPair s then 128 else 64) = n ∧ _ := by simpa using named
    cases inPair s <;> simp
  all_goals cases named <;> decide

theorem selection_beyond {s : State} {k : Nat} (high : 8 < k) : selection s k = none := by
  obtain ⟨n, beyond⟩ := Nat.exists_eq_add_of_lt high
  rw [show k = n + 9 by omega]; rfl

theorem stateUnits_start (q : Req) (s : State) (sel first count : Nat) : stateUnits (start q s) sel first count =
    (List.range count).flatMap (fun i => stateUnit s sel (first + i)) := by
  simp only [stateUnits, stateUnit_congr (start_seq q s) (start_job q s) (start_regions q s)]

theorem readStateReturnsTheUnits : Claims.ReadStateReturnsTheUnits := by
  intro s q sel first count starts
  have selected : selection (start q s) sel.toNat = selection s sel.toNat := selection_congr (start_pair q s) sel.toNat
  have run := exec_readState starts sel first count
  have number (k : Nat) (small : k < 256) : sel.toNat = k ↔ sel = BitVec.ofNat 8 k := by
    rw [← BitVec.toNat_inj, BitVec.toNat_ofNat, Nat.mod_eq_of_lt small]
  have one := number 1 (by decide)
  have seven := number 7 (by decide)
  refine ⟨fun n w named fits mine => ?_, fun n w named beyond => ?_, fun n w named fits byRegion beyond => ?_, fun high => ?_⟩
  · have size := selection_byRegion named
    have here : (decide (n = 128) && decide (64 < first.toNat + count.toNat)) = false := by
      simp only [Bool.and_eq_false_iff, decide_eq_false_iff_not]
      rcases mine with ⟨notOne, notSeven⟩ | small
      · left
        rw [if_neg (by rw [one, seven]; exact not_or.mpr ⟨notOne, notSeven⟩)] at size
        exact size
      · right; omega
    rw [run, readState, selected, named]
    simp only [checkField_true _ _ _ _ _ (decide_eq_true fits), here, Bool.false_eq_true, if_false]
    exact congrArg _ ((congrArg _ (reply_answers (stateUnits_start ..))).trans (settled_completeAs_start ..))
  · rw [run, readState, selected, named]
    simp only [checkField_false _ _ _ _ _ (decide_eq_false (Nat.not_le.mpr beyond))]
    exact congrArg _ (settled_completeAs_start ..)
  · have size := selection_byRegion named
    rw [if_pos (by rw [one, seven]; exact byRegion)] at size
    have far : (decide (n = 128) && decide (64 < first.toNat + count.toNat)) = true := by
      simp only [Bool.and_eq_true, decide_eq_true_eq]; omega
    have own : (if 64 - first.toNat < count.toNat then 64 - first.toNat else count.toNat) = min count.toNat (64 - first.toNat) := by
      split <;> omega
    have asks : ∃ f, readState q sel first count (start q s) = askOther q 0x08 ((List.range (min count.toNat (64 - first.toNat))).flatMap
        (fun i => stateUnit s sel.toNat (first.toNat + i))) f (start q s) := by
      rw [readState, selected, named]
      simp only [checkField_true _ _ _ _ _ (decide_eq_true fits), far, if_true, own, stateUnits_start]
      exact ⟨_, rfl⟩
    obtain ⟨f, asks⟩ := asks
    obtain ⟨fab, asked⟩ := askOther_eq q 0x08 ((List.range (min count.toNat (64 - first.toNat))).flatMap
        (fun i => stateUnit s sel.toNat (first.toNat + i))) f (start q s)
    rw [asks, asked] at run
    exact ⟨_, run, by simp, by simp, by simp [SameData], by simp, by simp⟩
  · rw [run, readState, selected, selection_beyond high]
    exact congrArg _ (settled_completeAs_start ..)

/-! ### DEBUG_READ -/

/-- Words that a target of DEBUG_READ holds. -/
def debugSpan (target : BitVec 8) : Nat := if target = 0 then 24576 else if target = 1 then 65536 else 2 ^ 32

/-- An operand of DEBUG_READ is out of range. -/
def debugOutside (s : State) (target r core bank : BitVec 8) (first length : BitVec 32) : Prop :=
  2 < target.toNat ∨ (if inPair s then 128 else 64) ≤ r.toNat ∨ 144 ≤ core.toNat ∨ 1 < bank.toNat ∨ 65536 < length.toNat ∨
    debugSpan target < first.toNat + length.toNat

section
variable {s : State} {q : Req} {target r core bank : BitVec 8} {first length : BitVec 32}

theorem debugRead_outside (outside : debugOutside s target r core bank first length) :
    debugRead q target r core bank first length s = refuseField q 0x72 0 s := by
  have refused : (decide (2 < target.toNat) || decide ((if inPair s then 128 else 64) ≤ r.toNat) || decide (144 ≤ core.toNat) ||
      decide (1 < bank.toNat) || decide (65536 < length.toNat) || decide (debugSpan target < first.toNat + length.toNat)) = true := by
    simpa only [debugOutside, Bool.or_eq_true, decide_eq_true_eq, or_assoc] using outside
  exact if_pos refused

theorem debugRead_inside (inside : ¬ debugOutside s target r core bank first length) : debugRead q target r core bank first length s =
    if 64 ≤ r.toNat then
      askOther q 0x72 [] (.askDebug target.toNat (r.toNat - 64) core.toNat bank.toNat first.toNat length.toNat) (wakeDoze s)
    else reply q 0x72 (scanned target.toNat r.toNat core.toNat bank.toNat first.toNat length.toNat (wakeDoze s)).1
      (scanned target.toNat r.toNat core.toNat bank.toNat first.toNat length.toNat (wakeDoze s)).2 := by
  have accepted : ¬ (decide (2 < target.toNat) || decide ((if inPair s then 128 else 64) ≤ r.toNat) || decide (144 ≤ core.toNat) ||
      decide (1 < bank.toNat) || decide (65536 < length.toNat) || decide (debugSpan target < first.toNat + length.toNat)) = true := by
    simpa only [debugOutside, Bool.or_eq_true, decide_eq_true_eq, or_assoc] using inside
  exact if_neg accepted

/-- Outside a run no accumulator word's parity is met. -/
theorem scanned_idle (idle : s.gw.runstate ≠ .running) (target r core bank first length : Nat) :
    scanned target r core bank first length s = (debugWords s target r core bank first length, (draw s).2) := by
  simp [scanned, debugParity, idle]

end

theorem accWord_congr {s t : State} (mem : t.mem = s.mem) (k : Nat) : accWord t k = accWord s k := by rw [accWord, accWord, mem]

theorem physCore_congr {s t : State} (regions : t.regions = s.regions) (r k : Nat) : physCore t r k = physCore s r k := by
  rw [physCore, physCore, region_congr regions]

theorem scanWord_congr {s t : State} (mem : t.mem = s.mem) (r phys : Nat) (free : BitVec 32) (place : Config.ScanPlace) :
    scanWord t r phys free place = scanWord s r phys free place := by
  unfold scanWord accWord readMem; rw [mem]

theorem debugWords_congr {s t : State} (mem : t.mem = s.mem) (regions : t.regions = s.regions) (free : t.free = s.free)
    (target r core bank first length : Nat) :
    debugWords t target r core bank first length = debugWords s target r core bank first length := by
  simp only [debugWords, physCore_congr regions, accWord_congr mem, scanWord_congr mem, free, readMem, mem]

/-- The words that DEBUG_READ's three targets give, with the span of each. -/
def Reads (s : State) (target r core bank : BitVec 8) (first length : BitVec 32) (words : List Byte) : Prop :=
  (target = 0 ∧ first.toNat + length.toNat ≤ 24576 ∧ words = (List.range length.toNat).flatMap (fun k => wordBytes (accWord s
      (((physCore s r.toNat core.toNat * 2 + bank.toNat) * 48) * 512 + (first.toNat + k))))) ∨
    (target = 1 ∧ first.toNat + length.toNat ≤ 65536 ∧
      words = readMem s 1 (stagingKey (physCore s r.toNat core.toNat) (4 * first.toNat)) (4 * length.toNat)) ∨
    (target = 2 ∧ first.toNat + length.toNat ≤ 2 ^ 32 ∧ words = (List.range length.toNat).flatMap (fun k => wordBytes (
      scanWord s r.toNat (physCore s r.toNat core.toNat) (Config.freeWord s.free k) (Config.scanPlace (first.toNat + k)))))

theorem Reads.inside {s : State} {target r core bank : BitVec 8} {first length : BitVec 32} {words : List Byte}
    (reads : Reads s target r core bank first length words) :
    target.toNat ≤ 2 ∧ first.toNat + length.toNat ≤ debugSpan target := by
  rcases reads with ⟨rfl, span, -⟩ | ⟨rfl, span, -⟩ | ⟨rfl, span, -⟩ <;> exact ⟨by decide, span⟩

theorem Reads.words {s : State} {target r core bank : BitVec 8} {first length : BitVec 32} {words : List Byte}
    (reads : Reads s target r core bank first length words) :
    debugWords s target.toNat r.toNat core.toNat bank.toNat first.toNat length.toNat = words := by
  rcases reads with ⟨rfl, -, rfl⟩ | ⟨rfl, -, rfl⟩ | ⟨rfl, -, rfl⟩ <;> simp [debugWords, accKey]

theorem debugReadOnlyReads : Claims.DebugReadOnlyReads := by
  intro s q target r core bank first length starts
  have run : exec (.debugRead q target r core bank first length) s =
      .next (settled s (debugRead q target r core bank first length (start q s))) :=
    command_starts starts (debugRead q target r core bank first length)
  have pair : inPair (start q s) = inPair s := by simp [inPair]
  refine ⟨fun idle region core' bank' length' words named => ?_, fun paired target' far region core' bank' length' span => ?_,
    fun outside => ?_⟩
  · obtain ⟨known, span⟩ := Reads.inside named
    have inside : ¬ debugOutside (start q s) target r core bank first length := by
      have here : r.toNat < if inPair s then 128 else 64 := by split <;> omega
      rw [debugOutside, pair]; omega
    have still : (wakeDoze (start q s)).gw.runstate ≠ .running := by simpa using idle
    have same : debugWords (wakeDoze (start q s)) target.toNat r.toNat core.toNat bank.toNat first.toNat length.toNat = words :=
      (debugWords_congr (by simp) (by simp) (by simp) ..).trans (Reads.words named)
    rw [debugRead_inside inside, if_neg (Nat.not_le.mpr region), scanned_idle still, same] at run
    refine ⟨fun awake => ?_, fun dozes => ⟨_, run, ?_⟩⟩
    · have nothing : wakeDoze (start q s) = start q s := if_neg (by simpa using awake)
      rw [nothing, settled_reply_draw] at run
      exact run
    · have woken : (wakeDoze (start q s)).power.state = .run := by simp [wakeDoze, dozes]
      have held : (reply q 0x72 words (draw (wakeDoze (start q s))).2).gw.held =
          (start q s).gw.held ++ [completionOf s q 0x72 Status.ok 0 words] := by
        rw [reply, complete_gw, completionOf_congr (s := s) (by simp [draw])]
        simp [draw]
      refine ⟨by simpa [reply, draw] using woken, ?_, by simp [SameData, reply, draw]⟩
      rw [settled_held]
      exact held
  · have within : 24576 ≤ debugSpan target := by unfold debugSpan; split_ifs <;> norm_num
    have inside : ¬ debugOutside (start q s) target r core bank first length := by
      rw [debugOutside, pair, if_pos paired]; omega
    rw [run, debugRead_inside inside, if_pos far]
    obtain ⟨fab, asked⟩ := askOther_eq q 0x72 [] (.askDebug target.toNat (r.toNat - 64) core.toNat bank.toNat first.toNat length.toNat)
      (wakeDoze (start q s))
    rw [asked]
    exact ⟨_, rfl, by simp, by simp, by simp [SameData], by simp, by simp⟩
  · have refused : debugOutside (start q s) target r core bank first length := by
      rw [debugOutside, pair]; tauto
    rw [run, debugRead_outside refused]
    exact congrArg _ (settled_completeAs_start ..)

/-- Settles O5, command by command. -/
theorem readingCommandsChangeNothing : Obligations.ReadingCommandsChangeNothing :=
  ⟨clearReadsAreAnsweredInEveryState, attestSignsTheEvidence, readStateReturnsTheUnits, debugReadOnlyReads⟩

end Sys2Proof.Machine

/-! ## O47: STOP ends the run at the boundary or now, and completes after it

Closing a run completes its RUN and then the STOP that waits (`closeRun_stopping`). STOP NOW is a halt that finds nothing in flight, so the
run closes at once (`finishHalt_stopping`); with STOP BOUNDARY the next STEP row closes it (`stepEffect_ends`). -/

namespace Sys2Proof.Machine

/-! ### The run closes while a STOP waits -/

/-- A STOP waits for the boundary, and no other request does. -/
structure Stopping (q : Req) (s : State) : Prop where
  stop : s.gw.stopCmd = some q
  sleep : s.power.sleepReq = false
  debug : s.trust.debugWait = none
  image : s.gw.image = none

theorem completeStop_stopping {q : Req} {s t : State} (h : Stopping q t) (sessions : t.gw.sessions = s.gw.sessions) : completeStop t =
    { t with gw := { t.gw with stopCmd := none, held := t.gw.held ++ [completionOf s q 0x37 Status.ok 0 []] } } := by
  rw [completeStop, h.stop, ← completionOf_congr sessions]
  rfl

/-- The completions of the run's RUN and of the STOP, in that order. -/
def stopDone (q : Req) (r : ActiveRun) (slot : Bool) (row : Nat) (status code : BitVec 16) (s : State) : List Completion :=
  runDone r slot row status code s ++ [completionOf s q 0x37 Status.ok 0 []]

theorem closeRun_stopping {q : Req} {s : State} (alone : inPair s = false) (h : Stopping q s) (r : ActiveRun) (slot : Bool) (row : Nat)
    (status code : BitVec 16) : ∃ x p g rec, closeRun r slot row status code s =
      { s with seq := endedSeq r.slot x s, power := { s.power with state := p }, regions := g, log := rec,
               gw := { s.gw with stopCmd := none, held := s.gw.held ++ stopDone q r slot row status code s } } := by
  obtain ⟨x, p, g, rec, ended, -⟩ := endRun_alone alone r
  have step : (endRun r s).seq.step = s.seq.step := by rw [ended]; cases h : r.slot <;> rfl
  have payload : runPayload (endRun r s) slot row code = runPayload s slot row code := by rw [runPayload, step]; rfl
  have sessions : (endRun r s).gw.sessions = s.gw.sessions := by rw [ended]
  have completed : (if r.req = farReq then endRun r s else completeAs r.req 0x36 status 0 (runPayload (endRun r s) slot row code) (endRun r s)) =
      { endRun r s with gw := { s.gw with held := s.gw.held ++ runDone r slot row status code s } } := by
    by_cases far : r.req = farReq
    · simp only [if_pos far, runDone, List.append_nil, ended]
    · simp only [if_neg far, runDone, completeAs, completionOf_congr sessions, payload, Machine.hold]
      rw [ended]
  have still : Stopping q { endRun r s with gw := { s.gw with held := s.gw.held ++ runDone r slot row status code s } } := by
    rw [ended]; exact ⟨h.stop, h.sleep, h.debug, h.image⟩
  refine ⟨x, p, g, rec, ?_⟩
  rw [closeRun_eq, completed, completeStop_stopping (s := s) still rfl, List.append_assoc, boundaryRequests_quiet, ended]
  · rfl
  · rw [ended]; exact ⟨h.sleep, h.debug, rfl, h.image⟩

/-! ### STOP NOW -/

/-- What a halt leaves where it completes a STOP too. -/
structure StoppedAs (q : Req) (r : ActiveRun) (h : Halt) (s t : State) : Prop where
  seq : ∃ x, t.seq = { endedSeq r.slot x s with
    haltCause := h.cause, haltSlot := h.slot, haltRow := BitVec.ofNat 14 h.row, haltEntry := some (r.slot, r.stepEntry), tiles := [] }
  mem : t.mem = { s.mem with acc := [], accBad := [], era := s.mem.era + 1 }
  gw : t.gw = { s.gw with runstate := .halted, stopCmd := none, held := s.gw.held ++ stopDone q r h.slot h.row h.cause h.code s }

theorem finishHalt_stopping {q : Req} {s : State} (alone : inPair s = false) (stopping : Stopping q s) (r : ActiveRun) (h : Halt) :
    StoppedAs q r h s (finishHalt r h s) := by
  obtain ⟨fab, early, dropped, -⟩ := dropEarly_eq (fun _ => true) s
  have noted : haltNoted r h s = loseAcc { s with
      fab := fab
      seq := { s.seq with haltCause := h.cause, haltSlot := h.slot, haltRow := BitVec.ofNat 14 h.row,
                          haltEntry := some (r.slot, r.stepEntry), tiles := [] }
      job := { s.job with early := early, contribs := [], arrivals := [], sums := [], ferryNow := [] }
      gw := { s.gw with runstate := .halted } } := by rw [haltNoted, dropped]
  obtain ⟨x, p, g, rec, closed⟩ := closeRun_stopping (s := haltNoted r h s) (q := q) (by rw [noted]; exact alone)
    (by rw [noted]; exact ⟨stopping.stop, stopping.sleep, stopping.debug, stopping.image⟩) r h.slot h.row h.cause h.code
  obtain ⟨fab', rec', told, -⟩ := tellHalted_eq h.cause (closeRun r h.slot h.row h.cause h.code (haltNoted r h s))
  have completes : stopDone q r h.slot h.row h.cause h.code (haltNoted r h s) = stopDone q r h.slot h.row h.cause h.code s := by
    rw [stopDone, stopDone, runDone_congr (s := s) (by rw [noted]; rfl) (by rw [noted]; rfl), completionOf_congr (s := s) (by rw [noted]; rfl)]
  have seq : endedSeq r.slot x (haltNoted r h s) = { endedSeq r.slot x s with
      haltCause := h.cause, haltSlot := h.slot, haltRow := BitVec.ofNat 14 h.row, haltEntry := some (r.slot, r.stepEntry), tiles := [] } := by
    rw [noted]
    cases r.slot <;> rfl
  rw [finishHalt_eq, told]
  refine ⟨⟨x, ?_⟩, ?_, ?_⟩
  · rw [closed]; exact seq
  · rw [closed, noted]; rfl
  · rw [closed, completes, noted]; rfl

/-- A halt with no row named names the row at which issue stopped. -/
theorem halt_place {s : State} {r : ActiveRun} (run : s.seq.run = some r) (cause : BitVec 16) :
    halt cause s = haltWith cause 0 (some (stopRow s r)) false s := by
  simp only [halt, haltWith, run, Option.getD_none, Option.getD_some]

theorem StoppedAs.of_halt {q : Req} {s : State} {r : ActiveRun} (alone : inPair s = false) (stopping : Stopping q s)
    (run : s.seq.run = some r) (going : r.halting = none) (flight : s.seq.flight = []) (held : s.seq.held = []) (cause : BitVec 16) :
    StoppedAs q r ⟨cause, r.slot, r.next, 0⟩ s (halt cause s) := by
  have place : stopRow s r = r.next := by rw [stopRow, held]
  rw [halt_place run, place, haltWith_flightless alone run going flight]
  obtain ⟨⟨x, seq⟩, mem, gw⟩ := finishHalt_stopping (q := q) (s := { s with seq := { s.seq with
      run := some { r with halting := some ⟨cause, r.slot, r.next, 0⟩, abandoning := none, restartAt := none }, held := [] } }) alone
    ⟨stopping.stop, stopping.sleep, stopping.debug, stopping.image⟩
    { r with halting := some ⟨cause, r.slot, r.next, 0⟩, abandoning := none, restartAt := none } ⟨cause, r.slot, r.next, 0⟩
  refine ⟨⟨x, ?_⟩, mem, gw⟩
  rw [seq]
  cases r.slot <;> rfl

@[simp] theorem settled_stopCmd (s t : State) : (settled s t).gw.stopCmd = t.gw.stopCmd := by rw [settled_gw]

/-- The state in which a STOP of a module outside a pair acts: it waits for the run's end. -/
def stopWaits (q : Req) (s : State) : State := onGw (fun g => { g with stopCmd := some q }) (start q s)

theorem stopWaits_stopping {q : Req} {s : State} (sleep : s.power.sleepReq = false) (debug : s.trust.debugWait = none)
    (image : s.gw.image = none) : Stopping q (stopWaits q s) where
  stop := rfl
  sleep := by simp [stopWaits, sleep]
  debug := by simp [stopWaits, debug]
  image := by rw [stopWaits, onGw_gw, start_gw]; exact image

theorem exec_stop {s : State} {q : Req} {mode : BitVec 8} (alone : inPair s = false)
    (starts : Starts 0x37 0 q (inState s [.running] && s.gw.powerCmd.isNone && s.gw.stopCmd.isNone) s) (known : mode.toNat ≤ 1) :
    exec (.stop q mode) s = .next (settled s (stopRun (decide (mode = 1)) (stopWaits q s))) := by
  have told : sendLash (.forward (.stop (decide (mode = 1)))) (stopWaits q s) = stopWaits q s :=
    sendLash_alone _ _ (by simpa [inPair, stopWaits] using alone)
  rw [exec, execStop, command_starts starts, checkField_true _ _ _ _ _ (decide_eq_true known)]
  exact congrArg _ (congrArg _ (congrArg _ told))

theorem exec_stop_unknown {s : State} {q : Req} {mode : BitVec 8}
    (starts : Starts 0x37 0 q (inState s [.running] && s.gw.powerCmd.isNone && s.gw.stopCmd.isNone) s) (high : 1 < mode.toNat) :
    exec (.stop q mode) s = .next (answered q 0x37 Status.badField (fieldDetail 0x37 0) [] s) := by
  rw [exec, execStop, command_starts starts, checkField_false _ _ _ _ _ (decide_eq_false (Nat.not_le.mpr high))]
  exact congrArg _ (settled_completeAs_start ..)

/-- STOP BOUNDARY marks the run, which does not show in GW_STATUS. -/
theorem stopBoundary_marks {s : State} {q : Req} {r : ActiveRun} (run : s.seq.run = some r) (awake : r.asleep = false) :
    settled s (stopBoundary (stopWaits q s)) = { start q s with
      seq := { s.seq with run := some { r with stopAt := true } }, gw := { (start q s).gw with stopCmd := some q } } := by
  have here : (stopWaits q s).seq.run = some r := by simp [stopWaits, run]
  have marked : stopBoundary (stopWaits q s) = { stopWaits q s with seq := { s.seq with run := some { r with stopAt := true } } } := by
    simp only [stopBoundary, here, awake, Bool.false_eq_true, if_false, onRun, onSeq, Option.map_some]
    simp [stopWaits]
  have status : gwStatus { stopWaits q s with seq := { s.seq with run := some { r with stopAt := true } } } = gwStatus s := by
    have drift : s.seq.calDrift = (stopWaits q s).seq.calDrift := by simp [stopWaits]
    exact (gwStatus_seq (s := stopWaits q s) drift).trans ((gwStatus_onGw rfl rfl).trans (gwStatus_start q s))
  rw [marked, settled_eq status]
  rfl

theorem stopNow_stops {s : State} {q : Req} {r : ActiveRun} (alone : inPair s = false) (stopping : Stopping q s) (run : s.seq.run = some r)
    (going : r.halting = none) (flight : s.seq.flight = []) (held : s.seq.held = []) :
    StoppedAs q r ⟨Status.stopped, r.slot, r.next, 0⟩ s (stopNow s) := by
  obtain ⟨rec, recorded⟩ := timetableHalt_eq r.slot (stopRow s r) (rowLayer (rowAt s r.slot (stopRow s r))) 0 s
  have halted := StoppedAs.of_halt (s := { s with log := rec }) alone ⟨stopping.stop, stopping.sleep, stopping.debug, stopping.image⟩
    run going flight held Status.stopped
  simp only [stopNow, run, recorded]
  obtain ⟨⟨x, seq⟩, mem, gw⟩ := halted
  refine ⟨⟨x, seq.trans ?_⟩, mem, gw⟩
  cases r.slot <;> rfl

/-! ### STOP BOUNDARY -/

theorem driftEntry_eq (k : Nat) (s : State) : ∃ seq rec, driftEntry k s = { s with seq := seq, log := rec } := by
  simp only [driftEntry]
  split
  · exact ⟨s.seq, s.log, rfl⟩
  · split
    · exact ⟨_, _, pairEvent_eq _ _ _⟩
    · exact ⟨_, s.log, rfl⟩

/-- Steps 2 and 3 of the boundary change the sequencer and the recorder. -/
theorem stepRegisters_eq (s : State) : ∃ seq rec, stepRegisters s = { s with seq := seq, log := rec } := by
  have tested : ∀ (l : List Nat) (s : State), ∃ seq rec, l.foldl (fun s k => driftEntry k s) s = { s with seq := seq, log := rec } := by
    intro l
    induction l with
    | nil => exact fun s => ⟨s.seq, s.log, rfl⟩
    | cons k l ih =>
      intro s
      obtain ⟨seq, rec, first⟩ := driftEntry_eq k s
      rw [List.foldl_cons, first]
      exact ih _
  obtain ⟨seq, rec, drifted⟩ := tested (s.seq.watch.map Prod.fst) s
  rw [stepRegisters, driftTest, drifted]
  exact ⟨_, rec, rfl⟩

/-- Where no core is failing, step 4 changes the regions' sliver maps alone. -/
theorem serveSpares_sound {s : State} (sound : ∀ g ∈ s.regions, g.failing = []) : serveSpares s = s :=
  List.foldl_fixed' (fun r => by
    have failing := region_of_all (P := fun g => g.failing = []) sound rfl r
    have cleared : onRegion r (fun g => { g with failing := [] }) s = s := onRegion_self (by rw [← failing])
    simp only [failing, List.foldl_nil, cleared]) _

theorem sliverMaps_eq {s : State} (sound : ∀ g ∈ s.regions, g.failing = []) : ∃ g, sliverMaps s = { s with regions := g } := by
  refine ⟨_, serveSpares_sound fun g member => ?_⟩
  obtain ⟨k, here, rfl⟩ := List.mem_mapIdx.mp member
  have kept := sound _ (List.getElem_mem here)
  split <;> exact kept

/-- With no request waiting and no reshard, step 6 does nothing. -/
theorem stepPending_quiet {s : State} (noReshard : s.reshard.active = none) (sleep : s.power.sleepReq = false)
    (debug : s.trust.debugWait = none) (image : s.gw.image = none) (slot : Bool) (next : Nat) : stepPending slot next s = s := by
  have commit : commitRound slot next s = s := by rw [commitRound, noReshard]
  have served : serveDebug s = s := by rw [serveDebug, debug]
  have activates : serveActivate s = s := by rw [serveActivate, image]
  rw [stepPending, commit, served, activates]
  exact if_neg (by simp [sleep])

/-- A STEP row at which the run is to stop closes it. -/
theorem stepEffect_ends {c : RowCtx} {q : Req} {r : ActiveRun} {s : State} (alone : inPair s = false) (stopping : Stopping q s)
    (noReshard : s.reshard.active = none) (sound : ∀ g ∈ s.regions, g.failing = []) (stops : r.stopAt = true) :
    ∃ u, stepEffect c r s = closeRun r c.slot c.row Status.ok 0 u ∧ inPair u = false ∧ Stopping q u ∧ u.gw.held = s.gw.held ∧
      u.gw.runstate = .job ∧ u.gw.sessions = s.gw.sessions := by
  obtain ⟨seq, rec, registers⟩ := stepRegisters_eq s
  obtain ⟨g, maps⟩ := sliverMaps_eq (s := { s with seq := seq, log := rec }) sound
  have ends : runEnds c.bits r = true := by simp [runEnds, stops]
  have pending (slot : Bool) (next : Nat) (q' : Seq) : stepPending slot next { s with seq := q', log := rec, regions := g } =
      { s with seq := q', log := rec, regions := g } :=
    stepPending_quiet (s := { s with seq := q', log := rec, regions := g }) noReshard stopping.sleep stopping.debug stopping.image slot next
  refine ⟨{ s with seq := { seq with step := seq.step + 1 }, log := rec, regions := g, gw := { s.gw with runstate := .job } }, ?_, alone,
    ⟨stopping.stop, stopping.sleep, stopping.debug, stopping.image⟩, rfl, rfl, rfl⟩
  simp only [stepEffect, registers, maps, ends, if_true, onSeq, pending]

theorem stopDone_own {r : ActiveRun} {s t : State} (own : r.req ≠ farReq) (sessions : t.gw.sessions = s.gw.sessions) (q : Req) (slot : Bool)
    (row : Nat) (status code : BitVec 16) : stopDone q r slot row status code t =
      [completionOf s r.req 0x36 status 0 (runPayload t slot row code), completionOf s q 0x37 Status.ok 0 []] := by
  rw [stopDone, runDone, if_neg own, completionOf_congr sessions, completionOf_congr sessions]
  rfl

/-- Settles O47: the two modes of STOP, and the boundary that ends the run. -/
theorem stopEndsTheRun : Obligations.StopEndsTheRun := by
  intro s r w solo h sleep debug image own
  obtain ⟨alone, -, -⟩ := h.alone
  obtain ⟨awake, going, -⟩ := h.issuing
  obtain ⟨held, flight, -, -⟩ := h.free
  refine ⟨fun q mode starts => ⟨?_, ?_, exec_stop_unknown starts⟩, fun q dt stop kind stops noReshard sound => ?_⟩
  · rintro rfl
    rw [exec_stop alone starts (by decide)]
    exact congrArg _ (stopBoundary_marks h.run awake)
  · rintro rfl
    have stopped := stopNow_stops (q := q) (s := stopWaits q s) (by simpa [inPair, stopWaits] using alone)
      (stopWaits_stopping sleep debug image) (by simpa [stopWaits] using h.run) going (by simpa [stopWaits] using flight)
      (by simpa [stopWaits] using held)
    obtain ⟨⟨x, seq⟩, mem, gw⟩ := stopped
    have payload : runPayload (stopWaits q s) r.slot r.next 0 = runPayload s r.slot r.next 0 := by simp [runPayload, stopWaits]
    have now : stopRun (decide ((1 : BitVec 8) = 1)) (stopWaits q s) = stopNow (stopWaits q s) := rfl
    have run := exec_stop (mode := 1) alone starts (by decide)
    rw [now] at run
    have completes : (stopNow (stopWaits q s)).gw.held = (start q s).gw.held ++
        [completionOf s r.req 0x36 Status.stopped 0 (runPayload s r.slot r.next 0), completionOf s q 0x37 Status.ok 0 []] := by
      rw [gw, ← payload, ← stopDone_own (t := stopWaits q s) own (start_sessions q s)]
      rfl
    refine ⟨_, run, ?_, ?_, ?_, ?_, ?_, ?_, (settled_held _ _).trans completes, ?_, (settled_mem _ _).trans (mem.trans ?_)⟩
    · rw [settled_runstate, gw]
    · rw [settled_seq, seq]; cases r.slot <;> rfl
    · rw [settled_seq, seq]
    · rw [settled_seq, seq]
    · rw [settled_seq, seq]
    · rw [slotOf_settled, slotOf, seq]; cases r.slot <;> rfl
    · rw [settled_stopCmd, gw]
    · simp [stopWaits]
  · have stopping : Stopping q (goesOnAt r r.next s) := ⟨stop, sleep, debug, image⟩
    obtain ⟨u, closes, alone', stopping', before, job, sessions⟩ :=
      stepEffect_ends (c := issuing r w s) (r := r) (s := goesOnAt r r.next s) alone stopping noReshard sound stops
    obtain ⟨x, p, g, rec, closed⟩ := closeRun_stopping alone' stopping' r r.slot r.next Status.ok 0
    have run : exec (.stepRow dt) s = .next (settled s (closeRun r r.slot r.next Status.ok 0 u)) := by
      rw [exec, execStepRow, event_holds rfl, controlEvent_atRow h (by simp [kind]) (barrierWait_atRow h), closes]
      rfl
    rw [closed, stopDone_own (s := s) own sessions, before] at run
    refine ⟨_, _, run, ?_, ?_, settled_stopCmd _ _, settled_held _ _⟩
    · rw [settled_runstate]; exact job
    · rw [settled_seq]; cases r.slot <;> rfl

end Sys2Proof.Machine

/-! ## O12: debug access opens and closes

Outside a pair nobody else is told, so that opening is `enterDebug` (`debugOpen_alone`) and each end `endDebug` with its cause
(`endDebug_opened`). On the primary of a pair with an active run the token's data wait in `debugWait` (`debugOpen_waits`). -/

namespace Sys2Proof.Machine

/-! ### Tokens, R331 -/

theorem withToken_good {kind : Nat} {pairTok : Bool} {token : BitVec 1536} {s : State} (good : tokenCheck kind pairTok token s = none)
    (q : Req) (op : Nat) (f : State → State) : withToken q op kind pairTok token f s = f s := by rw [withToken, good]

/-- A token is judged by the identity, the binding, the pair record and the recorder alone. -/
theorem tokenCheck_congr {s t : State} (identity : t.identity = s.identity) (trust : t.trust = s.trust) (pair : t.pair = s.pair)
    (log : t.log = s.log) (kind : Nat) (pairTok : Bool) (token : BitVec 1536) :
    tokenCheck kind pairTok token t = tokenCheck kind pairTok token s := by
  unfold tokenCheck ownerFp identityFp identityKey opHours
  rw [identity, trust, pair, log]

@[simp] theorem tokenCheck_start (kind : Nat) (pairTok : Bool) (token : BitVec 1536) (q : Req) (s : State) :
    tokenCheck kind pairTok token (start q s) = tokenCheck kind pairTok token s :=
  tokenCheck_congr (start_identity q s) (start_trust q s) (start_pair q s) (start_log q s) kind pairTok token

/-! ### DEBUG_OPEN -/

theorem exec_debugOpen {s : State} {q : Req} {token : BitVec 1536}
    (starts : Starts 0x70 0 q ((s.trust.debug).isNone && s.trust.debugWait.isNone && policyDebug s.trust.policy) s)
    (good : tokenCheck 3 (inPair s) token s = none) :
    exec (.debugOpen q token) s = .next (settled s (debugOpen q token (start q s))) := by
  rw [exec, execDebugOpen, command_starts starts, withToken_good ((tokenCheck_start ..).trans good)]

theorem debugOpen_waits {s : State} {r : ActiveRun} (primary : s.pair.role = .primary) (run : s.seq.run = some r) (q : Req)
    (token : BitVec 1536) : debugOpen q token s = { s with
      trust := { s.trust with debugWait := some (tokenExpiry token, q.sid, tokenOwner token, some q) }
      fab := (sendLash (.forward (.debugOpen (tokenExpiry token) (tokenOwner token))) s).fab } := by
  rw [debugOpen, sendLash_eq]
  exact if_pos (by simp [primary, run])

theorem debugOpen_alone {s : State} (alone : inPair s = false) (q : Req) (token : BitVec 1536) :
    debugOpen q token s = enterDebug (tokenExpiry token) q.sid (tokenOwner token) (some q) s := by
  have noPrimary : s.pair.role ≠ .primary := by intro h; simp [inPair, h] at alone
  rw [debugOpen, sendLash_alone _ _ alone]
  exact if_neg (by simp [noPrimary])

/-! ### The end of debug access -/

theorem endDebug_opened {s : State} {e : BitVec 32} {sid : BitVec 3} (opened : s.trust.debug = some (e, sid)) (cause : Nat) :
    endDebug cause s = { s with
      trust := { s.trust with debug := none, debugWait := none }
      log := s.log.push (s.log.stamp Code.debugClose 0 [BitVec.ofNat 8 cause]) } := by
  rw [endDebug, opened]; rfl

theorem exec_debugClose {s : State} {q : Req} (alone : inPair s = false) (starts : Starts 0x71 0 q (s.trust.debug).isSome s) :
    exec (.debugClose q) s = .next (settled s (reply q 0x71 [0] (endDebug 0 (start q s)))) := by
  rw [exec, execDebugClose, command_starts starts, sendLash_alone _ _ (by simpa [inPair] using alone)]

theorem exec_debugExpiry {s : State} {e : BitVec 32} {sid : BitVec 3} (alone : inPair s = false) (opened : s.trust.debug = some (e, sid))
    (expired : e.toNat * 3600 ≤ s.log.opSeconds.toNat) : exec .debugExpiry s = .next (settled s (endDebug 1 s)) := by
  rw [exec, execDebugExpiry, event_holds (by simpa [debugExpired, opened] using expired), sendLash_alone _ _ alone]

theorem exec_debugExpiry_early {s : State} {e : BitVec 32} {sid : BitVec 3} (opened : s.trust.debug = some (e, sid))
    (early : s.log.opSeconds.toNat < e.toNat * 3600) : exec .debugExpiry s = .next s := by
  rw [exec, execDebugExpiry, event_waits (by simpa [debugExpired, opened] using early)]

/-- Settles O12: the wait for the boundary of a pair, then opening, close and expiry outside one. -/
theorem debugAccessOpensAndCloses : Obligations.DebugAccessOpensAndCloses := by
  intro s q
  refine ⟨fun token r primary run starts good => ?_, fun solo => ⟨fun token starts good => ?_, fun starts => ?_,
    fun e sid opened => ⟨fun expired => ?_, exec_debugExpiry_early opened⟩⟩⟩
  · have paired : inPair s = true := by simp [inPair, primary]
    refine ⟨_, exec_debugOpen starts (by rw [paired, good]), ?_⟩
    rw [debugOpen_waits (s := start q s) (r := r) (by simpa using primary) (by simpa using run)]
    simp [SameData]
  · have alone := alone_of_solo solo
    refine ⟨_, exec_debugOpen starts (by rw [alone, good]), ?_⟩
    rw [debugOpen_alone (by simpa [inPair] using alone)]
    simp [enterDebug, record, SameData, SameModule]
  · obtain ⟨⟨e, sid⟩, opened⟩ := Option.isSome_iff_exists.mp (Starts.own starts)
    refine ⟨_, exec_debugClose (alone_of_solo solo) starts, ?_⟩
    rw [endDebug_opened (s := start q s) (e := e) (sid := sid) (by simpa using opened)]
    refine ⟨by simp [reply], by simp [reply], ?_, by simp [reply, SameData], by simp [reply, SameModule]⟩
    rw [settled_held, ← completionOf_congr (s := s) (start_sessions q s)]
    rfl
  · refine ⟨_, exec_debugExpiry (alone_of_solo solo) opened expired, ?_⟩
    rw [endDebug_opened opened]
    simp [SameData, SameModule]

end Sys2Proof.Machine

/-! ## O8: RETIRE erases the binding, and POLICY_SET takes only a higher version

RETIRE is a record, the erasure of the binding and a cold reset. Of the last `ColdReset` says what is lost (O17), and `trust_coldReset`
that no part of the binding comes back with it. -/

namespace Sys2Proof.Machine

/-! ### What a cold reset leaves of the trust block -/

theorem trust_endDebug (cause : Nat) (s : State) : (endDebug cause s).trust = { s.trust with debug := none, debugWait := none } := by
  unfold endDebug
  split
  next closed => simp [← closed]
  next => rfl

theorem trust_bootImage (s : State) : ∃ running noImage, (bootImage s).trust = { s.trust with running := running, noImage := noImage } := by
  unfold bootImage
  split <;> exact ⟨_, _, rfl⟩

theorem trust_coldReset (s : State) : ∃ running noImage, (coldReset s).trust = { s.trust with
    debug := none, debugWait := none, checkpoint := none, sealing := false, imageStaged := false, running := running,
    noImage := noImage } := by
  obtain ⟨running, noImage, booted⟩ := trust_bootImage { voidReshard (endDebug 3 (volatileLoss s)) with
    power := { (voidReshard (endDebug 3 (volatileLoss s))).power with boostEn := true, dozeTarget := false }
    thermal := { (voidReshard (endDebug 3 (volatileLoss s))).thermal with granted := false, creditMs := some 0 } }
  exact ⟨running, noImage, booted.trans (by rw [voidReshard_trust, trust_endDebug]; rfl)⟩

/-! ### RETIRE, R321 -/

/-- The module without its binding, before the cold reset. -/
def unbound (s : State) : State :=
  { s with
    log := s.log.push (s.log.stamp Code.retired 0 [])
    trust := { s.trust with lifecycle := .retired, ownerKey := 0, domain := 0, policy := 0, wrapKey := 0 }
    fab := { s.fab with cfg := 0 }
    pair := { s.pair with record := PairRecord.zero } }

theorem retireNow_eq (s : State) : retireNow s = coldReset (unbound s) := rfl

theorem exec_retire {s : State} {q : Req} {token : BitVec 1536}
    (starts : Starts 0x11 0 q (inState s [.ready] && decide (s.pair.role = .solo) && maintNone s) s)
    (good : tokenCheck 1 false token s = none) : exec (.retire q token) s = .next (settled s (coldReset (unbound (start q s)))) := by
  rw [exec, execRetire, command_starts starts, withToken_good ((tokenCheck_start ..).trans good), retireNow_eq]

theorem coldReset_cfg (s : State) : (coldReset s).fab.cfg = s.fab.cfg := by simp [coldReset, coldStart, volatileLoss]

theorem coldReset_pins (s : State) : (coldReset s).pins = s.pins := by simp [coldReset, coldStart, volatileLoss]

theorem coldReset_pending (s : State) : (coldReset s).pending = s.pending := by simp [coldReset, coldStart, volatileLoss]

theorem retireErasesTheBinding : Claims.RetireErasesTheBinding := by
  intro s q token starts good
  have cold := coldReset_coldReset (unbound (start q s))
  obtain ⟨running, noImage, trust⟩ := trust_coldReset (unbound (start q s))
  refine ⟨_, exec_retire starts good, ?_⟩
  simp only [settled_trust, settled_fab, settled_sessions, settled_held, settled_runstate, settled_job, settled_seq, settled_mem,
    settled_power, settled_pins, settled_pending, trust, coldReset_cfg, coldReset_pins, coldReset_pending, cold.gw, cold.job, cold.seq,
    cold.mem, cold.startup]
  simp [unbound, Gangway.reset, Mem.reset]

/-! ### POLICY_SET, R328 -/

/-- The block is held, with its record. -/
def withPolicy (policy : BitVec 4096) (s : State) : State :=
  record Code.policySet [] { s with trust := { s.trust with policy := policy } }

section
variable {s : State} {policy : BitVec 4096} (form : policyFormOk policy = true) (signed : policySigned policy s.trust.ownerKey = true)
include form signed

theorem policySet_stale (notAbove : policyVersion policy ≤ policyVersion s.trust.policy) (q : Req) :
    policySet q policy s = refuse q 0x14 Status.staleToken s := by
  simp [policySet, form, signed, notAbove]

theorem policySet_higher (above : policyVersion s.trust.policy < policyVersion policy) (q : Req) :
    policySet q policy s = reply q 0x14 (wordBytes (policyDigest (withPolicy policy s))) (withPolicy policy s) := by
  simp [policySet, form, signed, not_le.mpr above, withPolicy]

end

theorem policySetNeedsAHigherVersion : Claims.PolicySetNeedsAHigherVersion := by
  intro s q policy starts form signed
  have signed' : policySigned policy (start q s).trust.ownerKey = true := by rw [start_trust, signed]
  refine ⟨fun notAbove => command_replies starts _ (policySet_stale form signed' (by simpa using notAbove) q), fun above =>
    ⟨_, command_starts starts _, ?_⟩⟩
  rw [policySet_higher form signed' (by simpa using above)]
  simp [withPolicy, reply, SameData, SameModule]

/-- Settles O8, command by command. -/
theorem lifecycleAndPolicyChangesAreRecorded : Obligations.LifecycleAndPolicyChangesAreRecorded :=
  ⟨retireErasesTheBinding, policySetNeedsAHigherVersion⟩

end Sys2Proof.Machine

/-! ## O14: AUX good and AUX lost

What the island writes at AUX good changes the recorder and the trust block alone, and leaves the two counters of R352 as they were
(`islandWrites_auxRecords`); what it does to the trust block is `tampered` and the reading of the cell (`trust_auxRecords`). A failed check
goes through `zeroise` first (`zeroise_zeroised`). The loss of AUX is `standby`, with the lockout of R370 where MAIN was up. -/

namespace Sys2Proof.Machine

/-! ### The counters of R352 -/

/-- OP_SECONDS and POWER_CYCLES are as before. -/
def SameCounters (l m : Recorder) : Prop := m.opSeconds = l.opSeconds ∧ m.powerCycles = l.powerCycles

theorem SameCounters.trans {l m n : Recorder} (a : SameCounters l m) (b : SameCounters m n) : SameCounters l n :=
  ⟨b.1.trans a.1, b.2.trans a.2⟩

theorem sameCounters_takeLost (l : Recorder) : SameCounters l l.takeLost := by
  unfold Recorder.takeLost; split <;> exact ⟨rfl, rfl⟩

theorem sameCounters_push (l : Recorder) (r : Rec) : SameCounters l (l.push r) := by
  have taken := sameCounters_takeLost l
  unfold Recorder.push
  split
  · split <;> exact ⟨rfl, rfl⟩
  · dsimp only; split <;> exact taken

theorem sameCounters_auxBack (l : Recorder) : SameCounters l l.auxBack := by
  unfold Recorder.auxBack; split <;> exact ⟨rfl, rfl⟩

theorem sameCounters_record (c : RecCode) (params : List Byte) (s : State) : SameCounters s.log (record c params s).log :=
  sameCounters_push _ _

theorem sameCounters_endDebug (cause : Nat) (s : State) : SameCounters s.log (endDebug cause s).log := by
  unfold endDebug
  split
  · exact ⟨rfl, rfl⟩
  · exact sameCounters_record _ _ _

theorem sameCounters_voidReshard (s : State) : SameCounters s.log (voidReshard s).log := by
  unfold voidReshard
  split
  · exact ⟨rfl, rfl⟩
  · exact (sameCounters_record ..).trans ⟨rfl, rfl⟩

/-! ### The records of AUX good, R358 -/

/-- The recorder, the trust block and the note of R371 alone may differ, and the counters do not. -/
structure IslandWrites (s t : State) : Prop where
  frame : t = { s with trust := t.trust, log := t.log, power := { s.power with auxOrder := t.power.auxOrder } }
  counters : SameCounters s.log t.log

theorem IslandWrites.trans {s t u : State} (a : IslandWrites s t) (b : IslandWrites t u) : IslandWrites s u where
  frame := b.frame.trans (by rw [a.frame])
  counters := a.counters.trans b.counters

theorem IslandWrites.kept {s t : State} (h : IslandWrites s t) : t.pins = s.pins ∧ t.thermal = s.thermal ∧ t.mem = s.mem ∧
    t.seq = s.seq ∧ t.regions = s.regions ∧ t.gw = s.gw ∧ ∃ x, t.power = { s.power with auxOrder := x } :=
  ⟨(congrArg State.pins h.frame :), (congrArg State.thermal h.frame :), (congrArg State.mem h.frame :), (congrArg State.seq h.frame :),
    (congrArg State.regions h.frame :), (congrArg State.gw h.frame :), _, (congrArg State.power h.frame :)⟩

theorem islandWrites_log {s : State} {l : Recorder} (same : SameCounters s.log l) : IslandWrites s { s with log := l } := ⟨rfl, same⟩

theorem islandWrites_record (c : RecCode) (params : List Byte) (s : State) : IslandWrites s (record c params s) :=
  islandWrites_log (sameCounters_push _ _)

theorem islandWrites_tamperRecord (flags : BitVec 8) (s : State) : IslandWrites s (tamperRecord flags s) := by
  unfold tamperRecord
  split
  · exact ⟨rfl, rfl, rfl⟩
  · exact ⟨rfl, sameCounters_push s.log _⟩

theorem islandWrites_cellCheck (flags : BitVec 8) (mv : BitVec 16) (s : State) : IslandWrites s (cellCheck flags mv s) := by
  unfold cellCheck
  dsimp only
  split
  · exact ⟨rfl, sameCounters_push _ _⟩
  · exact ⟨rfl, rfl, rfl⟩

theorem islandWrites_bootImage (s : State) : IslandWrites s (bootImage s) := by
  unfold bootImage
  split
  · exact ⟨rfl, rfl, rfl⟩
  · exact ⟨rfl, sameCounters_record ..⟩

/-- The queue as R358 orders it: the records from before AUX failed come after LOST and TAMPER. -/
def auxQueue (flags : BitVec 8) (s : State) : State :=
  let t := tamperRecord flags { s with log := ({ s.log with queue := [] } : Recorder).auxBack }
  { t with log := { t.log with queue := t.log.queue ++ s.log.queue } }

/-- Record AUX_ORDER, where the supplies failed in that order. -/
def auxOrderRecord (s : State) : State :=
  if s.power.auxOrder then
    { s with log := s.log.push (s.log.stamp Code.auxOrder 8 []), power := { s.power with auxOrder := false } } else s

/-- Record POWER_UP. -/
def powerUp (cell : BitVec 16) (s : State) : State :=
  record Code.powerUp (wordBytes cell ++ [BitVec.ofNat 8 (b2n s.trust.running), BitVec.ofNat 8 s.trust.lifecycle.code]) s

theorem auxRecords_eq (deferred : Bool) (cell : BitVec 16) (s : State) : auxRecords deferred cell s =
    powerUp cell (bootImage (cellCheck 8 cell (auxOrderRecord (auxQueue (if deferred then 8 else 0) s)))) := rfl

theorem islandWrites_auxQueue (flags : BitVec 8) (s : State) : IslandWrites s (auxQueue flags s) :=
  have back : SameCounters s.log ({ s.log with queue := [] } : Recorder).auxBack := sameCounters_auxBack { s.log with queue := [] }
  (islandWrites_log back).trans ((islandWrites_tamperRecord _ _).trans (islandWrites_log ⟨rfl, rfl⟩))

theorem islandWrites_auxOrderRecord (s : State) : IslandWrites s (auxOrderRecord s) := by
  unfold auxOrderRecord
  split
  · exact ⟨rfl, sameCounters_push _ _⟩
  · exact ⟨rfl, rfl, rfl⟩

theorem islandWrites_auxRecords (deferred : Bool) (cell : BitVec 16) (s : State) : IslandWrites s (auxRecords deferred cell s) := by
  rw [auxRecords_eq]
  exact (islandWrites_auxQueue _ _).trans ((islandWrites_auxOrderRecord _).trans ((islandWrites_cellCheck _ _ _).trans
    ((islandWrites_bootImage _).trans (islandWrites_record ..))))

/-- The trust block once a latched trip has been recorded: an ENROLLED module is ERASED, and TAMPER_COUNT counts. -/
def tampered (t : Trust) : Trust :=
  if t.tamperLatch = 0 then t
  else { t with tamperLatch := 0, tamperCount := t.tamperCount + 1, lifecycle := if t.lifecycle = .enrolled then .erased else t.lifecycle }

theorem trust_tamperRecord (flags : BitVec 8) (s : State) : (tamperRecord flags s).trust = tampered s.trust := by
  unfold tamperRecord tampered
  split <;> rfl

theorem trust_auxOrderRecord (s : State) : (auxOrderRecord s).trust = s.trust := by
  unfold auxOrderRecord
  split <;> rfl

theorem trust_cellCheck (flags : BitVec 8) (mv : BitVec 16) (s : State) :
    (cellCheck flags mv s).trust = { s.trust with cellMv := mv, cellLow := decide (mv.toNat < 2600) } := by
  unfold cellCheck
  dsimp only
  split <;> rfl

theorem trust_auxRecords (deferred : Bool) (cell : BitVec 16) (s : State) : ∃ running noImage, (auxRecords deferred cell s).trust =
    { tampered s.trust with cellMv := cell, cellLow := decide (cell.toNat < 2600), running := running, noImage := noImage } := by
  obtain ⟨running, noImage, booted⟩ := trust_bootImage (cellCheck 8 cell (auxOrderRecord (auxQueue (if deferred then 8 else 0) s)))
  refine ⟨running, noImage, booted.trans ?_⟩
  have queued : (auxQueue (if deferred then 8 else 0) s).trust = tampered s.trust := trust_tamperRecord _ _
  rw [trust_cellCheck, trust_auxOrderRecord, queued]

/-! ### A failed check, R346 -/

theorem foldl_completeClear (status : BitVec 16) (l : List Req) (s : State) :
    ∃ gw, l.foldl (fun s q => completeClear q.tag status s) s = { s with gw := gw } := by
  induction l generalizing s with
  | nil => exact ⟨s.gw, rfl⟩
  | cons q l ih =>
    obtain ⟨gw, later⟩ := ih (completeClear q.tag status s)
    exact ⟨gw, later⟩

/-- What zeroising leaves: pins and thermal state are as before; the binding and debug access are gone, and the sensors are latched. -/
structure Zeroised (sensors : BitVec 8) (s t : State) : Prop where
  pins : t.pins = s.pins
  power : t.power = { s.power with sleepReq := false }
  thermal : t.thermal = s.thermal
  trust : t.trust = { s.trust with
    debug := none, debugWait := none, ownerKey := 0, domain := 0, policy := 0, wrapKey := 0
    tamperLatch := s.trust.tamperLatch ||| sensors, checkpoint := none, sealing := false, imageStaged := false }
  counters : SameCounters s.log t.log

/-- The binding, the pair record and the fabric configuration become unreadable, and the sensors are latched. -/
def unreadable (sensors : BitVec 8) (s : State) : State :=
  { s with
    trust := { s.trust with ownerKey := 0, domain := 0, policy := 0, wrapKey := 0, tamperLatch := s.trust.tamperLatch ||| sensors }
    pair := { s.pair with role := .solo, record := PairRecord.zero, recordOk := true }
    fab := { s.fab with cfg := 0 } }

theorem zeroise_eq (sensors : BitVec 8) (s : State) :
    ∃ gw, zeroise sensors s = { volatileLoss (voidReshard (unreadable sensors (endDebug 4 s))) with gw := gw } := by
  obtain ⟨gw, closed⟩ := foldl_completeClear Status.sessionClosed ((running s).filter Req.isSealed) _
  exact ⟨gw, closed⟩

theorem zeroise_zeroised (sensors : BitVec 8) (s : State) : Zeroised sensors s (zeroise sensors s) := by
  obtain ⟨gw, effect⟩ := zeroise_eq sensors s
  rw [effect]
  constructor
  case counters => exact (sameCounters_endDebug 4 s).trans ((sameCounters_voidReshard (unreadable sensors (endDebug 4 s))).trans ⟨rfl, rfl⟩)
  all_goals simp [volatileLoss, unreadable, trust_endDebug]

/-! ### AUX good, R365 -/

/-- The island as it comes up, before its state is checked: registers without supply are as after a reset, and the counters of R352 go on
from the island's copy, or from secure flash where that is lost. -/
def islandUp (ok : Bool) (cell : BitVec 16) (slotId : BitVec 3) (owner : Bool) (s : State) : State :=
  { s with
    pins := { s.pins with aux := true, slotId := slotId, ownerPresentN := owner, thermTripN := true }
    power := { s.power with startup := 1, auxReady := false, railFaults := 0, lockout := freeAux s.power.lockout }
    thermal := { s.thermal with outletTarget := 0x370, dutyMin := 25, duty := 1000, cappedMs := 0, boostMs := 0, conds := [],
                                tripped := false, hot := false, loopOn := false, ran := false }
    trust := { s.trust with cellMv := cell, tamperLatch := if ok then s.trust.tamperLatch else 0 }
    log := if ok then { s.log with powerCycles := s.log.powerCycles + 1, flashCycles := s.log.powerCycles + 1 }
           else { s.log with opSeconds := s.log.flashOp + 256, powerCycles := s.log.flashCycles + 1,
                             flashCycles := s.log.flashCycles + 1 } }

/-- A state that fails its check is zeroised by sensor 7. -/
def islandChecked (ok : Bool) (cell : BitVec 16) (slotId : BitVec 3) (owner : Bool) (s : State) : State :=
  if ok then islandUp ok cell slotId owner s else zeroise 0x80 (islandUp ok cell slotId owner s)

/-- A MAIN_EN that is asserted already is held until AUX is ready. -/
def holdMain (s : State) : State := onPower (fun p => { p with mainHold := s.pins.mainEn }) s

section
variable (ok : Bool) (cell : BitVec 16) (slotId : BitVec 3) (owner : Bool) (s : State)

theorem auxGood_eq : ∃ deferred, auxGood ok cell slotId owner s = holdMain (auxRecords deferred cell (islandChecked ok cell slotId owner s)) :=
  ⟨_, rfl⟩

theorem islandChecked_supply : (islandChecked ok cell slotId owner s).pins = (islandUp ok cell slotId owner s).pins ∧
    (islandChecked ok cell slotId owner s).thermal = (islandUp ok cell slotId owner s).thermal ∧
    ∃ x, (islandChecked ok cell slotId owner s).power = { (islandUp ok cell slotId owner s).power with sleepReq := x } := by
  cases ok with
  | true => exact ⟨rfl, rfl, _, rfl⟩
  | false =>
    have zeroised := zeroise_zeroised 0x80 (islandUp false cell slotId owner s)
    exact ⟨zeroised.pins, zeroised.thermal, _, zeroised.power⟩

end

theorem freeAux_none_iff (l : Lockout) : freeAux l = .none ↔ l = .none ∨ l = .untilAux := by cases l <;> decide

theorem freeAux_locked {l : Lockout} (locked : freeAux l ≠ .none) : freeAux l = .untilDeassert := by
  unfold freeAux at *
  split at locked <;> simp_all

theorem ownerKey_tampered (t : Trust) : (tampered t).ownerKey = t.ownerKey := by unfold tampered; split <;> rfl

theorem auxGoodBootsTheIsland : Claims.AuxGoodBootsTheIsland := by
  intro s ok cell slotId owner noAux
  obtain ⟨deferred, good⟩ := auxGood_eq ok cell slotId owner s
  obtain ⟨running, noImage, trust⟩ := trust_auxRecords deferred cell (islandChecked ok cell slotId owner s)
  have wrote := islandWrites_auxRecords deferred cell (islandChecked ok cell slotId owner s)
  obtain ⟨seconds, cycles⟩ := wrote.counters
  obtain ⟨pins, thermal, mem, seq, regions, gw, order, power⟩ := wrote.kept
  obtain ⟨pins', thermal', sleep, power'⟩ := islandChecked_supply ok cell slotId owner s
  have run : exec (.auxGood ok cell slotId owner) s = .next (settled s (auxGood ok cell slotId owner s)) := by
    rw [exec, execAuxGood, event_holds (by simp [noAux])]
  refine ⟨_, run, ?_⟩
  simp only [good, holdMain, settled_pins, settled_power, settled_thermal, settled_trust, settled_log, settled_mem, settled_seq,
    settled_regions, settled_sessions, onPower_pins, onPower_power, onPower_thermal, onPower_trust, onPower_log, onPower_mem, onPower_seq,
    onPower_regions, onPower_gw, trust, seconds, cycles, pins, thermal, mem, seq, regions, gw, power, pins', thermal', power',
    decide_eq_true_eq]
  refine ⟨rfl, rfl, rfl, freeAux_none_iff _, freeAux_locked, rfl, rfl, trivial, trivial, ?_, ?_⟩
  · rintro rfl
    exact ⟨rfl, rfl, rfl, rfl, rfl, ownerKey_tampered _, rfl⟩
  · rintro rfl
    have zeroised := zeroise_zeroised 0x80 (islandUp false cell slotId owner s)
    have trips : (islandChecked false cell slotId owner s).trust = _ := zeroised.trust
    have counts : (islandChecked false cell slotId owner s).log.powerCycles = _ := zeroised.counters.2
    rw [trips, counts]
    simp +contextual [tampered, islandUp]

/-! ### AUX lost, R371 -/

theorem auxLost_eq (s : State) : auxLost s = { standby s with
    pins := { s.pins with aux := false, thermTripN := true, smbAlertN := true }
    power := { (standby s).power with
      lockout := if s.power.rails then lockDeassert s.power.lockout else s.power.lockout
      startup := 0, auxReady := false, auxOrder := s.power.auxOrder || s.power.rails }
    thermal := { (standby s).thermal with tripped := false, hot := false }
    log := (standby s).log.auxFail } := by
  unfold auxLost
  cases s.power.rails <;> rfl

/-- What fails with AUX is the queue: the records committed before are kept. -/
theorem Recorder.auxFail_committed (l : Recorder) : l.auxFail.ring = l.ring ∧ l.auxFail.prot = l.prot ∧ l.auxFail.nextSeq = l.nextSeq := by
  unfold Recorder.auxFail
  dsimp only
  split <;> exact ⟨rfl, rfl, rfl⟩

theorem auxLostKeepsOnlyTheIsland : Claims.AuxLostKeepsOnlyTheIsland := by
  intro s aux
  obtain ⟨ring, prot, nextSeq⟩ := (standby s).log.auxFail_committed
  have run : exec .auxLost s = .next (settled s (auxLost s)) := by rw [exec, execAuxLost, event_holds aux]
  refine ⟨_, run, ?_⟩
  rw [auxLost_eq]
  simp only [settled_pins, settled_power, settled_mem, settled_seq, settled_job, settled_sessions, settled_log, settled_trust, settled_fab,
    ring, prot, nextSeq]
  refine ⟨trivial, rfl, rfl, trivial, fun on => if_pos on, fun off => if_neg (by simp [off]), trivial, rfl, rfl, rfl, rfl, rfl, rfl, rfl, rfl,
    rfl, rfl, rfl, rfl, rfl, rfl⟩

/-- Settles O14, event by event. -/
theorem auxGoodAndLost : Obligations.AuxGoodAndLost := ⟨auxGoodBootsTheIsland, auxLostKeepsOnlyTheIsland⟩

end Sys2Proof.Machine

/-! ## O52: seals write head, chunks and manifest

A seal reads the tiers and writes its window (`writeWindow`), in which the memory is all that changes; the rest of each step is the job and
its checkpoint (`startSeal`, `endSeal`). Where one range fits one chunk, the pieces, the number of chunks and the bytes are that range's own
(`rangePieces_whole`, `sealChunks_whole`). -/

namespace Sys2Proof.Machine

@[simp] theorem settled_seals (s t : State) : (settled s t).gw.seals = t.gw.seals := by rw [settled_gw]

@[simp] theorem start_seals (q : Req) (s : State) : (start q s).gw.seals = s.gw.seals := by rw [start_gw]

/-! ### Windows of a state whose registration is the same -/

theorem windowHolds_congr {s t : State} (windows : t.gw.windows = s.gw.windows) (window off n : Nat) :
    windowHolds t window off n = windowHolds s window off n := by rw [windowHolds, windowHolds, windows]

theorem windowAddr_congr {s t : State} (windows : t.gw.windows = s.gw.windows) (window off : Nat) :
    windowAddr t window off = windowAddr s window off := by rw [windowAddr, windowAddr, windows]

theorem toNat_window {window : BitVec 32} (number : window.toNat ≤ 255) : (BitVec.ofNat 8 window.toNat).toNat = window.toNat := by
  rw [BitVec.toNat_ofNat, Nat.mod_eq_of_lt (by omega)]

/-- The bytes land in the window that the job names. -/
theorem mem_writeWindow_congr {s t : State} (mem : t.mem = s.mem) (windows : t.gw.windows = s.gw.windows) (j : SealJob) (off : Nat)
    (bs : List Byte) : (writeWindow j off bs t).mem = (writeMem 3 (windowAddr s j.window.toNat (j.offset.toNat + off)) bs s).mem := by
  rw [writeWindow, windowAddr_congr windows, mem_writeMem_congr mem]

/-! ### SEAL, R334 -/

theorem rangeExists_congr {s t : State} (pair : t.pair = s.pair) : rangeExists t = rangeExists s :=
  funext fun r => by rw [rangeExists, rangeExists, spaceEnd, spaceEnd, inPair, inPair, pair]

theorem rangesOk_congr {s t : State} (pair : t.pair = s.pair) (l : List (BitVec 128)) : rangesOk t l = rangesOk s l := by
  rw [rangesOk, rangesOk, rangeExists_congr pair]

/-- The job of a SEAL. -/
def newSeal (q : Req) (ident : BitVec 64) (window : BitVec 32) (offset : BitVec 64) (l : List (BitVec 128)) (s : State) : SealJob :=
  { req := q, kind := .seal, sealId := ident, sealNonce := Config.random64 s.free, window := BitVec.ofNat 8 window.toNat, offset := offset,
    ranges := l, chunk := 0, resume := 0, tag := 0, step := BitVec.ofNat 64 s.seq.step.toNat, fetched := false }

section
variable {s : State} {q : Req} {ident : BitVec 64} {window : BitVec 32} {offset : BitVec 64} {l : List (BitVec 128)}

theorem sealTiers_badRanges (bad : rangesOk s l = false) : sealTiers q ident window offset l s = refuseField q 0x40 3 s :=
  checkField_false _ _ _ _ _ bad

theorem sealTiers_badWindow (legal : rangesOk s l = true)
    (bad : 255 < window.toNat ∨ windowHolds s window.toNat offset.toNat (sealBytes l) = false) :
    sealTiers q ident window offset l s = refuseField q 0x40 1 s := by
  have refused : (window.toNat ≤ 255 && windowHolds s window.toNat offset.toNat (sealBytes l)) = false := by
    rcases bad with large | small
    · simp [large]
    · simp [small]
  rw [sealTiers, checkField_true _ _ _ _ _ legal, checkField_false _ _ _ _ _ refused]
  rfl

theorem sealTiers_begins (legal : rangesOk s l = true) (number : window.toNat ≤ 255)
    (holds : windowHolds s window.toNat offset.toNat (sealBytes l) = true) : sealTiers q ident window offset l s =
      writeWindow (newSeal q ident window offset l s) 0 (sealHead ident (Config.random64 s.free) l)
        (startSeal (newSeal q ident window offset l s) { s with free := s.free + 1 }) := by
  rw [sealTiers, checkField_true _ _ _ _ _ legal, checkField_true _ _ _ _ _ (by simp [number, holds])]
  rfl

variable (starts : Starts 0x40 0 q (inState s [.job, .running, .halted] && maintNone s && s.gw.seals.isNone) s)
include starts

theorem exec_sealTiers_badRanges (bad : rangesOk s l = false) : exec (.sealTiers q ident window offset l) s =
    .next (answered q 0x40 Status.badField (fieldDetail 0x40 3) [] s) :=
  command_replies starts _ (sealTiers_badRanges ((rangesOk_congr (start_pair q s) l).trans bad))

theorem exec_sealTiers_badWindow (legal : rangesOk s l = true)
    (bad : 255 < window.toNat ∨ windowHolds s window.toNat offset.toNat (sealBytes l) = false) :
    exec (.sealTiers q ident window offset l) s = .next (answered q 0x40 Status.badField (fieldDetail 0x40 1) [] s) :=
  command_replies starts _ (sealTiers_badWindow ((rangesOk_congr (start_pair q s) l).trans legal)
    (by rwa [windowHolds_congr (start_windows q s)]))

theorem exec_sealTiers_begins (legal : rangesOk s l = true) (number : window.toNat ≤ 255)
    (holds : windowHolds s window.toNat offset.toNat (sealBytes l) = true) : exec (.sealTiers q ident window offset l) s =
      .next (settled s (writeWindow (newSeal q ident window offset l s) 0 (sealHead ident (Config.random64 s.free) l)
        (startSeal (newSeal q ident window offset l s) { start q s with free := s.free + 1 }))) := by
  have same : newSeal q ident window offset l (start q s) = newSeal q ident window offset l s := by simp [newSeal]
  rw [exec, execSealTiers, command_starts starts, sealTiers_begins ((rangesOk_congr (start_pair q s) l).trans legal) number
    ((windowHolds_congr (start_windows q s) ..).trans holds), same, start_free]

end

theorem sealBegins {s : State} {q : Req} {ident : BitVec 64} {window : BitVec 32} {offset : BitVec 64} {l : List (BitVec 128)}
    (starts : Starts 0x40 0 q (inState s [.job, .running, .halted] && maintNone s && s.gw.seals.isNone) s) (legal : rangesOk s l = true)
    (number : window.toNat ≤ 255) (holds : windowHolds s window.toNat offset.toNat (sealBytes l) = true) :
    ∃ t j, exec (.sealTiers q ident window offset l) s = .next t ∧ t.gw.seals = some j ∧ j.req = q ∧ j.kind = .seal ∧
      j.sealId = ident ∧ j.sealNonce = Config.random64 s.free ∧ j.ranges = l ∧ j.chunk = 0 ∧ j.resume = 0 ∧ j.tag = 0 ∧
      t.trust.sealing = true ∧ t.trust.checkpoint = some { job := j, chunk := 0, tag := 0 } ∧ t.gw.held = (start q s).gw.held ∧
      t.mem = (writeMem 3 (windowAddr s window.toNat offset.toNat) (sealHead ident (Config.random64 s.free) l) s).mem ∧
      t.seq = s.seq ∧ t.log = s.log := by
  have place : (newSeal q ident window offset l s).window.toNat = window.toNat := toNat_window number
  have mem := mem_writeWindow_congr (s := s) (t := startSeal (newSeal q ident window offset l s) { start q s with free := s.free + 1 })
    (start_mem q s) (start_windows q s) (newSeal q ident window offset l s) 0 (sealHead ident (Config.random64 s.free) l)
  refine ⟨_, newSeal q ident window offset l s, exec_sealTiers_begins starts legal number holds, ?seals, rfl, rfl, rfl, rfl, rfl, rfl, rfl,
    rfl, ?sealing, ?checkpoint, ?held, ?mem, ?seq, ?log⟩
  case mem => rw [settled_mem, mem, place]; rfl
  all_goals simp [writeWindow, startSeal, onSeal, newSeal]

/-! ### The end of a seal, R335 -/

theorem sealingJob_some {s : State} {j : SealJob} (taken : s.gw.seals = some j) (seals : j.kind ≠ .unseal) : sealingJob s = some j := by
  rw [sealingJob, taken, Option.filter_some, if_pos (by simpa using seals)]

theorem sealingJob_none {s : State} (free : s.gw.seals = none) : sealingJob s = none := by rw [sealingJob, free]; rfl

/-- The manifest with its tag, before the signature. -/
def unsignedManifest (s : State) (j : SealJob) : List Byte :=
  manifestBody s j ++ manifestTag s j.sealId j.sealNonce (manifestBody s j)

/-- The manifest as it is written, with the signature that the next draw gives. -/
def signedManifest (s : State) (j : SealJob) : List Byte :=
  unsignedManifest s j ++ wordBytes (ecdsaSign s.identity.priv (Config.random384 s.free) (unsignedManifest s j))

theorem manifest_eq (j : SealJob) (s : State) : manifest j s = (signedManifest s j, { s with free := s.free + 1 }) := rfl

theorem sealComplete_eq (j : SealJob) (s : State) : sealComplete j s =
    complete j.req (sealOp j) (sha384 (signedManifest s j) ++ leBytes 8 (sealBytes j.ranges))
      (record Code.sealDone [] (endSeal (writeWindow j (manifestOffset j.ranges) (signedManifest s j) { s with free := s.free + 1 }))) := by
  rw [sealComplete, manifest_eq]

section
variable {s : State} {j : SealJob} (taken : s.gw.seals = some j) (seals : j.kind ≠ .unseal)
include taken seals

theorem exec_sealComplete (up : s.gw.linkUp = true) (written : sealChunks j.ranges ≤ j.chunk) :
    exec .sealComplete s = .next (settled s (sealComplete j s)) := by
  rw [exec, execSealComplete, sealingJob_some taken seals]
  exact event_holds (by simp [up, written]) _ s

theorem exec_sealComplete_early (more : j.chunk < sealChunks j.ranges) : exec .sealComplete s = .next s := by
  rw [exec, execSealComplete, sealingJob_some taken seals]
  exact event_waits (by simp [more]) _ s

theorem exec_sealCheckpoint (up : s.gw.linkUp = true) (more : j.chunk < sealChunks j.ranges) :
    exec .sealCheckpoint s = .next (settled s (sealStep j s)) := by
  rw [exec, execSealCheckpoint, sealingJob_some taken seals]
  exact event_holds (by simp [up, more]) _ s

theorem exec_sealCheckpoint_over (written : sealChunks j.ranges ≤ j.chunk) : exec .sealCheckpoint s = .next s := by
  rw [exec, execSealCheckpoint, sealingJob_some taken seals]
  exact event_waits (by simp [written]) _ s

theorem sealEnds (up : s.gw.linkUp = true) (written : sealChunks j.ranges ≤ j.chunk) :
    ∃ t m, exec .sealComplete s = .next t ∧ m = manifestBody s j ++ manifestTag s j.sealId j.sealNonce (manifestBody s j) ∧
      t.gw.seals = none ∧ t.trust.sealing = false ∧ t.trust.checkpoint = none ∧
      t.gw.held = s.gw.held ++ [completionOf s j.req (sealOp j) Status.ok 0
        (sha384 (m ++ wordBytes (ecdsaSign s.identity.priv (Config.random384 s.free) m)) ++ leBytes 8 (sealBytes j.ranges))] ∧
      t.mem = (writeMem 3 (windowAddr s j.window.toNat (j.offset.toNat + manifestOffset j.ranges))
        (m ++ wordBytes (ecdsaSign s.identity.priv (Config.random384 s.free) m)) s).mem ∧
      t.log = s.log.push (s.log.stamp Code.sealDone 0 []) ∧ t.seq = s.seq := by
  have mem := mem_writeWindow_congr (s := s) (t := { s with free := s.free + 1 }) rfl rfl j (manifestOffset j.ranges) (signedManifest s j)
  refine ⟨_, unsignedManifest s j, exec_sealComplete taken seals up written, rfl, ?_⟩
  rw [sealComplete_eq, ← signedManifest]
  refine ⟨by simp [endSeal, onSeal], by simp [endSeal, onSeal], by simp [endSeal, onSeal], ?_, ?_,
    by simp [endSeal, onSeal, writeWindow], by simp [endSeal, onSeal, writeWindow]⟩
  · rw [settled_held, complete, completeAs, completionOf_congr (s := s) (by simp [endSeal, onSeal, writeWindow])]
    simp [hold, endSeal, onSeal, writeWindow]
  · rw [settled_mem, complete_mem, record_mem, ← mem]
    rfl

end

/-! ### SEAL_RESUME, R338 -/

theorem exec_sealResume {s : State} {q : Req} {ident : BitVec 64} {c : Checkpoint} (kept : s.trust.checkpoint = some c)
    (named : c.job.sealId = ident)
    (starts : Starts 0x41 0 q (inState s [.job, .halted] && maintNone s && s.gw.seals.isNone && (checkpointOf s ident).isSome) s)
    (holds : windowHolds s c.job.window.toNat c.job.offset.toNat (sealBytes c.job.ranges) = true) :
    exec (.sealResume q ident) s = .next (settled s (startSeal (resumeJob q c) (start q s))) := by
  have found : checkpointOf (start q s) ident = some c := by simp [checkpointOf, kept, Option.filter_some, named]
  rw [exec, execSealResume, command_starts starts, found]
  dsimp only
  rw [sealResume, checkField_true _ _ _ _ _ ((windowHolds_congr (start_windows q s) ..).trans holds)]

/-! ### Without a seal -/

theorem exec_sealCheckpoint_none {s : State} (free : s.gw.seals = none) : exec .sealCheckpoint s = .next s := by
  rw [exec, execSealCheckpoint, sealingJob_none free]

theorem exec_sealComplete_none {s : State} (free : s.gw.seals = none) : exec .sealComplete s = .next s := by
  rw [exec, execSealComplete, sealingJob_none free]

theorem exec_unsealComplete_none {s : State} (free : s.gw.seals = none) : exec .unsealComplete s = .next s := by
  rw [exec, execUnsealComplete, free]

theorem sealsWriteHeadChunksAndManifest : Claims.SealsWriteHeadChunksAndManifest := by
  refine fun s => ⟨fun q ident window offset l starts => ⟨exec_sealTiers_badRanges starts, exec_sealTiers_badWindow starts,
    sealBegins starts⟩, fun j taken seals up => ⟨sealEnds taken seals up, exec_sealComplete_early taken seals,
    exec_sealCheckpoint_over taken seals⟩, fun q ident c kept named starts holds => ⟨_, exec_sealResume kept named starts holds, ?_⟩,
    fun free => ⟨exec_sealCheckpoint_none free, exec_sealComplete_none free, exec_unsealComplete_none free⟩⟩
  simp [startSeal, onSeal, resumeJob]

/-! ### One range that fits one chunk -/

section
variable {r : BitVec 128} (positive : 0 < rangeLen r) (small : rangeLen r ≤ 65536)
include positive small

theorem sealChunks_whole : sealChunks [r] = 1 := by
  have one : (rangeLen r + 65536 - 1) / 65536 = 1 := by omega
  simpa [sealChunks, rangesBytes, chunkCount, ceilDiv] using one

theorem rangePieces_whole : rangePieces [r] 0 (chunkBytes (rangesBytes [r]) 0) = [(rangeAddr r, rangeLen r)] := by
  have bytes : chunkBytes (rangesBytes [r]) 0 = rangeLen r := by simp [chunkBytes, rangesBytes, small]
  simp [rangePieces, bytes, positive.ne']

end

/-! ### Chunks, R336 -/

theorem readPieces_good {s : State} (alone : inPair s = false) {a n : Nat} (good : TierGood s a n) :
    readPieces [(a, n)] s = (readMem s 0 a n, none, s) := by
  simp [readPieces, readSpace_good alone good]

/-- The chunk of a seal that is one chunk. -/
def soleChunk (s : State) (j : SealJob) (r : BitVec 128) : List Byte :=
  sealChunk (sealKey s j.sealId j.sealNonce) j.sealNonce 0 true j.resume.toNat (wordBytes j.tag) (readMem s 0 (rangeAddr r) (rangeLen r))

/-- The job once that chunk is written. -/
def afterChunk (s : State) (j : SealJob) (r : BitVec 128) : SealJob :=
  { j with fetched := false, chunk := 1, tag := bytesWord 128 ((soleChunk s j r).drop ((soleChunk s j r).length - 16)) }

section
variable {s : State} {j : SealJob} {r : BitVec 128} (alone : inPair s = false) (ranges : j.ranges = [r]) (positive : 0 < rangeLen r)
  (small : rangeLen r ≤ 65536) (first : j.chunk = 0) (good : TierGood s (rangeAddr r) (rangeLen r))
include alone ranges positive small first good

theorem writeChunk_sole : writeChunk { j with fetched := false } s =
    (none, afterChunk s j r, writeWindow { j with fetched := false } 64 (soleChunk s j r) s) := by
  have read : readPieces (rangePieces [r] 0 (chunkBytes (rangesBytes [r]) 0)) s = (readMem s 0 (rangeAddr r) (rangeLen r), none, s) := by
    rw [rangePieces_whole positive small, readPieces_good alone good]
  simp [writeChunk, ranges, first, read, sealChunks_whole positive small, soleChunk, afterChunk]

theorem sealStep_sole : sealStep j s = startSeal (afterChunk s j r) (writeWindow { j with fetched := false } 64 (soleChunk s j r) s) := by
  have chunks : chunksNow j = 1 := by simp [chunksNow, first, ranges, sealChunks_whole positive small]
  have written : writeChunks 1 { j with fetched := false } s =
      (none, afterChunk s j r, writeWindow { j with fetched := false } 64 (soleChunk s j r) s) := by
    simp [writeChunks, writeChunk_sole alone ranges positive small first good]
  rw [sealStep, farDone_alone alone, if_pos rfl, sealCheckpoint, chunks, written]

end

theorem sealCheckpointWritesChunks : Claims.SealCheckpointWritesChunks := by
  rintro s j r pt c taken seals up alone ranges positive small first good rfl chunk
  have more : j.chunk < sealChunks j.ranges := by simp [first, ranges, sealChunks_whole positive small]
  obtain rfl : c = soleChunk s j r := chunk
  refine ⟨_, afterChunk s j r, exec_sealCheckpoint taken seals up more, ?_⟩
  rw [sealStep_sole alone ranges positive small first good]
  have mem : (writeWindow { j with fetched := false } 64 (soleChunk s j r) s).mem = _ := mem_writeWindow_congr (s := s) rfl rfl _ _ _
  refine ⟨by simp [startSeal, onSeal], rfl, rfl, rfl, rfl, rfl, by simp [startSeal, onSeal, afterChunk], ?_, ?_, ?_, ?_, ?_⟩
  · rw [settled_mem]; exact mem
  · rw [settled_mem]; exact (congrArg Mem.tier mem :)
  all_goals simp [startSeal, onSeal, writeWindow]

/-- Settles O52, step by step of a seal. -/
theorem sealsWriteTheirOutput : Obligations.SealsWriteTheirOutput := ⟨sealsWriteHeadChunksAndManifest, sealCheckpointWritesChunks⟩

end Sys2Proof.Machine

/-! ## O53: UNSEAL opens only a valid seal

UNSEAL judges what stands in the window (`findSeal`, `sealValid`), which the command's start leaves as it is. Of a seal of one range in one
chunk, `openChunks` comes down to that chunk's `openChunk`: it writes the plaintext over the range, or the ranges are dropped. -/

namespace Sys2Proof.Machine

/-! ### The seal in a window -/

theorem findSeal_congr {s t : State} (mem : t.mem = s.mem) (windows : t.gw.windows = s.gw.windows) (window off : Nat) :
    findSeal t window off = findSeal s window off := by
  unfold findSeal readMem
  simp only [windowAddr_congr windows, windowHolds_congr windows, mem]

theorem sealValid_congr {s t : State} (trust : t.trust = s.trust) (f : FoundSeal) : sealValid t f = sealValid s f := by
  unfold sealValid manifestTag sealKey ownerFp
  rw [trust]

/-! ### UNSEAL, R339 -/

/-- The job of an UNSEAL. -/
def newUnseal (q : Req) (window : BitVec 32) (offset : BitVec 64) (f : FoundSeal) : SealJob :=
  { req := q, kind := .unseal, sealId := fsIdent f, sealNonce := fsNonce f, window := BitVec.ofNat 8 window.toNat, offset := offset,
    ranges := fsRanges f, chunk := 0, resume := 0, tag := fsLastTag f, step := BitVec.ofNat 64 (fld (ofLe f.body) 704 64),
    fetched := false }

section
variable {s : State} {q : Req} {window : BitVec 32} {offset : BitVec 64}

theorem unsealTiers_badWindow (bad : 255 < window.toNat ∨ windowHolds s window.toNat offset.toNat 64 = false) :
    unsealTiers q window offset s = refuseField q 0x42 0 s := by
  have refused : (window.toNat ≤ 255 && windowHolds s window.toNat offset.toNat 64) = false := by
    rcases bad with large | small
    · simp [large]
    · simp [small]
  exact checkField_false _ _ _ _ _ refused

section
variable {f : FoundSeal} (number : window.toNat ≤ 255) (holds : windowHolds s window.toNat offset.toNat 64 = true)
  (found : findSeal s window.toNat offset.toNat = some f)
include number holds found

theorem unsealTiers_invalid (invalid : sealValid s f = false) :
    unsealTiers q window offset s = unsealFail q (sha384 f.whole) [] s := by
  rw [unsealTiers, checkField_true _ _ _ _ _ (by simp [number, holds]), found]
  simp [invalid]

theorem unsealTiers_valid (valid : sealValid s f = true) (places : (fsRanges f).all (rangeExists s) = true) :
    unsealTiers q window offset s = onSeal (some (newUnseal q window offset f)) s := by
  rw [unsealTiers, checkField_true _ _ _ _ _ (by simp [number, holds]), found]
  simp only [valid, places]
  rfl

end

variable (starts : Starts 0x42 0 q (inState s [.ready, .job, .halted] && maintNone s && s.gw.seals.isNone) s)
include starts

theorem exec_unsealTiers : exec (.unsealTiers q window offset) s = .next (settled s (unsealTiers q window offset (start q s))) := by
  rw [exec, execUnsealTiers, command_starts starts]

theorem exec_unsealTiers_badWindow (bad : 255 < window.toNat ∨ windowHolds s window.toNat offset.toNat 64 = false) :
    exec (.unsealTiers q window offset) s = .next (answered q 0x42 Status.badField (fieldDetail 0x42 0) [] s) :=
  command_replies starts _ (unsealTiers_badWindow (by rwa [windowHolds_congr (start_windows q s)]))

end

theorem unsealRefuses {s : State} {q : Req} {window : BitVec 32} {offset : BitVec 64} {f : FoundSeal}
    (starts : Starts 0x42 0 q (inState s [.ready, .job, .halted] && maintNone s && s.gw.seals.isNone) s) (number : window.toNat ≤ 255)
    (holds : windowHolds s window.toNat offset.toNat 64 = true) (found : findSeal s window.toNat offset.toNat = some f)
    (invalid : sealValid s f = false) :
    ∃ t, exec (.unsealTiers q window offset) s = .next t ∧ t.gw.seals = none ∧ t.mem = s.mem ∧
      t.log = s.log.push (s.log.stamp Code.unsealFail 0 []) ∧
      t.gw.held = (start q s).gw.held ++ [completionOf s q 0x42 Status.blobAuth 0 (sha384 f.whole ++ leBytes 8 0)] := by
  have noJob : s.gw.seals = none := by
    have own := Starts.own starts
    simp only [Bool.and_eq_true, Option.isNone_iff_eq_none] at own
    obtain ⟨-, noJob⟩ := own
    exact noJob
  refine ⟨_, exec_unsealTiers starts, ?_⟩
  rw [unsealTiers_invalid (f := f) number ((windowHolds_congr (start_windows q s) ..).trans holds)
    ((findSeal_congr (start_mem q s) (start_windows q s) ..).trans found) ((sealValid_congr (start_trust q s) f).trans invalid)]
  refine ⟨by simp [unsealFail, noJob], by simp [unsealFail], by simp [unsealFail], ?_⟩
  rw [settled_held, unsealFail, completeAs, completionOf_congr (s := s) (by simp)]
  simp [hold]

theorem unsealBegins {s : State} {q : Req} {window : BitVec 32} {offset : BitVec 64} {f : FoundSeal}
    (starts : Starts 0x42 0 q (inState s [.ready, .job, .halted] && maintNone s && s.gw.seals.isNone) s) (number : window.toNat ≤ 255)
    (holds : windowHolds s window.toNat offset.toNat 64 = true) (found : findSeal s window.toNat offset.toNat = some f)
    (valid : sealValid s f = true) (places : (fsRanges f).all (rangeExists s) = true) :
    ∃ t j, exec (.unsealTiers q window offset) s = .next t ∧ t.gw.seals = some j ∧ j.kind = .unseal ∧ j.req = q ∧
      j.ranges = fsRanges f ∧ j.tag = fsLastTag f ∧ j.chunk = 0 ∧ t.mem = s.mem ∧ t.gw.held = (start q s).gw.held ∧ t.log = s.log := by
  refine ⟨_, newUnseal q window offset f, exec_unsealTiers starts, ?_⟩
  rw [unsealTiers_valid (f := f) number ((windowHolds_congr (start_windows q s) ..).trans holds)
    ((findSeal_congr (start_mem q s) (start_windows q s) ..).trans found) ((sealValid_congr (start_trust q s) f).trans valid)
    (by rw [rangeExists_congr (start_pair q s), places])]
  simp [onSeal, newUnseal]

/-! ### The end of an UNSEAL, R336 -/

theorem exec_unsealComplete {s : State} {j : SealJob} (taken : s.gw.seals = some j) (unseals : j.kind = .unseal) (up : s.gw.linkUp = true) :
    exec .unsealComplete s = .next (settled s (unsealComplete j s)) := by
  rw [exec, execUnsealComplete, taken]
  exact event_holds (by simp [up, unseals]) _ s

section
variable {s : State} {j : SealJob} {r : BitVec 128} (ranges : j.ranges = [r]) (positive : 0 < rangeLen r) (small : rangeLen r ≤ 65536)
include ranges positive small

theorem openChunks_fails (fails : openChunk (sealKey s j.sealId j.sealNonce) j.sealNonce 0 true none (zeros 16) (chunkAt s j 0) = none) :
    openChunks j 1 0 (zeros 16) s = (some 0, zeros 16, s) := by
  simp [openChunks, ranges, sealChunks_whole positive small, fails]

theorem unsealComplete_fails
    (fails : openChunk (sealKey s j.sealId j.sealNonce) j.sealNonce 0 true none (zeros 16) (chunkAt s j 0) = none) :
    unsealComplete j s = unsealFail j.req (unsealDigest s j) [] (dropRanges [r] (onSeal none s)) := by
  have unread : rangesWithin [r] (65536 * 0) = [] := by simp [rangesWithin, positive.ne']
  rw [unsealComplete, ranges, sealChunks_whole positive small, openChunks_fails ranges positive small fails]
  simp only [unread]

variable {pt : List Byte} (alone : inPair s = false)
  (opens : openChunk (sealKey s j.sealId j.sealNonce) j.sealNonce 0 true none (zeros 16) (chunkAt s j 0) = some pt)
  (whole : pt.length = rangeLen r)
include alone opens whole

theorem openChunks_opens : openChunks j 1 0 (zeros 16) s =
    (none, (chunkAt s j 0).drop ((chunkAt s j 0).length - 16), writeMem 0 (rangeAddr r) pt s) := by
  have written : writePieces (rangePieces [r] 0 (chunkBytes (rangesBytes [r]) 0)) pt s = writeMem 0 (rangeAddr r) pt s := by
    rw [rangePieces_whole positive small, writePieces, writePieces, ← whole, List.take_length, writeSpace_alone alone]
  simp [openChunks, ranges, sealChunks_whole positive small, opens, written]

theorem unsealComplete_opens (tag : wordBytes j.tag = (chunkAt s j 0).drop ((chunkAt s j 0).length - 16)) :
    unsealComplete j s = complete j.req 0x42 (unsealDigest s j ++ leBytes 8 1 ++ wordBytes r)
      (record Code.unsealDone [] (onSeal none (writeMem 0 (rangeAddr r) pt s))) := by
  rw [unsealComplete, ranges, sealChunks_whole positive small, openChunks_opens ranges positive small alone opens whole, ← tag]
  simp

end

theorem unsealOpens {s : State} {j : SealJob} {r : BitVec 128} {pt : List Byte} (taken : s.gw.seals = some j) (unseals : j.kind = .unseal)
    (up : s.gw.linkUp = true) (alone : inPair s = false) (ranges : j.ranges = [r]) (positive : 0 < rangeLen r) (small : rangeLen r ≤ 65536)
    (opens : openChunk (sealKey s j.sealId j.sealNonce) j.sealNonce 0 true none (zeros 16) (chunkAt s j 0) = some pt)
    (whole : pt.length = rangeLen r) (tag : wordBytes j.tag = (chunkAt s j 0).drop ((chunkAt s j 0).length - 16)) :
    ∃ t, exec .unsealComplete s = .next t ∧ t.gw.seals = none ∧ t.mem = (writeMem 0 (rangeAddr r) pt s).mem ∧
      t.gw.held = s.gw.held ++ [completionOf s j.req 0x42 Status.ok 0 (unsealDigest s j ++ leBytes 8 1 ++ wordBytes r)] ∧
      t.log = s.log.push (s.log.stamp Code.unsealDone 0 []) ∧ t.seq = s.seq := by
  refine ⟨_, exec_unsealComplete taken unseals up, ?_⟩
  rw [unsealComplete_opens ranges positive small alone opens whole tag]
  refine ⟨by simp [onSeal], by simp [onSeal], ?_, by simp [onSeal], by simp [onSeal]⟩
  rw [settled_held, complete, completeAs, completionOf_congr (s := s) (by simp [onSeal])]
  simp [hold, onSeal]

theorem unsealFails {s : State} {j : SealJob} {r : BitVec 128} (taken : s.gw.seals = some j) (unseals : j.kind = .unseal)
    (up : s.gw.linkUp = true) (ranges : j.ranges = [r]) (positive : 0 < rangeLen r) (small : rangeLen r ≤ 65536)
    (fails : openChunk (sealKey s j.sealId j.sealNonce) j.sealNonce 0 true none (zeros 16) (chunkAt s j 0) = none) :
    ∃ t, exec .unsealComplete s = .next t ∧ t.gw.seals = none ∧
      t.mem = { s.mem with tier := sdelRange s.mem.tier (rangeAddr r) (rangeAddr r + rangeLen r), era := s.mem.era + 1 } ∧
      t.gw.held = s.gw.held ++ [completionOf s j.req 0x42 Status.blobAuth 0 (unsealDigest s j ++ leBytes 8 0)] ∧
      t.log = s.log.push (s.log.stamp Code.unsealFail 0 []) := by
  refine ⟨_, exec_unsealComplete taken unseals up, ?_⟩
  rw [unsealComplete_fails ranges positive small fails]
  refine ⟨by simp [unsealFail, dropRanges, onSeal], by simp [unsealFail, dropRanges, onSeal, rangeAddr, rangeLen], ?_,
    by simp [unsealFail, dropRanges, onSeal]⟩
  rw [settled_held, unsealFail, completeAs, completionOf_congr (s := s) (by simp [dropRanges, onSeal])]
  simp [hold, dropRanges, onSeal]

/-- Settles O53: the judgement of the seal, and the end of an unsealing of one chunk. -/
theorem unsealOpensOnlyAValidSeal : Obligations.UnsealOpensOnlyAValidSeal := by
  refine fun s => ⟨fun q window offset starts => ⟨exec_unsealTiers_badWindow starts, fun f number holds found =>
    ⟨unsealRefuses starts number holds found, unsealBegins starts number holds found⟩⟩, ?_, exec_unsealComplete_none⟩
  intro j r pt taken unseals up alone ranges positive small
  exact ⟨unsealOpens taken unseals up alone ranges positive small, unsealFails taken unseals up ranges positive small⟩

end Sys2Proof.Machine

/-! ## O10: LOG_CLEAR removes the ring below UPTO

A record that enters the queue moves no committed record (`Recorder.push_prot`, `Recorder.push_ring`), so that what LOG_CLEAR leaves of
the two areas is the filter of the ring alone. -/

namespace Sys2Proof.Machine

theorem Recorder.takeLost_prot (l : Recorder) : l.takeLost.prot = l.prot := by
  unfold Recorder.takeLost; split <;> rfl

theorem Recorder.push_prot (l : Recorder) (r : Rec) : (l.push r).prot = l.prot := by
  have taken := l.takeLost_prot
  unfold Recorder.push
  split
  · split <;> rfl
  · dsimp only; split <;> exact taken

/-- The ring records below `upto`. -/
def Recorder.below (l : Recorder) (upto : BitVec 64) : List Rec := l.ring.filter (fun r => r.seq.toNat < upto.toNat)

/-- First and last SEQUENCE of records, and their number. -/
def clearedRange (gone : List Rec) : List Byte :=
  wordBytes ((gone.head?.map Rec.seq).getD 0) ++ wordBytes ((gone.getLast?.map Rec.seq).getD 0) ++ leBytes 8 gone.length

/-- The log without the ring records below `upto`, and with the record CLEARED. -/
def Recorder.cleared (l : Recorder) (upto : BitVec 64) (fp : Fp) : Recorder :=
  ({ l with ring := l.ring.filter (fun r => upto.toNat ≤ r.seq.toNat) } : Recorder).push
    (l.stamp Code.cleared 0 (clearedRange (l.below upto) ++ leBytes 8 fp.toNat))

/-- A command that changes the log and completes: GW_STATUS shows nothing of it. -/
theorem settled_complete_log {s t : State} (status : gwStatus t = gwStatus s) (sessions : t.gw.sessions = s.gw.sessions) (l : Recorder)
    (q : Req) (op : BitVec 8) (p : List Byte) :
    settled s (complete q op p { t with log := l }) = { hold (completionOf s q op Status.ok 0 p) t with log := l } :=
  settled_complete (t := { t with log := l }) status sessions

theorem clearLog_eq (q : Req) (upto : BitVec 64) (fp : Fp) (s : State) : clearLog q upto fp s =
    complete q 0x13 (clearedRange (s.log.below upto)) { s with log := s.log.cleared upto fp } := rfl

theorem exec_logClear {s : State} {q : Req} {token : BitVec 1536} (starts : Starts 0x13 0 q (inState s [.ready, .job]) s)
    (good : tokenCheck 2 false token s = none) : exec (.logClear q token) s =
      .next { answered q 0x13 Status.ok 0 (clearedRange (s.log.below (tokenArg token))) s with
        log := s.log.cleared (tokenArg token) (tokenOwner token) } := by
  rw [exec, execLogClear, command_starts starts, withToken_good ((tokenCheck_start ..).trans good), clearLog_eq, start_log,
    settled_complete_log (gwStatus_start q s) (start_sessions q s)]
  rfl

/-- Settles O10: the ring is filtered, and the record CLEARED enters the queue. -/
theorem logClearRemovesTheRingBelowUpto : Obligations.LogClearRemovesTheRingBelowUpto := by
  intro s q token starts good
  refine ⟨_, s.log.below (tokenArg token), clearedRange (s.log.below (tokenArg token)), exec_logClear starts good, rfl, rfl, rfl, ?_, rfl, ?_⟩
  · exact Recorder.push_prot _ _
  · simp [answered, SameData, SameModule]

end Sys2Proof.Machine

/-! ## O9: records take their SEQUENCE as they are written

With no record lost (`takeLost_of_noLoss`) an ordinary entry is free exactly where fewer than 240 are in use. A LOG_MARK that starts
finds no other that waits, for one that waits is a short command that runs (`noMark_of_starts`). -/

namespace Sys2Proof.Machine

/-! ### LOG_MARK, R353 -/

theorem Recorder.takeLost_of_noLoss {l : Recorder} (h : l.loss = 0) : l.takeLost = l := if_neg (by simp [h])

theorem markRoom_of_noLoss {s : State} (h : s.log.loss = 0) : markRoom s = decide (s.log.ordinary < 240) := by
  rw [markRoom, Recorder.takeLost_of_noLoss h]

/-- The log with the mark in its queue. -/
def Recorder.marked (l : Recorder) (hostTime : BitVec 64) (note : BitVec 192) : Recorder :=
  { l with queue := l.queue ++ [l.stamp Code.logMark 0 (wordBytes hostTime ++ wordBytes note)] }

theorem markNow_of_noLoss {s : State} (h : s.log.loss = 0) (q : Req) (hostTime : BitVec 64) (note : BitVec 192) :
    markNow q hostTime note s = complete q 0x12 (leBytes 8 (s.log.nextSeq.toNat + s.log.queue.length))
      { s with log := s.log.marked hostTime note } := by
  rw [markNow, Recorder.takeLost_of_noLoss h]; rfl

theorem noMark_of_starts {op page : Nat} {q : Req} {own : Bool} {s : State} (h : Starts op page q own s) : s.log.markWait = [] := by
  obtain ⟨ready, -, -⟩ := h
  by_contra marks
  simp [waits, shortRuns, marks] at ready

theorem exec_logMark {s : State} {q : Req} (starts : Starts 0x12 0 q true s) (hostTime : BitVec 64) (note : BitVec 192) :
    exec (.logMark q hostTime note) s = .next (settled s (logMark q hostTime note (start q s))) := by
  rw [exec, execLogMark, command_starts starts]

theorem logMark_room {s : State} (noLoss : s.log.loss = 0) (noMark : s.log.markWait = []) (room : s.log.ordinary < 240) (q : Req)
    (hostTime : BitVec 64) (note : BitVec 192) : logMark q hostTime note s = markNow q hostTime note s :=
  if_pos (by simp [markRoom_of_noLoss noLoss, room, noMark])

theorem logMark_full {s : State} (noLoss : s.log.loss = 0) (full : 240 ≤ s.log.ordinary) (q : Req) (hostTime : BitVec 64)
    (note : BitVec 192) : logMark q hostTime note s =
      { s with log := { s.log with markWait := s.log.markWait ++ [(q, hostTime, note)] } } :=
  if_neg (by simp [markRoom_of_noLoss noLoss, Nat.not_lt.mpr full])

theorem logMarkIsNeverLost : Claims.LogMarkIsNeverLost := by
  intro s q hostTime note noLoss
  have noLoss' : (start q s).log.loss = 0 := by rw [start_log, noLoss]
  refine ⟨fun starts room => ?_, fun starts full => ?_, fun rest aux waiting room => ?_⟩
  · rw [exec_logMark starts, logMark_room noLoss' (by rw [start_log, noMark_of_starts starts]) (by rw [start_log]; exact room),
      markNow_of_noLoss noLoss', settled_complete_log (gwStatus_start q s) (start_sessions q s), start_log]
    rfl
  · rw [exec_logMark starts, logMark_full noLoss' (by rw [start_log]; exact full),
      settled_eq (by exact gwStatus_start q s), start_log]
  · have noLoss'' : (onLog (fun l => { l with markWait := rest }) s).log.loss = 0 := noLoss
    rw [exec, execLogMarkQueued, event_holds (by simp [aux, waiting, markRoom_of_noLoss noLoss, room]), markQueued, waiting]
    simp only []
    rw [markNow_of_noLoss noLoss'']
    exact congrArg _ (settled_complete_log (s := s) (t := s) rfl rfl _ _ _ _)

/-! ### The record at the head of the queue, R354 to R356 -/

/-- What is taken into entries that are free again is queued; the committed records stay. -/
theorem Recorder.settle_committed (l : Recorder) :
    l.settle.ring = l.ring ∧ l.settle.prot = l.prot ∧ l.settle.nextSeq = l.nextSeq := by
  have taken : l.takeLost.ring = l.ring ∧ l.takeLost.prot = l.prot ∧ l.takeLost.nextSeq = l.nextSeq := by
    unfold Recorder.takeLost; split <;> exact ⟨rfl, rfl, rfl⟩
  unfold Recorder.settle
  dsimp only
  split
  · split <;> exact taken
  · exact taken

theorem Recorder.settle_of_noneWaits {l : Recorder} (noLoss : l.loss = 0) (noneWaits : l.protWait = []) : l.settle = l := by
  simp only [Recorder.settle, Recorder.takeLost_of_noLoss noLoss, noneWaits]

theorem Recorder.commit_prot {l : Recorder} {r : Rec} (h : r.isProt = true) : l.commit r = { l with
    nextSeq := l.nextSeq + 1, flashOp := l.opSeconds, flashCycles := l.powerCycles,
    prot := (l.prot ++ [r]).drop (l.prot.length + 1 - 8192) } := if_pos h

theorem Recorder.commit_ring {l : Recorder} {r : Rec} (h : r.isProt = false) : l.commit r = { l with
    nextSeq := l.nextSeq + 1, flashOp := l.opSeconds, flashCycles := l.powerCycles,
    ring := (l.ring ++ [r]).drop (l.ring.length + 1 - 1048576) } := if_neg (by simp [h])

theorem Recorder.commit_queue (l : Recorder) (r : Rec) : (l.commit r).nextSeq = l.nextSeq + 1 ∧ (l.commit r).queue = l.queue ∧
    (l.commit r).loss = l.loss ∧ (l.commit r).protWait = l.protWait := by
  unfold Recorder.commit
  dsimp only
  split <;> exact ⟨rfl, rfl, rfl, rfl⟩

theorem alertFor_eq (r : Rec) (s : State) : alertFor r s = { s with
    pins := { s.pins with smbAlertN := if 3 ≤ r.severity.toNat then false else s.pins.smbAlertN } } := by
  unfold alertFor
  split <;> rfl

/-- The log tail of a pair is a matter of the pair and of the messages to the other half. -/
theorem pairTail_eq (r : Rec) (s : State) : ∃ tail events fab, pairTail r s = { s with
    pair := { s.pair with tail := tail, events := events }, fab := fab } := by
  unfold pairTail
  split
  · dsimp only
    rw [sendLash_eq]
    exact ⟨_, _, _, rfl⟩
  · exact ⟨s.pair.tail, s.pair.events, s.fab, rfl⟩

theorem pairTail_notPrimary {s : State} (h : s.pair.role ≠ .primary) (r : Rec) : pairTail r s = s := if_neg (by simp [h])

/-- The record at the head has taken its SEQUENCE and is committed. -/
def Recorder.written (l : Recorder) (h : Rec) (rest : List Rec) : Recorder :=
  (({ l with queue := rest } : Recorder).commit { h with seq := l.nextSeq }).settle

section
variable (l : Recorder) (h : Rec) (rest : List Rec)

theorem Recorder.written_nextSeq : (l.written h rest).nextSeq = l.nextSeq + 1 := by
  obtain ⟨-, -, nextSeq⟩ := (({ l with queue := rest } : Recorder).commit { h with seq := l.nextSeq }).settle_committed
  obtain ⟨counted, -⟩ := ({ l with queue := rest } : Recorder).commit_queue { h with seq := l.nextSeq }
  exact nextSeq.trans counted

theorem Recorder.written_protected (isProt : h.isProt = true) : (l.written h rest).ring = l.ring ∧
    (l.written h rest).prot = (l.prot ++ [{ h with seq := l.nextSeq }]).drop (l.prot.length + 1 - 8192) := by
  obtain ⟨ring, prot, -⟩ := (({ l with queue := rest } : Recorder).commit { h with seq := l.nextSeq }).settle_committed
  have stored := Recorder.commit_prot (l := { l with queue := rest }) (r := { h with seq := l.nextSeq }) isProt
  rw [stored] at ring prot
  exact ⟨by simpa only [written, stored] using ring, by simpa only [written, stored] using prot⟩

theorem Recorder.written_ordinary (isOrdinary : h.isProt = false) : (l.written h rest).prot = l.prot ∧
    (l.written h rest).ring = (l.ring ++ [{ h with seq := l.nextSeq }]).drop (l.ring.length + 1 - 1048576) := by
  obtain ⟨ring, prot, -⟩ := (({ l with queue := rest } : Recorder).commit { h with seq := l.nextSeq }).settle_committed
  have stored := Recorder.commit_ring (l := { l with queue := rest }) (r := { h with seq := l.nextSeq }) isOrdinary
  rw [stored] at ring prot
  exact ⟨by simpa only [written, stored] using prot, by simpa only [written, stored] using ring⟩

theorem Recorder.written_queue (noLoss : l.loss = 0) (noneWaits : l.protWait = []) : (l.written h rest).queue = rest := by
  obtain ⟨-, queue, loss, wait⟩ := ({ l with queue := rest } : Recorder).commit_queue { h with seq := l.nextSeq }
  rw [written, Recorder.settle_of_noneWaits (loss.trans noLoss) (wait.trans noneWaits), queue]

end

/-- The state in which the head's record is written, and its alert given, before the other half hears of it. -/
def recordWritten (h : Rec) (rest : List Rec) (s : State) : State :=
  { s with
    log := s.log.written h rest
    pins := { s.pins with smbAlertN := if 3 ≤ ({ h with seq := s.log.nextSeq } : Rec).severity.toNat then false else s.pins.smbAlertN } }

theorem recordWrite_eq {s : State} {h : Rec} {rest : List Rec} (queued : s.log.queue = h :: rest) :
    recordWrite s = pairTail { h with seq := s.log.nextSeq } (recordWritten h rest s) := by
  rw [recordWrite, queued, recordWritten, ← alertFor_eq { h with seq := s.log.nextSeq } { s with log := s.log.written h rest }]
  rfl

theorem exec_recordWrite {s : State} {h : Rec} {rest : List Rec} (aux : s.pins.aux = true) (queued : s.log.queue = h :: rest) :
    exec .recordWrite s = .next (pairTail { h with seq := s.log.nextSeq } (recordWritten h rest s)) := by
  obtain ⟨tail, events, fab, told⟩ := pairTail_eq { h with seq := s.log.nextSeq } (recordWritten h rest s)
  have quiet : gwStatus (recordWrite s) = gwStatus s := by rw [recordWrite_eq queued, told]; rfl
  rw [exec, execRecordWrite, event_quiet (by simp [aux, queued]) quiet, recordWrite_eq queued]

theorem recordWriteTakesTheNextSequence : Claims.RecordWriteTakesTheNextSequence := by
  intro s h rest aux queued
  obtain ⟨tail, events, fab, told⟩ := pairTail_eq { h with seq := s.log.nextSeq } (recordWritten h rest s)
  refine ⟨_, _, exec_recordWrite aux queued, rfl, ?_, fun isProt => ?_, fun isOrdinary => ?_, fun noLoss noneWaits => ?_, ?_,
    fun notPrimary => ?_, ?_⟩
  · rw [told]; exact s.log.written_nextSeq h rest
  · rw [told]; exact s.log.written_protected h rest isProt
  · rw [told]; exact s.log.written_ordinary h rest isOrdinary
  · rw [told]; exact s.log.written_queue h rest noLoss noneWaits
  · rw [told]; rfl
  · rw [pairTail_notPrimary (by exact notPrimary)]; exact ⟨rfl, rfl⟩
  · rw [told]; exact ⟨rfl, rfl, rfl, rfl, rfl⟩

/-- Settles O9: a LOG_MARK by whether an entry is free, and the record at the head by its area. -/
theorem recordsTakeTheirSequence : Obligations.RecordsTakeTheirSequence := ⟨logMarkIsNeverLost, recordWriteTakesTheNextSequence⟩

end Sys2Proof.Machine

/-! ## O11: the sideband reads the log and the thermal block

A transaction changes the sideband's reply and registers that GW_STATUS does not show (`event_quiet`), or nothing at all
(`event_waits`). -/

namespace Sys2Proof.Machine

/-! ### The log over the sideband, R361 -/

theorem oldestSeq_eq (recs : List Rec) (next : BitVec 64) : oldestSeq recs next = (recs.head?.map Rec.seq).getD next := by
  cases recs <;> rfl

theorem exec_logSelect {s : State} {a : BitVec 8} (aux : s.pins.aux = true) (known : a.toNat ≤ 1) (first : BitVec 64) :
    exec (.logSelect a first true) s = .next { s with
      log := { s.log with sbArea := decide (a = 1), sbPtr := first }, gw := { s.gw with smb := some [] } } := by
  rw [exec, execLogSelect, event_quiet (by simp [aux, known]) (by rfl)]
  rfl

theorem exec_logSelect_ignored {s : State} {a : BitVec 8} {ok : Bool} (h : s.pins.aux = false ∨ ok = false ∨ 1 < a.toNat)
    (first : BitVec 64) : exec (.logSelect a first ok) s = .next s := by
  rw [exec, execLogSelect, event_waits]
  simpa only [Bool.and_eq_false_iff, decide_eq_false_iff_not, Nat.not_le, or_assoc] using h

/-- Committed records of the area that the sideband reads, from its pointer on. -/
def sidebandRecords (s : State) : List Rec :=
  (if s.log.sbArea then s.log.prot else s.log.ring).filter (fun r => s.log.sbPtr.toNat ≤ r.seq.toNat)

theorem logNext_some {s : State} {r : Rec} {rest : List Rec} (h : sidebandRecords s = r :: rest) :
    logNext s = smbReply r.bytes (onLog (fun l => { l with sbPtr := r.seq + 1 }) s) := by
  have next : logFrom (area s s.log.sbArea) s.log.sbPtr 1 = [r] := congrArg (List.take 1) h
  rw [logNext, next]

theorem logNext_none {s : State} (h : sidebandRecords s = []) : logNext s = smbReply [] s := by
  have next : logFrom (area s s.log.sbArea) s.log.sbPtr 1 = [] := congrArg (List.take 1) h
  rw [logNext, next]

theorem exec_logNext {s u : State} (aux : s.pins.aux = true) (next : logNext s = u) (quiet : gwStatus u = gwStatus s) :
    exec (.logNext true) s = .next u := by
  subst next
  rw [exec, execLogNext, event_quiet (by simp [aux]) quiet]

theorem exec_logBounds {s : State} (aux : s.pins.aux = true) : exec (.logBounds true) s =
    .next (smbReply (boundsBytes s) (onPins (fun p => { p with smbAlertN := true }) s)) := by
  rw [exec, execLogBounds, event_quiet (by simp [aux]) (by rfl)]

/-- A transaction with a bad PEC is not acknowledged. -/
theorem exec_sideband_badPec (s : State) : exec (.logNext false) s = .next s ∧ exec (.logBounds false) s = .next s ∧
    exec (.thermalRead false) s = .next s := by
  refine ⟨?_, ?_, ?_⟩
  · rw [exec, execLogNext, event_waits (by simp)]
  · rw [exec, execLogBounds, event_waits (by simp)]
  · rw [exec, execThermalRead, event_waits (by simp)]

theorem sidebandReadsTheLog : Claims.SidebandReadsTheLog := by
  intro s a first
  obtain ⟨noNext, noBounds, -⟩ := exec_sideband_badPec s
  refine ⟨fun aux known => exec_logSelect aux known first, fun aux r rest next => exec_logNext aux (logNext_some next) rfl,
    fun aux none => exec_logNext aux (logNext_none none) rfl, fun aux => ?bounds, fun h => exec_logSelect_ignored (h.imp_right .inr) first,
    exec_logSelect_ignored (.inr (.inl rfl)) first, noNext, noBounds⟩
  rw [exec_logBounds aux, boundsBytes, oldestSeq_eq, oldestSeq_eq]
  rfl

/-! ### The thermal block and the alert response, Tables 16-9 and 16-10, R413 -/

theorem coolantDuty_eq (s : State) : coolantDuty s = { s with thermal := { s.thermal with
    duty := if s.power.state = .standby then restDuty s.thermal else s.thermal.duty } } := by
  unfold coolantDuty
  split <;> rfl

theorem coolantLegal_iff (target : BitVec 16) (dutyMin reserved : BitVec 8) : coolantLegal target dutyMin reserved = true ↔
    480 ≤ target.toNat ∧ target.toNat ≤ 960 ∧ 10 ≤ dutyMin.toNat ∧ dutyMin.toNat ≤ 100 ∧ reserved = 0 := by
  simp [coolantLegal, and_assoc]

theorem exec_coolantSet {s : State} {target : BitVec 16} {dutyMin : BitVec 8} (aux : s.pins.aux = true)
    (legal : coolantLegal target dutyMin 0 = true) : exec (.coolantSet target dutyMin 0 true) s = .next { s with
      thermal := { s.thermal with
        outletTarget := target, dutyMin := dutyMin
        duty := if s.power.state = .standby then restDuty { s.thermal with dutyMin := dutyMin } else s.thermal.duty },
      gw := { s.gw with smb := some [] } } := by
  have effect := coolantDuty_eq (onThermal (fun t => { t with outletTarget := target, dutyMin := dutyMin }) s)
  rw [exec, execCoolantSet, event_quiet (by rw [aux]; exact legal) (by rw [effect]; rfl), effect]
  rfl

theorem exec_coolantSet_ignored {s : State} {target : BitVec 16} {dutyMin reserved : BitVec 8} {ok : Bool}
    (h : ok = false ∨ coolantLegal target dutyMin reserved = false) : exec (.coolantSet target dutyMin reserved ok) s = .next s := by
  rw [exec, execCoolantSet, event_waits (by rcases h with h | h <;> simp [h])]

theorem sidebandThermalCommands : Claims.SidebandThermalCommands := by
  intro s target dutyMin reserved aux
  obtain ⟨-, -, noRead⟩ := exec_sideband_badPec s
  refine ⟨?_, ?_, fun low high least most => ?_, fun outside => ?_, noRead, exec_coolantSet_ignored (.inl rfl)⟩
  · rw [exec, execThermalRead, event_quiet (by simp [aux]) (by rfl)]
    rfl
  · rw [exec, execAlertResponse, event_quiet aux (by rfl)]
    rfl
  · exact exec_coolantSet aux ((coolantLegal_iff ..).mpr ⟨low, high, least, most, rfl⟩)
  · refine exec_coolantSet_ignored (.inr (Bool.eq_false_iff.mpr fun legal => ?_))
    obtain ⟨low, high, least, most, -⟩ := (coolantLegal_iff ..).mp legal
    omega

theorem operatingCounters : Claims.OperatingCounters := by
  intro s aux
  rw [exec, exec, execOperatingSecond, execCounterCopy, event_quiet aux (by rfl), event_quiet aux (by rfl)]
  exact ⟨rfl, rfl⟩

/-- Settles O11: the log, the thermal block and the counters, transaction by transaction. -/
theorem sidebandReadsAndCounters : Obligations.SidebandReadsAndCounters :=
  ⟨sidebandReadsTheLog, sidebandThermalCommands, operatingCounters⟩

end Sys2Proof.Machine

/-! ## O22: the valve duty and the coolant readings

One pass of the loop leaves the duty from DUTY_MIN to 100 % (`valveLoop_inRange`). A sensor that fails in a coolant test holds its
condition at once, whatever was held before (`testCondition_sensor`), and that condition alone forces the duty and withholds credit. -/

namespace Sys2Proof.Machine

/-! ### The valve loop, R386 -/

/-- The pass's demand in 1/320 per cent. -/
def valveDemand (t : Thermal) : Int := 81 * (t.outlet - t.outletTarget.toNat) + t.integ

theorem valveLoop_eq (t : Thermal) : valveLoop t = { t with duty := (valveLoop t).duty, integ := (valveLoop t).integ } := by
  unfold valveLoop
  dsimp only
  split
  · rfl
  · split <;> rfl

/-- The duty in per mille: the demand, within its bounds. -/
theorem valveLoop_duty (t : Thermal) : (valveLoop t).duty = if 32000 < valveDemand t then 1000
    else if valveDemand t < 320 * t.dutyMin.toNat then t.dutyMin.toNat * 10 else ((valveDemand t + 16) / 32).toNat := by
  have demand : 80 * (t.outlet - t.outletTarget.toNat) + (t.integ + (t.outlet - t.outletTarget.toNat)) = valveDemand t := by
    unfold valveDemand; ring
  unfold valveLoop
  simp only [demand]
  split
  · rfl
  · split <;> rfl

theorem valveLoop_inRange {t : Thermal} (h : t.dutyMin.toNat ≤ 100) : t.dutyMin.toNat * 10 ≤ (valveLoop t).duty ∧ (valveLoop t).duty ≤ 1000 := by
  rw [valveLoop_duty]
  split
  · omega
  · split <;> omega

theorem exec_valveLoopTick {s : State} (on : s.thermal.loopOn = true) (up : s.power.state ≠ .standby) : exec .valveLoopTick s =
    .next { s with thermal := if dutyForced s then { s.thermal with duty := 1000 } else valveLoop s.thermal } := by
  rw [exec, execValveLoopTick, event_quiet (by simp [on, up]) (by rfl)]
  rfl

theorem valveDutyStaysInRange : Claims.ValveDutyStaysInRange := by
  intro s on up
  refine ⟨fun forced => ?_, fun free legal => ⟨(valveLoop s.thermal).duty, (valveLoop s.thermal).integ, ?_, ?_⟩⟩
  · rw [exec_valveLoopTick on up, if_pos forced]
  · rw [exec_valveLoopTick on up, if_neg (by simp [free]), ← valveLoop_eq]
  · obtain ⟨least, most⟩ := valveLoop_inRange legal
    refine ⟨least, most, fun e he tooWarm => ?_⟩
    subst he
    rw [valveLoop_duty]
    exact if_pos tooWarm

/-! ### The coolant test, R387 -/

/-- A test of one condition changes the recorder and the conditions alone. -/
theorem testCondition_eq (reading : CoolantReading) (c : Condition) (s : State) :
    ∃ log conds, testCondition reading c s = { s with log := log, thermal := { s.thermal with conds := conds } } := by
  unfold testCondition onThermal
  dsimp only
  split <;> exact ⟨_, _, rfl⟩

theorem foldl_testCondition_eq (reading : CoolantReading) (l : List Condition) (s : State) :
    ∃ log conds, l.foldl (fun s c => testCondition reading c s) s = { s with log := log, thermal := { s.thermal with conds := conds } } := by
  induction l generalizing s with
  | nil => exact ⟨s.log, s.thermal.conds, rfl⟩
  | cons c l ih =>
    obtain ⟨log, conds, tested⟩ := testCondition_eq reading c s
    rw [List.foldl_cons, tested]
    exact ih _

/-- A sensor has failed, or reads out of range. -/
def SensorFails (reading : CoolantReading) : Prop :=
  reading.sensorBad = true ∨ reading.inlet < -320 ∨ 1920 < reading.inlet ∨ reading.outlet < -320 ∨ 1920 < reading.outlet

theorem triggered_sensor {reading : CoolantReading} (h : SensorFails reading) (s : State) : triggered s reading .sensor = true := by
  simp only [triggered, sensorInRange, Bool.or_eq_true, Bool.not_eq_true', Bool.and_eq_false_iff, decide_eq_false_iff_not]
  rcases h with bad | outOfRange
  · exact .inl (.inl bad)
  · omega

/-- The condition of a failing sensor holds. -/
def SensorHeld (t : Thermal) : Prop := ∃ c ∈ t.conds, c.active = true ∧ c.cond = .sensor

theorem testCondition_sensor {reading : CoolantReading} (h : SensorFails reading) (s : State) :
    SensorHeld (testCondition reading .sensor s).thermal := by
  have active : (triggered s reading .sensor && decide (Condition.sensor.hold ≤ (condOf s .sensor).heldMs)) = true := by
    simp [triggered_sensor h, Condition.hold]
  refine ⟨_, List.mem_cons_self .., ?_, rfl⟩
  exact active

theorem condDuty_of_sensor {t : Thermal} (h : SensorHeld t) : condDuty t = true := by
  obtain ⟨c, mem, active, sensor⟩ := h
  exact List.any_eq_true.mpr ⟨c, mem, by simp [active, sensor]⟩

theorem creditGranted_of_sensor {s : State} (h : SensorHeld s.thermal) : creditGranted s = false := by
  obtain ⟨c, mem, active, sensor⟩ := h
  have held : s.thermal.conds.any (fun c => c.active && c.cond != .inletLow) = true :=
    List.any_eq_true.mpr ⟨c, mem, by simp [active, sensor]⟩
  simp [creditGranted, withheld, held]

/-- The duty follows the conditions: a held sensor forces it in every power state. -/
theorem settleDuty_eq (s : State) : ∃ d, settleDuty s = { s with thermal := { s.thermal with duty := d } } ∧
    (SensorHeld s.thermal → d = 1000) := by
  unfold settleDuty
  split
  · next standby =>
    rw [coolantDuty_eq, if_pos standby]
    exact ⟨_, rfl, fun h => by simp [restDuty, condDuty_of_sensor h]⟩
  · split
    · exact ⟨1000, rfl, fun _ => rfl⟩
    · next free => exact ⟨s.thermal.duty, rfl, fun h => absurd (by simp [dutyForced, condDuty_of_sensor h]) free⟩

/-- The readings are taken and every condition is tested. -/
def coolantTested (reading : CoolantReading) (s : State) : State :=
  [Condition.flowLow, .flowStop, .inletHigh, .inletLow, .sensor].foldl (fun s c => testCondition reading c s)
    (onThermal (fun t => { t with inlet := reading.inlet, outlet := reading.outlet }) s)

theorem coolantTested_sensor {reading : CoolantReading} (h : SensorFails reading) (s : State) :
    SensorHeld (coolantTested reading s).thermal := testCondition_sensor h _

theorem coolantTest_eq (reading : CoolantReading) (s : State) : coolantTest reading s = settleBoost
    (if heldLow (coolantTested reading s) then slowAll (settleDuty (coolantTested reading s)) else settleDuty (coolantTested reading s)) := rfl

/-- Besides the readings a test changes the conditions and the duty, and of the other blocks none but power, regions and recorder. -/
theorem coolantTest_frame (reading : CoolantReading) (s : State) : ∃ conds duty,
    (coolantTest reading s).thermal = { s.thermal with inlet := reading.inlet, outlet := reading.outlet, conds := conds, duty := duty } ∧
      (coolantTest reading s).mem = s.mem ∧ (coolantTest reading s).seq = s.seq ∧ (coolantTest reading s).trust = s.trust ∧
      (coolantTested reading s).thermal.conds = conds ∧ (SensorHeld (coolantTested reading s).thermal → duty = 1000) := by
  obtain ⟨log, conds, tested⟩ : ∃ log conds, coolantTested reading s = { s with log := log, thermal := { s.thermal with
      inlet := reading.inlet, outlet := reading.outlet, conds := conds } } := foldl_testCondition_eq reading _ _
  obtain ⟨duty, settles, forced⟩ := settleDuty_eq (coolantTested reading s)
  rw [coolantTest_eq, settleBoost_thermal, settleBoost_mem, settleBoost_seq, settleBoost_trust, settles]
  refine ⟨conds, duty, ?_, ?_, ?_, ?_, by rw [tested], forced⟩
  all_goals split <;> simp [slowAll, tested]

theorem exec_coolantConditionTest {s : State} (aux : s.pins.aux = true) (reading : CoolantReading) :
    exec (.coolantConditionTest reading) s = .next (settled s (coolantTest reading s)) := by
  rw [exec, execCoolantConditionTest, event_holds aux]

theorem coolantReadings : Claims.CoolantReadings := by
  intro s aux
  refine ⟨fun edges => ?_, fun reading => ⟨_, exec_coolantConditionTest aux reading, ?_⟩⟩
  · rw [exec, execFlowUpdate, event_quiet aux (by rfl)]
    rfl
  obtain ⟨conds, duty, thermal, mem, seq, trust, tested, forced⟩ := coolantTest_frame reading s
  simp only [settled_thermal, settled_mem, settled_seq, settled_trust, mem, seq, trust, and_true]
  refine ⟨by rw [thermal], by rw [thermal], fun fails => ?_⟩
  have held : SensorHeld (coolantTested reading s).thermal := coolantTested_sensor fails s
  refine ⟨by rw [thermal]; exact forced held, creditGranted_of_sensor ?_⟩
  obtain ⟨c, mem, active, sensor⟩ := held
  refine ⟨c, ?_, active, sensor⟩
  rw [settled_thermal, thermal, ← tested]
  exact mem

/-- Settles O22, by one pass of the loop and one test of the coolant. -/
theorem coolantLoop : Obligations.CoolantLoop := ⟨valveDutyStaysInRange, coolantReadings⟩

end Sys2Proof.Machine

/-! ## O15: MAIN_EN brings the rails up and down

Bringing MAIN up is a cold start of the island's state (`coldStart`, which writes records and chooses an image) and the bring-up of the
ports; taking it down is `standby`. -/

namespace Sys2Proof.Machine

/-! ### The rails come up, R365, R368 -/

/-- What MAIN finds and leaves: rails up in step 2 of the start, the valve open, and nothing of the timetable changed. -/
structure MainUp (s t : State) : Prop where
  pins : t.pins = { s.pins with thermTripN := true }
  power : t.power = { s.power with boostEn := true, dozeTarget := false, rails := true, mainHold := false, state := .run, startup := 2 }
  duty : t.thermal.duty = 1000
  loop : t.thermal.loopOn = true
  mem : t.mem = s.mem
  seq : t.seq = s.seq
  regions : t.regions = s.regions
  gw : t.gw = s.gw

theorem startMain_mainUp (s : State) : MainUp s (startMain s) := by
  obtain ⟨fab, brought, -⟩ := bringUpAll_eq { coldStart s with
    power := { (coldStart s).power with rails := true, mainHold := false, state := .run, startup := 2 }
    pins := { (coldStart s).pins with thermTripN := true }
    thermal := { (coldStart s).thermal with
      tripped := false, hot := false, tp := (coldStart s).thermal.tj * 62500, loopOn := true, ran := true,
      integ := startInteg (coldStart s).thermal.outlet (coldStart s).thermal.outletTarget, duty := 1000 } }
  have up : startMain s = _ := brought
  rw [up]
  constructor <;> simp [coldStart]

theorem exec_mainEnAssert {s : State} (low : s.pins.mainEn = false) : exec .mainEnAssert s = .next (settled s (mainEnAssert s)) := by
  rw [exec, execMainEnAssert, event_holds (by simp [low])]

/-- The state with MAIN_EN asserted. -/
def withMainEn (s : State) : State := onPins (fun p => { p with mainEn := true }) s

theorem mainEnAssert_allowed {s : State} (aux : s.pins.aux = true) (ready : s.power.auxReady = true) (free : s.power.lockout = .none)
    (off : s.power.rails = false) : mainEnAssert s = startMain (withMainEn s) := if_pos (by simp [mainAllowed, aux, ready, free, off])

theorem mainEnAssert_early {s : State} (aux : s.pins.aux = true) (early : s.power.auxReady = false) (free : s.power.lockout = .none) :
    mainEnAssert s = onPower (fun p => { p with mainHold := true }) (withMainEn s) := by
  simp [mainEnAssert, withMainEn, mainAllowed, aux, early, free]

theorem mainEnAssert_locked {s : State} (locked : s.power.lockout ≠ .none) : mainEnAssert s = withMainEn s := by
  simp [mainEnAssert, withMainEn, mainAllowed, locked]

theorem exec_mainHoldRelease {s : State} (aux : s.pins.aux = true) (early : s.power.auxReady = false) :
    exec .mainHoldRelease s = .next (settled s (mainHoldRelease s)) := by
  rw [exec, execMainHoldRelease, event_holds (by simp [aux, early])]

/-- AUX is ready. -/
def withAuxReady (s : State) : State := onPower (fun p => { p with auxReady := true }) s

theorem mainHoldRelease_held {s : State} (aux : s.pins.aux = true) (held : s.power.mainHold = true) (high : s.pins.mainEn = true)
    (free : s.power.lockout = .none) (off : s.power.rails = false) : mainHoldRelease s = startMain (withAuxReady s) :=
  if_pos (by simp [mainAllowed, aux, held, high, free, off])

theorem mainHoldRelease_idle {s : State} (idle : s.power.mainHold = false) : mainHoldRelease s = withAuxReady s :=
  if_neg (by simp [idle])

/-! ### The rails go down, R369 -/

/-- The lockout that waits for MAIN_EN's deassertion ends, and the one that waits for AUX stays. -/
theorem freeDeassert_eq (l : Lockout) : freeDeassert l = if l = .untilAux ∨ l = .untilBoth then .untilAux else .none := by
  simp [freeDeassert]

theorem exec_mainEnDeassert {s : State} (high : s.pins.mainEn = true) :
    exec .mainEnDeassert s = .next (settled s (mainEnDeassert s)) := by rw [exec, execMainEnDeassert, event_holds high]

theorem mainEnDeassert_up {s : State} (on : s.power.rails = true) : mainEnDeassert s =
    onPower (fun p => { p with mainHold := false, lockout := freeDeassert p.lockout })
      (standby (onPins (fun p => { p with mainEn := false }) s)) := by
  simp [mainEnDeassert, on]

/-- Settles O15: MAIN_EN by whether AUX is ready and a lockout holds. -/
theorem mainEnBringsRailsUpAndDown : Obligations.MainEnBringsRailsUpAndDown := by
  intro s aux
  refine ⟨fun low ready free off => ?up, fun low early free => ?hold, fun low locked => ?locked, fun early held high free off => ?release,
    fun early idle => ?ready, fun high on => ?down⟩
  case up =>
    obtain ⟨pins, power, duty, loop, mem, seq, regions, gw⟩ := startMain_mainUp (withMainEn s)
    refine ⟨_, exec_mainEnAssert low, ?_⟩
    rw [mainEnAssert_allowed aux ready free off]
    simp only [settled_pins, settled_power, settled_thermal, settled_mem, settled_seq, settled_regions, settled_sessions, pins, power, duty,
      loop, mem, seq, regions, gw]
    exact ⟨rfl, trivial, trivial, trivial, trivial, trivial, trivial, rfl, rfl, rfl, rfl⟩
  case hold =>
    rw [exec_mainEnAssert low, mainEnAssert_early aux early free]
    exact congrArg _ (settled_eq rfl)
  case locked =>
    rw [exec_mainEnAssert low, mainEnAssert_locked locked]
    exact congrArg _ (settled_eq rfl)
  case release =>
    obtain ⟨-, power, -⟩ := startMain_mainUp (withAuxReady s)
    refine ⟨_, exec_mainHoldRelease aux early, ?_⟩
    rw [mainHoldRelease_held aux held high free off]
    simp only [settled_power, power]
    exact ⟨rfl, trivial, trivial⟩
  case ready =>
    rw [exec_mainHoldRelease aux early, mainHoldRelease_idle idle]
    exact congrArg _ (settled_eq rfl)
  case down =>
    refine ⟨_, exec_mainEnDeassert high, ?_⟩
    rw [mainEnDeassert_up on]
    simp only [settled_pins, settled_power, settled_mem, settled_seq, settled_job, settled_sessions, settled_trust, settled_log]
    exact ⟨rfl, rfl, rfl, freeDeassert_eq _, rfl, rfl, rfl, rfl, rfl, rfl, rfl⟩

end Sys2Proof.Machine

/-! ## O16: faults of supplies and clocks

Each fault of a supply is the emergency down sequence, which leaves the module in STANDBY with a lockout (`emergencyDown_down`). A region
whose PLL loses lock is fenced (`fenceMark_alone`), and the PCI Express link is the gangway's and the pins' alone. -/

namespace Sys2Proof.Machine

/-! ### The emergency down sequence, R370 -/

/-- STANDBY after a fault: the tiers and their keys are gone, and MAIN_EN is locked out. -/
structure Down (s t : State) : Prop where
  rails : t.power.rails = false
  state : t.power.state = .standby
  faults : t.power.railFaults = s.power.railFaults
  lockout : t.power.lockout = lockDeassert s.power.lockout
  tier : t.mem.tier = []
  keys : t.mem.keys = none
  mainMv : t.thermal.mainMv = s.thermal.mainMv

theorem emergencyDown_down (s : State) : Down s (emergencyDown s) := ⟨rfl, rfl, rfl, rfl, rfl, rfl, rfl⟩

theorem lockDeassert_locked (l : Lockout) : lockDeassert l ≠ .none := by cases l <;> decide

/-- The lockout after a rail fault: until MAIN_EN is deasserted, and from the third fault until AUX is removed too. -/
theorem lockAux_lockDeassert (l : Lockout) : lockAux (lockDeassert l) = .untilBoth := by cases l <;> decide

theorem lockDeassert_both_iff (l : Lockout) : lockDeassert l = .untilBoth ↔ l = .untilAux ∨ l = .untilBoth := by cases l <;> decide

theorem lockDeassert_cases (l : Lockout) : lockDeassert l = .untilBoth ∨ lockDeassert l = .untilDeassert := by cases l <;> decide

/-! ### Supplies, R366, R370 -/

/-- MAIN outside 36 V to 55 V for the band's time. -/
theorem mainRange_outside {mv : Nat} (outside : mv < 36000 ∨ 55000 < mv) (s : State) : ∃ band log,
    mainRange mv true s = emergencyDown { s with thermal := { s.thermal with mainMv := mv, mainBand := band }, log := log } := by
  have bands : mainBandOf mv = 2 ∨ mainBandOf mv = 4 := by unfold mainBandOf; split_ifs <;> omega
  obtain ⟨log, noted⟩ : ∃ log, (if s.thermal.mainBand = mainBandOf mv then onThermal (fun t => { t with mainMv := mv }) s
      else record Code.mainRange (leBytes 2 mv) (onThermal (fun t => { t with mainMv := mv }) s)) =
        { s with thermal := { s.thermal with mainMv := mv }, log := log } := by split <;> exact ⟨_, rfl⟩
  have effect : mainRange mv true s = emergencyDown (onThermal (fun t => { t with mainBand := mainBandOf mv })
      (if s.thermal.mainBand = mainBandOf mv then onThermal (fun t => { t with mainMv := mv }) s
        else record Code.mainRange (leBytes 2 mv) (onThermal (fun t => { t with mainMv := mv }) s))) := by
    rcases bands with band | band <;> simp [mainRange, band]
  exact ⟨mainBandOf mv, log, effect.trans (by rw [noted]; rfl)⟩

theorem mainRange_inside {mv : Nat} (low : 38000 ≤ mv) (high : mv ≤ 50000) (lasted : Bool) (s : State) :
    mainRange mv lasted s = { s with thermal := { s.thermal with mainMv := mv, mainBand := 0 } } := by
  have band : mainBandOf mv = 0 := by unfold mainBandOf; split_ifs <;> omega
  exact if_pos band

theorem railFault_eq (rail : Fin 12) (phase : Fin 3) (mv : Nat) (s : State) : ∃ log, railFault rail phase mv s = 
    onPower (fun p => { p with railFaults := p.railFaults + 1, lockout := if 2 ≤ p.railFaults then lockAux p.lockout else p.lockout })
      (emergencyDown { s with log := log }) := ⟨_, rfl⟩

theorem supplyFaultsRunTheEmergencyDown : Claims.SupplyFaultsRunTheEmergencyDown := by
  intro s aux on
  refine ⟨fun mv outside => ?outside, fun mv low high lasted => ?inside, fun rail phase mv => ?rail, ?refclk⟩
  case outside =>
    obtain ⟨band, log, effect⟩ := mainRange_outside outside s
    have outcome : exec (.mainRange mv true) s = .next (settled s (mainRange mv true s)) := by rw [exec, execMainRange, event_holds on]
    refine ⟨_, outcome, ?_⟩
    rw [effect]
    have down := emergencyDown_down { s with thermal := { s.thermal with mainMv := mv, mainBand := band }, log := log }
    simp only [settled_power, settled_mem, settled_thermal]
    exact ⟨down.rails, down.state, down.lockout ▸ lockDeassert_locked _, down.tier, down.keys, down.mainMv⟩
  case inside =>
    have effect := mainRange_inside low high lasted s
    rw [exec, execMainRange, event_quiet on (by rw [effect]; rfl), effect]
  case rail =>
    obtain ⟨log, effect⟩ := railFault_eq rail phase mv s
    have outcome : exec (.railFault rail phase mv) s = .next (settled s (railFault rail phase mv s)) := by
      rw [exec, execRailFault, event_holds aux]
    have down := emergencyDown_down { s with log := log }
    refine ⟨_, outcome, ?_⟩
    rw [effect]
    simp only [settled_power, settled_mem, onPower_power, onPower_mem, down.rails, down.state, down.faults, down.lockout, down.tier, down.keys,
      true_and]
    by_cases third : 2 ≤ s.power.railFaults
    · simp [third, lockAux_lockDeassert]
    · simp only [third, if_false, lockDeassert_both_iff, false_or, true_and]
      exact (lockDeassert_cases _).imp_left (lockDeassert_both_iff _).mp
  case refclk =>
    have outcome : exec .linkRefclkFault s = .next (settled s (emergencyDown (record Code.clockFault [0xFF] s))) := by
      rw [exec, execLinkRefclkFault, event_holds on]
    have down := emergencyDown_down (record Code.clockFault [0xFF] s)
    refine ⟨_, outcome, ?_⟩
    simp only [settled_power, settled_mem]
    exact ⟨down.rails, down.state, down.lockout ▸ lockDeassert_locked _, down.tier, down.keys⟩

/-! ### Clocks, R374 -/

/-- Records that enter the queue do not change the time that the next one takes. -/
theorem Recorder.stamp_push (l : Recorder) (r : Rec) (c : RecCode) (flags : BitVec 8) (params : List Byte) :
    (l.push r).stamp c flags params = l.stamp c flags params := by
  obtain ⟨seconds, cycles⟩ := sameCounters_push l r
  rw [stamp, stamp, seconds, cycles]

theorem pllLossOfLock_idle {s : State} {r : Fin 64} (alone : inPair s = false) (idle : s.seq.run = none)
    (serving : (region s r).inService = true) : pllLossOfLock r s = record Code.regionFence (regionParam s r ++ fencePlace s)
      (onRegion r (fun g => { g with mode := .slipway .pll, pendingFence := none, retest := true, clock := .waking })
        (record Code.clockFault (regionParam s r) s)) := by
  have still : (record Code.clockFault (regionParam s r) s).seq.run = none := idle
  have served : (region (record Code.clockFault (regionParam s r) s) r).inService = true := serving
  have param : regionParam (record Code.clockFault (regionParam s r) s) r = regionParam s r := by
    rw [regionParam, regionParam, record_pair]
  have place : fencePlace (record Code.clockFault (regionParam s r) s) = fencePlace s := by
    rw [fencePlace_idle still, fencePlace_idle idle, record_seq]
  rw [pllLossOfLock, if_pos served, fenceNow, still]
  simp only []
  rw [fenceMark_alone (by exact alone), param, place]
  rfl

theorem pllLossFencesTheRegion : Claims.PllLossFencesTheRegion := by
  intro s r count solo idle ready serving
  have outcome : exec (.pllLossOfLock r) s = .next (settled s (pllLossOfLock r s)) := by
    rw [exec, execPllLossOfLock, event_holds (by simp [ready])]
  refine ⟨_, outcome, ?_⟩
  rw [pllLossOfLock_idle (alone_of_solo solo) idle serving]
  have fenced := region_onRegion_same (record Code.clockFault (regionParam s r) s) r
    (fun g => { g with mode := .slipway .pll, pendingFence := none, retest := true, clock := .waking }) (by simp [count])
  have regions := fun k => region_congr ((settled_regions _ s).trans (record_regions Code.regionFence (regionParam s r ++ fencePlace s)
    (onRegion r (fun g => { g with mode := .slipway .pll, pendingFence := none, retest := true, clock := .waking })
      (record Code.clockFault (regionParam s r) s)))) k
  simp only [regions, settled_log, settled_mem, settled_seq, settled_fab, settled_trust, fenced]
  refine ⟨trivial, trivial, trivial, fun k other => ?_, ?_, rfl, rfl, rfl, rfl⟩
  · rw [region_onRegion_other _ _ _ _ other]; rfl
  · rw [record_log, onRegion_log, record_log, Recorder.stamp_push]

theorem pcieLinkGoesDownAndUp : Claims.PcieLinkGoesDownAndUp := by
  refine fun s => ⟨fun ref => ?_, fun on down => ?_⟩
  · rw [exec, execPcieRefclkLoss, event_quiet ref (by rfl)]
    rfl
  · rw [exec, execPcieLinkUp, event_quiet (by simp [on, down]) (by rfl)]
    rfl

/-- Settles O16: supplies, region clocks and the host's clock. -/
theorem faultsOfSupplyAndClock : Obligations.FaultsOfSupplyAndClock :=
  ⟨supplyFaultsRunTheEmergencyDown, pllLossFencesTheRegion, pcieLinkGoesDownAndUp⟩

end Sys2Proof.Machine

/-! ## O19: the start ends in READY

Training and the control restart change a few registers each. Self-test goes through the row bands one by one; each changes regions and
recorder alone (`selftestBand_frame`). A region with a failed slice is fenced in its own band, and no band takes it back
(`selftestBand_fences`, `selftestBand_keepsFenced`); without a failed core any other region enters service in its own band, with its cores
as they were (`selftestBand_serves`). -/

namespace Sys2Proof.Machine

/-! ### Training and the control restart, R392, R396 -/

theorem exec_controlRestartDone {s : State} (restarting : s.power.startup = 7) :
    exec .controlRestartDone s = .next (settled s (controlRestartDone s)) := by
  rw [exec, execControlRestartDone, event_holds (by simp [restarting])]

theorem startUpStepsEnd : Claims.StartUpStepsEnd := by
  intro s
  refine ⟨fun restarting => ⟨_, exec_controlRestartDone restarting, ?_⟩, fun training => ?_, fun training k => ?_⟩
  · obtain ⟨state, dozed⟩ := settleDoze_eq (onGw (fun g => { g with runstate := if s.job.started then .halted else .ready })
      (onPower (fun p => { p with startup := 6, state := .run }) s))
    have effect : controlRestartDone s = _ := dozed
    simp only [settled_power, settled_runstate, settled_seq, settled_mem, settled_trust, effect]
    exact ⟨rfl, rfl, rfl, rfl, rfl⟩
  · rw [exec, execMemoryTrained, event_quiet (by simp [training]) (by rfl)]
    rfl
  · rw [exec, execMemoryTrained, event_quiet (by simp [training]) (by rfl)]
    rfl

/-! ### Folds that change regions one at a time -/

/-- Only the regions and the recorder differ. -/
def RegionsAndLog (s t : State) : Prop := ∃ g rec, t = { s with regions := g, log := rec }

theorem RegionsAndLog.trans {s t u : State} (a : RegionsAndLog s t) (b : RegionsAndLog t u) : RegionsAndLog s u := by
  obtain ⟨g, rec, rfl⟩ := a
  obtain ⟨g', rec', rfl⟩ := b
  exact ⟨g', rec', rfl⟩

theorem RegionsAndLog.foldl {α : Type} {f : State → α → State} (h : ∀ s a, RegionsAndLog s (f s a)) (l : List α) (s : State) :
    RegionsAndLog s (l.foldl f s) := by
  induction l generalizing s with
  | nil => exact ⟨s.regions, s.log, rfl⟩
  | cons a l ih => exact (h s a).trans (ih _)

/-- A step of a fold that changes one region. -/
structure ChangesRegion {α : Type} (f : State → α → State) (key : α → Nat) (change : α → Region → Region) : Prop where
  regions : ∀ s a, (f s a).regions = modifyAt s.regions (key a) (change a)

section
variable {α : Type} {f : State → α → State} {key : α → Nat} {change : α → Region → Region} (steps : ChangesRegion f key change)
  {P : Region → Prop} {r : Nat}
include steps

theorem ChangesRegion.other {s : State} {a : α} (h : key a ≠ r) : region (f s a) r = region s r :=
  (region_congr (s := onRegion (key a) (change a) s) (steps.regions s a) r).trans (region_onRegion_other _ _ _ _ h.symm)

theorem ChangesRegion.same {s : State} {a : α} (h : key a = r) (here : r < s.regions.length) :
    region (f s a) r = change a (region s r) := by
  subst h
  exact (region_congr (s := onRegion (key a) (change a) s) (steps.regions s a) _).trans (region_onRegion_same _ _ _ here)

theorem ChangesRegion.length (s : State) (a : α) : (f s a).regions.length = s.regions.length := by rw [steps.regions, modifyAt_length]

theorem ChangesRegion.foldl_length (l : List α) (s : State) : (l.foldl f s).regions.length = s.regions.length :=
  foldl_keeps (fun s => s.regions.length) f steps.length l s

theorem ChangesRegion.keeps {l : List α} {s : State} (here : r < s.regions.length)
    (kept : ∀ a ∈ l, key a = r → ∀ g, P g → P (change a g)) (h : P (region s r)) : P (region (l.foldl f s) r) := by
  induction l generalizing s with
  | nil => exact h
  | cons a l ih =>
    refine ih (by rwa [steps.length]) (fun b mem => kept b (List.mem_cons_of_mem _ mem)) ?_
    by_cases own : key a = r
    · rw [steps.same own here]; exact kept a (List.mem_cons_self ..) own _ h
    · rw [steps.other own]; exact h

/-- What every change establishes holds of a region that one of them reaches. -/
theorem ChangesRegion.sets {l : List α} {s : State} (here : r < s.regions.length) (established : ∀ a ∈ l, ∀ g, P (change a g))
    (reached : ∃ a ∈ l, key a = r) : P (region (l.foldl f s) r) := by
  induction l generalizing s with
  | nil => obtain ⟨a, mem, -⟩ := reached; cases mem
  | cons a l ih =>
    have here' : r < (f s a).regions.length := by rwa [steps.length]
    have later : ∀ b ∈ l, ∀ g, P (change b g) := fun b mem => established b (List.mem_cons_of_mem _ mem)
    by_cases own : key a = r
    · show P (region (l.foldl f (f s a)) r)
      refine steps.keeps here' (fun b mem _ g _ => later b mem g) ?_
      rw [steps.same own here]; exact established a (List.mem_cons_self ..) _
    · obtain ⟨b, mem, at'⟩ := reached
      rcases List.mem_cons.mp mem with rfl | mem
      · exact absurd at' own
      · exact ih here' later ⟨b, mem, at'⟩

end

/-- What one step of a fold establishes and the others keep holds at its end. -/
theorem foldl_reaches {β : Type} {f : State → β → State} {I P : State → Prop} {b : β} (invariant : ∀ s x, I s → I (f s x))
    (reached : ∀ s, I s → P (f s b)) (kept : ∀ s x, I s → P s → P (f s x)) {l : List β} (mem : b ∈ l) {s : State} (h : I s) :
    P (l.foldl f s) := by
  have stays : ∀ (l : List β) (s : State), I s → P s → P (l.foldl f s) := by
    intro l
    induction l with
    | nil => exact fun s _ p => p
    | cons x l ih => exact fun s i p => ih _ (invariant s x i) (kept s x i p)
  induction l generalizing s with
  | nil => cases mem
  | cons x l ih =>
    rcases List.mem_cons.mp mem with rfl | mem
    · exact stays l _ (invariant s b h) (reached s h)
    · exact ih mem (invariant s x h)

/-! ### One row band of the self-test, R395 -/

/-- The four regions of a row band. -/
def bandRegions (band : Nat) : List Nat := (List.range 4).map (fun j => band * 4 + j)

theorem mem_bandRegions (band r : Nat) : r ∈ bandRegions band ↔ r / 4 = band := by
  simp only [bandRegions, List.mem_map, List.mem_range]
  constructor
  · rintro ⟨j, h, rfl⟩; omega
  · rintro rfl; exact ⟨r % 4, by omega, by omega⟩

def fenceFailed (s : State) (x : Nat × List Byte) : State :=
  record Code.selftestFail (regionParam s x.1 ++ x.2)
    (onRegion x.1 (fun g => { g with mode := .fenced .selftest, sliver := [], clock := .gated }) s)

def giveSpare (s : State) (a : Nat × Nat × Nat) : State :=
  record Code.coreFenced (coreFencedParam a.1 a.2.1 a.2.2) (onRegion a.1 (fun g => { g with sliver := sput g.sliver a.2.1 a.2.2 }) s)

def putInService (s : State) (r : Nat) : State := onRegion r (fun g => { g with mode := .service, clock := .ready }) s

theorem fenceFailed_changes : ChangesRegion fenceFailed Prod.fst
    (fun _ g => { g with mode := .fenced .selftest, sliver := [], clock := .gated }) := ⟨fun _ _ => rfl⟩

theorem giveSpare_changes : ChangesRegion giveSpare Prod.fst (fun a g => { g with sliver := sput g.sliver a.2.1 a.2.2 }) := ⟨fun _ _ => rfl⟩

theorem putInService_changes : ChangesRegion putInService id (fun _ g => { g with mode := .service, clock := .ready }) := ⟨fun _ _ => rfl⟩

section
variable (cores : List (Fin 64 × Fin 144)) (spares : List (Fin 16 × Fin 24)) (slices : List (Fin 64)) (band : Nat) (s : State)

/-- The regions of the band that enter service. -/
def soundRegions : List Nat :=
  (bandRegions band).filter (fun r => !(bandResult cores spares slices band).1.any (fun f => f.1 = r))

theorem selftestBand_eq : selftestBand cores spares slices band s = (soundRegions cores spares slices band).foldl putInService
    ((bandResult cores spares slices band).2.foldl giveSpare ((bandResult cores spares slices band).1.foldl fenceFailed s)) := rfl

theorem selftestBand_frame : RegionsAndLog s (selftestBand cores spares slices band s) := by
  rw [selftestBand_eq]
  exact (RegionsAndLog.foldl (fun _ _ => ⟨_, _, rfl⟩) _ s).trans
    ((RegionsAndLog.foldl (fun _ _ => ⟨_, _, rfl⟩) _ _).trans (RegionsAndLog.foldl (fun _ _ => ⟨_, _, rfl⟩) _ _))

theorem selftestBand_length : (selftestBand cores spares slices band s).regions.length = s.regions.length := by
  rw [selftestBand_eq, putInService_changes.foldl_length, giveSpare_changes.foldl_length, fenceFailed_changes.foldl_length]

end

/-- Regions with a failed slice are among those that the band fences. -/
theorem bandResult_slice {cores : List (Fin 64 × Fin 144)} {spares : List (Fin 16 × Fin 24)} {slices : List (Fin 64)} {r : Fin 64}
    (failed : r ∈ slices) : ∃ f ∈ (bandResult cores spares slices (r.val / 4)).1, f.1 = r.val := by
  have own : r.val ∈ bandRegions (r.val / 4) := (mem_bandRegions _ _).mpr rfl
  have bad : r.val ∈ (bandRegions (r.val / 4)).filter (fun k => slices.any (fun x => x.val = k)) :=
    List.mem_filter.mpr ⟨own, List.any_eq_true.mpr ⟨r, failed, by simp⟩⟩
  refine ⟨(r.val, sliceParam r.val), ?_, rfl⟩
  exact List.mem_append_left _ (List.mem_append_left _ (List.mem_map.mpr ⟨r.val, bad, rfl⟩))

theorem bandSpares_noCores (bad : List Nat) (n : Nat) (regions : List Nat) : bandSpares bad (fun _ => []) (n + 1) regions = ([], []) := by
  have none : regions.flatMap (fun r => ([] : List Nat).map (fun k => (r, k))) = [] := List.flatMap_eq_nil_iff.mpr fun _ _ => rfl
  rw [bandSpares, none]
  rfl

/-- With no failed core a band fences the regions with a failed slice alone, and gives no spare. -/
theorem bandResult_noCores (spares : List (Fin 16 × Fin 24)) (slices : List (Fin 64)) (band : Nat) :
    bandResult [] spares slices band =
      (((bandRegions band).filter (fun r => slices.any (fun x => x.val = r))).map (fun r => (r, sliceParam r)), []) := by
  simp [bandResult, bandSpares_noCores, bandRegions]

section
variable {cores : List (Fin 64 × Fin 144)} {spares : List (Fin 16 × Fin 24)} {slices : List (Fin 64)} {r : Fin 64}

/-- The region is fenced for a failed self-test. -/
def FencedIn (r : Nat) (s : State) : Prop := (region s r).mode = .fenced .selftest

theorem selftestBand_fences (failed : r ∈ slices) {s : State} (here : r.val < s.regions.length) :
    FencedIn r (selftestBand cores spares slices (r.val / 4) s) := by
  obtain ⟨x, mem, own⟩ := bandResult_slice (cores := cores) (spares := spares) failed
  rw [selftestBand_eq]
  refine putInService_changes.keeps (P := fun g => g.mode = .fenced .selftest)
    (by rwa [giveSpare_changes.foldl_length, fenceFailed_changes.foldl_length]) (fun k sound at' => ?_) ?_
  · obtain ⟨-, unfenced⟩ := List.mem_filter.mp sound
    have fenced : (bandResult cores spares slices (r.val / 4)).1.any (fun f => f.1 = k) = true :=
      List.any_eq_true.mpr ⟨x, mem, by rw [own]; exact decide_eq_true at'.symm⟩
    simp [fenced] at unfenced
  · refine giveSpare_changes.keeps (P := fun g => g.mode = .fenced .selftest) (by rwa [fenceFailed_changes.foldl_length])
      (fun _ _ _ _ h => h) ?_
    exact fenceFailed_changes.sets (P := fun g => g.mode = .fenced .selftest) here (fun _ _ _ => rfl) ⟨x, mem, own⟩

/-- Another band does not put the region into service. -/
theorem selftestBand_keepsFenced {band : Nat} (other : r.val / 4 ≠ band) {s : State} (here : r.val < s.regions.length) (h : FencedIn r s) :
    FencedIn r (selftestBand cores spares slices band s) := by
  rw [selftestBand_eq]
  refine putInService_changes.keeps (P := fun g => g.mode = .fenced .selftest)
    (by rwa [giveSpare_changes.foldl_length, fenceFailed_changes.foldl_length]) (fun k sound at' => ?_) ?_
  · obtain ⟨inBand, -⟩ := List.mem_filter.mp sound
    exact absurd ((mem_bandRegions _ _).mp (at' ▸ inBand)) other
  · refine giveSpare_changes.keeps (P := fun g => g.mode = .fenced .selftest) (by rwa [fenceFailed_changes.foldl_length])
      (fun _ _ _ _ h => h) ?_
    exact fenceFailed_changes.keeps (P := fun g => g.mode = .fenced .selftest) here (fun _ _ _ _ _ => rfl) h

theorem selftestBand_noCores (spares : List (Fin 16 × Fin 24)) (slices : List (Fin 64)) (band : Nat) (s : State) :
    selftestBand [] spares slices band s = (soundRegions [] spares slices band).foldl putInService
      ((((bandRegions band).filter (fun r => slices.any (fun x => x.val = r))).map (fun r => (r, sliceParam r))).foldl fenceFailed s) := by
  rw [selftestBand_eq, bandResult_noCores]; rfl

/-- No band without a failed core changes what holds of a region with good slices, unless it puts the region into service. -/
theorem selftestBand_keeps {P : Region → Prop} (served : ∀ g, P g → P { g with mode := .service, clock := .ready }) (good : r ∉ slices)
    {band : Nat} {s : State} (here : r.val < s.regions.length) (h : P (region s r)) :
    P (region (selftestBand [] spares slices band s) r) := by
  rw [selftestBand_noCores]
  refine putInService_changes.keeps (by rwa [fenceFailed_changes.foldl_length]) (fun _ _ _ => served) ?_
  refine fenceFailed_changes.keeps here (fun x mem at' => ?_) h
  obtain ⟨k, bad, rfl⟩ := List.mem_map.mp mem
  obtain ⟨-, failed⟩ := List.mem_filter.mp bad
  obtain ⟨y, mem, same⟩ := List.any_eq_true.mp failed
  exact absurd (Fin.ext ((of_decide_eq_true same).trans at') ▸ mem) good

theorem selftestBand_serves (good : r ∉ slices) {s : State} (here : r.val < s.regions.length) :
    (region (selftestBand [] spares slices (r.val / 4) s) r).mode = .service ∧
      (region (selftestBand [] spares slices (r.val / 4) s) r).clock = .ready := by
  rw [selftestBand_noCores]
  refine putInService_changes.sets (P := fun g => g.mode = .service ∧ g.clock = .ready) (by rwa [fenceFailed_changes.foldl_length])
    (fun _ _ _ => ⟨rfl, rfl⟩) ⟨r.val, List.mem_filter.mpr ⟨(mem_bandRegions _ _).mpr rfl, ?_⟩, rfl⟩
  rw [bandResult_noCores, Bool.not_eq_true', List.any_eq_false]
  rintro x mem at'
  obtain ⟨k, bad, rfl⟩ := List.mem_map.mp mem
  obtain ⟨-, failed⟩ := List.mem_filter.mp bad
  obtain ⟨y, mem, same⟩ := List.any_eq_true.mp failed
  exact absurd (Fin.ext ((of_decide_eq_true same).trans (of_decide_eq_true at')) ▸ mem) good

end

/-! ### The self-test, R395 -/

section
variable (cores : List (Fin 64 × Fin 144)) (spares : List (Fin 16 × Fin 24)) (slices : List (Fin 64)) (s : State)

/-- Every row band has been tested. -/
def bandsTested : State :=
  (List.range 16).foldl (fun s b => selftestBand cores spares slices b s) { s with badSpares := spares.map (fun p => p.1.val * 24 + p.2.val) }

theorem bandsTested_frame : RegionsAndLog { s with badSpares := spares.map (fun p => p.1.val * 24 + p.2.val) }
    (bandsTested cores spares slices s) := RegionsAndLog.foldl (fun s b => selftestBand_frame cores spares slices b s) _ _

/-- READY, with the regions and the recorder as the bands have left them. -/
theorem selftestDone_eq : ∃ p g rec, selftestDone cores spares slices s = { s with
      regions := g, log := rec, badSpares := spares.map (fun p => p.1.val * 24 + p.2.val)
      power := { s.power with startup := 6, state := p }, gw := { s.gw with runstate := .ready } } ∧
    (bandsTested cores spares slices s).regions = g := by
  obtain ⟨g, rec, tested⟩ := bandsTested_frame cores spares slices s
  obtain ⟨p, dozed⟩ := settleDoze_eq (onGw (fun g => { g with runstate := .ready })
    (onPower (fun p => { p with startup := 6, state := .run }) (bandsTested cores spares slices s)))
  have effect : selftestDone cores spares slices s = _ := dozed
  exact ⟨p, g, rec, effect.trans (by rw [tested]; rfl), by rw [tested]⟩

end

section
variable {cores : List (Fin 64 × Fin 144)} {spares : List (Fin 16 × Fin 24)} {slices : List (Fin 64)} {s : State} (count : s.regions.length = 64)
  {r : Fin 64}
include count

theorem bandsTested_fences (failed : r ∈ slices) : FencedIn r (bandsTested cores spares slices s) := by
  refine foldl_reaches (I := fun s => s.regions.length = 64) (b := r.val / 4) (fun s b h => by rw [selftestBand_length, h])
    (fun s h => selftestBand_fences failed (h.symm ▸ r.isLt)) (fun s b h fenced => ?_) (List.mem_range.mpr (by omega)) count
  by_cases own : r.val / 4 = b
  · subst own; exact selftestBand_fences failed (h.symm ▸ r.isLt)
  · exact selftestBand_keepsFenced own (h.symm ▸ r.isLt) fenced

theorem bandsTested_serves (good : r ∉ slices) : (region (bandsTested [] spares slices s) r).mode = .service ∧
    (region (bandsTested [] spares slices s) r).sliver = (region s r).sliver ∧ (region (bandsTested [] spares slices s) r).clock = .ready := by
  refine foldl_reaches (b := r.val / 4)
    (I := fun t => t.regions.length = 64 ∧ (region t r).sliver = (region s r).sliver)
    (P := fun t => (region t r).mode = .service ∧ (region t r).sliver = (region s r).sliver ∧ (region t r).clock = .ready)
    (fun t b ⟨h, own⟩ => ⟨by rw [selftestBand_length, h], ?_⟩) (fun t ⟨h, own⟩ => ?_) (fun t b ⟨h, own⟩ done => ?_)
    (List.mem_range.mpr (by omega)) ⟨count, rfl⟩
  · exact selftestBand_keeps (P := fun g => g.sliver = (region s r).sliver) (fun _ h => h) good (h.symm ▸ r.isLt) own
  · obtain ⟨mode, clock⟩ := selftestBand_serves (spares := spares) good (s := t) (h.symm ▸ r.isLt)
    exact ⟨mode, selftestBand_keeps (P := fun g => g.sliver = (region s r).sliver) (fun _ h => h) good (h.symm ▸ r.isLt) own, clock⟩
  · exact selftestBand_keeps (P := fun g => g.mode = .service ∧ g.sliver = (region s r).sliver ∧ g.clock = .ready)
      (fun _ ⟨_, h, _⟩ => ⟨rfl, h, rfl⟩) good (h.symm ▸ r.isLt) done

end

theorem exec_selftestDone {s : State} (testing : s.power.startup = 3) (cores : List (Fin 64 × Fin 144)) (spares : List (Fin 16 × Fin 24))
    (slices : List (Fin 64)) : exec (.selftestDone cores spares slices) s = .next (settled s (selftestDone cores spares slices s)) := by
  rw [exec, execSelftestDone, event_holds (by simp [testing])]

theorem selftestPutsRegionsInService : Claims.SelftestPutsRegionsInService := by
  intro s cores spares slices testing count
  obtain ⟨p, g, rec, effect, bands⟩ := selftestDone_eq cores spares slices s
  have tested : ∀ k, region (settled s (selftestDone cores spares slices s)) k = region (bandsTested cores spares slices s) k := fun k =>
    region_congr (by rw [settled_regions, effect, bands]) k
  refine ⟨_, exec_selftestDone testing cores spares slices, ?_, ?_, ?_, fun r failed => ?_, fun noCores r good => ?_, ?_⟩
  · rw [settled_runstate, effect]
  · rw [settled_power, effect]
  · rw [settled_badSpares, effect]
  · rw [tested]; exact bandsTested_fences count failed
  · subst noCores
    rw [tested]; exact bandsTested_serves count good
  · simp only [settled_mem, settled_seq, settled_trust, effect]
    exact ⟨trivial, trivial, trivial⟩

/-- Settles O19, by the three steps that end the start. -/
theorem startUpEndsInReady : Obligations.StartUpEndsInReady := ⟨startUpStepsEnd, selftestPutsRegionsInService⟩

end Sys2Proof.Machine

/-! ## O51: an abandoned step restarts in the other slot, or the run halts

A lowering that may run finds no row in flight, so that the halt is complete at once (`haltWith_flightless`). Outside a pair a restart
fills the other slot, tells the members, swaps to that slot and restores the step (`restartIn_eq`). -/

namespace Sys2Proof.Machine

/-- What a lowering of an abandoned step needs of the run. -/
theorem mayLowerAgain_run {s : State} {r : ActiveRun} (run : s.seq.run = some r) (may : mayLowerAgain s = true) :
    r.abandoning.isSome = true ∧ r.halting = none ∧ s.seq.flight = [] := by
  simp only [mayLowerAgain, run, Option.any_some, Bool.and_eq_true, Option.isNone_iff_eq_none, List.isEmpty_iff] at may
  obtain ⟨⟨⟨⟨⟨abandoned, going⟩, -⟩, flight⟩, -⟩, -⟩ := may
  exact ⟨abandoned, going, flight⟩

theorem exec_degradedRestart {s : State} {r : ActiveRun} (run : s.seq.run = some r) (may : mayLowerAgain s = true) :
    exec .degradedRestart s = .next (settled s (degradedRestart r s)) := by
  rw [exec, execDegradedRestart, run]
  exact event_holds may _ s

theorem exec_degradedRestart_kept {s : State} {r : ActiveRun} (run : s.seq.run = some r) (kept : r.abandoning = none) :
    exec .degradedRestart s = .next s := by
  rw [exec, execDegradedRestart, run]
  exact event_waits (by simp [mayLowerAgain, run, kept]) _ s

theorem disarm_unarmed {s : State} {b : Bool} (h : (slotOf s b).state ≠ .armed) : disarm b s = s := if_neg (by simp [slotIs, h])

/-! ### The step cannot restart -/

theorem abandonHalt_eq {s : State} {r : ActiveRun} {h : Halt} (run : s.seq.run = some r) (abandoned : r.abandoning = some h) :
    abandonHalt s = haltWith h.cause h.code (some h.row) false s := by
  simp [abandonHalt, run, abandoned]

theorem haltWith_haltsRun {s : State} {r : ActiveRun} (alone : inPair s = false) (run : s.seq.run = some r) (going : r.halting = none)
    (flight : s.seq.flight = []) (sleep : s.power.sleepReq = false) (debug : s.trust.debugWait = none) (image : s.gw.image = none)
    (cause code : BitVec 16) (row : Nat) : HaltsRun r cause s (haltWith cause code (some row) false s) := by
  rw [haltWith_flightless alone run going flight]
  obtain ⟨runstate, ended, haltCause, haltSlot, slot, mem⟩ := finishHalt_haltsRun (s := stoppingIn r ⟨cause, r.slot, row, code⟩ s)
    sleep debug image (stopping r ⟨cause, r.slot, row, code⟩) ⟨cause, r.slot, row, code⟩ rfl
  exact ⟨runstate, ended, haltCause, haltSlot, slot, mem⟩

/-! ### The step restarts -/

theorem setAttempt_eq {s : State} {r : ActiveRun} (run : s.seq.run = some r) (n : Nat) : ∃ fab early, setAttempt n s =
    { s with fab := fab, job := s.job.fromAttempt n early, seq := { s.seq with run := some { r with attempt := n } } } := by
  obtain ⟨fab, early, dropped, -⟩ := dropEarly_eq (fun m => decide (m.attempt < n)) s
  refine ⟨fab, early, ?_⟩
  simp only [setAttempt, dropped, run, Option.map_some]
  rfl

/-- The run at the first row of its step in another slot, with another attempt. -/
def restartedRun (b : Bool) (entry attempt : Nat) (r : ActiveRun) : ActiveRun :=
  { r with slot := b, next := entry, stepEntry := entry, attempt := attempt, committed := false, abandoning := none, restartAt := none,
           waitCause := none }

/-- The sequencer at the start of the step, its slots swapped. -/
def restartedSeq (b : Bool) (run : ActiveRun) (a4 : List Nat) (hold : SMap (BitVec 8)) (s : State) : Seq :=
  { (clearWatch (swapTo b s)).seq with
    flags := [], loops := [], ledger := [], issues := [], tiles := [], held := [], a4 := a4, hold := hold, run := some run }

theorem swapTo_run (b : Bool) (s : State) : (swapTo b s).seq.run = s.seq.run := by cases b <;> rfl

theorem swapTo_eq (b : Bool) (s : State) : swapTo b s = { s with seq := (swapTo b s).seq } := by cases b <;> rfl

theorem restartIn_eq {s : State} {r : ActiveRun} (run : s.seq.run = some r) (b : Bool) (entry n : Nat) : ∃ fab early a4 hold,
    restartIn b entry n s = { s with
      fab := fab, job := s.job.fromAttempt n early, seq := restartedSeq b (restartedRun b entry n r) a4 hold s
      pair := { s.pair with sent := none, got := [], shares := [] } } ∧
    ∀ v, s.seq.entryVerdict = some v → a4 = v.1 ∧ hold = v.2 := by
  obtain ⟨fab, early, attempted⟩ := setAttempt_eq (s := swapTo b s) (by rw [swapTo_run, run]) n
  obtain ⟨a4, hold, restored, verdicts⟩ := restoreStep_eq (setAttempt n (swapTo b s))
  have saved : (setAttempt n (swapTo b s)).seq.entryVerdict = s.seq.entryVerdict := by rw [attempted]; cases b <;> rfl
  refine ⟨fab, early, a4, hold, ?_, fun v h => verdicts v (saved.trans h)⟩
  rw [restartIn, restartNow, restored, attempted, swapTo_eq]
  rfl

/-- The lowering fills a slot that no remap concerns. -/
theorem fillSlot_noRemaps (b : Bool) (rows : List Row) (lowered : Option Lowered) (s : State) : ∃ remapped, fillSlot b rows lowered [] s =
    { s with seq := { (onSlot b (fun _ => { state := .loaded, rows := rows, digest := slotDigest rows, entry := 0, lowered := lowered }) s).seq with
      remapped := remapped, slotGen := s.seq.slotGen + 1 } } := by
  cases b <;> exact ⟨_, rfl⟩

/-- Outside a pair, where every member has a route, the other slot is filled and the step begins there. -/
theorem endDegraded_restarts {s : State} (alone : inPair s = false) (r : ActiveRun) (x : List Row × Lowered × List Nat)
    (noRemaps : x.2.2 = []) (routed : AllRouted s) : ∃ fab, endDegraded r (some x) s =
      restartIn (!r.slot) (mapEntry (slotOf s r.slot).rows x.1 r.stepEntry) (r.attempt + 1)
        { fillSlot (!r.slot) x.1 (some x.2.1) [] s with fab := fab } := by
  obtain ⟨remapped, filled⟩ := fillSlot_noRemaps (!r.slot) x.1 (some x.2.1) s
  obtain ⟨fab, told⟩ := sendAll_routed 0 (.restart (fillSlot (!r.slot) x.1 (some x.2.1) [] s).seq.step (r.attempt + 1))
    (fillSlot (!r.slot) x.1 (some x.2.1) [] s) (by rw [filled]; exact routed)
  refine ⟨fab, ?_⟩
  simp only [endDegraded, tellLoad, noRemaps]
  rw [sendLash_alone _ _ (by rw [filled]; exact alone), sendLash_alone _ _ (by rw [filled]; exact alone), told]

/-- Settles O51: without an abandoned step nothing; else the restart in the other slot, or the halt. -/
theorem abandonedStepsRestartDegraded : Obligations.AbandonedStepsRestartDegraded := by
  intro s r solo run
  have alone := alone_of_solo solo
  refine ⟨exec_degradedRestart_kept run, fun h l abandoned may lowered unarmed => ⟨?lower, fun cause sleep debug image => ?halt,
    fun x noRemaps routed => ?restart⟩⟩
  case lower =>
    rw [exec_degradedRestart run may, degradedRestart, disarm_unarmed unarmed, lowered]
    rfl
  case halt =>
    obtain ⟨-, going, flight⟩ := mayLowerAgain_run run may
    obtain ⟨runstate, ended, haltCause, -, -, mem⟩ := haltWith_haltsRun alone run going flight sleep debug image h.cause h.code h.row
    refine ⟨_, rfl, ?_⟩
    rw [endDegraded, abandonHalt_eq run abandoned]
    exact ⟨by rw [settled_runstate, runstate], by rw [settled_seq, haltCause, cause], by rw [settled_seq, ended], by rw [settled_mem, mem]⟩
  case restart =>
    obtain ⟨fab, restarts⟩ := endDegraded_restarts alone r x noRemaps routed
    obtain ⟨remapped, filled⟩ := fillSlot_noRemaps (!r.slot) x.1 (some x.2.1) s
    rw [filled] at restarts
    obtain ⟨fab', early, a4, hold, effect, verdicts⟩ := restartIn_eq (s := { s with
        fab := fab
        seq := { (onSlot (!r.slot) (fun _ => { state := .loaded, rows := x.1, digest := slotDigest x.1, entry := 0, lowered := some x.2.1 }) s).seq with
          remapped := remapped, slotGen := s.seq.slotGen + 1 } }) (r := r) (by cases r.slot <;> exact run)
      (!r.slot) (mapEntry (slotOf s r.slot).rows x.1 r.stepEntry) (r.attempt + 1)
    have outcome := restarts.trans effect
    have quiet : gwStatus (endDegraded r (some x) s) = gwStatus s := by
      rw [outcome]
      exact gwStatus_restarted (s := s) rfl (by cases r.slot <;> rfl) rfl
    refine ⟨_, _, rfl, rfl, ?_⟩
    rw [settled_eq quiet, outcome]
    have saved : ∀ v, s.seq.entryVerdict = some v → a4 = v.1 ∧ hold = v.2 := fun v h => verdicts v (by cases r.slot <;> exact h)
    refine ⟨rfl, ?_, ?_, ?_, saved, ?_, rfl, rfl, rfl⟩
    all_goals cases r.slot <;> rfl

end Sys2Proof.Machine

/-! ## O58: commands, events and messages answer the next state of their effect

The start of a command leaves all that its parameters are judged by, so that what passes for the state passes for the started one
(`exec_commandEffect`, a lemma per command before it). An event is `event` of its condition and effect (`exec_event`); a message that
stands as `Taken` says is taken out and has its effect (`takeHeld_taken`). -/

namespace Sys2Proof.Machine

/-! ### Commands -/

@[simp] theorem standInOk_start (q : Req) (s : State) (rank standIn : Nat) : standInOk (start q s) rank standIn = standInOk s rank standIn := by
  simp [standInOk]

@[simp] theorem regionCount_start (q : Req) (s : State) : regionCount (start q s) = regionCount s := by simp [regionCount, inPair]

theorem rankAbsent_passes {q : Req} {rank standIn : Nat} {s : State} (other : rank ≠ s.job.myRank) (inJob : rank < s.job.ranks)
    (stand : standInOk s rank standIn = true) (fits : absentFault (markAbsent rank standIn s) = none) : rankAbsent q rank standIn s =
      complete q 0x39 [] (sendLash (.forward (.rankAbsent rank standIn)) (markAbsent rank standIn s)) := by
  rw [rankAbsent, checkField_true _ _ _ _ _ (by simp [other, inJob]), checkField_true _ _ _ _ _ stand, fits]
  rfl

theorem exec_policySet_passes {s : State} {q : Req} {policy : BitVec 4096} (starts : Starts 0x14 0 q (inState s [.ready]) s)
    (passes : policyFormOk policy = true ∧ policySigned policy s.trust.ownerKey = true ∧ policyVersion s.trust.policy < policyVersion policy) :
    exec (.policySet q policy) s = .next (settled s
      (complete q 0x14 (wordBytes (policyDigest (withPolicy policy (start q s)))) (withPolicy policy (start q s)))) := by
  obtain ⟨form, signed, above⟩ := passes
  rw [exec, execPolicySet, command_starts starts, policySet_higher form (by rw [start_trust, signed]) (by rwa [start_trust])]
  rfl

theorem exec_rankAbsent_passes {s : State} {q : Req} {rank standIn : BitVec 16}
    (starts : Starts 0x39 0 q (inState s [.job, .halted] && runGroupFree s) s)
    (passes : rank.toNat ≠ s.job.myRank ∧ rank.toNat < s.job.ranks ∧ standInOk s rank.toNat standIn.toNat = true ∧
      absentFault (markAbsent rank.toNat standIn.toNat (start q s)) = none) :
    exec (.rankAbsent q rank standIn) s = .next (settled s (complete q 0x39 []
      (sendLash (.forward (.rankAbsent rank.toNat standIn.toNat)) (markAbsent rank.toNat standIn.toNat (start q s))))) := by
  obtain ⟨other, inJob, stand, fits⟩ := passes
  rw [exec, execRankAbsent, command_starts starts,
    rankAbsent_passes (by rwa [start_job]) (by rwa [start_job]) (by rwa [standInOk_start]) fits]

/-- The effect of a RESET whose parameters are good. -/
def resetEffect (q : Req) (kind r : BitVec 8) (s : State) : State :=
  if kind = 0 then onGw (fun g => { g with warmPending := true }) (complete q 0x61 [] s)
  else complete q 0x61 [] (if r.toNat < 64 then resetRegion r.toNat (wakeDoze s) else sendLash (.forward (.regionReset (r.toNat % 64))) s)

theorem resetCommand_passes {kind r : BitVec 8} {s : State} (passes : (kind = 0 ∧ r = 0) ∨ (kind = 1 ∧ r.toNat < regionCount s)) (q : Req) :
    resetCommand q kind r s = resetEffect q kind r s := by
  obtain ⟨rfl, rfl⟩ | ⟨rfl, lies⟩ := passes
  · rfl
  · simp [resetCommand, resetEffect, not_le.mpr lies, reply]

theorem exec_reset_passes {s : State} {q : Req} {kind r : BitVec 8} (starts : Starts 0x61 0 q (resetAccepts kind.toNat r.toNat s) s)
    (passes : (kind = 0 ∧ r = 0) ∨ (kind = 1 ∧ r.toNat < regionCount s)) :
    exec (.reset q kind r) s = .next (settled s (resetEffect q kind r (start q s))) := by
  rw [exec, execReset, command_starts starts, resetCommand_passes (by rwa [regionCount_start])]

/-- A command that starts and whose parameters pass. -/
theorem exec_commandEffect {s : State} {c : Instr} {op : Nat} {q : Req} {own : Bool} {ok : Prop} {f : State → State}
    (effect : Claims.commandEffect s c = some (op, q, own, ok, f)) (starts : Starts op 0 q own s) (passes : ok) :
    exec c s = .next (settled s (f (start q s))) := by
  cases c <;> cases effect
  case retire token => exact exec_retire starts ((tokenCheck_start ..).symm.trans passes)
  case policySet policy => exact exec_policySet_passes starts passes
  case jobEnd => rw [exec, execJobEnd, command_starts starts]; rfl
  case rankAbsent rank standIn => exact exec_rankAbsent_passes starts passes
  case reshardResume rid => rw [exec, execReshardResume, command_starts starts]
  case reset kind r => exact exec_reset_passes starts passes
  case debugClose => rw [exec, execDebugClose, command_starts starts]; rfl

/-! ### Events -/

theorem exec_event {s : State} {c : Instr} {b : Bool} {f : State → State} (notTrip : ∀ x, c ≠ .tamperTrip x)
    (effect : Claims.eventEffect s c = some (b, f)) : exec c s = event b f s := by
  cases c
  case tamperTrip x => exact absurd rfl (notTrip x)
  all_goals cases effect <;> rfl

theorem exec_tamperTrip {x : BitVec 8} (sensed : x ≠ 0) (s : State) : exec (.tamperTrip x) s = .next (settled s (tamperTrip x s)) := by
  rw [exec, execTamperTrip, if_neg sensed, done]

/-- An event whose condition holds, TAMPER_TRIP included. -/
theorem exec_eventEffect {s : State} {c : Instr} {f : State → State} (effect : Claims.eventEffect s c = some (true, f)) :
    exec c s = .next (settled s (f s)) := by
  by_cases trip : ∃ x, c = .tamperTrip x
  · obtain ⟨x, rfl⟩ := trip
    obtain ⟨sensed, rfl⟩ := Prod.mk.inj (Option.some.inj effect)
    exact exec_tamperTrip (by simpa using sensed) s
  · rw [exec_event (by simpa using trip) effect, event_holds rfl]

/-! ### Messages -/

theorem takeHeld_taken {p n : Nat} {ok : Bool} {fits : RxMsg → Bool} {s u : State} {l : List RxMsg} (taken : Taken p n fits s l u)
    (verified : (port s p).rxMsgs = [] → ok = true) (f : List RxMsg → State → State) : takeHeld p ok fits n f s = f l u := by
  obtain ⟨active, ⟨none, rfl, rfl⟩ | ⟨some, rfl, length, rfl⟩⟩ := taken
  · rw [verified none, takeHeld_given _ _ _ _ _ active none]
  · rw [takeHeld_held _ _ _ _ _ _ active some, if_pos length]

theorem exec_message {s : State} {c : Instr} {p : Fin 7} {ok : Bool} {fits : RxMsg → Bool} {n : Nat} {f : List RxMsg → State → State}
    (effect : Claims.messageEffect c = some (p, ok, fits, n, f)) : exec c s = event true (takeHeld p.val ok fits n f) s := by
  cases c <;> cases effect <;> rfl

theorem exec_messageEffect {s u : State} {c : Instr} {p : Fin 7} {ok : Bool} {fits : RxMsg → Bool} {n : Nat}
    {f : List RxMsg → State → State} {l : List RxMsg} (effect : Claims.messageEffect c = some (p, ok, fits, n, f))
    (taken : Taken p.val n fits s l u) (verified : (port s p.val).rxMsgs = [] → ok = true) : exec c s = .next (settled s (f l u)) := by
  rw [exec_message effect, event_holds rfl, takeHeld_taken taken verified]

/-! ### Degraded restart -/

theorem exec_degradedRestart_idle {s : State} {b : Bool} (run : s.seq.run = none) (relower : s.seq.relower = some b) :
    exec .degradedRestart s = .next (settled s (relowerIdle b s)) := by
  rw [exec, execDegradedRestart, run, relower]
  exact event_holds rfl _ s

/-- Settles O58, by the lemmas for commands, events, messages and the restart of an abandoned step. -/
theorem formsCompleteWithTheirEffect : Obligations.FormsCompleteWithTheirEffect := by
  intro s c
  refine ⟨fun _ _ _ _ _ => exec_commandEffect, fun _ => exec_eventEffect, fun f effect notTrip => ?_,
    fun _ _ _ _ _ _ _ => exec_messageEffect, ?_⟩
  · rw [exec_event notTrip effect, event_waits rfl]
  · rintro r b rfl
    exact ⟨exec_degradedRestart, exec_degradedRestart_idle⟩

end Sys2Proof.Machine
